-- ==== Sys2Proof/Word.lean ====
section
/-! DEFINITION. The word types of the JXS-6400 and their plainest arithmetic (R6, R9): bytes, binary32 words,
little-endian composition, ceiling division, powers of two. -/
namespace Sys2Proof

/-- One byte of a packet, an object or a memory. -/
abbrev Byte := BitVec 8

/-- The bit pattern of a binary32 value (R36, R65). -/
abbrev F32 := BitVec 32

/-- The bit pattern of a BF16 or FP16 value (R65). -/
abbrev H16 := BitVec 16

/-- ceil(a / b), with ceil(a / 0) = 0. -/
def ceilDiv (a b : Nat) : Nat := if b = 0 then 0 else (a + b - 1) / b

/-- `a` rounded up to a multiple of `b`. -/
def roundUp (a b : Nat) : Nat := ceilDiv a b * b

/-- The number a little-endian run of bytes stands for (R9). -/
def leNat : List Byte → Nat
  | [] => 0
  | b :: bs => b.toNat + 256 * leNat bs

/-- The `n` bytes of `v`, little-endian (R9). -/
def leBytes : Nat → Nat → List Byte
  | 0, _ => []
  | n + 1, v => BitVec.ofNat 8 v :: leBytes n (v / 256)

/-- Bits [hi:lo] of `v` (R8). -/
def bits (v hi lo : Nat) : Nat := (v / 2 ^ lo) % 2 ^ (hi - lo + 1)

/-- Bit `i` of `v`. -/
def bit (v i : Nat) : Bool := v.testBit i

/-- `2 ^ 64`, the modulus of the 64-bit counters. -/
def two64 : Nat := 18446744073709551616

/-- `2 ^ 32`. -/
def two32 : Nat := 4294967296

/-- A 64-bit counter after `n` more (the counters wrap modulo 2^64). -/
def ctrAdd (c n : Nat) : Nat := (c + n) % two64

end Sys2Proof
end

