-- ==== Sys2Proof/Syntax.lean ====
section
/-! DEFINITION. The commands of the JXS-6400 block: one constructor of `Instr` per row of spec/opcode_table.json.
Numbers a packet carries are `Nat` (their widths are checked by `Instr.wf`); byte strings are lists of bytes. -/
namespace Sys2Proof

/-- The header of a command packet (R35) with the port it came on. `badAt` is the packet offset of the first
reserved byte that is not zero (R10), if there is one; it stands for every reserved field of the packet. -/
structure Hdr where
  port : Nat
  tenant : Nat
  seq : Nat
  session : Nat
  length : Nat
  flags : Nat
  badAt : Option Nat
deriving DecidableEq, Repr, Inhabited

/-- A 64-byte object reference (R37); `digest` is the 256-bit SHA-256 read as a big-endian number. -/
structure ObjRef where
  gateway : Nat
  len : Nat
  id : Nat
  digest : Nat
deriving DecidableEq, Repr, Inhabited

/-- The parameters of SESSION_GENERATE (R50). -/
structure GenParams where
  maxTokens : Nat
  temperature : F32
  topP : F32
  minP : F32
  repPenalty : F32
  topK : Nat
  grammar : Nat
  specK : Nat
  outMode : Nat
  stopCount : Nat
  genFlags : Nat
  stops : List (List Byte)
deriving DecidableEq, Repr, Inhabited

/-- The parameters of LAUTER_QUERY (R46, R248). -/
structure QueryParams where
  corpus : Nat
  vocab : Nat
  qFlags : Nat
  k : Nat
  beam : Nat
  rerankN : Nat
  tokenBudget : Nat
  deadlineUs : Nat
  snapshot : Nat
  attrAnd : Nat
  attrOr : Nat
  num0Lo : Nat
  num0Hi : Nat
  num1Lo : Nat
  num1Hi : Nat
  postLen : Nat
  queryLen : Nat
  post : List Byte
  text : List Byte
deriving DecidableEq, Repr, Inhabited

/-- One entry of a shard map (R46, R254). -/
structure ShardEntry where
  shard : Nat
  owner : Nat
  replica : Nat
deriving DecidableEq, Repr, Inhabited

/-- A Grenlink frame as received (R27); `payload` is in clear, after decryption. -/
structure GlFrame where
  ftype : Nat
  fflags : Nat
  credit : Nat
  seq : Nat
  ack : Nat
  payload : List Byte
deriving DecidableEq, Repr, Inhabited

/-- The header of a fabric frame as received (R320), with the port it came on. `busy` is the session
whose rack record the frame answers "busy" (R333). -/
structure FabFrame where
  port : Nat
  fkind : Nat
  tclass : Nat
  src : Nat
  dst : Nat
  tenant : Nat
  keyEpoch : Nat
  slice : Nat
  payloadLen : Nat
  ctr : Nat
  streamSeq : Nat
  ackSeq : Nat
  msgType : Nat
  busy : Option Nat
deriving DecidableEq, Repr, Inhabited

/-- The body of a POST record (R187) after its session and entry. -/
inductive PostRec where
  /-- kind 0x0001: token, flags, grammar_state -/
  | stepResult (token flags grammarState : Nat)
  /-- kind 0x0002: first_pos, count, and a step result if the chunk sampled -/
  | chunkDone (firstPos count : Nat) (sampled : Option (Nat × Nat × Nat))
  /-- kind 0x0003: accepted, the emitted tokens, grammar_state -/
  | verifyResult (accepted : Nat) (tokens : List Nat) (grammarState : Nat)
  /-- kind 0x0004: slots, layer_groups -/
  | condenseDone (slots layerGroups : Nat)
  /-- any other kind -/
  | other (kind : Nat)
deriving DecidableEq, Repr, Inhabited

/-- A page as it travels: its size, first position, positions filled, whether it is a summary, the (s, o) pairs of each
layer group and KV head, and the code bytes that are not zero, by their offset in the page (R157, R158). -/
structure ImgPage where
  k : Nat
  first : Nat
  filled : Nat
  summary : Bool
  pairs : List (H16 × H16 × H16 × H16)
  codes : List (Nat × Byte)
deriving DecidableEq, Repr, Inhabited

/-- A session's state as it travels in a rack record, a migration transfer or an adoption pull (R329, R337, R344):
the entry, the page sizes, the text and generation state that the receiver needs. -/
structure SessImage where
  handle : Nat
  tenant : Nat
  serviceClass : Nat
  shareClass : Nat
  vocab : Nat
  grammar : Nat
  model : Nat
  modelDigest : Nat
  epoch : Nat
  /-- state code of R46: 0 ACTIVE to 4 OFFERED -/
  state : Nat
  position : Nat
  released : Nat
  lastSeq : Nat
  kvShift : Nat
  homeDie : Nat
  seed : Nat
  rng : Nat
  expirySec : Nat
  ring : List Nat
  ringHead : Nat
  lastToken : Option Nat
  genSeq : Nat
  genPort : Nat
  genTokens : Nat
  gen : Option GenParams
  outBytes : Nat
  carry : List Byte
  carryPolicy : Nat
  appendStart : Option Nat
  incoming : Bool
  optOut : Bool
  caskBytes : Nat
  hbmBytes : Nat
  /-- the stream tail (R332): offset, position, text and ids of each record -/
  tail : List (Nat × Nat × List Byte × List Nat)
  pages : List ImgPage
  /-- grammar states and stacks, held text and output tail of the state block; draft length, rejects, hold -/
  sgState : Nat
  sgStack : List Nat
  cgState : Nat
  cgStack : List Nat
  held : List Byte
  outTail : List Byte
  spec : Nat × Nat × Nat
  /-- state before OFFERED; the running generate's maximum, steps, verify passes and accepted drafts -/
  offeredFrom : Nat
  genMax : Nat
  genCounts : Nat × Nat × Nat
deriving DecidableEq, Repr, Inhabited

/-- A rack record as it reaches the buddy (R329). -/
structure RackRec where
  session : Nat
  epoch : Nat
  rackSeq : Nat
  rkind : Nat
  rflags : Nat
  /-- the owner's slice, from the frame -/
  slice : Nat
  tenant : Nat
  kvBytes : Nat
  descBytes : Nat
  position : Nat
  image : SessImage
deriving DecidableEq, Repr, Inhabited

/-- A peer's search request (R254). -/
structure SearchReq where
  src : Nat
  qid : Nat
  tenant : Nat
  corpus : Nat
  shard : Nat
  vector : List H16
  beam : Nat
  snapshot : Nat
  attrAnd : Nat
  attrOr : Nat
  num0Lo : Nat
  num0Hi : Nat
  num1Lo : Nat
  num1Hi : Nat
  rescore : Bool
  remainingUs : Nat
deriving DecidableEq, Repr, Inhabited

/-- A candidate record of a search reply (R256); `score` is a binary32 pattern. -/
structure Cand where
  node : Nat
  shard : Nat
  score : F32
  attr : Nat
  num0 : Nat
  num1 : Nat
  ext : List Nat
  fromPeer : Nat
deriving DecidableEq, Repr, Inhabited

/-- The commands: requests of the control node, sideband and board actions, and the device's own events. -/
inductive Instr where
  -- session commands (R46)
  | sessionOpen (h : Hdr) (model serviceClass vocab grammar shareClass seed : Nat)
  | sessionAppend (h : Hdr) (inPolicy inMode count : Nat) (tail : List Byte)
  | sessionGenerate (h : Hdr) (g : GenParams)
  | sessionPark (h : Hdr)
  | sessionRevive (h : Hdr)
  | sessionCondense (h : Hdr) (slots : Nat)
  | sessionClose (h : Hdr)
  | sessionQuery (h : Hdr)
  | sessionMigrateOffer (h : Hdr) (destPeer : Nat)
  | sessionMigrateAccept (h : Hdr) (srcPeer epoch digest : Nat)
  | bungQuery (h : Hdr) (peer : Nat)
  -- models and text
  | modelRegister (h : Hdr) (model modelKind slice : Nat) (weights : ObjRef)
  | modelWarm (h : Hdr) (model : Nat)
  | modelEvict (h : Hdr) (model : Nat)
  | draftBind (h : Hdr) (model draft kMax : Nat)
  | segmentLoad (h : Hdr) (model phase groupTiles batch : Nat) (segment : ObjRef)
  | vocabLoad (h : Hdr) (vocab : Nat) (table : ObjRef)
  | grammarLoad (h : Hdr) (grammar vocab : Nat) (table : ObjRef)
  -- retrieval
  | lauterQuery (h : Hdr) (q : QueryParams)
  | corpusInsert (h : Hdr) (corpus shard count pubSeq : Nat) (tail : List Byte)
  | corpusDelete (h : Hdr) (corpus shard count pubSeq : Nat) (nodes : List Nat)
  | corpusPublish (h : Hdr) (corpus shard pubSeq : Nat)
  | shardMapSet (h : Hdr) (corpus count : Nat) (entries : List ShardEntry)
  | recallProbe (h : Hdr) (corpus shard k beam sample : Nat)
  -- tables
  | tableCreate (h : Hdr) (table dim rows format optimiser : Nat)
  | rowLookup (h : Hdr) (table pooling bags : Nat) (lens idx : List Nat)
  | rowUpdate (h : Hdr) (table count : Nat) (lr : F32) (recs : List (Nat × List H16))
  | tableReplaceBegin (h : Hdr) (table : Nat)
  | tableReplaceRows (h : Hdr) (table count firstRow : Nat) (rows : List (List Byte))
  | tableReplaceCommit (h : Hdr) (table : Nat)
  | hotsetSet (h : Hdr) (table refreshUs count : Nat) (rows : List Nat)
  -- scheduling, fabric and checkpoint
  | mashLoad (h : Hdr) (activateAt : Nat) (table : ObjRef)
  | shareSet (h : Hdr) (shareClass tenant weight rtRests : Nat)
  | shaperSet (h : Hdr) (tenant shaper rate burst : Nat)
  | gateListLoad (h : Hdr) (port count activateAt : Nat) (entries : List (Nat × Nat))
  | serviceClassSet (h : Hdr) (cls scFlags pageMaxLog2 dwellMs ttlS condenseSlots : Nat)
  | sliceSet (h : Hdr) (slice tiles lanes pcs : Nat)
  | routeSet (h : Hdr) (count : Nat) (entries : List (Nat × Nat))
  | buddySet (h : Hdr) (slice buddyPeer : Nat)
  | spareAdopt (h : Hdr) (failedPeer buddyPeer : Nat)
  | ckptStart (h : Hdr) (generation gateways : Nat) (peers : List Nat)
  | ckptStatus (h : Hdr) (generation : Nat)
  | restoreStart (h : Hdr) (manifest : ObjRef)
  -- security and platform
  | attest (h : Hdr) (nonce : List Byte)
  | tenantCreate (h : Hdr) (tenant : Nat)
  | tenantRemove (h : Hdr) (tenant : Nat)
  | keyInstall (h : Hdr) (keyKind blobLen : Nat) (blob : List Byte)
  | csrRead (h : Hdr) (address count : Nat)
  | csrWrite (h : Hdr) (address count : Nat) (values : List Nat)
  | calSet (h : Hdr) (item value : Nat)
  | clockSet (h : Hdr) (item value : Nat)
  | resultRead (h : Hdr) (target offset readLen : Nat)
  | resultRelease (h : Hdr) (target : Nat)
  | eventRead (h : Hdr) (fromSeq max : Nat)
  | firmwareStage (h : Hdr) (image : ObjRef)
  | firmwareActivate (h : Hdr) (version : Nat)
  | nop (h : Hdr)
  -- register-write actions and deferred reset
  | shutdown (h : Hdr)
  | warmReset (h : Hdr)
  | coldReset (h : Hdr)
  | deferredReset
  | quiesce (h : Hdr)
  | clearNmi (h : Hdr) (clock : Bool)
  | sbAlertClear (mask : Nat)
  -- sideband and boundary scan
  | sbSetAddr (address len : Nat)
  | sbRead
  | sbWrite (data : List Byte)
  | jtagInstruction (code : Nat)
  -- Grenlink handshake and link
  | hsHello (port hsFlags : Nat) (nonceC : List Byte)
  | hsCt (port : Nat) (ct : List Byte) (macC : List Byte) (newOwner : Option (List Byte))
  | handshakeTimeout (port : Nat)
  | glFrameReceive (port : Nat) (f : GlFrame) (tagOk : Bool)
  | glResendTimeout (port : Nat)
  | glKeepalive (port : Nat)
  | glPortDown (port : Nat)
  -- fabric
  | fabFrameReceive (f : FabFrame) (authOk : Bool)
  | fabResendTimeout (peer tclass : Nat)
  | fabKeepalive (peer : Nat)
  | peerLost (peer : Nat)
  | fabHandshake (peer : Nat) (r : List Byte) (macOk : Bool)
  | fabPortDown (port : Nat)
  | fabPortUp (port : Nat) (lanes : Nat)
  | gateListActivate (port : Nat)
  -- mills
  | restBoundary
  | fenceCheck (die tile copy : Nat)
  | copyComplete (die tile copy cycle : Nat)
  | copyAbandon (die tile copy : Nat)
  | postRecord (die session entry : Nat) (r : PostRec)
  | stepCommit (item : Nat)
  -- racking, adoption, migration, bung
  | rackRecord (src : Nat) (r : RackRec)
  | rackAck (peer session rackSeq : Nat)
  | fencedReceived (peer slice : Nat)
  | adoptFreezeRequest (spare failed : Nat)
  | handover (src : Nat) (sessions : List Nat)
  | adoptPullDone (seq : Nat) (images : List SessImage)
  | migrateOfferMsg (src : Nat) (image : SessImage)
  | offerReply (src session status : Nat)
  | migrateEnd (src session digest : Nat) (image : SessImage)
  | migrateMatchReply (src session digest : Nat) (isMatch : Bool)
  | migrateCommitMsg (src session epoch : Nat)
  | migrateReleased (src session : Nat)
  | migrateAbort (src session epoch : Nat)
  | bungAsk (src session epoch : Nat)
  | bungAnswer (src session : Nat) (committed : Bool) (owner : Nat)
  | bungAskTimeout (session : Nat)
  | revokeNotice (src tenant : Nat)
  -- experts and retrieval messages
  /-- `payer`: the share class and the activity (PREFILL or DECODE) of the sending entry -/
  | expertTokens (src model expert : Nat) (payer : Nat × Nat) (tokens : List Nat)
  | searchRequest (r : SearchReq)
  | candidateReply (src qid shard status : Nat) (cands : List Cand)
  | textFetchRequest (src qid tenant corpus shard : Nat) (nodes : List Nat)
  | replicaDeadline (qid shard : Nat)
  | mergeDeadline (qid : Nat)
  | textFetchDeadline (qid : Nat)
  | peerRequestExpire (rid : Nat)
  | repairSweep (corpus shard : Nat)
  -- objects and checkpoints
  | objectFetchDone (seq : Nat) (result : Option (List Byte))
  | putDone (shardIndex : Nat)
  | putFail (shardIndex : Nat)
  -- Cellar
  | dwellExpiry (session : Nat)
  | parkComplete (session : Nat)
  | reviveComplete (session : Nat)
  | condenseCommit (session : Nat)
  | caskExpiry
  | cellarSecSave
  | holdExpiry (index : Nat)
  | reservationGranted (rid : Nat)
  | reserveTimeout (rid : Nat)
  | reviveBuddyTimeout (session : Nat)
  | noGroupTimeout (item : Nat)
  | pressureReclaim (die : Nat)
  | tokeniseDone (seq : Nat)
  | modelWarmDone (model : Nat)
  | modelEvictDone (model : Nat)
  | hotRefresh (table : Nat)
  -- Oast
  | flashProgramDone (wid : Nat) (ok : Bool)
  | flashEraseDone (lun block : Nat) (ok : Bool)
  /-- outcome: 0 decoded, 1 decoded after retry or soft decoding, 2 uncorrectable -/
  | flashReadDone (rid outcome : Nat)
  | gcStart (lun : Nat)
  | pslcRecompute
  | wearGovernorTick
  | powerSecSave
  | patrolRead (lun block : Nat) (retried : Bool)
  | lunTimeout (lun : Nat)
  | oastMountDone
  | keyStoreWriteDone
  -- faults
  | sramEccError (tile : Nat) (double : Bool)
  | tileSelfTestDone (tile : Nat) (pass : Bool)
  /-- kind: 0 correctable, 1 third correctable of a row within 24 h, 2 pseudo-channel failure, 3 uncorrectable -/
  | hbmError (kind stack pc row frame : Nat)
  | dieLost (die : Nat)
  -- power, clocks, reset
  | supplyInputChange (input volt : Nat)
  | supplyQualified (input : Nat)
  | supplyLost
  | holdupEnd
  | sensorSample (vinMain vinBackup pinW : Nat) (temps : List Int)
  | throttleUpdate
  | thermtrip
  | oscillatorStable (osc : Nat)
  | refclkStartTimeout
  | clockMonWindow (count : Nat)
  | monclkAbsent
  | resetPin
  | glitchReset
  -- remaining timers
  | replyHoldExpiry (seq : Nat)
  | gateEntryAdvance (port : Nat)
  | frameClearDone (die start : Nat)
  | abortMarkExpiry (session epoch : Nat)
  | textFetchReply (src qid : Nat) (texts : List (Nat × Nat × List Byte))
deriving DecidableEq, Repr, Inhabited

end Sys2Proof
end

