-- ==== Sys2Proof/Decode.lean ====
section
/-! DEFINITION. Decoding of the table's words. No row of spec/opcode_table.json gives bits: commands arrive as packets
and events, not as words. -/
namespace Sys2Proof

/-- The command that a word spells by the table's bits: no row gives any, so none. -/
def decodeTableWord (_nbits _w : Nat) : Option Instr := none

end Sys2Proof
end

