-- ==== Sys2Proof/Config.lean ====
section
/-! DEFINITION. What the spec fixes as numbers of the part, what an implementation or a board fixes (constants with no
body), and the free values: results the spec leaves open or that compiled objects compute (no body either). -/
namespace Sys2Proof

/-- What the firmware image's flash profile says of a part (R291): rated program/erase cycles, whether it suspends a program or
an erase for a read (R300), its read-retry settings. -/
structure FlashProfile where
  ratedCycles : Nat
  suspends : Bool
  retries : Nat
deriving DecidableEq, Repr, Inhabited

/-- A LUN as its parts describe it at start-up (R289, R290): channel and LUN of the channel, good blocks, TLC bytes of a block, data
and spare bytes of a page, planes with multi-plane read and program, one-shot TLC programming, a pseudo-SLC mode, NV-LPDDR4
with ZQ calibration and interface training, and the profile its parameter page matches. -/
structure LunPart where
  channel : Nat
  lun : Nat
  blocks : Nat
  blockBytes : Nat
  pageData : Nat
  pageSpare : Nat
  planes : Nat
  multiPlane : Bool
  oneShotTlc : Bool
  pseudoSlc : Bool
  trainedIf : Bool
  profile : Option FlashProfile
deriving DecidableEq, Repr, Inhabited

/-- R290: what a LUN's parts have to provide. -/
def LunPart.provides (p : LunPart) : Bool :=
  p.pageData == 16384 && decide (2048 ≤ p.pageSpare) && (p.planes == 4 || p.planes == 6) && p.multiPlane && p.oneShotTlc &&
  p.pseudoSlc && p.trainedIf

/-- A LUN the Oast can use: its parts provide what R290 lists, and a profile of the image matches (R289). -/
def LunPart.usable (p : LunPart) : Bool := p.provides && p.profile.isSome

def LunPart.raw (p : LunPart) : Nat := p.blocks * p.blockBytes

/-- The LUNs in use: the usable ones in their order, up to the first 256 TB; `got` is what the earlier ones hold (R289). -/
def usedLuns : Nat → List LunPart → List LunPart
  | _, [] => []
  | got, p :: ps =>
    if p.usable && decide (got + p.raw ≤ 256000000000000) then p :: usedLuns (got + p.raw) ps else usedLuns got ps

end Sys2Proof

namespace Sys2Proof.Config

/-! Fixed figures of the part. -/

/-- ARITH cycles of one rest (R115). -/
def restLen : Nat := 16384
/-- Ungated ARITH base-clock cycles in one µs at the default divider (R406). -/
def usCycles : Nat := 3000
/-- Most unacknowledged Grenlink frames of a port (R29). -/
def glWindow : Nat := 4096
/-- Credits of 256 bytes granted at the end of a handshake (R31). -/
def glCredits : Nat := 16384
/-- Most outstanding cmd_seq values (R43). -/
def cmdWindow : Nat := 65536
/-- Largest reply that is not retained (R40). -/
def replyMax : Nat := 65536
/-- Result-store level above which asynchronous commands are refused, 3.5 GiB (R40). -/
def resultHigh : Nat := 3758096384
/-- The result store's size, 4 GiB (R40). -/
def resultMax : Nat := 4294967296
/-- Backlog while both ports are down, 256 MiB (R34). -/
def backlogMax : Nat := 268435456
/-- Records of the event log (R58). -/
def eventLogLen : Nat := 65536
/-- Unacknowledged stream bytes above which no step starts, 64 KiB (R32). -/
def streamMax : Nat := 65536
/-- Most unacknowledged fabric frames of a stream (R321). -/
def fabWindow : Nat := 1024
/-- HBM frames of a compute die's six stacks (R3, R17). -/
def dieFrames : Nat := 100663296
/-- Bytes of a tile's SRAM (R61). -/
def sramBytes : Nat := 25165824
/-- ARITH cycles of a tenant clear (R110). -/
def clearCycles : Nat := 12288
/-- ARITH cycles after its fence at which an incomplete copy is abandoned (R99). -/
def abandonCycles : Nat := 1048576
/-- Most loaded segments, and the bytes of the segment store (R104). -/
def segMax : Nat := 65536
def segStore : Nat := 17179869184
/-- Most registered models (R200). -/
def modelMax : Nat := 262144
/-- Most resident grammars (R227) and bytes of all vocabulary and grammar tables (R210). -/
def grammarMax : Nat := 4096
def textTables : Nat := 17179869184
/-- Most extracts (R173), revives (R176), tree nodes (R164). -/
def extractMax : Nat := 65536
def reviveMax : Nat := 65536
def nodeMax : Nat := 4194304
/-- Most shards and declarations (R237), coordinated queries (R249), peer requests (R255). -/
def shardMax : Nat := 1024
def queryMax : Nat := 4096
def peerReqMax : Nat := 16384
/-- Most tables (R269), live tenants (R385), route entries (R326). -/
def tableMax : Nat := 4096
def tenantMax : Nat := 16384
def routeMax : Nat := 16376
/-- Most tokens of an expert's arrival queue (R205). -/
def expertQueueMax : Nat := 65536
/-- Most HSS signatures (R394). -/
def hssMax : Nat := 1073741824

/-! Fixed by an implementation, a fuse or the board. -/

/-- The LUNs the board attaches, in channel, target and LUN order (R289). -/
opaque parts : List LunPart
/-- Raw flash bytes attached (R20, R289). -/
def rawFlash : Nat := (parts.map LunPart.raw).foldl (· + ·) 0
/-- The LUNs in use, as (channel, LUN of the channel, good blocks, TLC bytes of a block). -/
def luns : List (Nat × Nat × Nat × Nat) := (usedLuns 0 parts).map fun p => (p.channel, p.lun, p.blocks, p.blockBytes)
/-- LUNs left unused at start-up (R289). -/
def lunsUnused : Nat := parts.length - luns.length
/-- Rated program/erase cycles (R291, R314): the least of the profiles in use. -/
def ratedCycles : Nat :=
  match (usedLuns 0 parts).filterMap fun p => p.profile.map (·.ratedCycles) with
  | [] => 0
  | n :: l => l.foldl min n
/-- Whether the parts support program and erase suspend (R300): every profile in use names it (R290). -/
def partSuspends : Bool := (usedLuns 0 parts).all fun p => (p.profile.map (·.suspends)).getD false
/-- Silicon stepping, serial, firmware version and svn of the shipped image (R447, R382). -/
opaque stepMinor : Nat
opaque stepMajor : Nat
opaque serial : Nat
opaque fwVersion : Nat
opaque fwSvn : Nat
opaque romDigest : Nat
opaque fwDigest : Nat
opaque builtinMashDigest : Nat
opaque identityKey : List Byte
opaque endorsement : List Byte
/-- Factory calibration value of an item, and the hardware range (low, high) of its trim (R420). -/
opaque calFuse : Nat → Int
opaque calLow : Nat → Int
opaque calHigh : Nat → Int
/-- How many trims of a packed item (fabric lane, HBM stack) a user value drives beyond their range (R420). -/
opaque calClamps : Nat → Int → Nat
/-- `svn`, `version` and digest in a firmware image's header, whose layout the spec does not give (R382). -/
opaque imageHeader : List Byte → Nat × Nat × Nat

/-- Which of the frames of a stack, counted 0, 1, 2 … along the stack, a pseudo-channel holds (not given; R94 places frames on
stacks only). -/
opaque pcFrames : Nat → List Nat

/-! Cryptographic functions whose algorithm this model does not repeat. -/

/-- ML-KEM-768 (FIPS 203): the boot encapsulation key of a key pair, and decapsulation (R373). -/
opaque kemEk : Nat → List Byte
opaque kemDecap : Nat → List Byte → Option (List Byte)
/-- AES key unwrap (NIST SP 800-38F) under a key (R373, R381). -/
opaque kwUnwrap : List Byte → List Byte → Option (List Byte)
/-- The fused device root key, and the HSS signature of a report at an index (R370, R393). -/
opaque rootKey : List Byte
opaque hssSign : Nat → List Byte → List Byte
/-- The HSS/LMS check of a firmware image against the fused Adewen key (R382). -/
opaque imageVerifies : List Byte → Bool

/-! Free values. Each takes the state's counter `free` or the operands it depends on. -/

/-- A random number of the security engine's DRBG (R192, R373, R375). -/
opaque random : Nat → Nat
/-- Which of a route's up ports carries a stream (a hash the spec does not give, R326). -/
opaque portPick : Nat → Nat
/-- A uniform draw of repair's entry nodes (R246). -/
opaque draw : Nat → Nat
/-- Where the pre-tokeniser automaton cuts a text: lengths of the pieces (R208, R212). -/
opaque pieceLens : List Byte → List Byte → List Nat
/-- Width of the vectors an encoder with a digest puts out: its object says it, in a part no rule lays out (R236). -/
opaque encoderWidth : Nat → Nat
/-- The vector an encoder model computes for tokens (R250). -/
opaque encode : Nat → List Nat → List H16
/-- The score a cross-encoder computes for query and passage tokens (R261). -/
opaque crossScore : Nat → List Nat → List Nat → F32
/-- The special-function results, as an offset in ulps from the correctly rounded value (R79). -/
opaque sfuExpUlp : F32 → Fin 5
opaque sfuRecipUlp : F32 → Fin 3
opaque sfuRsqrtUlp : F32 → Fin 5
/-- Sign and payload of a binary32 NaN result (R78 gives none). -/
opaque nanBits : Nat → Nat
/-- The distance-table entry of a value that is not finite (R251 gives none). -/
opaque oddEntry : F32 → Nat
/-- The SRAM addresses an op or a copy accesses in one of its cycles, at its own tile (R62): its parameter record, its
code, flags and operand words (of a copy: kind, address and bytes), and the cycle counted from its issue. -/
opaque touched : List Byte → List Nat → Nat → List Nat
/-- The addresses a XFER accesses at its destination tile in one of its cycles. -/
opaque landed : List Byte → List Nat → Nat → List Nat
/-- The k that a verify segment's object declares, in a part no rule lays out (R180); argument its digest. -/
opaque segK : Nat → Nat
/-- Byte of what a peer sent for a FABRIC_IN copy of an entry (R96): entry, copy, offset. -/
opaque fabricIn : Nat → Nat → Nat → Byte
/-- Byte of what the Oast staged for a segment (R100): its digest, offset. -/
opaque stagedByte : Nat → Nat → Byte
/-- The 64-bit hash by which the Cellar finds a child: the parent and the token ids (R164 gives no function). -/
opaque nodeHash : Nat → List Nat → Nat
/-- Least and greatest element of the first write of a page, which the entry computes in SRAM (R189): a counter, and the
index of layer, head and kind. -/
opaque kvLo : Nat → Nat → F32
opaque kvHi : Nat → Nat → F32
/-- The FP32 values a condenser puts out (R206): a counter, and the index of layer group, layer, head, kind, slot and
element. -/
opaque condensed : Nat → Nat → F32
/-- ARITH cycles a row access was held by the interlock (R272). -/
opaque interlock : Nat → Nat
/-- Typical lengths the spec leaves to the run: elapsed µs of a revive or a warm (R174, R201). -/
opaque elapsedUs : Nat → Nat
/-- The SHA-256 of a migration's transfer stream, whose bytes the spec does not lay out (R337). -/
opaque streamDigest : SessImage → Nat
/-- The SHA-256 of a stored checkpoint shard, whose bytes the spec does not lay out (R357): generation and index. -/
opaque shardDigest : Nat → Nat → Nat
/-- What the board straps on SMB_ADDR[2:0] read, sampled once at start-up (R428, R430). -/
opaque smbStrap : Fin 8
/-- IDCODE of the boundary-scan port (R432). -/
def scanIdcode : Nat := 0x06464A1D
/-- Number of replaced nonzero trims or other counts the spec leaves to the run. -/
opaque count : Nat → Nat

end Sys2Proof.Config
end

