-- ==== Sys2Proof/Machine/State.lean ====
section
/-! DEFINITION. The state of the JXS-6400 block as plain data, its faults and refusals, and the state after reset.
Tables keyed by a number are lists of pairs with strictly rising keys. -/
namespace Sys2Proof.Machine

/-- Why the block stops. -/
inductive Fault where
  /-- Raised when a warm reset brings clock dividers into force that break the limits of R408, outside which the
  device's behaviour is not defined. Safe. -/
  | clockLimits
deriving DecidableEq, Repr

/-- Why a command has no meaning. -/
inductive Refusal where
  /-- Raised by an arm of exec for a row that has no meaning yet. Safe. -/
  | notModelled (mnemonic : String)
deriving DecidableEq, Repr

/-- A table keyed by numbers, keys strictly rising. -/
abbrev Tab (α : Type) := List (Nat × α)

/-- An addressed memory (R62, R3): (address, byte), addresses strictly rising, no byte equal to 0. -/
abbrev Mem := List Host.Cell

/-! ### Grenlink (R27 to R60) -/

/-- A reply packet (R38); kind 0 FINAL, 1 INTERIM, 2 COMPLETION. `body` is the part from offset 24. -/
structure Reply where
  status : Nat
  opcode : Nat
  seq : Nat
  session : Nat
  kind : Nat
  retained : Bool
  detail : Nat
  resultLen : Nat
  body : List Byte
deriving DecidableEq, Repr, Inhabited

/-- A stream record (R51). -/
structure StreamRec where
  session : Nat
  seq : Nat
  offset : Nat
  position : Nat
  text : List Byte
  ids : List Nat
  final : Bool
deriving DecidableEq, Repr, Inhabited

/-- An event record (R57). -/
structure EventRec where
  code : Nat
  nonMaskable : Bool
  gap : Bool
  seq : Nat
  time : Nat
  tenant : Nat
  session : Nat
  payload : List Byte
deriving DecidableEq, Repr, Inhabited

/-- What a frame sent by the device carries (R27). -/
inductive Content where
  | reply (r : Reply)
  | stream (r : StreamRec)
  | event (e : EventRec)
  | link
deriving DecidableEq, Repr, Inhabited

/-- A frame of the device: its counter, whether its content was sent before, the credit and acknowledgement it
carries, when it was last sent, and its content. -/
structure Frame where
  ctr : Nat
  resent : Bool
  credit : Nat
  ack : Nat
  sentAt : Nat
  content : Content
deriving DecidableEq, Repr, Inhabited

/-- A handshake in progress (R372, R373): the messages so far, its start, and whether it enrols. -/
structure HsPhase where
  nonceD : Nat
  transcript : List Byte
  startedAt : Nat
  enrol : Bool
deriving DecidableEq, Repr, Inhabited

/-- One Grenlink port. -/
structure GlPort where
  /-- 0 down, 1 handshaking, 2 up (R450) -/
  state : Nat
  keyed : Bool
  /-- counter of the next frame to send, and of the last frame accepted (R27, R29) -/
  txCtr : Nat
  rxCtr : Nat
  /-- whether a frame has been accepted since the handshake -/
  rxAny : Bool
  unacked : List Frame
  unsent : List (Bool × Content)
  /-- credits the control node holds, and credits to return with the next frame (R31) -/
  credits : Nat
  creditOwed : Nat
  /-- commands in the receive buffer: cmd_seq and credits (R31) -/
  rxBuf : List (Nat × Nat)
  authFail : Nat
  lastRx : Nat
  lastTx : Nat
  hs : Option HsPhase
  /-- base traffic keys of this handshake, as an opaque tag (R373), and key generations per direction (R374) -/
  keyTag : List Byte
  txGen : Nat
  rxGen : Nat
  /-- the last handshake message the device sent (R372), in clear -/
  hsOut : List Byte
deriving DecidableEq, Repr, Inhabited

/-- A cmd_seq in use (R42); phase 0 running, 1 reply hold of 250 ms, 2 retained, 3 answered by a last reply that is not
yet sent. `reply` is the latest reply sent. -/
structure CmdRec where
  seq : Nat
  opcode : Nat
  tenant : Nat
  port : Nat
  session : Nat
  phase : Nat
  repliedAt : Nat
  reply : Option Reply
deriving DecidableEq, Repr, Inhabited

/-- A retained result (R40, R41). -/
structure Result where
  seq : Nat
  tenant : Nat
  body : List Byte
  reads : Nat
deriving DecidableEq, Repr, Inhabited

/-- Work of the row engine that ROWS budgets may hold (R276, R277, R280). -/
inductive RowOp where
  | lookup (pooling : Nat) (lens idx : List Nat)
  | update (lr : F32) (recs : List (Nat × List H16))
  | hotset (refreshUs : Nat) (rows : List Nat)
deriving DecidableEq, Repr, Inhabited

/-- What a running command is doing. -/
inductive JobKind where
  /-- tokens still to commit once tokenised; tokens added; position at the start (R183, R161) -/
  | append (policy mode : Nat) (tail : List Byte) (toks : Option (List Nat)) (added start : Nat)
  | generate (g : GenParams) (maxTok : Nat)
  | park
  | revive
  | condense (slots : Nat)
  | offer (dest : Nat)
  | accept (src epoch digest : Nat)
  | register (model kind slice : Nat) (o : ObjRef)
  | warm (model : Nat)
  | evict (model : Nat)
  | segment (model phase groupTiles batch : Nat) (o : ObjRef)
  | vocab (v : Nat) (o : ObjRef)
  | grammar (g v : Nat) (o : ObjRef)
  | query
  | rows (table : Nat) (op : RowOp)
  | replace (table next : Nat)
  | tableRemove (table : Nat)
  | mash (activateAt : Nat) (o : ObjRef)
  | adopt (failed buddy : Nat)
  | ckpt (generation : Nat)
  | restore (o : ObjRef)
  | removeTenant (tenant : Nat)
  | fwStage (o : ObjRef)
  /-- a verified image waiting for its write: svn, version, digest, bytes -/
  | fwWrite (svn version digest bytes : Nat)
  | bung (peer : Nat)
  | keyWrite
  | activate
  | attest
  /-- CORPUS_INSERT: its publication sequence, the items of it still to be encoded and linked, its node ids -/
  | insert (corpus shard pub todo : Nat) (nodes : List Nat)
  | recall (corpus shard k beam sample : Nat)
  /-- a configuration record waiting for its codebook -/
  | corpusCfg (corpus shard : Nat) (o : ObjRef) (record : List Byte)
deriving DecidableEq, Repr, Inhabited

/-- A running command. `stage`: 0 waits for its turn, 1 waits for frames, 2 waits for a revive or a warm,
3 runs, 4 waits for acknowledgements or keys. -/
structure Job where
  seq : Nat
  port : Nat
  tenant : Nat
  session : Nat
  opcode : Nat
  no : Nat
  acceptedAt : Nat
  stage : Nat
  kind : JobKind
  /-- of a text-mode append: its bytes, and the carry it was tokenised behind (R217); of CORPUS_INSERT: its item records -/
  text : List Byte
  behind : List Byte
deriving DecidableEq, Repr, Inhabited

structure Gl where
  g0 : GlPort
  g1 : GlPort
  eventPort : Nat
  evMask : Nat
  /-- the log, oldest first, at most 65,536 (R58) -/
  log : List EventRec
  nextSeq : Nat
  /-- contents kept while both ports are down, each with the port it was for (R34) -/
  backlog : List (Nat × Content)
  /-- what waits behind a full backlog (R34) -/
  stalled : List (Nat × Content)
  cmds : List CmdRec
  results : List Result
  jobs : List Job
  acceptNo : Nat
deriving DecidableEq, Repr, Inhabited

/-! ### Device, power, clocks, reset (R399 to R425, R446 to R450) -/

structure Supply where
  volt : Nat
  qualified : Bool
  disconnected : Bool
deriving DecidableEq, Repr, Inhabited

/-- Status pins (R426, R431); true is the high level. -/
structure Pins where
  pwrFailN : Bool
  nmiOut : Bool
  thermtripN : Bool
  devReady : Bool
  smbAlertN : Bool
  nfWpN : Bool
  resetN : Bool
deriving DecidableEq, Repr, Inhabited

structure Clocks where
  intStable : Bool
  refStable : Bool
  monStable : Bool
  pllLocked : Bool
  arithDiv : Nat
  ctrlDiv : Nat
  fabricDiv : Nat
  arithNow : Nat
  ctrlNow : Nat
  fabricNow : Nat
  monTol : Nat
  monDebounce : Nat
  /-- 0 REFCLK, 1 internal oscillator -/
  rootSrc : Nat
  monActive : Bool
  monclkAbsent : Bool
  clockNmi : Bool
  lastCount : Nat
  failRun : Nat
deriving DecidableEq, Repr, Inhabited

structure Throttle where
  hThermal : Nat
  hPower : Nat
  level : Nat
  restsSince : Nat
  tjMax : Nat
  tjSensor : Nat
  temps : List Int
  pinHist : List Nat
  imminent : List Bool
  tripped : Bool
deriving DecidableEq, Repr, Inhabited

structure Dev where
  vinMain : Supply
  vinBackup : Supply
  onBackup : Bool
  supplyNmi : Bool
  /-- whether the load is powered: false from the end of hold-up or a trip -/
  powered : Bool
  supplyIsLost : Bool
  pinW : Nat
  pwrLimit : Nat
  /-- input energy in units of 0.1 mJ -/
  energy : Nat
  devState : Nat
  resetCause : Nat
  clean : Bool
  /-- start-up step reached, 1 to 9 (R415): 8 is the mount, 10 stands for start-up at its end -/
  startStep : Nat
  /-- a reset that takes place 1 ms after the FINAL reply: 2 cold, 3 warm, 4 FIRMWARE_ACTIVATE (R445, R419) -/
  deferred : Option Nat
  /-- clean shutdown: 0 none, 1 asked, 2 parks and acknowledgements, 3 image written and quiescing (R418) -/
  shutPhase : Nat
  shutDone : Bool
  shutActivate : Option Nat
  /-- a second compute die is lost: the device has stopped (R348) -/
  stopped : Bool
  localCtr : Nat
  clk : Clocks
  thr : Throttle
  pins : Pins
  tilesOk : Nat
  stackCnt : Nat
  spareLeft : Nat
  dieOk : Nat
  throttleHolds : Nat
  supplySwitchCnt : Nat
  clockMonFail : Nat
  calClampCnt : Nat
  pwrShutSkip : Nat
  calUser : Tab Int
deriving DecidableEq, Repr, Inhabited

structure Sideband where
  alert : Nat
  alertEn : Nat
  refused : Nat
  addr : Nat
  len : Nat
  badAddr : Bool
  lastRefused : Bool
  /-- the body of the last block read -/
  lastRead : List Byte
  /-- boundary-scan instruction in force: 0 BYPASS, 1 IDCODE, 2 SAMPLE/PRELOAD, 3 EXTEST -/
  jtag : Nat
deriving DecidableEq, Repr, Inhabited

/-! ### Mash table, budgets, sharing (R115 to R144, R468) -/

/-- The four currency budgets of one activity; `none` is unlimited (R120). -/
structure Budget where
  tileRests : Option Nat
  hbm : Option Nat
  flash : Option Nat
  fabric : Option Nat
deriving DecidableEq, Repr, Inhabited

structure GovCfg where
  pfMin : Nat
  pfMax : Nat
  pfInit : Nat
  ratio : Nat
deriving DecidableEq, Repr, Inhabited

structure RtResv where
  die : Nat
  tile : Nat
  cls : Nat
deriving DecidableEq, Repr, Inhabited

structure RestEntry where
  act : List Nat
  rt : List RtResv
deriving DecidableEq, Repr, Inhabited

structure MashTable where
  restCount : Nat
  sliceMask : Nat
  /-- 64 bytes: size in [4:0], governed in [5] (R118) -/
  layout : List Nat
  rests : List RestEntry
  /-- per slice whose bit is set: 12 budgets in the order of codes 1 to 12 -/
  budgets : Tab (List Budget)
  gov : Tab GovCfg
  digest : Nat
  builtin : Bool
deriving DecidableEq, Repr, Inhabited

/-- One balance (R125) with its hold marks (R129). -/
structure Balance where
  bal : Int
  heldNow : Bool
  holdCnt : Nat
  heldSince : Nat
  lastRaised : Option Nat
deriving DecidableEq, Repr, Inhabited

/-- A share class (R131) with its finish tags (R133), its accounting record (R142) and its window (R144). -/
structure ShareClass where
  tenant : Nat
  weight : Nat
  rtRests : Nat
  fPrefill : Nat
  fDecode : Nat
  rtUsed : Nat
  tileCycles : Nat
  hbmBytes : Nat
  flashBytes : Nat
  fabricBytes : Nat
  itemsDone : Nat
  copyLate : Nat
  rtMiss : Nat
  slowdown : Nat
  rtBoundMax : Nat
  waitCycles : Nat
  winObs : Nat
  winSolo : Nat
  winCause : List Nat
  winItems : Nat
  /-- whether a window has had committed items since cold reset (R144) -/
  hadWindow : Bool
  rtMissNow : Bool
  /-- reserved or fallback rests sealed for rest 0 of the next cycle, and whether the rest now sealed counts already
  (R135, R136) -/
  rtAhead : Nat
  rtNow : Bool
deriving DecidableEq, Repr, Inhabited

/-- A tenant's token bucket (R138); `frac` carries the fraction of a byte in units of 1/3,000,000,000. -/
structure Shaper where
  rate : Nat
  burst : Nat
  tokens : Nat
  frac : Nat
  removing : Bool
deriving DecidableEq, Repr, Inhabited

structure GateList where
  entries : List (Nat × Nat)
  activateAt : Nat
deriving DecidableEq, Repr, Inhabited

structure Gate where
  active : Option (List (Nat × Nat))
  entry : Nat
  entrySince : Nat
  pending : Option GateList
  holdCnt : Nat
  /-- frames that wait for their class to open: class, bytes -/
  waiting : List (Nat × Nat)
deriving DecidableEq, Repr, Inhabited

/-- What a work item computes. -/
inductive ItemKind where
  /-- prefill chunk: first position, its tokens, whether it carries the append's last position -/
  | chunk (first : Nat) (toks : List Nat) (isLast : Bool)
  | decode
  | head
  | tail
  /-- decode over `last_token` left without KV (R185) -/
  | resume
  | verify (k : Nat)
  /-- a chunk of a draft rebuild (R197): first position of the draft page list, its tokens, whether it is the last -/
  | draftPrefill (first : Nat) (toks : List Nat) (isLast : Bool)
  | condense (slots : Nat)
  | embed (qid : Nat)
  | rerank (qid : Nat)
  | expert (model expert n : Nat)
deriving DecidableEq, Repr, Inhabited

/-- A work item (R132). -/
structure Item where
  id : Nat
  /-- session index, 0 for none -/
  sess : Nat
  seq : Nat
  tenant : Nat
  slice : Nat
  cls : Nat
  act : Nat
  phase : Nat
  model : Nat
  lastPos : Nat
  kind : ItemKind
  samples : Bool
  no : Nat
  eligAt : Nat
  tag : Nat
  cost : Nat
  solo : Nat
  bound : Nat
  /-- the entry that runs it, and whether that entry's last rest has ended -/
  entry : Option Nat
  ended : Bool
  result : Option PostRec
  /-- mash cycles in which no group of the table could take it (R182) -/
  noGroup : Nat
  causes : List Nat
  /-- draft tokens of its verify pass with their transitions, as their steps reported them (R195, R231) -/
  drafts : List (Nat × Nat)
  /-- tile × ARITH cycles, HBM bytes and fabric bytes its class has been charged for it (R142) -/
  share : Nat × Nat × Nat
deriving DecidableEq, Repr, Inhabited

structure Mash where
  table : MashTable
  /-- the verified table waiting, its time and the cmd_seq of its MASH_LOAD -/
  pendingTab : Option (MashTable × Nat × Nat)
  rest : Nat
  cycleCnt : Nat
  /-- start of the current rest in local cycles, and the extra hold it began with -/
  restStart : Nat
  holdNext : Bool
  /-- gated ARITH cycles since cold reset -/
  arith : Nat
  /-- phase of each governed group: key 16d + i, true PREFILL -/
  govPhase : Tab Bool
  /-- key ((12 s + a − 1) × 5 + c), c = 0 to 3 -/
  balances : Tab Balance
  /-- charges of seals made in the last rest of a cycle, which fall to the next cycle (R126) -/
  ahead : Tab Nat
  /-- whether the rest being sealed is rest 0 of a cycle to come -/
  sealAhead : Bool
  wearHold : Tab Balance
  classes : Tab ShareClass
  vPrefill : Tab Nat
  vDecode : Tab Nat
  items : List Item
  nextItem : Nat
  /-- key 2 × tenant + shaper -/
  shapers : Tab Shaper
  shaperHolds : Tab Nat
  gates : List Gate
  slowThr : Nat
  loadDiag : Nat × Nat
  segDiag : Nat × Nat
  govMoves : Nat
  jobsDone : Tab Nat
deriving DecidableEq, Repr, Inhabited

/-! ### Mills, tiles, segments (R61 to R114) -/

/-- One op of a bundle (R89) with the slot it names (R86). -/
structure Op where
  slot : Nat
  op : Nat
  flags : Nat
  pblk : Nat
  w0 : Nat
  w1 : Nat
  w2 : Nat
deriving DecidableEq, Repr, Inhabited

/-- A bundle (R87) at its segment cycle. -/
structure Bundle where
  cycle : Nat
  delta : Nat
  switchPoint : Bool
  last : Bool
  ops : List Op
deriving DecidableEq, Repr, Inhabited

/-- A copy-table entry (R95). -/
structure CopyEnt where
  kind : Nat
  lane : Nat
  desc : Nat
  tile : Nat
  sram : Nat
  offset : Nat
  bytes : Nat
  issue : Nat
  fence : Nat
deriving DecidableEq, Repr, Inhabited

/-- A descriptor declaration (R101). -/
structure DescDecl where
  kind : Nat
  entry : Nat
  writable : Bool
  minBytes : Nat
deriving DecidableEq, Repr, Inhabited

/-- A runtime descriptor (R105). -/
structure Desc where
  kind : Nat
  present : Bool
  tenant : Nat
  base : Nat
  frames : Nat
  object : Nat
  pageList : Nat
  peer : Nat
deriving DecidableEq, Repr, Inhabited

/-- A loaded segment (R100, R104). -/
structure Segment where
  id : Nat
  model : Nat
  tenant : Nat
  phase : Nat
  groupTiles : Nat
  batch : Nat
  bucket : Nat
  digest : Nat
  bytes : Nat
  length : Nat
  liveSram : Nat
  carryIn : Nat
  carryOut : Nat
  hbm : Nat
  fabric : Nat
  flash : Nat
  lanesUsed : Nat
  descs : List DescDecl
  copies : List CopyEnt
  pblks : List (List Byte)
  switches : List (Nat × Nat)
  bundles : List Bundle
  replaced : Bool
  obj : ObjRef
deriving DecidableEq, Repr, Inhabited

/-- A run of 2^order frames in use (R160). -/
structure Run where
  start : Nat
  order : Nat
  tenant : Nat
  slice : Nat
deriving DecidableEq, Repr, Inhabited

/-- A copy of an entry whose fence is open (R98). -/
structure OpenCopy where
  idx : Nat
  fence : Nat
  complete : Bool
  missedAt : Option Nat
deriving DecidableEq, Repr, Inhabited

/-- One entry of a chain (R107): its segment, its descriptors, its items, cycles already run and still to run. -/
structure Entry where
  id : Nat
  seg : Nat
  act : Nat
  slice : Nat
  tenant : Nat
  items : List Nat
  descs : List Desc
  /-- switch work still to run before it, cycles run, cycles left -/
  switchLeft : Nat
  ran : Nat
  left : Nat
  resumed : Bool
  chargedTile : Nat
  chargedHbm : Nat
  chargedFabric : Nat
  /-- flash bytes of the segment's staging, charged when its reads issue (R126) -/
  flash : Nat
  /-- the saved SRAM of each tile of the group, of a suspended entry or of one that restores a kept state (R110, R111) -/
  ctx : List Mem
  /-- the frames of its context area (R110, R160) -/
  ctxRuns : List Run
  /-- its copies whose fences are open, and its accumulated stall while it is saved (R98, R110) -/
  copies : List OpenCopy
  stall : Nat
  /-- its switch work has begun, and counts as a switch of its own (R113) -/
  swBegun : Bool
  /-- its live state is kept at its exit (R111) -/
  keep : Bool
deriving DecidableEq, Repr, Inhabited

/-- One tile group of the active layout. -/
structure Group where
  die : Nat
  tile : Nat
  size : Nat
  chain : List Entry
  /-- entries sealed for the next rest, and whether they preempt -/
  sealed : List Entry
  preempt : Bool
  saved : List Entry
  /-- exit states the Cellar asked to keep, newest first (R111) -/
  kept : List Entry
  stall : Nat
  /-- the save that ran last belongs to a switch already counted (R113) -/
  inSwitch : Bool
  /-- cycles of the composed rest that run no op (R108) -/
  idle : Nat
  lastTenant : Nat
  lastCarry : Nat
  lastAct : Nat
  /-- waits for its tiles to leave old groups or for a spare (R123, R346) -/
  blocked : Bool
  /-- cycles for which old entries still hold its tiles (R123) -/
  drain : Nat
deriving DecidableEq, Repr, Inhabited

structure Tile where
  sram : Mem
  /-- the two sets of 64 × 129 FP32 accumulators, row by row, each as its last op left it, and the set the next op
  takes; an empty list stands for zeros (R61) -/
  accs : List (List F32)
  accSel : Nat
  eccCe : Nat
  iovf : Nat
  sat : Nat
  nan : Nat
  /-- in service as a logical tile; awaiting a self-test; runs on the die's spare -/
  inService : Bool
  selfTest : Bool
  spared : Bool
  dirty : Bool
deriving DecidableEq, Repr, Inhabited

structure Die where
  lost : Bool
  copyLate : Nat
  copyStall : Nat
  descFault : Nat
  idleRests : Nat
  switchCnt : Nat
  switchCyc : Nat
  /-- the die stream composed for the next rest: (rest cycle, op with its physical slot) -/
  stream : List (Nat × Op)
  /-- records the die's tiles have posted and the hub has not taken: session, batch entry, record (R90, R187) -/
  posted : List (Nat × Nat × PostRec)
deriving DecidableEq, Repr, Inhabited

structure Mill where
  dies : List Die
  /-- pseudo-channels of each stack that have taken a spare, and those lost: stack, pseudo-channel (R346) -/
  pcSpared : List Nat
  pcLost : List (Nat × Nat)
  /-- failed pseudo-channels whose copy to a spare waits for the MAINT budget (R130, R346) -/
  pcWait : List (Nat × Nat)
  tiles : List Tile
  groups : List Group
  /-- groups of a pending table's layout that the present one lacks, with the choices sealed for its rest 0 (R122) -/
  coming : List Group
  /-- the model's own: bytes that crossed die bridge Dd towards C(d + 1), at d, and back, at 4 + d (R15, R16) -/
  bridge : List Nat
  /-- whether the mirrored structures whose primary copy was made on a die now have it on the mirror's die (R21, R347) -/
  onMirror : List Bool
  nextEntry : Nat
  segs : Tab Segment
  nextSeg : Nat
  hbm : Mem
deriving DecidableEq, Repr, Inhabited

/-! ### The frame allocator (R160, R161, R386) -/

/-- One die's allocator: free runs and runs in use sorted by start, runs awaiting their clear. -/
structure Alloc where
  total : Nat
  free : List (Nat × Nat)
  used : List Run
  clearing : List (Nat × Nat)
deriving DecidableEq, Repr, Inhabited

/-- A reservation (R161): the orders of the runs asked for, and the runs once granted. -/
structure Resv where
  id : Nat
  seq : Nat
  sess : Nat
  die : Nat
  tenant : Nat
  slice : Nat
  orders : List Nat
  runs : List Run
  granted : Bool
  sinceCycle : Nat
deriving DecidableEq, Repr, Inhabited

/-! ### The Cellar (R145 to R178) -/

/-- One page of a session in every layer group (R156, R158). -/
structure Page where
  k : Nat
  first : Nat
  filled : Nat
  flashFilled : Nat
  node : Nat
  isShared : Bool
  onFlash : Bool
  full : Bool
  summary : Bool
  oast : Nat
  /-- first frame of the run of each layer group -/
  runs : List Run
  /-- (s_k, o_k, s_v, o_v) of KV head h in layer group g, at g × H_kv + h; empty until fixed (R68, R158, R189) -/
  pairs : List (H16 × H16 × H16 × H16)
  /-- the codes in the order of R157, layer group after layer group, by their offset -/
  codes : Mem
  /-- lowest position committed since the last checkpoint (R355) -/
  dirty : Option Nat
  /-- whether the page's positions so far came from one append (R165) -/
  oneAppend : Bool
deriving DecidableEq, Repr, Inhabited

/-- A slot of a staged mask window (R230). -/
structure MaskSlot where
  transBase : Nat
  accepting : Bool
  atLimit : Bool
  mask : Nat
  growMask : Nat
deriving DecidableEq, Repr, Inhabited

/-- The session state block (R190, R224). -/
structure StateBlk where
  lastToken : Option Nat
  /-- the token ring, oldest first, and its next write index -/
  ring : List Nat
  ringHead : Nat
  specK : Nat
  specRejects : Nat
  specHold : Nat
  /-- the draft page list's run and its pages (R197) -/
  draftList : List Run
  draftPages : List Page
  draftBase : Nat
  draftPos : Nat
  genSeq : Nat
  genTokens : Nat
  genParams : Option GenParams
  /-- session and command grammar: context, state, stack (top first) -/
  sgCtx : Option Nat
  sgState : Nat
  sgStack : List Nat
  cgCtx : Option Nat
  cgState : Nat
  cgStack : List Nat
  gramActive : Bool
  carry : List Byte
  carryPolicy : Nat
  outTail : List Byte
  held : List Byte
  stops : List (List Byte)
  outBytes : Nat
  /-- the staged mask window and its frames (R230) -/
  slots : List MaskSlot
  slotRuns : List Run
deriving DecidableEq, Repr, Inhabited

/-- The running generate of a session (R185, R207). `ending` is the stop reason once decided. -/
structure GenRun where
  seq : Nat
  port : Nat
  tenant : Nat
  p : GenParams
  maxTok : Nat
  committed : Nat
  released : Nat
  steps : Nat
  verifies : Nat
  accepted : Nat
  started : Bool
  ending : Option Nat
  stopIndex : Nat
  tailNeeded : Bool
  tailDone : Bool
  /-- token ids released but not yet streamed, each with the output offset at which its last byte has been streamed
  (R223); `lastPos` is the position after the last id completed -/
  idsPending : List (Nat × Nat)
  lastPos : Nat
deriving DecidableEq, Repr, Inhabited

/-- A committed step or other change racked and not yet acknowledged (R329, R331). -/
structure Delta where
  rackSeq : Nat
  rkind : Nat
  toks : List Nat
  position : Nat
  isStep : Bool
  /-- entry that committed the step: chunks of one entry count as one step (R331) -/
  ent : Nat
  endOfAppend : Option Nat
  /-- the session grammar's state and stack after each token of `toks` (R228, R232) -/
  grams : List (Nat × List Nat)
deriving DecidableEq, Repr, Inhabited

/-- A session table entry (R145) with its pages, state block and progress. -/
structure Sess where
  idx : Nat
  gen : Nat
  /-- 0 ACTIVE, 1 WARM, 2 PARKED, 3 EXTRACT, 4 OFFERED, 5 ABSENT, 6 EXPIRED (R46) -/
  state : Nat
  cls : Nat
  vocab : Nat
  tenant : Nat
  share : Nat
  model : Nat
  epoch : Nat
  position : Nat
  released : Nat
  reserved : Nat
  lastSeq : Nat
  homeDie : Nat
  linked : Bool
  parking : Bool
  condensing : Bool
  incoming : Bool
  reviving : Bool
  grammar : Nat
  ownerPeer : Nat
  outstanding : Nat
  pageList : List Run
  stateBlock : List Run
  cask : Nat
  caskSeq : Nat
  caskBytes : Nat
  parkSec : Nat
  extract : Option Nat
  kvShift : Nat
  dwellSince : Nat
  dwellOn : Bool
  warmSince : Nat
  expirySec : Nat
  seed : Nat
  rng : Nat
  pages : List Page
  blk : StateBlk
  run : Option GenRun
  /-- the token, flags and transition a sampling prefill chunk left for the next generate (R183) -/
  firstTok : Option (Nat × Nat × Nat)
  deltas : List Delta
  rackSeq : Nat
  rackAcked : Nat
  rackBusy : Bool
  /-- state before OFFERED, and what is left of a park: programs reported, delta acknowledged, cancelled -/
  offeredFrom : Nat
  parkProgs : Bool
  parkAcked : Bool
  parkCancelled : Bool
  parkBytes : Nat
  parkSeq : Nat
  /-- a park is due but has not started; cycles in which a spent wear allowance held it (R169); the Oast address of its
  write -/
  parkWait : Bool
  parkWear : Nat
  /-- the last mash cycle counted there, plus 1 -/
  parkWearAt : Nat
  parkAddr : Nat
  /-- the waiting park found no mapped space (R169); `ttl_s` as the park started (R149) -/
  parkFull : Bool
  parkTtl : Nat
  /-- the carry and its policy before the command that waits for frames took them up, and the tokens of a carry that a
  generate still has to add (R162, R218) -/
  carryWas : List Byte × Nat
  carryToks : Nat
  condSlots : Nat
  condDone : Bool
  /-- the summary page that the condenser's entry has written, without its frames (R172, R206) -/
  condPage : Option Page
  reviveSrc : Nat
  reviveRead : Bool
  /-- the buddy that holds the only copy of the cask of an adopted PARKED session (R344), or 0 -/
  caskPeer : Nat
  lostMark : Bool
  dirty : Bool
  /-- header and page directory of the newest cask (R170) -/
  caskHdr : List Byte
  /-- the park or condense in progress was started by pressure reclaim (R163) -/
  byPressure : Bool
deriving DecidableEq, Repr, Inhabited

/-- A node of a tree of shared pages (R164, R167). -/
structure Node where
  id : Nat
  tenant : Nat
  model : Nat
  vocab : Nat
  parent : Nat
  j : Nat
  k : Nat
  toks : List Nat
  die : Nat
  runs : List Run
  inHbm : Bool
  /-- the pairs and codes of the page, as a session's page holds them (R164) -/
  pairs : List (H16 × H16 × H16 × H16)
  codes : Mem
  flash : Nat
  links : Nat
  casks : Nat
  lastLinked : Nat
  /-- the hash of its parent and its tokens (R164, R170) -/
  hash : Nat
deriving DecidableEq, Repr, Inhabited

/-- A service class (R148). -/
structure ServiceClass where
  dwellMs : Nat
  ttlS : Nat
  pageMaxLog2 : Nat
  flags : Nat
  condenseSlots : Nat
deriving DecidableEq, Repr, Inhabited

structure CellarCnt where
  parks : Nat
  parkCancel : Nat
  pressure : Nat
  fallback : Nat
  revive : List Nat
  noMem : Nat
  link : Nat
  full : Nat
  expired : Nat
deriving DecidableEq, Repr, Inhabited

structure Cellar where
  sess : Tab Sess
  /-- generation of every index issued before (R4), and the indexes issued or brought in since cold reset -/
  gens : Tab Nat
  freed : List Nat
  classes : Tab ServiceClass
  prefixEn : Bool
  pressureEn : Bool
  reserveWait : Nat
  indexBase : Nat
  indexLimit : Nat
  wmLow : Nat
  wmHigh : Nat
  absentHold : Nat
  expiredHold : Nat
  sec : Nat
  cnt : CellarCnt
  expiredThisSec : Nat
  expiredExtra : Nat
  allocs : List Alloc
  resvs : List Resv
  nextResv : Nat
  nodes : Tab Node
  nextNode : Nat
  extractsUsed : List Nat
deriving DecidableEq, Repr, Inhabited

/-! ### Models (R194 to R205) -/

/-- The header of a model object (R199). -/
structure ModelHdr where
  kind : Nat
  layers : Nat
  layersPerGroup : Nat
  kvBits : Nat
  kvHeads : Nat
  qHeads : Nat
  headDim : Nat
  window : Nat
  routeTop : Nat
  vocabSize : Nat
  eos : Nat
  maxContext : Nat
  experts : Nat
  weightsBytes : Nat
  /-- per layer and KV head: k_lo, k_hi, v_lo, v_hi -/
  ranges : List (List H16)
  /-- per expert: home peer, bytes -/
  expertMap : List (Nat × Nat)
deriving DecidableEq, Repr, Inhabited

/-- A registered model; st 0 REGISTERED, 1 WARMING, 2 RESIDENT, 3 EVICTING (R392). -/
structure Model where
  id : Nat
  tenant : Nat
  slice : Nat
  digest : Nat
  hdr : ModelHdr
  st : Nat
  homeDie : Nat
  runs : List (Nat × Run)
  oast : Nat
  bytes : Nat
  /-- the weights section of the object (R198, R199) -/
  weights : List Byte
  warmSince : Nat
  /-- the reads of its warm have been issued (R127, R201) -/
  asked : Bool
  obj : ObjRef
deriving DecidableEq, Repr, Inhabited

structure Models where
  models : Tab Model
  /-- main model to (draft, k_max) (R194) -/
  drafts : Tab (Nat × Nat)
  /-- arrival queues: key model × 4096 + expert, tokens as (peer, token, share class, activity); those beyond the first 65,536 wait
  at their senders (R205) -/
  queues : Tab (List (Nat × Nat × Nat × Nat))
  /-- headers and weights of model objects verified but not yet on flash, by cmd_seq of their MODEL_REGISTER -/
  registering : Tab (ModelHdr × List Byte)
deriving DecidableEq, Repr, Inhabited

/-! ### The Copper (R208 to R234) -/

structure TokRec where
  bytes : List Byte
  special : Bool
deriving DecidableEq, Repr, Inhabited

structure Vocab where
  digest : Nat
  size : Nat
  kind : Nat
  toks : List TokRec
  unk : Option Nat
  merges : List (Nat × Nat × Nat)
  scores : List F32
  split : List Byte
  /-- frames of the table in the pools, with their die (R210) -/
  runs : List (Nat × Run)
  obj : ObjRef
deriving DecidableEq, Repr, Inhabited

structure GramCtx where
  state : Nat
  top : Nat
  accepting : Bool
  mask : Nat
  growMask : Nat
  transBase : Nat
  transCount : Nat
deriving DecidableEq, Repr, Inhabited

structure Grammar where
  tenant : Nat
  vocab : Nat
  digest : Nat
  size : Nat
  tokens : Nat
  start : Nat
  states : List (Nat × Nat)
  ctxs : List GramCtx
  /-- next_state, pop, push_n, push_idx -/
  trans : List (Nat × Nat × Nat × Nat)
  push : List Nat
  /-- each mask as the number whose bit t is token t -/
  masks : List Nat
  runs : List (Nat × Run)
  obj : ObjRef
deriving DecidableEq, Repr, Inhabited

structure Copper where
  vocabs : Tab Vocab
  grammars : Tab Grammar
  /-- inputs on the 16 engines and inputs waiting, by cmd_seq, in acceptance order (R215) -/
  engines : List Nat
  waiting : List Nat
  tokBytes : Nat
  tokensIn : Nat
  replaced : Nat
  rejected : Nat
  tokensOut : Nat
  stopHits : Nat
  withheld : Nat
  masksStaged : Nat
  gramDead : Nat
  gramFault : Nat
deriving DecidableEq, Repr, Inhabited

/-! ### The Lauter (R235 to R267) -/

/-- A configuration record (R236), but for `shard` and `max_items`. -/
structure CorpusCfg where
  metric : Nat
  codeKind : Nat
  degree : Nat
  dim : Nat
  pqBytes : Nat
  sepLen : Nat
  encoder : Nat
  cross : Nat
  sep : List Byte
  slice : Nat
  codebook : ObjRef
  /-- the codebook's BF16 words, once fetched -/
  book : List H16
  /-- the record's bytes -/
  raw : List Byte
deriving DecidableEq, Repr, Inhabited

structure LNode where
  adj : List Nat
  code : List Nat
  ins : Nat
  del : Option Nat
  attr : Nat
  num0 : Nat
  num1 : Nat
  ext : List Nat
  oast : Nat
  text : List Byte
  vec : List H16
deriving DecidableEq, Repr, Inhabited

structure Shard where
  maxItems : Nat
  nodes : Tab LNode
  /-- least recently freed first -/
  freeIds : List Nat
  nextId : Nat
  ph : Nat
  removedSeq : Nat
  entries : List Nat
  degraded : Bool
  log : List (List H16)
  lost : Bool
  runs : List (Nat × Run)
  /-- removal waiting for older queries: ids with the query numbers still running (R246) -/
  leaving : List (Nat × List Nat)
deriving DecidableEq, Repr, Inhabited

structure Corpus where
  id : Nat
  tenant : Nat
  cfg : CorpusCfg
  declared : Bool
  pc : Nat
  shards : Tab Shard
  map : Option (List ShardEntry)
deriving DecidableEq, Repr, Inhabited

/-- A shard asked in a query round: who was asked, whether done, whether replica asked. -/
structure Asked where
  shard : Nat
  owner : Nat
  replica : Nat
  replicaAsked : Bool
  done : Bool
deriving DecidableEq, Repr, Inhabited

/-- A query in progress (R248 to R263). stage: 0 tokenise, 1 EMBED, 2 SEARCH and MERGE, 3 text fetch, 4 RERANK,
5 PACK waits for its place. -/
structure Query where
  seq : Nat
  tenant : Nat
  p : QueryParams
  snapshot : Nat
  stage : Nat
  toks : List Nat
  vec : List H16
  map : List ShardEntry
  asked : List Asked
  cands : List Cand
  beam : Nat
  widened : Nat
  fanoutAt : Nat
  fetchAt : Nat
  /-- survivors in order with text (none until received) and re-rank score -/
  survivors : List (Cand × Option (List Byte) × F32)
  missing : List Nat
  partialRes : Bool
  shortRes : Bool
  /-- the pack's tokens; status and body of the reply once known; the target has left the order (R262) -/
  packToks : List Nat
  result : Option (Nat × List Byte)
  noPack : Bool
  /-- the texts that lie on this device's flash have been asked for (R127, R260) -/
  textsAsked : Bool
deriving DecidableEq, Repr, Inhabited

structure PeerReq where
  rid : Nat
  src : Nat
  qid : Nat
  tenant : Nat
  corpus : Nat
  shard : Nat
  snapshot : Nat
  expiresAt : Nat
  req : SearchReq
deriving DecidableEq, Repr, Inhabited

/-- A peer's request for passage texts, and whether its flash wave has been issued (R127, R260). -/
structure TextAsk where
  rid : Nat
  src : Nat
  qid : Nat
  tenant : Nat
  corpus : Nat
  shard : Nat
  nodes : List Nat
  asked : Bool
deriving DecidableEq, Repr, Inhabited

structure LauterCnt where
  queries : Nat
  partials : Nat
  shorts : Nat
  widen : Nat
  replica : Nat
  lateReply : Nat
  abandoned : Nat
  snapOld : Nat
  waves : Nat
  inserts : Nat
  delMiss : Nat
  removed : Nat
deriving DecidableEq, Repr, Inhabited

structure Lauter where
  corpora : Tab Corpus
  queries : List Query
  reqs : List PeerReq
  textReqs : List TextAsk
  nextReq : Nat
  deadlineDef : Nat
  repairEn : Bool
  logEn : Bool
  linkBeam : Nat
  alpha : Nat
  cnt : LauterCnt
deriving DecidableEq, Repr, Inhabited

/-! ### The row engine (R268 to R288) -/

/-- A row record (R271): codes or element patterns, optimiser state as BF16 patterns. -/
structure RowRec where
  ver : Nat
  s : H16
  o : H16
  payload : List Nat
  st : List H16
deriving DecidableEq, Repr, Inhabited

/-- A hot entry of a ROWS group (R277). -/
structure HotEnt where
  group : Nat
  row : Nat
  valid : Bool
  cells : RowRec
deriving DecidableEq, Repr, Inhabited

structure RowTable where
  tenant : Nat
  slice : Nat
  die : Nat
  dim : Nat
  rows : Nat
  format : Nat
  opt : Nat
  recs : Tab RowRec
  shadow : Option (Tab (H16 × H16 × List Nat))
  shadowRuns : List Run
  commit : Option Nat
  updatesInCommit : Tab Nat
  hotRows : List Nat
  refreshUs : Nat
  hot : List HotEnt
  lost : Bool
  runs : List Run
  dirty : List Nat
deriving DecidableEq, Repr, Inhabited

structure Rows where
  tables : Tab RowTable
  hotKib : Nat
  rowsSlice : Nat
  beta1 : F32
  beta2 : F32
  eps : F32
  lookups : Nat
  hotHits : Nat
  hbmReads : Nat
  updates : Nat
  superseded : Nat
  replaced : Nat
  refreshRows : Nat
  interlockWait : Nat
deriving DecidableEq, Repr, Inhabited

/-! ### The Oast (R289 to R318) -/

/-- A block (R295): state 0 free, 1 open, 2 closed, 3 retired, 4 spare, 5 root or key block (R309, R379). -/
structure Block where
  st : Nat
  erases : Nat
  valid : Nat
  closeSeq : Nat
  pslc : Bool
  relocate : Bool
deriving DecidableEq, Repr, Inhabited

structure Lun where
  channel : Nat
  lun : Nat
  blockBytes : Nat
  blocks : List Block
  spare0 : Nat
  spares : Nat
  /-- lowest OAST_SPARE_LOW level raised so far: 100, 50, 25 or 0 -/
  lowRaised : Nat
  gcActive : Bool
  failed : Bool
deriving DecidableEq, Repr, Inhabited

/-- Whose data an extent is. -/
inductive Owner where
  | cask (session : Nat)
  | page (session : Nat)
  | node (id : Nat)
  | model (id : Nat)
  | item (corpus shard node : Nat)
  | rackCask (session : Nat)
  /-- a firmware image slot (R382) -/
  | config (slot : Nat)
  | image
deriving DecidableEq, Repr, Inhabited

/-- A mapped extent of the logical space (R292, R295, R296). -/
structure Extent where
  sectors : Nat
  tenant : Nat
  keyEpoch : Nat
  originSeq : Nat
  seq : Nat
  lun : Nat
  block : Nat
  lost : Bool
  owner : Owner
deriving DecidableEq, Repr, Inhabited

/-- A page that a park writes (R26): its first position, the positions written, its prefix-tree node or 0, its Oast address and
its bytes. -/
structure CaskPage where
  first : Nat
  filled : Nat
  node : Nat
  addr : Nat
  bytes : Nat
deriving DecidableEq, Repr, Inhabited

/-- What a park writes, as its session stood when it started (R26, R168, R170): the pages, the address and bytes of state block and
header, and the header with its page directory. -/
structure Cask where
  pages : List CaskPage
  addr : Nat
  bytes : Nat
  header : List Byte
deriving DecidableEq, Repr, Inhabited

/-- What a client write is for. -/
inductive WriteFor where
  | park (session : Nat) (c : Cask)
  | model (seq : Nat)
  | rackPark (src session rackSeq : Nat)
  | corpus (seq : Nat)
  | migration (session : Nat)
  | adoptCopy (session : Nat)
  | config (seq : Nat)
  | image
deriving DecidableEq, Repr, Inhabited

/-- A client write in flight (R297). -/
structure FWrite where
  id : Nat
  tenant : Nat
  slice : Nat
  act : Nat
  bytes : Nat
  addr : Nat
  originSeq : Nat
  lun : Nat
  block : Nat
  what : WriteFor
  owner : Owner
deriving DecidableEq, Repr, Inhabited

inductive ReadFor where
  | revive (session : Nat)
  | node (session node : Nat)
  | warm (model : Nat)
  | texts (qid : Nat)
  /-- the texts that a peer asked for, by the number of its request -/
  | serve (rid : Nat)
  | patrol
  | relocate (lun block : Nat)
deriving DecidableEq, Repr, Inhabited

structure FRead where
  id : Nat
  addr : Nat
  bytes : Nat
  slice : Nat
  act : Nat
  what : ReadFor
deriving DecidableEq, Repr, Inhabited

structure OastCnt where
  hostWrite : Nat
  eraseBytes : Nat
  readBytes : Nat
  gcReloc : Nat
  retired : Nat
  progFail : Nat
  eraseFail : Nat
  readRetry : Nat
  uncorrectable : Nat
  writeStall : Nat
  lunUnused : Nat
deriving DecidableEq, Repr, Inhabited

/-- The configuration region (R292) and what else of the flash survives every reset. -/
structure FlashCfg where
  cellarSec : Nat
  powerSec : Nat
  lastGenStarted : Nat
  lastGenDone : Nat
  /-- present once a clean shutdown has written its image and commit (R309, R418) -/
  commit : Bool
  marker : Bool
  imgSess : Tab Sess
  /-- shared pages that casks of those sessions name (R167) -/
  imgNodes : Tab Node
  imgModels : Tab Model
  imgClasses : Tab ServiceClass
  imgShares : Tab ShareClass
  imgVocabs : Tab Vocab
  imgGrammars : Tab Grammar
  firstMounted : Bool
deriving DecidableEq, Repr, Inhabited

structure Oast where
  mountState : Nat
  lastClean : Bool
  gcStart : Nat
  gcUrgent : Nat
  wlGap : Nat
  readSuspend : Bool
  ratedCycles : Nat
  targetYears : Nat
  waInit : Nat
  bankS : Nat
  luns : List Lun
  exts : Tab Extent
  writes : List FWrite
  /-- writes that their tenant's write shaper holds, in order: tenant, and the command (2^32 + cmd_seq) or session (R138) -/
  held : List (Nat × Nat)
  reads : List FRead
  nextIo : Nat
  nextAddr : Nat
  seq : Nat
  pslcBytes : Nat
  allowRate : Nat
  allowBank : Int
  allowance : Int
  otherWrites : Nat
  waEst : Nat
  /-- (U, client bytes) samples, one per second, newest first, at most 86,401 (R314) -/
  waHist : List (Nat × Nat)
  powerSec : Nat
  warned : Nat
  rootLuns : List Nat
  cnt : OastCnt
  cfg : FlashCfg
  quiescing : Bool
deriving DecidableEq, Repr, Inhabited

/-! ### Fabric, racking, migration (R319 to R351) -/

/-- A message this device sends a peer (R320). -/
inductive FMsg where
  | rack (r : RackRec)
  | rackAck (session rackSeq : Nat)
  | rackBusy (session rackSeq : Nat)
  | rackFenced (slice : Nat)
  | offer (i : SessImage)
  | offerOk (session : Nat)
  | offerRefused (session status : Nat)
  | transferEnd (i : SessImage) (digest : Nat)
  | digestMatch (session : Nat) (ok : Bool)
  | commit (session epoch : Nat)
  | releasedMsg (session : Nat)
  | abort (session epoch : Nat)
  | bungAsk (session epoch : Nat)
  | bungAnswer (session : Nat) (committed : Bool) (owner : Nat)
  | adoptAsk (failed : Nat)
  | adoptDone (failed : Nat)
  | adoptCopies (imgs : List SessImage)
  | handover (sessions : List Nat)
  | revoke (tenant : Nat)
  | search (r : SearchReq)
  | candReply (qid shard status : Nat) (c : List Cand)
  | textAsk (qid corpus shard : Nat) (nodes : List Nat)
  | textReply (qid : Nat) (texts : List (Nat × Nat × List Byte))
  | fetch (o : ObjRef)
  | caskAsk (session : Nat)
  | put (index : Nat) (bytes : Nat)
  | keepalive
  | hello (r : Nat)
  /-- what a SEND of a segment carries to the peer of its descriptor (R96, R204): model, expert entry and copy, bytes -/
  | expertSend (model entry copy : Nat) (data : List Byte)
  /-- the results of an expert entry, back to the peer whose tokens it took (R204) -/
  | expertResult (model expert tokens : Nat)
deriving DecidableEq, Repr, Inhabited

/-- A message that waits at its charge point (R127, R138) or for its tenant's link secret (R381). -/
structure HeldMsg where
  peer : Nat
  tclass : Nat
  slice : Nat
  act : Nat
  tenant : Nat
  shaped : Bool
  bytes : Nat
  msg : FMsg
  /-- a SEND: its fabric bytes were charged at the seal, and it leaves on the port of its transmit queue (R96, R126) -/
  via : Option Nat
deriving DecidableEq, Repr, Inhabited

/-- A message of a stream, with the `stream_seq` of its last frame and what its frames carry (R320). -/
structure StreamMsg where
  seq : Nat
  slice : Nat
  tenant : Nat
  msg : FMsg
deriving DecidableEq, Repr, Inhabited

/-- A go-back-N stream of one class (R321). Of `unacked`, what begins within 1,024 frames is in flight, the rest waits. `txSeq` and
`rxSeq` are the last sequence given out and the last accepted, 0 before the first; `port` is the port it has taken. -/
structure Stream where
  txSeq : Nat
  rxSeq : Nat
  unacked : List StreamMsg
  oldestAt : Nat
  port : Option Nat
deriving DecidableEq, Repr, Inhabited

structure Peer where
  /-- own and the peer's random value of the last handshake (R375) -/
  myR : Option Nat
  salt : Option (List Byte)
  txCtr : Nat
  rxCtr : Nat
  txGen : Nat
  rxGen : Nat
  lost : Bool
  lastRx : Nat
  lastTx : Nat
  streams : Tab Stream
  /-- tenants whose pair keys the peer's REVOKE deleted (R389) -/
  revoked : List Nat
deriving DecidableEq, Repr, Inhabited

structure FabPort where
  state : Nat
  tx : Nat
  rx : Nat
deriving DecidableEq, Repr, Inhabited

structure Slice where
  tiles : Nat
  lanes : Nat
  pcs : Nat
deriving DecidableEq, Repr, Inhabited

structure FabCnt where
  retx : Nat
  authFail : Nat
  epochStale : Nat
  rackRecords : Nat
  rackBusy : Nat
  rackRedo : Nat
  migrations : Nat
  abortMarks : Nat
  adopted : Nat
  adoptSkip : Nat
  adoptSeq : Nat
  recovered : Nat
  eccUe : Nat
  hbmCe : Nat
  hbmUe : Nat
deriving DecidableEq, Repr, Inhabited

structure Fab where
  self : Nat
  peerTimeoutUs : Nat
  rackHbmMax : Nat
  ports : List FabPort
  routes : List (Nat × Nat)
  peers : Tab Peer
  slices : List Slice
  buddies : List Nat
  /-- peers that name this device as buddy (a peer whose rack records arrive) -/
  owners : List Nat
  held : List HeldMsg
  cnt : FabCnt
deriving DecidableEq, Repr, Inhabited

/-- A racked copy held for a peer (R330). `frozen` carries the adopter's id, 0 until adopted. -/
structure RCopy where
  owner : Nat
  img : SessImage
  rackSeq : Nat
  incoming : Bool
  frozen : Option Nat
  /-- the owner named buddies per slice; the slice of the copy on the owner -/
  slice : Nat
  pendingPark : Option Nat
  runs : List (Nat × Run)
deriving DecidableEq, Repr, Inhabited

/-- A migration out (R337): stage 1 OFFER sent, 2 transferring, 3 matched. -/
structure MigOut where
  handle : Nat
  dest : Nat
  seq : Nat
  attempts : Nat
  stage : Nat
  settling : Option Nat
deriving DecidableEq, Repr, Inhabited

/-- A migration in: stage 1 frames asked, 2 receiving, 3 complete and matched, 4 committing. -/
structure MigIn where
  src : Nat
  img : SessImage
  digest : Nat
  stage : Nat
  resv : Nat
deriving DecidableEq, Repr, Inhabited

structure BungOpen where
  handle : Nat
  peer : Nat
  seq : Nat
deriving DecidableEq, Repr, Inhabited

structure Adoption where
  seq : Nat
  failed : Nat
  buddy : Nat
deriving DecidableEq, Repr, Inhabited

structure Rack where
  copies : List RCopy
  out : List MigOut
  inn : List MigIn
  /-- abort marks: handle, offered epoch, CELLAR_SEC value at which they end (R339) -/
  aborts : List (Nat × Nat × Nat)
  bung : List BungOpen
  /-- peers all of whose racked copies were frozen for a spare (R342) -/
  fenced : List Nat
  adoptions : List Adoption
deriving DecidableEq, Repr, Inhabited

/-! ### Checkpoint and restore (R352 to R368) -/

/-- A shard object of a checkpoint (R357): the slice its work is charged to, the gateway it was given to, those that
failed it, and whether it has been sent and stored. -/
structure Shd where
  idx : Nat
  kind : Nat
  tenant : Nat
  slice : Nat
  bytes : Nat
  gw : Nat
  tried : List Nat
  sent : Bool
  done : Bool
deriving DecidableEq, Repr, Inhabited

/-- An object the checkpoint copied into staging before a write or a free changed it (R356). kind as the shard kinds: 2 session
entry, 3 page list, state block or page frames (`sub` 0, 1 and 2), 5 extract, 6 prefix node, 7 chunk of node storage (`id` corpus ×
65536 + shard), 8 chunk of row records (`id` the table). The copy stays in pool frames until its shards are sent. -/
structure StagedObj where
  kind : Nat
  id : Nat
  sub : Nat
  tenant : Nat
  slice : Nat
  share : Nat
  bytes : Nat
  die : Nat
  runs : List Run
  sent : Bool
deriving DecidableEq, Repr, Inhabited

/-- A checkpoint in progress: phase 0 waits for its point, 1 copying, 2 writing the manifest. -/
structure CkptRun where
  generation : Nat
  seq : Nat
  gateways : List Nat
  full : Bool
  base : Nat
  phase : Nat
  point : Nat
  cellarSec : Nat
  shards : List Shd
  /-- what the point recorded: sessions, prefix nodes, corpus shards by corpus × 65536 + shard, and the row marks it took -/
  recSess : Tab SessImage
  recNodes : List Nat
  /-- those nodes' tenants, slices, frame bytes and dies -/
  nodesAt : List (Nat × Nat × Nat × Nat × Nat)
  recShards : Tab Shard
  rowMarks : List (Nat × Nat)
  /-- the marks of KV pages it took: session, first position of the page, lowest position committed since the base (R355) -/
  pageMarks : List (Nat × Nat × Nat)
  /-- the tables at the point, without their records -/
  recTables : Tab RowTable
  /-- whether force_full asked for it -/
  forced : Bool
  /-- objects copied into staging since the point, and the bytes it holds (R356) -/
  staged : List StagedObj
  stagedBytes : Nat
  /-- its manifest, once every shard is stored (R359) -/
  manifest : List Byte
deriving DecidableEq, Repr, Inhabited

/-- What a restore fetches next (R362, R363). -/
inductive RFetch where
  | manifest (o : ObjRef)
  | shard (kind tenant : Nat) (o : ObjRef)
  | model (id tenant kind slice : Nat) (o : ObjRef)
  | segment (tenant model phase groupTiles batch : Nat) (o : ObjRef)
  | vocab (v : Nat) (o : ObjRef)
  | grammar (tenant g v : Nat) (o : ObjRef)
deriving DecidableEq, Repr, Inhabited

structure RestoreRun where
  generation : Nat
  seq : Nat
  /-- fetches still to make, the first one under way, and gateways that have not served it -/
  queue : List RFetch
  tried : List Nat
  /-- manifests of the chain, newest first -/
  chain : List (List Byte)
  applied : Nat
  bytes : Nat
  cellarSec : Nat
  /-- sessions recorded so far, and what the restore has created -/
  imgs : Tab SessImage
  madeShards : List (Nat × Nat)
  madeTables : List Nat
deriving DecidableEq, Repr, Inhabited

structure Ckpt where
  lastStarted : Nat
  lastDone : Nat
  chain : Nat
  fullDone : Bool
  /-- generation to (phase, shards done, bytes done), newest first, at most 16 (R361) -/
  phases : List (Nat × Nat × Nat × Nat)
  run : Option CkptRun
  restore : Option RestoreRun
  /-- what the last completed checkpoint recorded: an object is marked changed where it differs (R355) -/
  baseSess : Tab SessImage
  baseNodes : List Nat
  baseShards : Tab Shard
  /-- `obj_id` and digest of the last completed checkpoint's manifest, a delta's base (R359) -/
  baseObj : List Byte
  baseDigest : Nat
  /-- flash addresses whose free waits for the checkpoint (R356) -/
  deferred : List Nat
  chainMax : Nat
  forceFull : Bool
  stageGib : Nat
  done : Nat
  failed : Nat
  bytes : Nat
  putRetry : Nat
  cowCopies : Nat
  cowWait : Nat
  restores : Nat
deriving DecidableEq, Repr, Inhabited

/-! ### Security (R369 to R398) -/

/-- A tenant of the key store: keys installed per kind as (epoch, key). -/
structure Tenant where
  id : Nat
  removing : Bool
  /-- removal step reached, 1 to 6 (R388) -/
  step : Nat
  flash : List (Nat × List Byte)
  ckpt : Option (List Byte)
  link : List (Nat × List Byte)
  dropped : Nat
  /-- runs freed by the removal whose clear has not ended: (die, first frame) -/
  clearRuns : List (Nat × Nat)
deriving DecidableEq, Repr, Inhabited

structure Sec where
  lifecycle : Nat
  ownerSlots : List (List Byte)
  fwKeySlot : Nat
  bootState : Nat
  debugFused : Bool
  arb : Nat
  sigWindow : Nat
  sigNext : Nat
  sigReserved : Nat
  tenants : Tab Tenant
  /-- key-store sequence, and changes written but whose old block is not yet erased, by cmd_seq (R379) -/
  storeSeq : Nat
  storePending : List Nat
  kemPair : Nat
  /-- image slots A and B: svn, version, digest; active slot; staged slot -/
  slots : List (Nat × Nat × Nat)
  activeSlot : Nat
  staged : Option Nat
  svn : Nat
  fwVersion : Nat
  fwDigest : Nat
  glitchCnt : Nat
  hsOk : Nat
  hsFail : Nat
  keysInstalled : Nat
  cryptoErase : Nat
  reports : Nat
  revokeSent : Nat
deriving DecidableEq, Repr, Inhabited

/-- The state of the block. -/
structure State where
  dev : Dev
  sb : Sideband
  gl : Gl
  mash : Mash
  mill : Mill
  cellar : Cellar
  models : Models
  copper : Copper
  lauter : Lauter
  rows : Rows
  oast : Oast
  fab : Fab
  rack : Rack
  ckpt : Ckpt
  sec : Sec
  /-- the model's own: a counter the free values of Config take, so that each draw is fresh -/
  free : Nat
  /-- commands waiting, first in first out -/
  pending : List Instr
deriving DecidableEq, Repr

/-! ### The state right after power-on (start-up step 1, R415) -/

def Sess.zero : Sess := default

/-- The built-in table (R124): one rest, four governed 4-tile groups on each die; its budgets are given per slice by
`Mash.budgetOf` for every slice that is defined. -/
def MashTable.builtinTable : MashTable :=
  { restCount := 1, sliceMask := 1,
    layout := (List.range 64).map fun i => if i % 4 = 0 then 0x24 else 0,
    rests := [{ act := (List.range 64).map fun i => if i % 4 = 0 then 0xF else 0, rt := [] }],
    budgets := [], gov := [(0, { pfMin := 0, pfMax := 4, pfInit := 2, ratio := 0x140 })],
    digest := 0, builtin := true }

def Group.zero : Group := default

def Dev.reset : Dev :=
  { (default : Dev) with
    pwrLimit := 0xA28, startStep := 1,
    clk := { (default : Clocks) with
      arithDiv := 2, ctrlDiv := 3, fabricDiv := 4, arithNow := 2, ctrlNow := 3, fabricNow := 4,
      monTol := 0x0A, monDebounce := 2 },
    thr := { (default : Throttle) with temps := List.replicate 24 0, imminent := List.replicate 24 false },
    pins := { pwrFailN := false, nmiOut := false, thermtripN := true, devReady := false,
              smbAlertN := true, nfWpN := false, resetN := true },
    tilesOk := 64, stackCnt := 24, spareLeft := 0xF, dieOk := 0xF }

def Sideband.reset : Sideband := { (default : Sideband) with alertEn := 0x1F }

def Mash.reset : Mash :=
  { (default : Mash) with
    table := MashTable.builtinTable,
    govPhase := (List.range 16).map fun g => (4 * g, decide (g < 2)),
    gates := List.replicate 8 default,
    slowThr := 0x400, nextItem := 1 }

def Mill.reset : Mill :=
  { (default : Mill) with
    dies := List.replicate 4 default, pcSpared := List.replicate 24 0,
    tiles := List.replicate 64 { (default : Tile) with inService := true },
    groups := (List.range 16).map fun g => { Group.zero with die := g / 4, tile := 4 * (g % 4), size := 4 },
    bridge := List.replicate 8 0, onMirror := List.replicate 4 false, nextEntry := 1, nextSeg := 1 }

def Cellar.reset : Cellar :=
  { (default : Cellar) with
    prefixEn := true, pressureEn := true, reserveWait := 0x40,
    indexBase := 1, indexLimit := 0xFFFFFF, wmLow := 10, wmHigh := 20,
    absentHold := 0x5A0, expiredHold := 0x3C,
    cnt := { (default : CellarCnt) with revive := List.replicate 6 0 },
    allocs := List.replicate 4 default, nextResv := 1, nextNode := 1 }

def Lauter.reset : Lauter :=
  { (default : Lauter) with
    nextReq := 1, deadlineDef := 0x2710, repairEn := true, logEn := true, linkBeam := 0x40, alpha := 0x14 }

def Rows.reset : Rows :=
  { (default : Rows) with hotKib := 0x1000, beta1 := 0x3F666666, beta2 := 0x3F7D70A4, eps := 0x322BCC77 }

def Oast.reset : Oast :=
  { (default : Oast) with
    gcStart := 0x14, gcUrgent := 5, wlGap := 0xC8, readSuspend := true,
    targetYears := 5, waInit := 0x14D, bankS := 0x3C, nextIo := 1 }

/-- Slice 0 holds every tile, lane and pseudo-channel (R325). -/
def Slice.all : Slice := { tiles := 2 ^ 64 - 1, lanes := 2 ^ 64 - 1, pcs := 2 ^ 1536 - 1 }

def Fab.reset : Fab :=
  { (default : Fab) with
    peerTimeoutUs := 0x3E8, rackHbmMax := 0x40, ports := List.replicate 8 default,
    slices := Slice.all :: List.replicate 15 default, buddies := List.replicate 16 0 }

def Ckpt.reset : Ckpt := { (default : Ckpt) with chainMax := 0x10, stageGib := 8 }

def Sec.reset : Sec :=
  { (default : Sec) with debugFused := true, kemPair := 0, slots := [(0, 0, 0), (0, 0, 0)] }

/-- The block right after power-on: no supply qualified, every register at its reset value, no command waiting. -/
def State.reset : State :=
  { dev := Dev.reset, sb := Sideband.reset, gl := default, mash := Mash.reset, mill := Mill.reset,
    cellar := Cellar.reset, models := default, copper := default, lauter := Lauter.reset, rows := Rows.reset,
    oast := Oast.reset, fab := Fab.reset, rack := default, ckpt := Ckpt.reset, sec := Sec.reset,
    free := 0, pending := [] }

end Sys2Proof.Machine
end

