-- ==== Sys2Proof/Machine/Maps.lean ====
section
/-! DEFINITION. The two containers of the state: tables keyed by numbers and addressed memories, each in one canonical
form (strictly rising keys; a memory lists no byte equal to 0, what an unlisted address reads as). -/
namespace Sys2Proof.Machine

/-! ### Tables -/

/-- The entry of key `k`. -/
def tget {α : Type} : Tab α → Nat → Option α
  | [], _ => none
  | (a, v) :: t, k => if a = k then some v else tget t k

/-- The table with `k` mapped to `v`. -/
def tput {α : Type} : Tab α → Nat → α → Tab α
  | [], k, v => [(k, v)]
  | (a, w) :: t, k, v => if k < a then (k, v) :: (a, w) :: t else if a = k then (k, v) :: t else (a, w) :: tput t k v

/-- The table without key `k`. -/
def tdel {α : Type} : Tab α → Nat → Tab α
  | [], _ => []
  | (a, w) :: t, k => if a = k then t else (a, w) :: tdel t k

/-- `f` applied to the entry of `k`, if there is one. -/
def tmod {α : Type} (t : Tab α) (k : Nat) (f : α → α) : Tab α :=
  t.map fun p => if p.1 = k then (p.1, f p.2) else p

def tdef {α : Type} (t : Tab α) (k : Nat) (d : α) : α := (tget t k).getD d

def thas {α : Type} (t : Tab α) (k : Nat) : Bool := (tget t k).isSome

/-- Every key is above `lo` and the keys rise strictly. -/
def tabAbove {α : Type} : Nat → Tab α → Bool
  | _, [] => true
  | lo, (a, _) :: t => decide (lo < a) && tabAbove a t

/-- The canonical form of a table. -/
def tabWf {α : Type} : Tab α → Bool
  | [] => true
  | (a, _) :: t => tabAbove a t

/-- A counter kept in a table, 0 where absent. -/
def tinc (t : Tab Nat) (k n : Nat) : Tab Nat := tput t k (ctrAdd (tdef t k 0) n)

/-! ### Memories -/

/-- The byte at `a`; an address with no entry reads as 0 (zeroed HBM, R415; SRAM: DESIGN CHOICE, log entry 2). -/
def mget : Mem → Nat → Byte
  | [], _ => 0
  | (b, v) :: m, a => if b = a then v else mget m a

/-- The memory with byte `v` at `a`; a 0 removes the entry. -/
def mput : Mem → Nat → Byte → Mem
  | [], a, v => if v = 0 then [] else [(a, v)]
  | (b, w) :: m, a, v =>
    if a < b then (if v = 0 then (b, w) :: m else (a, v) :: (b, w) :: m)
    else if b = a then (if v = 0 then m else (a, v) :: m)
    else (b, w) :: mput m a v

/-- `n` bytes from `a`. -/
def mread (m : Mem) (a n : Nat) : List Byte := (List.range n).map fun i => mget m (a + i)

/-- The bytes `bs` written from `a`. -/
def mwrite : Mem → Nat → List Byte → Mem
  | m, _, [] => m
  | m, a, b :: bs => mwrite (mput m a b) (a + 1) bs

/-- Zeroes `n` bytes from `a`. -/
def mclear (m : Mem) (a n : Nat) : Mem := m.filter fun c => !(decide (a ≤ c.1) && decide (c.1 < a + n))

/-- Every address is at least `lo`, they rise strictly, and no byte is 0. -/
def memAbove : Nat → Mem → Bool
  | _, [] => true
  | lo, (a, v) :: m => decide (lo ≤ a) && decide (v ≠ 0) && memAbove (a + 1) m

/-- The canonical form of a memory. -/
def Memory.wf (m : Mem) : Bool := memAbove 0 m

/-! ### Lists -/

/-- The list with element `i` replaced by `f` of it. -/
def lmod {α : Type} : List α → Nat → (α → α) → List α
  | [], _, _ => []
  | a :: l, 0, f => f a :: l
  | a :: l, n + 1, f => a :: lmod l n f

def lget {α : Type} (l : List α) (i : Nat) (d : α) : α := l.getD i d

/-- Insertion before the first element that `lt` puts after `a`; equal elements keep their order. -/
def insertBy {α : Type} (lt : α → α → Bool) (a : α) : List α → List α
  | [] => [a]
  | b :: l => if lt a b then a :: b :: l else b :: insertBy lt a l

/-- A stable sort. -/
def sortBy {α : Type} (lt : α → α → Bool) (l : List α) : List α := l.foldl (fun acc a => insertBy lt a acc) []

/-- The first element with the least key. -/
def minBy {α : Type} (key : α → Nat) : List α → Option α
  | [] => none
  | a :: l => match minBy key l with
    | none => some a
    | some b => if key b < key a then some b else some a

def sumBy {α : Type} (f : α → Nat) (l : List α) : Nat := l.foldl (fun n a => n + f a) 0

/-- Number of elements that satisfy `p`. -/
def countBy {α : Type} (p : α → Bool) (l : List α) : Nat := (l.filter p).length

/-- Whether two elements are equal. -/
def hasDup : List Nat → Bool
  | [] => false
  | a :: l => l.contains a || hasDup l

/-- log2 of the least power of two at or above `n`. -/
def log2Ceil (n : Nat) : Nat := if n ≤ 1 then 0 else Nat.log2 (n - 1) + 1

end Sys2Proof.Machine
end

