-- ==== Sys2Proof/Machine/Ops.lean ====
section
/-! DEFINITION. Shared operations: time, byte layouts, events, replies and frames, acceptance of commands, running
commands and their completion. -/
namespace Sys2Proof.Machine

/-- The outcome of a command of this block. -/
abbrev Out := Host.Outcome State Fault Refusal

/-! ### Time (R414) -/

/-- The local counter moved up to `t`; it never goes back. -/
def advanceTo (s : State) (t : Nat) : State := { s with dev.localCtr := max s.dev.localCtr t }

/-- The local counter after `us` µs more. -/
def advanceUs (s : State) (us : Nat) : State :=
  { s with dev.localCtr := ctrAdd s.dev.localCtr (us * Config.usCycles) }

/-- One more draw of a free value. -/
def tick (s : State) : State := { s with free := s.free + 1 }

/-- Whether the device is powered and reports READY or later (R415, R416, R28). -/
def serving (s : State) : Bool := s.dev.powered && !s.dev.stopped && decide (3 ≤ s.dev.devState) && decide (s.dev.devState ≤ 6)

/-- Whether the PLL is locked and the load powered. -/
def running (s : State) : Bool := s.dev.powered && !s.dev.stopped && s.dev.clk.pllLocked

/-- Stands for no command where a `cmd_seq`, which is below 2^32, could stand. -/
def noSeq : Nat := two32

/-! ### Byte layouts (R9, R36, R38) -/

/-- Alignment of a field of `n` bytes; reserved runs of another size are not aligned. -/
def fieldAlign (n : Nat) : Nat := if n ≥ 16 then 8 else if n = 2 ∨ n = 4 ∨ n = 8 then n else 1

/-- Fields (size, value) laid out from `off`, each aligned to its size, gaps zero. -/
def layFrom (off : Nat) : List (Nat × Nat) → List Byte
  | [] => []
  | (n, v) :: fs =>
    let pad := roundUp off (fieldAlign n) - off
    List.replicate pad 0 ++ leBytes n v ++ layFrom (off + pad + n) fs

/-- A reply body or record laid out from its start. -/
def lay (fs : List (Nat × Nat)) : List Byte := layFrom 0 fs

/-- Fields (size, value) one after the other: the payload of an event, whose rows name every reserved byte (R464). -/
def pack (fs : List (Nat × Nat)) : List Byte := fs.flatMap fun f => leBytes f.1 f.2

/-- `bs` padded with zeros to a multiple of `n`. -/
def padTo (n : Nat) (bs : List Byte) : List Byte := bs ++ List.replicate (roundUp bs.length n - bs.length) 0

/-- The `n` bytes of `v`, most significant first: a digest as bytes. -/
def beBytes (n v : Nat) : List Byte := (leBytes n v).reverse

/-- Fixed fields, then a repeated group or variable part at the next 8-byte boundary (R38). -/
def layTail (fs : List (Nat × Nat)) (tail : List Byte) : List Byte :=
  if tail = [] then lay fs else padTo 8 (lay fs) ++ tail

/-- A signed value as two's complement of `n` bits. -/
def twos (n : Nat) (v : Int) : Nat := (v % (2 ^ n : Nat)).toNat

/-! ### Status codes (R54) -/

def stOk : Nat := 0x0000
def stAccepted : Nat := 0x0001
def stNotReady : Nat := 0x0002
def stRetry : Nat := 0x0003
def stBadParam : Nat := 0x0011
def stDenied : Nat := 0x0012
def stNoTenant : Nat := 0x0013
def stNoSession : Nat := 0x0014
def stStale : Nat := 0x0015
def stNotOwner : Nat := 0x0016
def stWrongState : Nat := 0x0017
def stTableFull : Nat := 0x0020
def stNoMemory : Nat := 0x0021
def stFlashFull : Nat := 0x0022
def stWearLimit : Nat := 0x0023
def stLate : Nat := 0x0024
def stGrammarDead : Nat := 0x0030
def stTextInvalid : Nat := 0x0031
def stShort : Nat := 0x0032
def stPartial : Nat := 0x0033
def stExpired : Nat := 0x0040
def stLost : Nat := 0x0041
def stEpoch : Nat := 0x0042
def stSig : Nat := 0x0043

/-! ### Frames and ports (R27 to R34) -/

def glPort (s : State) (p : Nat) : GlPort := if p = 0 then s.gl.g0 else s.gl.g1

def modPort (s : State) (p : Nat) (f : GlPort → GlPort) : State :=
  if p = 0 then { s with gl.g0 := f s.gl.g0 } else { s with gl.g1 := f s.gl.g1 }

/-- A port that is up with its handshake complete (R28). -/
def portUp (s : State) (p : Nat) : Bool :=
  decide (p < 2) && (glPort s p).keyed && decide ((glPort s p).state = 2) && serving s

/-- The counter of the last frame a direction may send (R374). -/
def frameLimit : Nat := two64 - 281474976710656

/-- A status that in a FINAL reply reports a failed acceptance of a synchronous command (R39). -/
def failsAcceptance (st : Nat) : Bool :=
  [0x0010, stBadParam, stNoTenant, stNoSession, stStale, stExpired, stNotOwner, stRetry].contains st

def cmdRec (s : State) (seq : Nat) : Option CmdRec := s.gl.cmds.find? fun c => c.seq == seq

def modCmd (s : State) (seq : Nat) (f : CmdRec → CmdRec) : State :=
  { s with gl.cmds := s.gl.cmds.map fun c => if c.seq = seq then f c else c }

/-- A reply leaves: it is the latest reply sent for its command (R42), and a last reply that is not retained starts the
250 ms hold and ends the time the sequence is outstanding (R40). A FINAL that reports a failed acceptance belongs to no
sequence in use (R42). -/
def noteSent (s : State) : Content → State
  | .reply r =>
    if r.kind = 0 ∧ failsAcceptance r.status then s
    else modCmd s r.seq fun c =>
      { c with reply := some r, phase := if c.phase = 3 ∧ r.kind ≠ 1 then 1 else c.phase,
               repliedAt := if c.phase = 3 ∧ r.kind ≠ 1 then s.dev.localCtr else c.repliedAt }
  | _ => s

/-- `c` sent on port `p`: a new frame, or, with 4,096 unacknowledged, queued behind them (R29). The frame carries the
credits owed, the counter of the last frame accepted, and `resent` as given. -/
def sendOn (s : State) (p : Nat) (resent : Bool) (c : Content) : State :=
  let g := glPort s p
  if g.unacked.length < Config.glWindow ∧ g.unsent = [] ∧ g.txCtr ≤ frameLimit then
    noteSent (modPort s p fun g =>
      { g with
        unacked := g.unacked ++ [{ ctr := g.txCtr, resent := resent, credit := min g.creditOwed 65535, ack := g.rxCtr,
                                   sentAt := s.dev.localCtr, content := c }]
        txCtr := g.txCtr + 1, creditOwed := g.creditOwed - min g.creditOwed 65535, lastTx := s.dev.localCtr,
        credits := g.credits + min g.creditOwed 65535 }) c
  else modPort s p fun g => { g with unsent := g.unsent ++ [(resent, c)] }

/-- Bytes a reply or an event takes in the backlog (R34); stream records fall under R32. -/
def backlogSize : Content → Nat
  | .reply r => 24 + r.body.length
  | .event _ => 64
  | _ => 0

/-- The backlog is full: nothing that waits behind it is taken up, and no held command starts (R34). -/
def backlogFull (s : State) : Bool := decide (Config.backlogMax ≤ sumBy (fun c => backlogSize c.2) s.gl.backlog) || decide (s.gl.stalled ≠ [])


/-- `c` sent on port `p`, or on the other port if `p` is down, or kept in the backlog while both are down; with the
backlog full a completion reply waits behind it (R33, R34). R34 does not say what becomes of a FINAL reply or an event
record then: they wait in the same order, outside the 256 MiB (DESIGN CHOICE, log 14). -/
def emit (s : State) (p : Nat) (resent : Bool) (c : Content) : State :=
  if portUp s p then sendOn s p resent c
  else if portUp s (1 - p) then sendOn s (1 - p) resent c
  else if sumBy (fun c => backlogSize c.2) s.gl.backlog + backlogSize c ≤ Config.backlogMax ∧ s.gl.stalled = [] then
    { s with gl.backlog := s.gl.backlog ++ [(p, c)] }
  else { s with gl.stalled := s.gl.stalled ++ [(p, c)] }

/-- Frames of the unsent list moved into the window as acknowledgements make room (R29). -/
def drainPort : Nat → State → Nat → State
  | 0, s, _ => s
  | n + 1, s, p =>
    match (glPort s p).unsent with
    | [] => s
    | (r, c) :: rest =>
      if (glPort s p).unacked.length < Config.glWindow ∧ (glPort s p).txCtr ≤ frameLimit then
        drainPort n
          (modPort (sendOn (modPort s p fun g => { g with unsent := [] }) p r c) p fun g => { g with unsent := rest }) p
      else s

/-! ### Events (R57 to R59, R464) -/

/-- The bit of EV_MASK that masks an event code (R449). -/
def maskBit : Nat → Option Nat
  | 0x10 => some 0
  | 0x11 => some 1
  | 0x12 => some 2
  | 0x20 => some 3
  | 0x21 => some 4
  | 0x22 => some 5
  | 0x30 => some 6
  | 0x31 => some 7
  | 0x32 => some 8
  | 0x40 => some 9
  | 0x41 => some 10
  | 0x42 => some 11
  | 0x50 => some 12
  | 0x51 => some 13
  | 0x60 => some 14
  | 0x70 => some 15
  | 0x71 => some 16
  | _ => none

def evMasked (s : State) (code : Nat) : Bool :=
  match maskBit code with
  | some b => bit s.gl.evMask b
  | none => false

/-- An event is logged, and sent on the event port unless masked; a non-maskable one is sent on both ports
(R57, R58, R467). With one port up, or none, R58 does not say what becomes of the second copy: one copy is sent or kept
(DESIGN CHOICE, log 14). -/
def raise (s : State) (code tenant session : Nat) (fields : List (Nat × Nat)) : State :=
  let nm := decide (code ≤ 2)
  let e : EventRec := { code := code, nonMaskable := nm, gap := false, seq := s.gl.nextSeq, time := s.dev.localCtr,
                        tenant := tenant, session := session, payload := (pack fields ++ List.replicate 40 0).take 40 }
  let log := s.gl.log ++ [e]
  let s1 := { s with gl.log := if log.length > Config.eventLogLen then log.drop 1 else log,
                     gl.nextSeq := (s.gl.nextSeq + 1) % two32 }
  if nm then
    if portUp s1 0 && portUp s1 1 then emit (emit s1 0 false (.event e)) 1 false (.event e)
    else emit s1 0 false (.event e)
  else if evMasked s code then s1 else emit s1 s.gl.eventPort false (.event e)

def counterNear (s : State) (kind session value limit : Nat) : State :=
  raise s 0x71 0 session [(1, kind), (3, 0), (8, value), (8, limit)]

/-- Sideband alert bit `b` (R450); SMB_ALERT_N is low while any bit is set. -/
def alertSet (s : State) (b : Nat) : State :=
  if bit s.sb.alertEn b then
    { s with sb.alert := s.sb.alert ||| 2 ^ b, dev.pins.smbAlertN := false }
  else s

/-- `dev_state` set to `v`, with its sideband alert (R424, R450). -/
def setDevState (s : State) (v : Nat) : State :=
  if s.dev.devState = v then s else alertSet { s with dev.devState := v } 5

/-! ### Tenants and sessions -/

def tenantOf (s : State) (t : Nat) : Option Tenant := tget s.sec.tenants t

/-- A tenant that is live and not being removed (R385, R56). -/
def tenantLive (s : State) (t : Nat) : Bool :=
  match tenantOf s t with
  | some r => !r.removing
  | none => false

def idxOf (handle : Nat) : Nat := handle % 16777216
def genOf (handle : Nat) : Nat := handle / 16777216 % 256

/-- The handle of a session (R3, R4). -/
def handleOf (x : Sess) : Nat := x.gen * 16777216 + x.idx

def sessAt (s : State) (idx : Nat) : Option Sess := tget s.cellar.sess idx

def putSess (s : State) (x : Sess) : State := { s with cellar.sess := tput s.cellar.sess x.idx x }

def modSess (s : State) (idx : Nat) (f : Sess → Sess) : State := { s with cellar.sess := tmod s.cellar.sess idx f }

/-- The session with this handle, whatever its state. -/
def sessByHandle (s : State) (handle : Nat) : Option Sess :=
  match sessAt s (idxOf handle) with
  | some x => if x.gen = genOf handle then some x else none
  | none => none

def stACTIVE : Nat := 0
def stWARM : Nat := 1
def stPARKED : Nat := 2
def stEXTRACT : Nat := 3
def stOFFERED : Nat := 4
def stABSENT : Nat := 5
def stEXPIRED : Nat := 6

/-- Starts the dwell clock of a WARM session with nothing outstanding (R24, R168). -/
def dwellStart (s : State) (idx : Nat) : State :=
  modSess s idx fun x =>
    if x.state = stWARM ∧ x.outstanding = 0 then
      { x with dwellSince := s.dev.localCtr, dwellOn := true } else { x with dwellOn := false }

/-! ### Commands (R35 to R56) -/

/-- What R46 fixes of an opcode. `tenantRule`: 0 must be 0, 1 a live tenant, 2 either. `sessRule`: 0 none, 1 handle,
2 handle or 0, 3 checked by the command itself. -/
structure Cmd where
  code : Nat
  isAsync : Bool
  tenantRule : Nat
  sessRule : Nat
deriving DecidableEq, Repr, Inhabited

/-- Opcodes that never retain and, with NOP, do not count as jobs (R40, R143). -/
def neverRetains (code : Nat) : Bool := code == 0 || code == 0x0905 || code == 0x0906

/-- An answer of a command: status, detail, body. -/
structure Ans where
  status : Nat
  detail : Nat
  body : List Byte
  /-- the handle echoed in place of the command's (SESSION_OPEN, R38) -/
  handle : Option Nat
deriving DecidableEq, Repr, Inhabited

def ans (st : Nat) : Ans := { status := st, detail := 0, body := [], handle := none }
def ansD (st d : Nat) : Ans := { status := st, detail := d, body := [], handle := none }
def ansB (body : List Byte) : Ans := { status := stOk, detail := 0, body := body, handle := none }

/-- Sequences outstanding: running, answered by a reply not yet sent (R40), or retained and not released (R43). -/
def outstandingSeqs (s : State) : Nat := countBy (fun c => decide (c.phase ≠ 1)) s.gl.cmds

def resultBytes (s : State) : Nat := sumBy (fun r => r.body.length) s.gl.results

/-- The command leaves the receive buffer and its credits are owed back (R31). -/
def takeFromBuffer (s : State) (h : Hdr) : State :=
  modPort s h.port fun g =>
    match g.rxBuf.find? fun c => c.1 == h.seq with
    | some c => { g with rxBuf := g.rxBuf.erase c, creditOwed := g.creditOwed + c.2 }
    | none => g

def replyOf (h : Hdr) (code kind : Nat) (a : Ans) : Reply :=
  { status := a.status, opcode := code, seq := h.seq, session := h.session, kind := kind, retained := false,
    detail := a.detail, resultLen := 0, body := a.body }

/-- A FINAL reply that reports a failed acceptance: no body, the sequence does not come into use (R39, R42). -/
def refuse (s : State) (h : Hdr) (code : Nat) (st detail : Nat) : State :=
  emit s h.port false (.reply (replyOf h code 0 (ansD st detail)))

/-- The statuses that count a job (R143). -/
def countsJob (st : Nat) : Bool := st == stOk || st == stShort || st == stPartial || st == stGrammarDead

def countJob (s : State) (tenant code st : Nat) : State :=
  if tenant ≠ 0 ∧ neverRetains code = false ∧ countsJob st then
    { s with mash.jobsDone := tinc s.mash.jobsDone tenant 1 } else s

/-- The last reply of a command: retained if it does not fit or `retain` is set (R40), and otherwise the sequence stays
outstanding until the reply is sent and then enters its 250 ms hold (R42). A result that would take the store above its
4 GiB finds no room and is answered NO_MEMORY (DESIGN CHOICE, log 101: R40 does not say what a running command's result
does there). -/
def finishReply (s : State) (rec_ : CmdRec) (kind : Nat) (retain : Bool) (a : Ans) : State :=
  let want := !neverRetains rec_.opcode && (retain || decide (Config.replyMax < 24 + a.body.length))
  let full := want && decide (Config.resultMax < resultBytes s + a.body.length)
  let a := if full then { a with status := stNoMemory, detail := 0, body := [] } else a
  let keep := want && !full
  let r : Reply := { status := a.status, opcode := rec_.opcode, seq := rec_.seq, session := a.handle.getD rec_.session, kind := kind,
                     retained := keep, detail := a.detail, resultLen := if keep then a.body.length else 0,
                     body := if keep then a.body.take 256 else a.body }
  let s := modCmd s rec_.seq fun c => { c with phase := if keep then 2 else 3 }
  let s := if keep then
      { s with gl.results := s.gl.results ++ [{ seq := rec_.seq, tenant := rec_.tenant, body := a.body, reads := 0 }] }
    else s
  emit (countJob s rec_.tenant rec_.opcode a.status) rec_.port false (.reply r)

/-- The first condition of a list that holds. -/
def firstHit {α : Type} : List (Bool × α) → Option α
  | [] => none
  | (b, a) :: l => if b then some a else firstHit l

/-- The least offset among the offending parameters (R38). -/
def badAtOf (h : Hdr) (params : List (Bool × Nat)) : Option Nat :=
  let own := (params.filter fun p => p.1).map fun p => p.2
  let res := match h.badAt with
    | some o => if o ≥ 24 then [o] else []
    | none => []
  minBy id (own ++ res)

/-- The reply to a duplicate: the latest reply sent for the original, with `resent` set (R42). -/
def resendReply (s : State) (c : CmdRec) (port : Nat) : State :=
  match c.reply with
  | some r => emit s port true (.reply r)
  | none => s

/-- Header faults (R46, R42, R10): status and detail. `endOff` is where the packet's last field or tail byte ends. -/
def headerFault (h : Hdr) (c : Cmd) (endOff : Nat) : Option Nat :=
  let res := match h.badAt with
    | some o => if o < 24 then [o] else []
    | none => []
  minBy id
    ((if 2 ≤ h.flags % 256 then [16] else if 256 ≤ h.flags then [17] else []) ++ res ++
     (if h.length % 4 ≠ 0 ∨ h.length < 24 ∨ 65536 < h.length ∨ h.length ≠ roundUp endOff 4 then [12] else []) ++
     (if c.tenantRule = 0 ∧ h.tenant ≠ 0 then [2] else []) ++
     (if c.sessRule = 0 ∧ h.session ≠ 0 then [8] else []))

/-- Tenant faults (R5, R54, R56). -/
def tenantFault (s : State) (h : Hdr) (c : Cmd) : Bool :=
  match c.tenantRule with
  | 0 => false
  | 1 => !tenantLive s h.tenant
  | _ => decide (h.tenant ≠ 0) && !tenantLive s h.tenant

/-- Whether the reload that follows a clean shutdown has not ended (R416). -/
def reloading (s : State) : Bool := s.dev.clean && decide (s.dev.startStep < 10)

/-- The handle check of a session command (R4, R54, R151): status and detail. A lost marker answers SESSION_LOST
(R335). BUNG_QUERY reports every state itself (R339). -/
def handleFault (s : State) (h : Hdr) (code : Nat) : Option (Nat × Nat) :=
  match sessAt s (idxOf h.session) with
  | none => some (stNoSession, 0)
  | some x =>
    if x.tenant ≠ h.tenant then some (stNoSession, 0)
    else if x.gen ≠ genOf h.session then some (stStale, 0)
    else if x.lostMark then some (stLost, 0)
    else if code = 0x010B then none
    else if x.state = stEXPIRED then some (stExpired, 0)
    else if x.state = stABSENT then some (stNotOwner, x.ownerPeer)
    else none

/-- The commands a shutdown still takes (R418). -/
def takenInShutdown (code : Nat) : Bool := [0x0000, 0x0901, 0x0907, 0x0905, 0x0906, 0x0108].contains code

/-- Whether a command would start a revive (R151, R176). -/
def startsRevive (x : Sess) (code : Nat) : Bool :=
  !x.reviving && ((x.state == stPARKED && [0x0102, 0x0103, 0x0105, 0x0106, 0x0301].contains code) ||
    (x.state == stEXTRACT && [0x0102, 0x0103, 0x0105, 0x0301].contains code))

/-- Why acceptance refuses before the parameters are looked at: status and detail, in the order of R55. A handshake
with an OFFERED session answers RETRY, or NOT_OWNER with the receiver once its commit has arrived (R151). CAL_SET waits
for the mount (R421). -/
def earlyFault (s : State) (h : Hdr) (c : Cmd) (endOff : Nat) : Option (Nat × Nat) :=
  match headerFault h c endOff with
  | some d => some (stBadParam, d)
  | none =>
    if tenantFault s h c then some (stNoTenant, 0)
    else
      let sessional := c.sessRule = 1 ∨ (c.sessRule = 2 ∧ h.session ≠ 0)
      if reloading s ∧ (sessional ∨ c.sessRule = 3 ∨ c.code = 0x0101 ∨ c.code = 0x0604) then some (stRetry, 0)
      else
        match (if sessional then handleFault s h c.code else none) with
        | some f => some f
        | none =>
          let x := (sessAt s (idxOf h.session)).getD Sess.zero
          if s.dev.shutPhase ≠ 0 ∧ takenInShutdown c.code = false then some (stRetry, 0)
          else if sessional ∧ x.state = stOFFERED ∧ c.code ≠ 0x0108 ∧ c.code ≠ 0x010B then
            (if x.ownerPeer ≠ 0 then some (stNotOwner, x.ownerPeer) else some (stRetry, 0))
          else if sessional ∧ x.outstanding ≥ 65535 ∧ c.code ≠ 0x0108 ∧ c.code ≠ 0x010B then some (stRetry, 0)
          else if sessional ∧ startsRevive x c.code ∧ countBy (fun p => p.2.reviving) s.cellar.sess ≥ Config.reviveMax then
            some (stRetry, 0)
          else if c.code = 0x0301 ∧ s.lauter.queries.length ≥ Config.queryMax then some (stRetry, 0)
          else if c.code = 0x0903 ∧ s.oast.mountState < 2 then some (stRetry, 0)
          else if outstandingSeqs s ≥ Config.cmdWindow then some (stRetry, 0)
          else none

/-- FAILURE_ANALYSIS refuses every tenant command (R371). -/
def deniedByLifecycle (s : State) (h : Hdr) : Bool := decide (s.sec.lifecycle = 2) && decide (h.tenant ≠ 0)

/-- The sequence check of R42: a duplicate, a conflict, or neither. -/
inductive SeqCheck where
  | fresh
  | duplicate (c : CmdRec)
  | conflict
deriving DecidableEq, Repr

def seqCheck (s : State) (h : Hdr) (code : Nat) : SeqCheck :=
  match cmdRec s h.seq with
  | none => .fresh
  | some c => if c.opcode = code ∧ c.tenant = h.tenant then .duplicate c else .conflict

def newRec (s : State) (h : Hdr) (code : Nat) : CmdRec :=
  { seq := h.seq, opcode := code, tenant := h.tenant, port := h.port, session := h.session, phase := 0,
    repliedAt := s.dev.localCtr, reply := none }

/-- A synchronous command that passes acceptance is answered: its sequence comes into use (R39, R42). -/
def answerSync (s : State) (h : Hdr) (code : Nat) (retain : Bool) (a : Ans) : State :=
  finishReply { s with gl.cmds := s.gl.cmds ++ [newRec s h code], gl.acceptNo := s.gl.acceptNo + 1 } (newRec s h code) 0 retain a

/-- A refusal of R55's order: a failed acceptance, or, of a synchronous command, a status that R39 does not list among
those and that puts the sequence in use (SESSION_LOST, DENIED). -/
def answerEarly (s : State) (h : Hdr) (c : Cmd) (st d : Nat) : State :=
  if c.isAsync || failsAcceptance st then refuse s h c.code st d else answerSync s h c.code (bit h.flags 0) (ansD st d)

/-- A command as it reaches the dispatcher: dropped where no command can arrive (R28), answered at once if it is a
duplicate or faulty, and otherwise handed to `go`. -/
def admit_ (s : State) (h : Hdr) (c : Cmd) (endOff : Nat) (params : State → List (Bool × Nat)) (go : State → State) :
    State :=
  if portUp s h.port = false then s
  else
    let s := takeFromBuffer s h
    match seqCheck s h c.code with
    | .duplicate r => resendReply s r h.port
    | .conflict => refuse s h c.code stBadParam (min 4 ((headerFault h c endOff).getD 4))
    | .fresh =>
      match earlyFault s h c endOff with
      | some (st, d) => answerEarly s h c st d
      | none =>
        match badAtOf h (params s) with
        | some o => refuse s h c.code stBadParam o
        | none => if deniedByLifecycle s h then answerEarly s h c stDenied 0 else go s

/-- Whether the command counts in its session's `outstanding` (R147). -/
def counted (c : Cmd) (h : Hdr) : Bool :=
  (c.sessRule == 1 || (c.sessRule == 2 && h.session != 0)) && c.code != 0x0108 && c.code != 0x010B

/-- Whether a synchronous command's result would have to be retained in a store above its mark (R40). -/
def storeHolds (s : State) (h : Hdr) (code : Nat) (a : Ans) : Bool :=
  !neverRetains code && (bit h.flags 0 || decide (Config.replyMax < 24 + a.body.length)) &&
    a.status != stDenied && a.status != stWrongState && decide (Config.resultHigh < resultBytes s)

/-- A synchronous command: `run` answers with the state after its effect (R39, R40, R42). -/
def syncCmd (s : State) (h : Hdr) (c : Cmd) (endOff : Nat) (params : State → List (Bool × Nat))
    (run : State → State × Ans) : State :=
  admit_ s h c endOff params fun s =>
    let (s', a) := run s
    if failsAcceptance a.status then refuse s h c.code a.status a.detail
    else if storeHolds s h c.code a then answerSync s h c.code false (ans stNoMemory)
    else answerSync s' h c.code (bit h.flags 0) a

/-- An asynchronous command: `late` gives the refusals that follow the parameter checks (DENIED, WRONG_STATE, resource
statuses) in order; once accepted its INTERIM reply is sent, its job is listed and `start` runs (R39, R40, R147). The
job keeps `retain` in `opcode` bit 16. -/
def asyncCmd (s : State) (h : Hdr) (c : Cmd) (endOff : Nat) (params : State → List (Bool × Nat))
    (late : State → List (Bool × Nat × Nat)) (kind : State → JobKind) (start : State → State) : State :=
  admit_ s h c endOff params fun s =>
    match firstHit (late s ++ [(decide (Config.resultHigh < resultBytes s), (stNoMemory, 0))]) with
    | some (st, d) => refuse s h c.code st d
    | none =>
      let inter := replyOf h c.code 1 (ans stAccepted)
      let j : Job := { seq := h.seq, port := h.port, tenant := h.tenant, session := h.session,
                       opcode := c.code + (if bit h.flags 0 then 65536 else 0), no := s.gl.acceptNo,
                       acceptedAt := s.dev.localCtr, stage := 0, kind := kind s, text := [], behind := [] }
      let s := { s with
        gl.cmds := s.gl.cmds ++ [newRec s h c.code],
        gl.jobs := s.gl.jobs ++ [j], gl.acceptNo := s.gl.acceptNo + 1 }
      let s := if counted c h then
          modSess s (idxOf h.session) fun x => { x with outstanding := x.outstanding + 1, dwellOn := false }
        else s
      start (emit s h.port false (.reply inter))

/-- A synchronous command whose FINAL reply waits for its work: `late` answers at once where it does not run. -/
def lateSync (s : State) (h : Hdr) (c : Cmd) (endOff : Nat) (params : State → List (Bool × Nat))
    (late : State → Option Ans) (kind : State → JobKind) (start : State → State) : State :=
  admit_ s h c endOff params fun s =>
    match late s with
    | some a =>
      if failsAcceptance a.status then refuse s h c.code a.status a.detail
      else if storeHolds s h c.code a then answerSync s h c.code false (ans stNoMemory)
      else answerSync s h c.code (bit h.flags 0) a
    | none =>
      if bit h.flags 0 ∧ Config.resultHigh < resultBytes s then answerSync s h c.code false (ans stNoMemory)
      else
      let j : Job := { seq := h.seq, port := h.port, tenant := h.tenant, session := h.session,
                       opcode := c.code + (if bit h.flags 0 then 65536 else 0), no := s.gl.acceptNo,
                       acceptedAt := s.dev.localCtr, stage := 0, kind := kind s, text := [], behind := [] }
      start { s with gl.cmds := s.gl.cmds ++ [newRec s h c.code], gl.jobs := s.gl.jobs ++ [j],
                     gl.acceptNo := s.gl.acceptNo + 1 }

def jobOf (s : State) (seq : Nat) : Option Job := s.gl.jobs.find? fun j => j.seq == seq

def modJob (s : State) (seq : Nat) (f : Job → Job) : State :=
  { s with gl.jobs := s.gl.jobs.map fun j => if j.seq = seq then f j else j }

def setStage (s : State) (seq st : Nat) : State := modJob s seq fun j => { j with stage := st }

/-- Whether a job's command is of a session. -/
def jobIsSess (j : Job) : Bool :=
  j.session != 0 && !([0x0108, 0x010B, 0x010A].contains (j.opcode % 65536))

/-- A running command ends: its COMPLETION reply is sent and its job leaves the list; a command of a session counts
down `outstanding`, and the dwell clock starts when that reaches 0 (R39, R40, R147, R24). -/
def complete (s : State) (seq : Nat) (a : Ans) : State :=
  match jobOf s seq, cmdRec s seq with
  | some j, some r =>
    let s := { s with gl.jobs := s.gl.jobs.filter fun k => k.seq != seq }
    let s := if jobIsSess j then
        dwellStart (modSess s (idxOf j.session) fun x => { x with outstanding := x.outstanding - 1 }) (idxOf j.session)
      else s
    finishReply s r 2 (bit j.opcode 16) a
  | _, _ => s

/-- The FINAL reply of a synchronous command that waited; a status of failed acceptance leaves its sequence out of use
(R39, R42), and a result that does not fit finds no room in a store above its mark (R40). -/
def finishFinal (s : State) (seq : Nat) (a : Ans) : State :=
  match jobOf s seq, cmdRec s seq with
  | some j, some r =>
    let s := { s with gl.jobs := s.gl.jobs.filter fun k => k.seq != seq }
    if failsAcceptance a.status then
      emit { s with gl.cmds := s.gl.cmds.filter fun c => c.seq != seq } r.port false
        (.reply { status := a.status, opcode := r.opcode, seq := seq, session := r.session, kind := 0, retained := false,
                  detail := a.detail, resultLen := 0, body := [] })
    else if bit j.opcode 16 = false ∧ Config.replyMax < 24 + a.body.length ∧ Config.resultHigh < resultBytes s then
      finishReply s r 0 false (ans stNoMemory)
    else finishReply s r 0 (bit j.opcode 16) a
  | _, _ => s

/-- A running command ends without a reply (R342). -/
def dropJob (s : State) (seq : Nat) : State :=
  { s with gl.jobs := s.gl.jobs.filter fun k => k.seq != seq, gl.cmds := s.gl.cmds.filter fun c => c.seq != seq }

/-- Completes every listed command with one answer. -/
def completeAll (s : State) (seqs : List Nat) (a : Ans) : State := seqs.foldl (fun s q => complete s q a) s

/-- The jobs of a session in acceptance order. -/
def sessJobs (s : State) (idx : Nat) : List Job :=
  s.gl.jobs.filter fun j => jobIsSess j && idxOf j.session == idx

/-- Sets `last_cmd_seq` (R147). -/
def applied (s : State) (idx seq : Nat) : State := modSess s idx fun x => { x with lastSeq := seq }

/-! ### Balances (R125 to R129) -/

/-- Key of a balance: slice, activity code 1 to 12, currency 0 to 3 (R453). -/
def balKey (sl act cur : Nat) : Nat := (12 * sl + act - 1) * 5 + cur

/-- Whether a slice is defined (R325). -/
def sliceDefined (s : State) (sl : Nat) : Bool :=
  let x := lget s.fab.slices sl default
  decide (x.tiles ≠ 0 ∨ x.lanes ≠ 0 ∨ x.pcs ≠ 0)

/-- The built-in budgets (R124): PREFILL and DECODE unlimited; every other activity unlimited in bytes, no tile-rests. -/
def builtinBudget (act : Nat) : Budget :=
  { tileRests := if act ≤ 2 then none else some 0, hbm := none, flash := none, fabric := none }

/-- The budgets of (slice, activity) in the active table; a slice without a record has none at all (R120, R124). -/
def budgetOf (s : State) (sl act : Nat) : Budget :=
  if s.mash.table.builtin then
    (if sliceDefined s sl then builtinBudget act else { tileRests := some 0, hbm := some 0, flash := some 0, fabric := some 0 })
  else match tget s.mash.table.budgets sl with
    | some l => lget l (act - 1) { tileRests := some 0, hbm := some 0, flash := some 0, fabric := some 0 }
    | none => { tileRests := some 0, hbm := some 0, flash := some 0, fabric := some 0 }

/-- The budget in one currency, in the unit of its balance: tile × ARITH cycles or bytes; `none` is unlimited. -/
def budgetCur (b : Budget) : Nat → Option Nat
  | 0 => b.tileRests.map (· * Config.restLen)
  | 1 => b.hbm
  | 2 => b.flash
  | _ => b.fabric

def balOf (s : State) (sl act cur : Nat) : Balance := tdef s.mash.balances (balKey sl act cur) default

def setBal (s : State) (sl act cur : Nat) (b : Balance) : State :=
  { s with mash.balances := tput s.mash.balances (balKey sl act cur) b }

/-- Whether work charged in this currency may start (R127): the balance is above zero or the budget unlimited. -/
def hasBal (s : State) (sl act cur : Nat) : Bool :=
  match budgetCur (budgetOf s sl act) cur with
  | none => true
  | some _ => decide ((balOf s sl act cur).bal > 0)

/-- A charge; it may take the balance below zero. Unlimited budgets keep no balance. -/
def charge (s : State) (sl act cur n : Nat) : State :=
  match budgetCur (budgetOf s sl act) cur with
  | none => s
  | some _ => if n = 0 then s else
      let b := balOf s sl act cur
      setBal s sl act cur { b with bal := b.bal - n }

/-- A credit, capped at the budget (R126). -/
def credit (s : State) (sl act cur n : Nat) : State :=
  match budgetCur (budgetOf s sl act) cur with
  | none => s
  | some m => let b := balOf s sl act cur
              setBal s sl act cur { b with bal := min (m : Int) (b.bal + n) }

/-- Work is held for want of a balance: counted once per cycle, and reported at most once in 64 cycles (R129). -/
def holdOn (s : State) (sl act cur : Nat) : State :=
  let b := if cur = 4 then tdef s.mash.wearHold (balKey sl act 4) default else balOf s sl act cur
  let put (s : State) (b : Balance) : State :=
    if cur = 4 then { s with mash.wearHold := tput s.mash.wearHold (balKey sl act 4) b } else setBal s sl act cur b
  if b.heldNow then s
  else
    let b1 := { b with heldNow := true, holdCnt := ctrAdd b.holdCnt 1, heldSince := b.heldSince + 1 }
    let due := match b.lastRaised with
      | none => true
      | some c => decide (s.mash.cycleCnt ≥ c + 64)
    if due then
      let bud := if cur = 4 then s.oast.allowance.toNat else (budgetCur (budgetOf s sl act) cur).getD 0
      let bal := if cur = 4 then s.oast.allowance else b.bal
      raise (put s { b1 with lastRaised := some s.mash.cycleCnt, heldSince := 0 }) 0x51 0 0
        [(1, sl), (1, act), (1, cur), (1, 0), (2, s.mash.rest), (2, 0), (8, s.mash.cycleCnt), (8, bud), (8, twos 64 bal),
         (4, b1.heldSince)]
    else put s b1

/-- A share class's record (R131): bound to tenant 0 with weight 1 where none was set. -/
def classOf (s : State) (c : Nat) : ShareClass := tdef s.mash.classes c { (default : ShareClass) with weight := 1 }

def modClass (s : State) (c : Nat) (f : ShareClass → ShareClass) : State :=
  { s with mash.classes := tput s.mash.classes c (f (classOf s c)) }

/-- Work done for a session, in the record of its share class (R142): currency `cur` as in the balances. -/
def noteClass (s : State) (c cur n : Nat) : State :=
  if n = 0 then s
  else modClass s c fun k =>
    match cur with
    | 0 => { k with tileCycles := ctrAdd k.tileCycles n }
    | 1 => { k with hbmBytes := ctrAdd k.hbmBytes n }
    | 2 => { k with flashBytes := ctrAdd k.flashBytes n }
    | _ => { k with fabricBytes := ctrAdd k.fabricBytes n }

/-- A service class (R148): the defaults where none was set. -/
def serviceOf (s : State) (c : Nat) : ServiceClass :=
  tdef s.cellar.classes c { dwellMs := 2000, ttlS := 86400, pageMaxLog2 := 11, flags := 0, condenseSlots := 256 }

/-- The shaper of a tenant (R138): key 2 × tenant + shaper. -/
def shaperPass (s : State) (tenant k n : Nat) : Bool :=
  match tget s.mash.shapers (2 * tenant + k) with
  | none => true
  | some b => decide (n ≤ b.tokens)

def shaperTake (s : State) (tenant k n : Nat) : State :=
  { s with mash.shapers := tmod s.mash.shapers (2 * tenant + k) fun b => { b with tokens := b.tokens - n } }

def shaperHold (s : State) (tenant k : Nat) : State :=
  { s with mash.shaperHolds := tinc s.mash.shaperHolds (2 * tenant + k) 1 }

/-! ### Models and slices -/

def modelOf (s : State) (m : Nat) : Option Model := tget s.models.models m

/-- The slice a session's work is charged to (R328, R468). -/
def sliceOfSess (s : State) (x : Sess) : Nat := ((modelOf s x.model).map (·.slice)).getD 0

/-- Pool pages: bytes of one position of one layer group, B_t (R155). -/
def posBytes (h : ModelHdr) : Nat := h.layersPerGroup * h.kvHeads * h.headDim * h.kvBits / 8 * 2

/-- Order of the run of a page of 2^k positions (R155). -/
def pageOrder (h : ModelHdr) (k : Nat) : Nat := log2Ceil (ceilDiv (2 ^ k * posBytes h) 4096)

def layerGroups (h : ModelHdr) : Nat := ceilDiv h.layers (max 1 h.layersPerGroup)

/-- The largest k whose run is at most 2^14 frames (R155). -/
def modelMaxK (h : ModelHdr) : Nat :=
  match (List.range 21).reverse.find? fun k => decide (pageOrder h k ≤ 14) with
  | some k => k
  | none => 0

end Sys2Proof.Machine
end

