-- ==== Sys2Proof/Machine/Fabric.lean ====
section
/-! DEFINITION. The fabric: routes, ports, gates, streams and held messages (R319 to R327, R138 to R141, R375 to R377). -/
namespace Sys2Proof.Machine

/-- The ports of a peer's route entry (R326). -/
def routeOf (s : State) (peer : Nat) : Option Nat := (s.fab.routes.find? fun r => r.1 == peer).map (·.2)

/-- A route entry to another device. -/
def routed (s : State) (peer : Nat) : Bool :=
  match routeOf s peer with
  | some m => decide (m ≠ 0)
  | none => false

def fabPortUp (s : State) (p : Nat) : Bool := decide ((lget s.fab.ports p default).state = 2)

/-- The up ports of a mask. -/
def upPorts (s : State) (mask : Nat) : List Nat := (List.range 8).filter fun p => bit mask p && fabPortUp s p

def peerOf (s : State) (peer : Nat) : Peer := tdef s.fab.peers peer default

def modPeer (s : State) (peer : Nat) (f : Peer → Peer) : State :=
  { s with fab.peers := tput s.fab.peers peer (f (peerOf s peer)) }

/-- A peer with a route, an up port, and not declared lost (R322). -/
def reachable (s : State) (peer : Nat) : Bool :=
  match routeOf s peer with
  | some m => decide (upPorts s m ≠ []) && !(peerOf s peer).lost
  | none => false

def streamOf (s : State) (peer c : Nat) : Stream := tdef (peerOf s peer).streams c default

def modStream (s : State) (peer c : Nat) (f : Stream → Stream) : State :=
  modPeer s peer fun p => { p with streams := tput p.streams c (f (tdef p.streams c default)) }

/-- Whether slice `sl` holds a lane of port `p` (R324, R325). -/
def sliceLane (s : State) (sl p : Nat) : Bool := decide (bits (lget s.fab.slices sl default).lanes (8 * p + 7) (8 * p) ≠ 0)

/-- The highest link secret epoch of a tenant (R377); tenant 0 uses the node link secret. -/
def linkEpoch (s : State) (t : Nat) : Option Nat :=
  if t = 0 then some 0
  else match tenantOf s t with
    | some r => (r.link.map (·.1)).foldl (fun (m : Option Nat) e => some (max e (m.getD 0))) none
    | none => none

/-- Bytes of a session image on the fabric. -/
def imgBytes (i : SessImage) : Nat := i.hbmBytes + i.caskBytes + 16384

/-- Payload bytes of a message. Where the spec gives no layout the size is that of the named content. -/
def msgBytes : FMsg → Nat
  | .rack r => 32 + r.kvBytes + r.descBytes
  | .rackAck _ _ => 16
  | .rackBusy _ _ => 16
  | .rackFenced _ => 8
  | .offer _ => 24
  | .offerOk _ => 8
  | .offerRefused _ _ => 8
  | .transferEnd i _ => imgBytes i + 32
  | .digestMatch _ _ => 8
  | .commit _ _ => 8
  | .releasedMsg _ => 8
  | .abort _ _ => 8
  | .bungAsk _ _ => 8
  | .bungAnswer _ _ _ => 16
  | .adoptAsk _ => 8
  | .adoptDone _ => 8
  | .adoptCopies l => sumBy imgBytes l
  | .handover l => 4 * l.length
  | .revoke _ => 8
  | .search r => 96 + 2 * r.vector.length
  | .candReply _ _ _ c => 24 + 64 * c.length
  | .textAsk _ _ _ n => 24 + 4 * n.length
  | .textReply _ t => 8 + sumBy (fun x => 12 + x.2.2.length) t
  | .fetch _ => 64
  | .caskAsk _ => 8
  | .put _ b => b
  | .keepalive => 0
  | .hello _ => 32
  | .expertSend _ _ _ b => b.length
  | .expertResult _ _ n => 64 * n

/-- Largest payload of a frame (R320). -/
def framePayload : Nat := 65536

/-- Frames that carry `n` payload bytes. -/
def framesFor (n : Nat) : Nat := max 1 (ceilDiv n framePayload)

/-! ### Gates (R140, R141) -/

/-- FABRIC cycles in `a` local cycles (R406, R414). -/
def fabCycles (s : State) (a : Nat) : Nat := a * s.dev.clk.arithNow / max 1 s.dev.clk.fabricNow

/-- FABRIC cycles for which class `c` stays open from entry `i` on, over at most `n` entries. -/
def openRun (l : List (Nat × Nat)) (c : Nat) : Nat → Nat → Nat
  | 0, _ => 0
  | n + 1, i =>
    match l[i % max 1 l.length]? with
    | some (d, m) => if bit m c then d + openRun l c n (i + 1) else 0
    | none => 0

/-- FABRIC cycles for which class `c` stays open on port `p` from now on: what is left of the current entry and the entries
that follow while they keep the class open; a class that every entry opens stays open for one round of the list (R140). -/
def openLeft (s : State) (p c : Nat) : Nat :=
  let g := lget s.mash.gates p default
  let l := g.active.getD []
  match l[g.entry]? with
  | none => 0
  | some (d, m) =>
    if bit m c = false then 0
    else if l.all fun e => bit e.2 c then sumBy (·.1) l
    else (d - fabCycles s (s.dev.localCtr - g.entrySince)) + openRun l c (l.length - 1) (g.entry + 1)

/-- Whether a frame of `bytes` of class `c` may start on port `p` now (R140). -/
def gateOpen (s : State) (p c bytes : Nat) : Bool :=
  (lget s.mash.gates p default).active.isNone || decide (0 < openLeft s p c ∧ ceilDiv (bytes * 3) 400 ≤ openLeft s p c)

/-- A frame of `n` bytes leaves on port `p`, or waits for its gate (GATE_HOLD_CNT) behind the frames of its class that wait
there already; class 7 carries no frame. -/
def portFrame (s : State) (p c n : Nat) : State :=
  if gateOpen s p c n && (lget s.mash.gates p default).waiting.all fun w => w.1 != c then
    { s with fab.ports := lmod s.fab.ports p fun x => { x with tx := ctrAdd x.tx n } }
  else
    { s with mash.gates := lmod s.mash.gates p fun g =>
        { g with holdCnt := ctrAdd g.holdCnt 1, waiting := g.waiting ++ [(c, n)] } }

/-- Whole frames of the largest payload, then one of the rest, each under the gate by itself (R140, R320). -/
def portSend (s : State) (p c payload : Nat) : State :=
  let full := if payload = 0 then 0 else (payload - 1) / framePayload
  let s := (List.range full).foldl (fun s _ => portFrame s p c (56 + framePayload)) s
  portFrame s p c (56 + (payload - full * framePayload))

/-- Frames that waited for a gate leave as their class opens, in order within a class. -/
def gateRelease (s : State) (p : Nat) : State :=
  let g := lget s.mash.gates p default
  let (stay, sent) := g.waiting.foldl (fun (acc : List (Nat × Nat) × Nat) w =>
    if acc.1.all (fun k => k.1 != w.1) ∧ gateOpen s p w.1 w.2 then (acc.1, acc.2 + w.2) else (acc.1 ++ [w], acc.2)) ([], 0)
  { s with
    mash.gates := lmod s.mash.gates p fun g => { g with waiting := stay }
    fab.ports := lmod s.fab.ports p fun x => { x with tx := ctrAdd x.tx sent } }

/-! ### Sending -/

/-- The port a frame to `peer` leaves on: an up port of its entry on which its slice holds a lane; which of them is a
hash the spec does not give, so a free value (R324, R326). Frames of class 0 need no lane. -/
def pickPort (s : State) (peer c sl : Nat) : Option Nat :=
  match routeOf s peer with
  | none => none
  | some m =>
    let l := (upPorts s m).filter fun p => c == 0 || sliceLane s sl p
    match l with
    | [] => none
    | a :: t => some (lget (a :: t) (Config.portPick s.free % (a :: t).length) a)

/-- The device's part of a fabric handshake (R375): a fresh random value, sent in a handshake frame. -/
def sayHello (s : State) (peer : Nat) : State :=
  let r := Config.random s.free
  let s := modPeer (tick s) peer fun p =>
    { p with myR := some r, salt := none, txCtr := 0, rxCtr := 0, txGen := 0, rxGen := 0, lastTx := s.dev.localCtr }
  match pickPort s peer 0 0 with
  | some p => portSend (tick s) p 0 32
  | none => s

/-- A key generation reached by a frame counter (R374). -/
def rekey (s : State) (peer tenant dir ctr oldGen : Nat) : State :=
  if ctr / 281474976710656 ≠ oldGen then
    raise s 0x70 tenant 0 [(2, peer), (1, dir), (1, 0), (2, ctr / 281474976710656)]
  else s

/-- The frames of a message of class `c` put on the pair's wire: the pair's frame counter advanced, and the bytes sent on
the port the stream has taken while that port is up, else on another (R320, R326). -/
def putFrame (s : State) (peer c sl tenant payload : Nat) : State :=
  let p := peerOf s peer
  let s := modPeer s peer fun q =>
    { q with txCtr := q.txCtr + framesFor payload, txGen := q.txCtr / 281474976710656, lastTx := s.dev.localCtr }
  let s := rekey s peer tenant 0 p.txCtr p.txGen
  let port := match (streamOf s peer c).port with
    | some q => if fabPortUp s q && (c == 0 || sliceLane s sl q) then some q else pickPort s peer c sl
    | none => pickPort s peer c sl
  match port with
  | some q => portSend (tick (modStream s peer c fun t => { t with port := some q })) q c payload
  | none => s

/-- Whether a frame of class `c` may go out now: the pair's handshake is complete for class 1 to 6 (R375), and the
direction is below its counter's limit (R374). -/
def mayTransmit (s : State) (peer c : Nat) : Bool :=
  (c == 0 || (peerOf s peer).salt.isSome) && decide ((peerOf s peer).txCtr ≤ frameLimit)

/-- The messages of a stream that lie within the first 1,024 frames not yet acknowledged (R321). -/
def inFlight : Nat → List StreamMsg → List StreamMsg
  | _, [] => []
  | room, m :: l => if room = 0 then [] else m :: inFlight (room - framesFor (msgBytes m.msg)) l

/-- One message of class `c` to `peer`: it takes one `stream_seq` a frame, and is sent at once or, with 1,024 frames
unacknowledged or before the pair's handshake, kept in the stream (R320, R321, R375). -/
def transmit (s : State) (peer c sl tenant : Nat) (m : FMsg) : State :=
  let s := if c ≠ 0 ∧ (peerOf s peer).salt = none ∧ (peerOf s peer).myR = none then sayHello s peer else s
  let old := (streamOf s peer c).unacked
  let room := decide (sumBy (fun m => framesFor (msgBytes m.msg)) old < Config.fabWindow)
  let s := modStream s peer c fun t =>
    let q := (t.txSeq + framesFor (msgBytes m)) % two32
    { t with
      unacked := t.unacked ++ [{ seq := q, slice := sl, tenant := tenant, msg := m }]
      txSeq := q
      oldestAt := if t.unacked = [] then s.dev.localCtr else t.oldestAt }
  if room && mayTransmit s peer c then putFrame s peer c sl tenant (msgBytes m) else s

/-- The listed messages of a stream sent, in order. -/
def putAll (s : State) (peer c : Nat) (l : List StreamMsg) : State :=
  l.foldl (fun s m => if mayTransmit s peer c then putFrame s peer c m.slice m.tenant (msgBytes m.msg) else s) s

/-- Every frame of a stream in flight is sent again, from the oldest on, and counted (R321). -/
def resendStream (s : State) (peer c : Nat) : State :=
  let l := inFlight Config.fabWindow (streamOf s peer c).unacked
  if l = [] ∨ mayTransmit s peer c = false then s
  else
    let s := modStream s peer c fun t => { t with oldestAt := s.dev.localCtr }
    putAll { s with fab.cnt.retx := ctrAdd s.fab.cnt.retx (sumBy (fun m => framesFor (msgBytes m.msg)) l) } peer c l

/-- Whether a message passes the fabric balance of its activity (R127). Class 0 is charged to no activity, and a SEND was
charged at the seal. -/
def budgetPass (s : State) (h : HeldMsg) : Bool := h.tclass == 0 || h.via.isSome || hasBal s h.slice h.act 3

/-- Whether the tenant's egress shaper holds a message that its budget would let go (R138, R139). -/
def shaperHolds (s : State) (h : HeldMsg) : Bool := h.shaped && budgetPass s h && !shaperPass s h.tenant 0 h.bytes

/-- Whether a message may pass its charge point now: the fabric balance of its activity, then the tenant's egress
shaper, then the tenant's link secret (R127, R138, R381), and no earlier message of its tenant is held by the shaper. -/
def mayPass (s : State) (earlier : List HeldMsg) (h : HeldMsg) : Bool :=
  budgetPass s h && (!h.shaped || shaperPass s h.tenant 0 h.bytes) && (linkEpoch s h.tenant).isSome &&
  !(h.shaped && earlier.any fun k => k.tenant == h.tenant && shaperHolds s k)

/-- The share classes a message does its work for, and the bytes of each (R142): records, transfers and pulls carry their
sessions' classes (log entry 112). -/
def msgShares : FMsg → List (Nat × Nat)
  | .rack r => [(r.image.shareClass, 32 + r.kvBytes + r.descBytes)]
  | .transferEnd i _ => [(i.shareClass, imgBytes i + 32)]
  | .adoptCopies l => l.map fun i => (i.shareClass, imgBytes i)
  | _ => []

def passNow (s : State) (h : HeldMsg) : State :=
  let s := if h.tclass = 0 ∨ h.via.isSome then s
    else (msgShares h.msg).foldl (fun s p => noteClass s p.1 3 p.2) (charge s h.slice h.act 3 h.bytes)
  let s := if h.shaped then shaperTake s h.tenant 0 h.bytes else s
  let s := if h.via.isSome then modStream s h.peer h.tclass fun t => { t with port := h.via } else s
  transmit s h.peer h.tclass h.slice h.tenant h.msg

/-- Why a message waits is counted: a spent balance first, then the shaper (R129, R139). -/
def noteHold (s : State) (h : HeldMsg) : State :=
  if budgetPass s h = false then holdOn s h.slice h.act 3
  else if h.shaped ∧ shaperPass s h.tenant 0 h.bytes = false then shaperHold s h.tenant 0 else s

/-- A message passes its charge point, or waits behind those that wait (R127, R138). A lost or unrouted peer gets none
(R322). -/
def offerMsg (s : State) (h : HeldMsg) : State :=
  if reachable s h.peer = false ∨ h.peer = s.fab.self then s
  else if mayPass s s.fab.held h then passNow s h
  else { noteHold s h with fab.held := s.fab.held ++ [h] }

def sendMsg (s : State) (peer c sl act tenant : Nat) (shaped : Bool) (m : FMsg) : State :=
  offerMsg s { peer := peer, tclass := c, slice := sl, act := act, tenant := tenant, shaped := shaped,
               bytes := msgBytes m, msg := m, via := none }

/-- What a SEND of an entry carries, on transmit queue `port`, in class 2 under the tenant's egress shaper (R96, R139). -/
def sendOnQueue (s : State) (peer port sl act tenant : Nat) (m : FMsg) : State :=
  offerMsg s { peer := peer, tclass := 2, slice := sl, act := act, tenant := tenant, shaped := true,
               bytes := msgBytes m, msg := m, via := some port }

/-- Held messages pass in their order as balances, shapers and keys allow; one that the shaper holds keeps its place ahead
of its tenant's later ones (R127, R130, R138). -/
def flushHeld (s : State) : State :=
  s.fab.held.foldl (fun s h =>
    if mayPass s (s.fab.held.takeWhile (· != h)) h then passNow { s with fab.held := s.fab.held.erase h } h else noteHold s h) s

/-- Charges on arrival (R126, R127: never held). -/
def chargeRx (s : State) (sl act n : Nat) : State := charge s sl act 3 n

/-! ### Watched peers (R322) -/

/-- Peers with which the device is in touch: buddies, owners of racked copies, migration partners, homes of experts of
resident models, and request partners. -/
def watched (s : State) (peer : Nat) : Bool :=
  s.fab.buddies.contains peer || s.fab.owners.contains peer ||
  s.rack.out.any (·.dest == peer) || s.rack.inn.any (·.src == peer) ||
  s.models.models.any (fun m => m.2.st == 2 && m.2.hdr.expertMap.any (·.1 == peer)) ||
  s.lauter.reqs.any (·.src == peer) || s.lauter.textReqs.any (·.src == peer) ||
  s.lauter.queries.any (fun q => q.asked.any fun a => !a.done && (a.owner == peer || a.replica == peer)) ||
  (match s.ckpt.run with
    | some r => r.shards.any fun d => d.sent && !d.done && d.gw == peer
    | none => false) ||
  (match s.ckpt.restore with
    | some r => r.tried.head? == some peer
    | none => false) ||
  s.rack.bung.any (·.peer == peer) || s.rack.adoptions.any (·.buddy == peer) ||
  s.gl.jobs.any (fun j => match j.kind with
    | .register _ _ _ o => j.stage == 1 && o.gateway == peer
    | .segment _ _ _ _ o => j.stage == 1 && o.gateway == peer
    | .vocab _ o => j.stage == 1 && o.gateway == peer
    | .grammar _ _ o => j.stage == 1 && o.gateway == peer
    | .mash _ o => j.stage == 1 && o.gateway == peer
    | .fwStage o => j.stage == 1 && o.gateway == peer
    | .corpusCfg _ _ o _ => o.gateway == peer
    | _ => false)

/-- The peer is a gateway with a route that is not the device itself (R37). -/
def gatewayOk (s : State) (o : ObjRef) : Bool := routed s o.gateway && o.gateway != s.fab.self

end Sys2Proof.Machine
end

