-- ==== Sys2Proof/Machine/Alloc.lean ====
section
/-! DEFINITION. The frame allocator of each die's pool, slice quotas, clears and reservations (R20, R160 to R163, R325,
R386). -/
namespace Sys2Proof.Machine

/-- Frames of a list of free runs (start, order). -/
def runFrames (l : List (Nat × Nat)) : Nat := sumBy (fun r => 2 ^ r.2) l

def framesOf (l : List Run) : Nat := sumBy (fun r => 2 ^ r.order) l

/-- The free runs of a pool of `total` frames: the largest aligned runs first. -/
def freshRuns : Nat → Nat → Nat → List (Nat × Nat)
  | 0, _, _ => []
  | n + 1, start, total =>
    let o := min 18 (Nat.log2 (total - start))
    if start < total then (start, o) :: freshRuns n (start + 2 ^ o) total else []

/-- Bytes of the Oast map with `raw` bytes of flash attached: 64 MiB per TB, of a part of a TB in proportion and rounded up to a
byte (DESIGN CHOICE, log 108: R20's table gives whole TB), up to 16 GiB. -/
def mapBytes (raw : Nat) : Nat := min 17179869184 (ceilDiv (raw * 67108864) 1000000000000)

/-- A quarter of each fixed region of R20 in frames, in its order, with whether it is mirrored: device tables, session table, Oast
map, segment store, result store. Every die's six stacks hold a quarter of a region striped over all 24. -/
def fixedRegions (raw : Nat) : List (Nat × Bool) :=
  [(65536, true), (131072, true), (ceilDiv (mapBytes raw) 16384, false), (1048576, false), (262144, false)]

/-- The die whose stacks hold the mirror of a structure with its primary copy on die `d` (R21). -/
def mirrorDie (d : Nat) : Nat := (d + 2) % 4

/-- The stack that holds frame `f` of die `d` (R94). -/
def stackOf (d f : Nat) : Nat := 6 * d + f % 6

/-- Frames of the pool of a pseudo-channel of a stack. -/
def pcFrames (stack pc : Nat) : List Nat := (Config.pcFrames pc).map fun j => 6 * j + stack % 6

/-- The pool of one die in frames (R20): what the fixed regions leave of its six stacks. -/
def poolFrames (raw : Nat) : Nat := Config.dieFrames - sumBy (·.1) (fixedRegions raw)

def freshAlloc (total : Nat) : Alloc := { total := total, free := freshRuns 1024 0 total, used := [], clearing := [] }

/-- The smallest free run of order `o` or more; among equals the lowest address (DESIGN CHOICE, log entry 6). -/
def bestRun (o : Nat) : List (Nat × Nat) → Option (Nat × Nat)
  | [] => none
  | (st, k) :: l =>
    match bestRun o l with
    | none => if o ≤ k then some (st, k) else none
    | some (st', k') => if o ≤ k ∧ k ≤ k' then some (st, k) else some (st', k')

/-- The upper halves left when a run at `st` of order `o + n` is halved down to order `o`. -/
def upperHalves (st o : Nat) : Nat → List (Nat × Nat)
  | 0 => []
  | n + 1 => (st + 2 ^ (o + n), o + n) :: upperHalves st o n

/-- A run of order `o` taken from a die's allocator (R160). -/
def allocTake (a : Alloc) (o tenant slice : Nat) : Option (Run × Alloc) :=
  match bestRun o a.free with
  | none => none
  | some (st, k) =>
    let r : Run := { start := st, order := o, tenant := tenant, slice := slice }
    let free := (upperHalves st o (k - o)).foldl (fun f p => tput f p.1 p.2) (tdel a.free st)
    some (r, { a with free := free, used := a.used ++ [r] })

/-- A free run merged with its free partner of the same order, repeatedly (R160). -/
def mergeFree : Nat → List (Nat × Nat) → Nat → Nat → List (Nat × Nat)
  | 0, f, st, o => tput f st o
  | n + 1, f, st, o =>
    let partner := if st / 2 ^ o % 2 = 0 then st + 2 ^ o else st - 2 ^ o
    if o < 18 ∧ tget f partner = some o then mergeFree n (tdel f partner) (min st partner) (o + 1) else tput f st o

/-- What is left of a free run when lost frames are taken out of it. -/
def cutRun (bad : List Nat) : Nat → Nat → List (Nat × Nat)
  | 0, st => if bad.contains st then [] else [(st, 0)]
  | o + 1, st =>
    if bad.any fun f => decide (st ≤ f) && decide (f < st + 2 ^ (o + 1)) then cutRun bad o st ++ cutRun bad o (st + 2 ^ o)
    else [(st, o + 1)]

/-- A run joins the free pool without the lost frames it holds (R160, R346). -/
def addFree (bad : List Nat) (free : List (Nat × Nat)) (st o : Nat) : List (Nat × Nat) :=
  (cutRun bad o st).foldl (fun f r => mergeFree 20 f r.1 r.2) free

/-- Frames of a die's pool that lost pseudo-channels held (R346). -/
def badFrames (s : State) (d : Nat) : List Nat :=
  (s.mill.pcLost.filter fun p => p.1 / 6 == d).flatMap fun p => (pcFrames p.1 p.2).filter fun f => decide (f < poolFrames Config.rawFlash)

/-- A die's pool as start-up builds it: nothing on a lost die, no frame of a lost pseudo-channel. -/
def buildAlloc (s : State) (d : Nat) : Alloc :=
  if (lget s.mill.dies d default).lost then freshAlloc 0
  else
    let a := freshAlloc (poolFrames Config.rawFlash)
    let bad := badFrames s d
    if bad = [] then a
    else { a with total := a.total - bad.length, free := a.free.foldl (fun f r => addFree bad f r.1 r.2) [] }

def alloc (s : State) (d : Nat) : Alloc := lget s.cellar.allocs d default

def modAlloc (s : State) (d : Nat) (f : Alloc → Alloc) : State := { s with cellar.allocs := lmod s.cellar.allocs d f }

/-- Free frames of a die outside reservations (CELLAR_POOL_FREE). -/
def poolFree (s : State) (d : Nat) : Nat := runFrames (alloc s d).free

/-- Set bits of `v` from bit `lo` on, `n` of them looked at. -/
def popFrom (v lo n : Nat) : Nat := countBy (fun i => v.testBit (lo + i)) (List.range n)

/-- Slice `sl`'s quota of die `d`'s pool (R325). -/
def sliceQuota (s : State) (sl d : Nat) : Nat :=
  (alloc s d).total * popFrom (lget s.fab.slices sl default).pcs (384 * d) 384 / 384

/-- Frames slice `sl` holds on die `d`. -/
def sliceHeld (s : State) (sl d : Nat) : Nat := framesOf ((alloc s d).used.filter fun r => r.slice == sl)

/-- The mark of frames that count against no slice (racked images, R333). -/
def noSlice : Nat := 16

def dieUp (s : State) (d : Nat) : Bool := !(lget s.mill.dies d default).lost

/-- One run for a tenant of a slice on a die, within the slice's quota. -/
def takeRun (s : State) (d o tenant sl : Nat) : Option (Run × State) :=
  if sl ≠ noSlice ∧ sliceQuota s sl d < sliceHeld s sl d + 2 ^ o then none
  else match allocTake (alloc s d) o tenant sl with
    | some (r, a) => some (r, modAlloc s d fun _ => a)
    | none => none

/-- Runs of several orders, all or none. -/
def takeRuns (s : State) (d tenant sl : Nat) : List Nat → Option (List Run × State)
  | [] => some ([], s)
  | o :: os =>
    match takeRun s d o tenant sl with
    | none => none
    | some (r, s1) =>
      match takeRuns s1 d tenant sl os with
      | none => none
      | some (rs, s2) => some (r :: rs, s2)

/-- A run freed: it awaits its clear before it is free again (R386). -/
def freeRun (s : State) (d : Nat) (r : Run) : State :=
  modAlloc s d fun a =>
    if a.used.contains r then { a with used := a.used.erase r, clearing := a.clearing ++ [(r.start, r.order)] } else a

def freeRuns (s : State) (d : Nat) (l : List Run) : State := l.foldl (fun s r => freeRun s d r) s

/-- HBM byte address of a frame of a die (R3): the dies' frames lie one after the other. -/
def frameAddr (d frame : Nat) : Nat := (d * Config.dieFrames + frame) * 4096

/-- Frames that await their clear (SEC_CLEAR_PENDING). -/
def clearPending (s : State) : Nat := sumBy (fun a => runFrames a.clearing) s.cellar.allocs

/-- A reserved run that was never used returns to the free pool as it is (R161). -/
def giveRun (s : State) (d : Nat) (r : Run) : State :=
  let bad := badFrames s d
  modAlloc s d fun a =>
    if a.used.contains r then { a with used := a.used.erase r, free := addFree bad a.free r.start r.order } else a

def giveRuns (s : State) (d : Nat) (l : List Run) : State := l.foldl (fun s r => giveRun s d r) s

/-! ### Reservations (R161, R162) -/

/-- A reservation requested: it waits behind the earlier ones of its die. -/
def askFrames (s : State) (seq sess d tenant sl : Nat) (orders : List Nat) : State :=
  let r : Resv := { id := s.cellar.nextResv, seq := seq, sess := sess, die := d, tenant := tenant, slice := sl,
                    orders := orders, runs := [], granted := false, sinceCycle := s.mash.cycleCnt }
  { s with cellar.resvs := s.cellar.resvs ++ [r], cellar.nextResv := s.cellar.nextResv + 1 }

def resvOf (s : State) (rid : Nat) : Option Resv := s.cellar.resvs.find? fun r => r.id == rid

def resvBySeq (s : State) (seq sess : Nat) : Option Resv :=
  s.cellar.resvs.find? fun r => r.seq == seq && r.sess == sess

def modResv (s : State) (rid : Nat) (f : Resv → Resv) : State :=
  { s with cellar.resvs := s.cellar.resvs.map fun r => if r.id = rid then f r else r }

/-- Whether a reservation is the first waiting one of its die. -/
def firstWaiting (s : State) (r : Resv) : Bool :=
  match s.cellar.resvs.find? fun k => k.die == r.die && !k.granted with
  | some k => k.id == r.id
  | none => false

/-- A reservation ends: what it did not use returns to the pool. -/
def dropResv (s : State) (rid : Nat) : State :=
  match resvOf s rid with
  | some r => { giveRuns s r.die r.runs with cellar.resvs := s.cellar.resvs.filter fun k => k.id != rid }
  | none => s

def dropResvOf (s : State) (seq sess : Nat) : State :=
  match resvBySeq s seq sess with
  | some r => dropResv s r.id
  | none => s

/-- A run of order `o` for a session: from its command's reservation, or from the pool where that holds none. -/
def runFor (s : State) (seq sess d tenant sl o : Nat) : Option (Run × State) :=
  match resvBySeq s seq sess with
  | some r =>
    match r.runs.find? fun k => k.order == o with
    | some k => some (k, modResv s r.id fun q => { q with runs := q.runs.erase k })
    | none => takeRun s d o tenant sl
  | none => takeRun s d o tenant sl

def runsFor (s : State) (seq sess d tenant sl o : Nat) : Nat → Option (List Run × State)
  | 0 => some ([], s)
  | n + 1 =>
    match runFor s seq sess d tenant sl o with
    | none => none
    | some (r, s1) =>
      match runsFor s1 seq sess d tenant sl o n with
      | none => none
      | some (rs, s2) => some (r :: rs, s2)

/-- Runs of several orders for a session's command, all or none. -/
def runsForAll (s : State) (seq sess d tenant sl : Nat) : List Nat → Option (List Run × State)
  | [] => some ([], s)
  | o :: os =>
    match runFor s seq sess d tenant sl o with
    | none => none
    | some (r, s1) =>
      match runsForAll s1 seq sess d tenant sl os with
      | none => none
      | some (rs, s2) => some (r :: rs, s2)

/-- Low and high watermarks in frames (R163, R178). -/
def lowMark (s : State) (d : Nat) : Nat := (alloc s d).total * s.cellar.wmLow / 1024
def highMark (s : State) (d : Nat) : Nat :=
  (alloc s d).total * (if s.cellar.wmHigh ≤ s.cellar.wmLow then s.cellar.wmLow + 1 else s.cellar.wmHigh) / 1024

/-- Frames the waiting reservations of a die need. -/
def waitingFrames (s : State) (d : Nat) : Nat :=
  sumBy (fun r => sumBy (fun o => 2 ^ o) r.orders) (s.cellar.resvs.filter fun r => r.die == d && !r.granted)

def underPressure (s : State) (d : Nat) : Bool :=
  decide (poolFree s d < lowMark s d) || decide (waitingFrames s d ≠ 0)

/-- Mash cycles a reservation waits; 0 acts as 1 (R178). -/
def reserveWait (s : State) : Nat := max 1 s.cellar.reserveWait

end Sys2Proof.Machine
end

