-- ==== Sys2Proof/Machine/Flash.lean ====
section
/-! DEFINITION. The Oast's shared operations: mapped space, placement, client writes and reads, frees, wear (R289 to
R316). A write lies whole in one block (log entry 20). -/
namespace Sys2Proof.Machine

def lunAt (s : State) (i : Nat) : Lun := lget s.oast.luns i default

def modLun (s : State) (i : Nat) (f : Lun → Lun) : State := { s with oast.luns := lmod s.oast.luns i f }

def modBlock (s : State) (l b : Nat) (f : Block → Block) : State :=
  modLun s l fun u => { u with blocks := lmod u.blocks b f }

/-- Raw capacity in use (R293, R314). -/
def rawUse (s : State) : Nat := sumBy (fun l => l.blocks.length * l.blockBytes) s.oast.luns

/-- Mapped capacity (R293): 7/8 and 1/256 of raw, less each retirement beyond a LUN's spares (R308). -/
def mappedCap (s : State) : Nat :=
  rawUse s * 7 / 8 + rawUse s / 256 -
    sumBy (fun l => (countBy (fun b => b.st == 3) l.blocks - l.spare0) * l.blockBytes) s.oast.luns

/-- Valid client bytes. -/
def mappedUsed (s : State) : Nat := sumBy (fun e => e.2.sectors * 4096) s.oast.exts

def freeMapped (s : State) : Nat := mappedCap s - mappedUsed s

/-- Fill f in units of 1/65,536 (R299, R318). -/
def fillLevel (s : State) : Nat := if mappedCap s = 0 then 0 else mappedUsed s * 65536 / mappedCap s

/-- The pseudo-SLC buffer's capacity B (R299). -/
def pslcB (s : State) : Nat :=
  let f := min 65536 (fillLevel s)
  rawUse s * (5 * 65536 + 55 * (65536 - f)) / 65536000

def mounted (s : State) : Bool := decide (s.oast.mountState = 2) && !s.oast.quiescing

def goodBlocks (l : Lun) : Nat := countBy (fun b => b.st != 3) l.blocks

def freeBlocks (l : Lun) : Nat := countBy (fun b => b.st == 0) l.blocks

/-- gc_urgent: values at or above gc_start act as gc_start − 1 (R317). -/
def gcUrgent (s : State) : Nat := if s.oast.gcUrgent ≥ s.oast.gcStart then s.oast.gcStart - 1 else s.oast.gcUrgent

/-- A LUN that takes client data (R302). -/
def takesClient (s : State) (l : Lun) : Bool :=
  !l.failed && decide (gcUrgent s * goodBlocks l ≤ freeBlocks l * 1000) &&
  (l.blocks.any fun b => b.st == 0 || b.st == 1)

/-- The LUN with the most free blocks that takes client data, lowest number on a tie (DESIGN CHOICE, log entry 20). -/
def pickLun (s : State) : Option Nat :=
  minBy (fun i => 1048576 - freeBlocks (lunAt s i)) ((List.range s.oast.luns.length).filter fun i => takesClient s (lunAt s i))

def blockIdx (l : Lun) (p : Block → Bool) : Option Nat :=
  (List.range l.blocks.length).find? fun i => p (lget l.blocks i default)

/-- Takes the next program sequence (R296). -/
def nextSeq (s : State) : State := { s with oast.seq := ctrAdd s.oast.seq 1 }

/-- Adds `n` valid bytes to an open block of LUN `l`, opening a free one if there is none; the block closes when it is
full. Pseudo-SLC while the buffer's valid bytes are below B (R299). -/
def placeOn (s : State) (l n : Nat) : Nat × State :=
  let u := lunAt s l
  let slc := decide (sumBy (fun v => sumBy (fun b => if b.pslc then b.valid else 0) v.blocks) s.oast.luns < s.oast.pslcBytes)
  let b := match blockIdx u fun b => b.st == 1 && b.pslc == slc with
    | some b => b
    | none => (blockIdx u fun b => b.st == 0).getD 0
  let s := modBlock s l b fun k =>
    let cap := if slc then u.blockBytes / 3 else u.blockBytes
    let v := k.valid + n
    if v ≥ cap then { k with st := 2, valid := v, pslc := slc, closeSeq := s.oast.seq }
    else { k with st := 1, valid := v, pslc := slc }
  (b, s)

/-- The highest flash key epoch of a tenant; tenant 0 has the configuration key (R378). -/
def flashEpoch (s : State) (t : Nat) : Option Nat :=
  if t = 0 then some 0
  else match tenantOf s t with
    | some r => (r.flash.map (·.1)).foldl (fun (m : Option Nat) e => some (max e (m.getD 0))) none
    | none => none

/-- An extent leaves the map: its block loses the bytes, and its 16-byte trim record is charged to OAST_GC (R298, R301, R304). -/
def dropExtent (s : State) (addr : Nat) : State :=
  match tget s.oast.exts addr with
  | none => s
  | some e =>
    nextSeq { modBlock (charge s 0 9 2 16) e.lun e.block fun b => { b with valid := b.valid - e.sectors * 4096 } with
      oast.exts := tdel s.oast.exts addr }

/-- Whether a checkpoint that is copying still has to read an owner's flash data (R356). -/
def ckptReads (s : State) (o : Owner) : Bool :=
  match s.ckpt.run, o with
  | some r, .cask i => decide (r.phase = 1) && thas r.recSess i
  | some r, .page i => decide (r.phase = 1) && thas r.recSess i
  | some r, .node n => decide (r.phase = 1) && r.recNodes.contains n
  | some r, .item c h _ => decide (r.phase = 1) && thas r.recShards (c * 65536 + h)
  | _, _ => false

/-- Flash space freed by a client; a running checkpoint's data leaves the map only once it has been read (R356). -/
def freeExtent (s : State) (addr : Nat) : State :=
  match tget s.oast.exts addr with
  | none => s
  | some e =>
    if ckptReads s e.owner then
      { s with ckpt.deferred := s.ckpt.deferred ++ [addr], oast.exts := tput s.oast.exts addr { e with owner := .image } }
    else dropExtent s addr

def freeExtentsIf (s : State) (p : Extent → Bool) : State :=
  (s.oast.exts.filter fun e => p e.2).foldl (fun s e => freeExtent s e.1) s

/-- The key of a command's write among the shaped writes; a session's is its index. -/
def writeKey (seq : Nat) : Nat := 4294967296 + seq

/-- Whether a write that a shaper held still waits: its command runs, or its session still waits to write. -/
def stillWaits (s : State) (k : Nat) : Bool :=
  if k ≥ 4294967296 then (jobOf s (k - 4294967296)).isSome
  else match sessAt s k with
    | some x => x.parkWait || x.incoming || x.caskPeer != 0
    | none => false

/-- The writes of a tenant that its shaper held before that of `who` (R138: a held transfer keeps its place). -/
def earlierWrites (s : State) (tenant who : Nat) : List (Nat × Nat) :=
  (s.oast.held.takeWhile fun p => p.2 != who).filter fun p => p.1 == tenant && stillWaits s p.2

/-- Whether a MOVE or RACK flash write of `n` bytes may start: flash balance, wear allowance, and for this device's own
data the tenant's write shaper (R127, R128, R138, R139). -/
def mayWrite (s : State) (sl act tenant n : Nat) (who : Option Nat) : Bool :=
  hasBal s sl act 2 && ((act != 6 && act != 7) || decide (s.oast.allowance > 0)) &&
  (match who with
    | some k => shaperPass s tenant 1 n && (earlierWrites s tenant k).isEmpty
    | none => true)

/-- Counts why a write waits (R129, R139); one that the shaper holds takes its place among its tenant's. -/
def noteWriteHold (s : State) (sl act tenant n : Nat) (who : Option Nat) : State :=
  let s := if hasBal s sl act 2 then s else holdOn s sl act 2
  let s := if (act = 6 ∨ act = 7) ∧ s.oast.allowance ≤ 0 then holdOn s sl act 4 else s
  match who with
  | some k =>
    if hasBal s sl act 2 && !(shaperPass s tenant 1 n && (earlierWrites s tenant k).isEmpty) then
      let s := shaperHold s tenant 1
      if s.oast.held.contains (tenant, k) then s else { s with oast.held := s.oast.held ++ [(tenant, k)] }
    else s
  | none => s

/-- A write waiting only for a spent wear allowance (R169). -/
def wearHeld (s : State) : Bool := decide (s.oast.allowance ≤ 0)

/-- The session or command a write is held under, if it is shaped. -/
def writerOf : WriteFor → Option Nat
  | .park i _ => some i
  | .model q => some (writeKey q)
  | .corpus q => some (writeKey q)
  | .migration i => some i
  | .adoptCopy i => some i
  | _ => none

/-- Where the next client write begins in the bulk region, and in the metadata region beyond the configuration's sectors (R292). -/
def nextBulk (s : State) : Nat := 549755813888 + 16 * s.oast.nextAddr
def nextMeta (s : State) : Nat := 262144 + 16 * s.oast.nextAddr

/-- 64 KiB units a write takes at most: those of its bytes, and one more for each piece of a cask. -/
def writeUnits (n : Nat) : WriteFor → Nat
  | .park _ c => ceilDiv n 65536 + c.pages.length + 1
  | _ => ceilDiv n 65536 + 1

/-- A client write issued: charged, given its address and its place, and in flight until its program reports
(R293, R297, R301); the first after a mount follows a mount marker (R309). `none` where no mapped space is free. -/
def flashWrite (s : State) (sl act tenant n : Nat) (shaped : Bool) (what : WriteFor) (o : Owner) : Option (Nat × State) :=
  if freeMapped s < n + sumBy (·.bytes) s.oast.writes ∨ s.oast.luns = [] then none
  else
    let s := charge s sl act 2 n
    let s := if act = 6 ∨ act = 7 then { s with oast.allowance := s.oast.allowance - n }
             else { s with oast.otherWrites := s.oast.otherWrites + n }
    let s := if shaped then shaperTake s tenant 1 n else s
    let s := { s with oast.cnt.hostWrite := ctrAdd s.oast.cnt.hostWrite n,
                      oast.held := s.oast.held.filter fun p => some p.2 != writerOf what }
    let (l, s) := match pickLun s with
      | some l => (l, s)
      | none => (0, { s with oast.cnt.writeStall := ctrAdd s.oast.cnt.writeStall 1 })
    let s := nextSeq s
    let w : FWrite := { id := s.oast.nextIo, tenant := tenant, slice := sl, act := act, bytes := n,
                        addr := nextBulk s, originSeq := s.oast.seq, lun := l, block := 0,
                        what := what, owner := o }
    some (w.addr, { s with
      oast.cfg.marker := true, oast.writes := s.oast.writes ++ [w], oast.nextIo := s.oast.nextIo + 1,
      oast.nextAddr := s.oast.nextAddr + writeUnits n what })

/-- A client read issued (R300, R126). -/
def flashRead (s : State) (sl act n addr : Nat) (what : ReadFor) : State :=
  let s := charge s sl act 2 n
  { s with
    oast.reads := s.oast.reads ++ [{ id := s.oast.nextIo, addr := addr, bytes := n, slice := sl, act := act, what := what }],
    oast.nextIo := s.oast.nextIo + 1, oast.cnt.readBytes := ctrAdd s.oast.cnt.readBytes n }

/-! ### Wear levels (R314 to R316) -/

/-- U: erases times TLC raw block capacity. -/
def wearU (s : State) : Nat := sumBy (fun l => sumBy (fun b => b.erases) l.blocks * l.blockBytes) s.oast.luns

def ratedCycles (s : State) : Nat := if s.oast.ratedCycles = 0 then Config.ratedCycles else s.oast.ratedCycles

def wearL (s : State) : Nat := rawUse s * ratedCycles s

/-- U ÷ L in units of 1/65,536. -/
def lifeUsed (s : State) : Nat := if wearL s = 0 then 0 else wearU s * 65536 / wearL s

def spareMin (s : State) : Nat :=
  match minBy (fun l => l.spares) (s.oast.luns.filter fun l => !l.failed) with
  | some l => l.spares
  | none => 0

/-- OAST_SPARE_LOW as a LUN's spares first fall to 50, 25 and 0 % of their initial count (R316). -/
def spareLowCheck (s : State) (i : Nat) : State :=
  let u := lunAt s i
  let lvl := if u.spare0 = 0 then 100 else if u.spares = 0 then 0 else if 4 * u.spares ≤ u.spare0 then 25
             else if 2 * u.spares ≤ u.spare0 then 50 else 100
  if lvl < u.lowRaised ∧ lvl ≠ 100 then
    raise (modLun s i fun u => { u with lowRaised := lvl }) 0x21 0 0
      [(1, u.channel), (1, u.lun), (1, lvl), (1, 0), (4, u.spares), (8, mappedCap s)]
  else s

/-- A block retired; a spare replaces it while there is one (R305, R306, R308). -/
def retire (s : State) (l b cause : Nat) : State :=
  let u := lunAt s l
  let s := modBlock s l b fun k => { k with st := 3, valid := 0, relocate := false }
  let s := match blockIdx u (fun k => k.st == 4) with
    | some sp => modLun (modBlock s l sp fun k => { k with st := 0 }) l fun u => { u with spares := u.spares - 1 }
    | none => s
  let s := { s with oast.cnt.retired := ctrAdd s.oast.cnt.retired 1 }
  let s := raise s 0x22 0 0 [(1, u.channel), (1, u.lun), (1, cause), (1, 0), (4, b), (4, (lunAt s l).spares)]
  spareLowCheck s l

/-- The TLC block of a LUN that takes relocated data: an open one, or a free one. -/
def gcBlock (u : Lun) : Option Nat :=
  match blockIdx u fun k => k.st == 1 && !k.pslc with
  | some b => some b
  | none => blockIdx u fun k => k.st == 0

/-- Highest and lowest erase counts of a LUN's good blocks. -/
def eraseSpread (u : Lun) : Nat × Nat :=
  let good := u.blocks.filter fun k => k.st != 3 && k.st != 4
  let hi := good.foldl (fun m k => max m k.erases) 0
  (hi, good.foldl (fun m k => min m k.erases) hi)

/-- The free block with the most erases, or one opened for such data, where block `b` moves for wear levelling (R303). -/
def wearBlock (s : State) (l b : Nat) : Option Nat :=
  let u := lunAt s l
  let k := lget u.blocks b default
  let (hi, lo) := eraseSpread u
  if k.relocate ∨ hi - lo ≤ s.oast.wlGap ∨ k.erases ≠ lo then none
  else minBy (fun i => hi - (lget u.blocks i default).erases)
    ((List.range u.blocks.length).filter fun i =>
      let k := lget u.blocks i default
      k.st == 0 || (k.st == 1 && !k.pslc))

/-- Where a block's data goes: the wear-levelling block, another block of its LUN, or one of the LUN with most free blocks
(R303 to R305). -/
def moveTo (s : State) (l b : Nat) : Nat × Nat :=
  match wearBlock s l b, gcBlock (lunAt s l) with
  | some k, _ => (l, k)
  | none, some k => (l, k)
  | none, none =>
    let d := (pickLun s).getD l
    (d, (gcBlock (lunAt s d)).getD 0)

/-- `n` bytes programmed into TLC block `b` of LUN `l`. -/
def placeIn (s : State) (l b n : Nat) : State :=
  modBlock s l b fun k =>
    let v := k.valid + n
    if v ≥ (lunAt s l).blockBytes then { k with st := 2, valid := v, pslc := false, closeSeq := s.oast.seq }
    else { k with st := 1, valid := v, pslc := false }

/-- Every extent of a block moved to another block; its `origin_seq` is kept (R304, R305). `per` times its bytes are
charged: the read has been charged already, or is charged here. -/
def moveExtents (s : State) (l b per : Nat) : State :=
  (s.oast.exts.filter fun e => e.2.lun == l && e.2.block == b).foldl (fun s e =>
    let d := moveTo s l b
    let n := e.2.sectors * 4096
    let s := placeIn (nextSeq s) d.1 d.2 n
    let s := charge s 0 9 2 (per * n)
    let s := modBlock s l b fun k => { k with valid := k.valid - n }
    { s with oast.exts := tput s.oast.exts e.1 { e.2 with lun := d.1, block := d.2, seq := s.oast.seq },
             oast.cnt.gcReloc := ctrAdd s.oast.cnt.gcReloc n }) s

end Sys2Proof.Machine
end

