-- ==== Sys2Proof/Machine/Float.lean ====
section
/-! DEFINITION. The number formats of the tiles and the arithmetic on them, each value exact until a rule rounds it
(R65, R68, R72 to R80, R469). -/
namespace Sys2Proof.Machine

/-- A value of a floating-point format: NaN, an infinity, or plus or minus m × 2^e. -/
inductive Num where
  | nan
  | inf (neg : Bool)
  | fin (neg : Bool) (m : Nat) (e : Int)
deriving DecidableEq, Repr, Inhabited

/-- A format: mantissa bits, exponent of the least subnormal, exponent bits, and its special codes: 0 IEEE 754 style,
1 NaN only (E4M3), 2 none (the MX element formats). -/
structure Fmt where
  mb : Nat
  qmin : Int
  eb : Nat
  kind : Nat
deriving DecidableEq, Repr, Inhabited

def fmtF32 : Fmt := { mb := 23, qmin := -149, eb := 8, kind := 0 }
def fmtBF16 : Fmt := { mb := 7, qmin := -133, eb := 8, kind := 0 }
def fmtFP16 : Fmt := { mb := 10, qmin := -24, eb := 5, kind := 0 }
def fmtE5M2 : Fmt := { mb := 2, qmin := -16, eb := 5, kind := 0 }
def fmtE4M3 : Fmt := { mb := 3, qmin := -9, eb := 4, kind := 1 }
def fmtE3M2 : Fmt := { mb := 2, qmin := -4, eb := 3, kind := 2 }
def fmtE2M3 : Fmt := { mb := 3, qmin := -3, eb := 2, kind := 2 }
def fmtE2M1 : Fmt := { mb := 1, qmin := -1, eb := 2, kind := 2 }

/-- The value of a code of a format (R65). -/
def decodeNum (f : Fmt) (c : Nat) : Num :=
  let neg := bit c (f.mb + f.eb)
  let mag := c % 2 ^ (f.mb + f.eb)
  let ex := mag / 2 ^ f.mb
  let m := mag % 2 ^ f.mb
  if f.kind = 0 ∧ ex = 2 ^ f.eb - 1 then (if m = 0 then .inf neg else .nan)
  else if f.kind = 1 ∧ mag = 2 ^ (f.mb + f.eb) - 1 then .nan
  else if ex = 0 then .fin neg m f.qmin
  else .fin neg (m + 2 ^ f.mb) (f.qmin + ex - 1)

/-- floor(log2(n / d)) of positive numbers. -/
def floorLog (n d : Nat) : Int :=
  let k : Int := (Nat.log2 n : Int) - Nat.log2 d
  if (if k ≥ 0 then d * 2 ^ k.toNat ≤ n else d ≤ n * 2 ^ (-k).toNat) then k else k - 1

/-- n / d rounded to the nearest whole number, halves to even. -/
def rndHalfEven (n d : Nat) : Nat :=
  let q := n / d
  let r := n % d
  if 2 * r < d then q else if 2 * r > d then q + 1 else q + q % 2

/-- The magnitude code nearest n / d in a format of `mb` mantissa bits and least exponent `qmin`, without an upper
limit: codes rise with magnitude, subnormals included. -/
def rndCode (mb : Nat) (qmin : Int) (n d : Nat) : Nat :=
  if n = 0 ∨ d = 0 then 0
  else
    let q := max (floorLog n d - mb) qmin
    let r := if q ≥ 0 then rndHalfEven n (d * 2 ^ q.toNat) else rndHalfEven (n * 2 ^ (-q).toNat) d
    (q - qmin).toNat * 2 ^ mb + r

/-- The magnitude as a ratio of whole numbers. -/
def ratio (m : Nat) (e : Int) : Nat × Nat := if e ≥ 0 then (m * 2 ^ e.toNat, 1) else (m, 2 ^ (-e).toNat)

def signBit (f : Fmt) (neg : Bool) : Nat := if neg then 2 ^ (f.mb + f.eb) else 0

/-- The code of infinity of an IEEE 754 style format. -/
def infCode (f : Fmt) : Nat := (2 ^ f.eb - 1) * 2 ^ f.mb

/-- ± n / d rounded once to an IEEE 754 style format, overflow to infinity (R72, R78). -/
def rndRatio (f : Fmt) (neg : Bool) (n d : Nat) : Nat := signBit f neg + min (rndCode f.mb f.qmin n d) (infCode f)

/-- A binary32 NaN; its sign and payload are free (log entry 40). -/
def nan32 : F32 := BitVec.ofNat 32 (0x7FC00000 ||| (Config.nanBits 0 &&& 0x803FFFFF))

/-- fl: a value rounded once to binary32 (R72). -/
def toF32 : Num → F32
  | .nan => nan32
  | .inf neg => BitVec.ofNat 32 (signBit fmtF32 neg + infCode fmtF32)
  | .fin neg m e => let r := ratio m e
                    BitVec.ofNat 32 (rndRatio fmtF32 neg r.1 r.2)

def ofF32 (x : F32) : Num := decodeNum fmtF32 x.toNat

def ofBF16 (x : H16) : Num := decodeNum fmtBF16 x.toNat

def Num.isNan : Num → Bool
  | .nan => true
  | _ => false

def Num.isZero : Num → Bool
  | .fin _ m _ => m == 0
  | _ => false

def Num.neg : Num → Num
  | .nan => .nan
  | .inf n => .inf (!n)
  | .fin n m e => .fin (!n) m e

/-- The exact value as a whole number of 2^e. -/
def signed (n : Bool) (m : Nat) : Int := if n then -(m : Int) else m

/-- The exact sum (IEEE 754: a zero sum is +0 unless both addends are −0). -/
def Num.add : Num → Num → Num
  | .nan, _ => .nan
  | _, .nan => .nan
  | .inf a, .inf b => if a = b then .inf a else .nan
  | .inf a, _ => .inf a
  | _, .inf b => .inf b
  | .fin a m e, .fin b n g =>
    let q := min e g
    let v := signed a m * 2 ^ (e - q).toNat + signed b n * 2 ^ (g - q).toNat
    if v = 0 then .fin (if m = 0 ∧ n = 0 then a && b else false) 0 0 else .fin (decide (v < 0)) v.natAbs q

/-- The exact product. -/
def Num.mul : Num → Num → Num
  | .nan, _ => .nan
  | _, .nan => .nan
  | .inf a, .inf b => .inf (a != b)
  | .inf a, .fin b m _ => if m = 0 then .nan else .inf (a != b)
  | .fin a m _, .inf b => if m = 0 then .nan else .inf (a != b)
  | .fin a m e, .fin b n g => .fin (a != b) (m * n) (e + g)

/-- a < b; false where either is NaN. -/
def Num.lt (a b : Num) : Bool :=
  match a, b with
  | .nan, _ => false
  | _, .nan => false
  | .inf x, .inf y => x && !y
  | .inf x, _ => x
  | _, .inf y => !y
  | .fin x m e, .fin y n g =>
    let q := min e g
    decide (signed x m * 2 ^ (e - q).toNat < signed y n * 2 ^ (g - q).toNat)

def Num.le (a b : Num) : Bool := !a.isNan && !b.isNan && !b.lt a

/-! ### binary32 operations, each rounded once to nearest even (R78, R469) -/

def f32Add (a b : F32) : F32 := toF32 ((ofF32 a).add (ofF32 b))
def f32Neg (a : F32) : F32 := a ^^^ 0x80000000
def f32Sub (a b : F32) : F32 := toF32 ((ofF32 a).add (ofF32 b).neg)
def f32Mul (a b : F32) : F32 := toF32 ((ofF32 a).mul (ofF32 b))
def f32Fma (a b c : F32) : F32 := toF32 (((ofF32 a).mul (ofF32 b)).add (ofF32 c))

def f32Div (a b : F32) : F32 :=
  match ofF32 a, ofF32 b with
  | .nan, _ => nan32
  | _, .nan => nan32
  | .inf _, .inf _ => nan32
  | .inf x, .fin y _ _ => toF32 (.inf (x != y))
  | .fin x _ _, .inf y => toF32 (.fin (x != y) 0 0)
  | .fin x m e, .fin y n g =>
    if n = 0 then (if m = 0 then nan32 else toF32 (.inf (x != y)))
    else
      let r := ratio m (e - g)
      BitVec.ofNat 32 (rndRatio fmtF32 (x != y) r.1 (r.2 * n))

def f32Lt (a b : F32) : Bool := (ofF32 a).lt (ofF32 b)
def f32Le (a b : F32) : Bool := (ofF32 a).le (ofF32 b)
def f32IsNan (a : F32) : Bool := (ofF32 a).isNan

/-- The maximum; NaN if either is NaN. Of +0 and −0, and of equal values, it is the first operand (DESIGN CHOICE, log 105: R90
gives MAX no rule for signed zeros). -/
def f32Max (a b : F32) : F32 := if f32IsNan a ∨ f32IsNan b then nan32 else if f32Lt a b then b else a

def f32Zero : F32 := 0
def f32One : F32 := 0x3F800000
def f32NegInf : F32 := 0xFF800000

/-- A whole number as binary32, rounded to nearest even where it does not fit (R75). -/
def f32OfInt (v : Int) : F32 := toF32 (.fin (decide (v < 0)) v.natAbs 0)

/-! ### exp and ln, correctly rounded (R469); in fixed point of 200 bits (log entry 41) -/

def fixBits : Nat := 200

/-- ln 2 × 2^200. -/
def ln2Fix : Int := 1113844574712631719546256151097547306333272293549090750737802

/-- Σ r^i / i! from the term `t` of index `i` on, in fixed point. -/
def expSeries (r : Int) : Nat → Nat → Int → Int
  | 0, _, _ => 0
  | n + 1, i, t => t + expSeries r n (i + 1) (t * r / 2 ^ fixBits / (i + 1 : Nat))

/-- A value times 2^200, towards minus infinity. -/
def toFix (neg : Bool) (m : Nat) (e : Int) : Int :=
  let q := e + fixBits
  if q ≥ 0 then signed neg m * 2 ^ q.toNat else signed neg m / 2 ^ (-q).toNat

/-- e^x of a finite x in binary32, as a ratio: 2^k times the series. -/
def expRatio (neg : Bool) (m : Nat) (e : Int) : Nat × Nat :=
  let x := toFix neg m e
  let k := x / ln2Fix
  let v := (expSeries (x - k * ln2Fix) 64 0 (2 ^ fixBits)).toNat
  if k ≥ 0 then (v * 2 ^ k.toNat, 2 ^ fixBits) else (v, 2 ^ (fixBits + (-k).toNat))

/-- exp, correctly rounded; beyond ±200 the result is +Inf or +0. -/
def f32Exp (x : F32) : F32 :=
  match ofF32 x with
  | .nan => nan32
  | .inf true => 0
  | .inf false => x
  | .fin neg m e =>
    if m = 0 then f32One
    else if f32Lt (if neg then f32Neg x else x) 0x43480000 then
      let r := expRatio neg m e
      BitVec.ofNat 32 (rndRatio fmtF32 false r.1 r.2)
    else if neg then 0 else 0x7F800000

/-- Σ t^(2i+1) / (2i + 1), in fixed point. -/
def atanhSeries (t2 : Int) : Nat → Nat → Int → Int
  | 0, _, _ => 0
  | n + 1, i, p => p / (2 * i + 1 : Nat) + atanhSeries t2 n (i + 1) (p * t2 / 2 ^ fixBits)

/-- ln of m × 2^e times 2^200. -/
def lnFix (m : Nat) (e : Int) : Int :=
  let l := Nat.log2 m
  -- z = m / 2^l lies in [1, 2); ln z = 2 atanh((z − 1) / (z + 1)), with z halved above 4/3
  let hi := decide (3 * m > 4 * 2 ^ l)
  let d := if hi then 2 * 2 ^ l else 2 ^ l
  let k : Int := e + l + (if hi then 1 else 0)
  let t := ((m : Int) - d) * 2 ^ fixBits / (m + d : Nat)
  k * ln2Fix + 2 * atanhSeries (t * t / 2 ^ fixBits) 64 0 t

/-- ln of an exact value, correctly rounded. -/
def lnNum : Num → F32
  | .nan => nan32
  | .inf neg => if neg then nan32 else toF32 (.inf false)
  | .fin neg m e =>
    if m = 0 then f32NegInf
    else if neg then nan32
    else
      let v := lnFix m e
      BitVec.ofNat 32 (rndRatio fmtF32 (decide (v < 0)) v.natAbs (2 ^ fixBits))

def f32Ln (x : F32) : F32 := lnNum (ofF32 x)

/-! ### The special-function units (R79): within their bounds of the exact value -/

/-- A subnormal flushed to zero of its sign. -/
def flushSub (x : F32) : F32 := if bits x.toNat 30 23 = 0 then x &&& 0x80000000 else x

/-- Whether a value lies within `k` ulps of n / d, an ulp being that of the binade of n / d. -/
def withinUlp (k n d : Nat) (x : F32) : Bool :=
  let q := max (floorLog n d - 23) (-149)
  match ofF32 x with
  | .fin _ m e =>
    let lo := min 0 (min e q)
    let a := m * d * 2 ^ (e - lo).toNat
    let b := n * 2 ^ (-lo).toNat
    let t := k * d * 2 ^ (q - lo).toNat
    decide (a ≤ b + t) && decide (b ≤ a + t)
  | _ => false

/-- A unit's result for the exact value ± n / d: the rounded value moved by `u` − `k` ulps where that stays within `k` ulps of
the exact value, else the rounded value; a subnormal result is flushed. Which of the admitted values the part gives is
free (DESIGN CHOICE, log 106). -/
def sfuResult (k : Nat) (neg : Bool) (n d u : Nat) : F32 :=
  let x : F32 := BitVec.ofNat 32 (rndRatio fmtF32 neg n d)
  let y : F32 := BitVec.ofNat 32 (x.toNat + u - k)
  flushSub (if withinUlp k n d y then y else x)

/-- exp; its limits are exactly −87.3365 and 88.7228. -/
def sfuExp (x0 : F32) : F32 :=
  let x := flushSub x0
  match ofF32 x with
  | .nan => nan32
  | .inf neg => if neg then 0 else 0x7F800000
  | .fin neg m e =>
    let r := ratio m e
    if r.1 * 10000 > (if neg then 873365 else 887228) * r.2 then (if neg then 0 else 0x7F800000)
    else let p := expRatio neg m e
         sfuResult 2 false p.1 p.2 (Config.sfuExpUlp x).val

def sfuRecip (x0 : F32) : F32 :=
  let x := flushSub x0
  match ofF32 x with
  | .nan => nan32
  | .inf neg => if neg then 0x80000000 else 0
  | .fin neg m e =>
    if m = 0 then (if neg then 0xFF800000 else 0x7F800000)
    else let r := ratio m e
         sfuResult 1 neg r.2 r.1 (Config.sfuRecipUlp x).val

/-- Floor of the square root, by halving the range. -/
def natSqrt : Nat → Nat → Nat → Nat → Nat
  | 0, _, lo, _ => lo
  | n + 1, v, lo, hi =>
    if hi ≤ lo + 1 then lo else
      let mid := (lo + hi) / 2
      if mid * mid ≤ v then natSqrt n v mid hi else natSqrt n v lo mid

/-- 1 / sqrt(x) times 2^300: the square root of 1/x with 600 bits after the point. -/
def rsqrtFix (m : Nat) (e : Int) : Nat :=
  let r := ratio m e
  natSqrt 1200 (r.2 * 2 ^ 600 / r.1) 0 (2 ^ 600)

def sfuRsqrt (x0 : F32) : F32 :=
  let x := flushSub x0
  match ofF32 x with
  | .nan => nan32
  | .inf neg => if neg then nan32 else 0
  | .fin neg m e =>
    if m = 0 then (if neg then 0xFF800000 else 0x7F800000)
    else if neg then nan32
    else sfuResult 2 false (rsqrtFix m e) (2 ^ 300) (Config.sfuRsqrtUlp x).val

/-! ### Conversion (R68, R76, R77) -/

/-- A result with the counts of R76 and R74 it adds. -/
structure Counted (α : Type) where
  val : α
  sat : Nat
  nan : Nat
deriving Repr

/-- Conversion of a binary32 result to a 16-bit or 8-bit float format (R76). Format codes are those of R91. -/
def convFloat (code : Nat) (x : F32) : Counted Nat :=
  let n := ofF32 x
  let wide (f : Fmt) (nanC : Nat) : Counted Nat :=
    match n with
    | .nan => { val := nanC, sat := 0, nan := 1 }
    | .inf s => { val := signBit f s + infCode f, sat := 0, nan := 0 }
    | .fin s m e => let r := ratio m e
                    { val := rndRatio f s r.1 r.2, sat := 0, nan := 0 }
  let narrow (f : Fmt) (top : Nat) : Counted Nat :=
    match n with
    | .nan => { val := 0x7F, sat := 0, nan := 1 }
    | .inf s => { val := signBit f s + top, sat := 1, nan := 0 }
    | .fin s m e =>
      let r := ratio m e
      let c := rndCode f.mb f.qmin r.1 r.2
      { val := signBit f s + min c top, sat := if c > top then 1 else 0, nan := 0 }
  if code = 0x09 then wide fmtBF16 0x7FC0
  else if code = 0x0A then wide fmtFP16 0x7E00
  else if code = 0x06 then narrow fmtE4M3 0x7E
  else if code = 0x07 then narrow fmtE5M2 0x7B
  else { val := x.toNat, sat := 0, nan := if n.isNan then 1 else 0 }

def toBF16 (x : F32) : H16 := BitVec.ofNat 16 (convFloat 0x09 x).val

/-- INT8 of a binary32 value (R76). -/
def convInt8 (x : F32) : Counted Nat :=
  match ofF32 x with
  | .nan => { val := 0, sat := 0, nan := 1 }
  | .inf s => { val := if s then 128 else 127, sat := 1, nan := 0 }
  | .fin s m e =>
    let r := ratio m e
    let v := rndHalfEven r.1 r.2
    if s then (if v > 128 then { val := 128, sat := 1, nan := 0 } else { val := (256 - v) % 256, sat := 0, nan := 0 })
    else (if v > 127 then { val := 127, sat := 1, nan := 0 } else { val := v, sat := 0, nan := 0 })

/-- R68: the unsigned `n`-bit code of x under (s, o), exact until it is rounded, and whether it was clamped. -/
def encodeClamp (n : Nat) (s o : H16) (x : F32) : Nat × Bool :=
  let top := 2 ^ n - 1
  let sn := ofBF16 s
  match ofF32 x with
  | .nan => (0, false)
  | .inf neg => if sn.isZero then (0, false) else if neg then (0, true) else (top, true)
  | .fin .. =>
    match sn, (ofF32 x).add (ofBF16 o).neg with
    | .fin sneg sm se, .fin dn dm de =>
      if sm = 0 ∨ dm = 0 then (0, false)
      else
        let r := ratio dm (de - se)
        let c := rndHalfEven r.1 (r.2 * sm)
        if dn ≠ sneg then (0, decide (c ≠ 0)) else (min top c, decide (c > top))
    | .fin sneg sm _, .inf dn => if sm = 0 then (0, false) else if dn = sneg then (top, true) else (0, true)
    | _, _ => (0, false)

def encodeCode (n : Nat) (s o : H16) (x : F32) : Nat := (encodeClamp n s o x).1

/-- n / d × 2^e rounded to BF16 away from zero (`up`) or towards it, as a magnitude code. -/
def bf16Dir (up : Bool) (n d : Nat) (e : Int) : Nat :=
  let r := ratio n e
  let n := r.1
  let d := r.2 * d
  if n = 0 ∨ d = 0 then 0
  else
    let q := max (floorLog n d - 7) (-133)
    let (a, b) := if q ≥ 0 then (n, d * 2 ^ q.toNat) else (n * 2 ^ (-q).toNat, d)
    let c := (q + 133).toNat * 128 + (if up then ceilDiv a b else a / b)
    if c < 0x7F80 then c else if up then 0x7F80 else 0x7F7F

/-- A value divided by `d`, rounded to BF16 towards +Inf or −Inf (R189, R275). -/
def bf16Toward (plus : Bool) (x : Num) (d : Nat) : H16 :=
  match x with
  | .nan => 0x7FC0
  | .inf neg => if neg then 0xFF80 else 0x7F80
  | .fin neg m e => BitVec.ofNat 16 ((if neg then 0x8000 else 0) + bf16Dir (plus != neg) m d e)

/-- The fitted pair of a list of elements for codes of `n` bits (R189, R275). -/
def fitPair (n : Nat) (xs : List F32) : H16 × H16 :=
  let lo := xs.foldl (fun m x => if f32Lt x m then x else m) (xs.headD 0)
  let hi := xs.foldl (fun m x => if f32Lt m x then x else m) (xs.headD 0)
  (bf16Toward true ((ofF32 hi).add (ofF32 lo).neg) (2 ^ n - 1), bf16Toward false (ofF32 lo) 1)

/-- emax of R77 and the largest code of an MX element format. -/
def mxFmt : Nat → Fmt × Int × Nat
  | 0x01 => (fmtE2M1, 2, 0x7)
  | 0x02 => (fmtE2M3, 2, 0x1F)
  | 0x03 => (fmtE3M2, 4, 0x1F)
  | 0x04 => (fmtE4M3, 8, 0x7E)
  | _ => (fmtE5M2, 15, 0x7B)

/-- to_mx of R77: the scale byte, the element codes and the saturations. -/
def toMx (code : Nat) (xs : List F32) : Nat × List Nat × Nat :=
  let (f, emax, top) := mxFmt code
  let ns := xs.map ofF32
  if ns.any fun n => match n with
    | .fin .. => false
    | _ => true then (0xFF, xs.map fun _ => 0, 0)
  else
    let logs := ns.filterMap fun n => match n with
      | .fin _ m e => if m = 0 then none else some ((Nat.log2 m : Int) + e)
      | _ => none
    match logs with
    | [] => (0, xs.map fun _ => 0, 0)
    | l :: ls =>
      let e := min 127 (max (-127) (ls.foldl max l - emax))
      let cs := ns.map fun n => match n with
        | .fin s m g => let r := ratio m (g - e)
                        (s, rndCode f.mb f.qmin r.1 r.2)
        | _ => (false, 0)
      ((e + 127).toNat, cs.map fun c => signBit f c.1 + min c.2 top, (cs.filter fun c => decide (c.2 > top)).length)

/-! ### Accumulation (R71 to R73, R80) -/

/-- The exact value of a whole run of products. -/
def exactSum (ps : List Num) : Num := ps.foldl Num.add (.fin false 0 0)

/-- One run of a group of 32 or a block of 32: the exact sum, scaled, rounded once, then added to the accumulator
(R72). -/
def addRun32 (acc : F32) (ps : List Num) (scale : Num) : F32 := f32Add acc (toF32 ((exactSum ps).mul scale))

/-- A product cut to the bits of weight 2^low and above, towards zero. -/
def truncTo (low : Int) : Num → Num
  | .fin s m e => if e ≥ low then .fin s m e else .fin s (m / 2 ^ (low - e).toNat) low
  | n => n

/-- One run of a group of 8 (R73); the exponent of a product is that of its leading bit (log entry 42). -/
def addRun8 (acc : F32) (ps : List Num) : F32 :=
  let es := ps.filterMap fun p => match p with
    | .fin _ m e => if m = 0 then none else some ((Nat.log2 m : Int) + e)
    | _ => none
  let odd := ps.any fun p => match p with
    | .fin .. => false
    | _ => true
  match es with
  | [] => f32Add acc (if odd then toF32 (exactSum ps) else 0)
  | e :: l => f32Add acc (toF32 (exactSum (ps.map (truncTo (l.foldl max e - 30)))))

/-- A list cut into runs of `n`. -/
def runsOf {α : Type} (n : Nat) : Nat → List α → List (List α)
  | 0, _ => []
  | k + 1, l => if l.isEmpty then [] else l.take n :: runsOf n k (l.drop n)

/-- Σ a × b under the group-of-8 rule from +0 (R73). -/
def dot8 (as bs : List Num) : F32 :=
  let ps := as.zipWith Num.mul bs
  (runsOf 8 ps.length ps).foldl addRun8 0

/-- A pairwise tree over the values padded with `z` to a power of two (R80, R469). -/
def pairTree (f : F32 → F32 → F32) : Nat → List F32 → F32
  | _, [] => 0
  | 0, a :: _ => a
  | n + 1, l => if l.length ≤ 1 then l.headD 0 else pairTree f n (pairUp f l)
where
  /-- Neighbours combined two by two. -/
  pairUp (f : F32 → F32 → F32) : List F32 → List F32
    | a :: b :: l => f a b :: pairUp f l
    | l => l

/-- The values padded with `z` up to the next power of two. -/
def padPow (z : F32) (l : List F32) : List F32 :=
  let n := if l.length ≤ 1 then 1 else 2 ^ (Nat.log2 (l.length - 1) + 1)
  l ++ List.replicate (n - l.length) z

/-- The pairwise sum of R469. -/
def pairSum (l : List F32) : F32 := pairTree f32Add 64 (padPow 0 l)

end Sys2Proof.Machine
end

