-- ==== Sys2Proof/Machine/Operands.lean ====
section
/-! DEFINITION. Operand forms: fields of objects fetched over the fabric, object references, item records, and the
checks their layouts carry (R9, R10, R37, R199, R208, R225, R235). -/
namespace Sys2Proof.Machine

/-- The `n`-byte little-endian field at `off` of an object. -/
def fld (bs : List Byte) (off n : Nat) : Nat := leNat ((bs.drop off).take n)

/-- `n` bytes at `off`. -/
def cut (bs : List Byte) (off n : Nat) : List Byte := (bs.drop off).take n

/-- Whether a reserved range is zero (R10). -/
def zeros (bs : List Byte) (off n : Nat) : Bool := (cut bs off n).all fun b => b == 0

/-- Whether a section lies within an object. -/
def within (bs : List Byte) (off n : Nat) : Bool := decide (off + n ≤ bs.length)

/-- Records of `n` bytes, `count` of them, from `off`. -/
def records (bs : List Byte) (off n count : Nat) : List (List Byte) :=
  (List.range count).map fun i => cut bs (off + n * i) n

/-- A reference with no object: it unloads a table (R210, R227). -/
def ObjRefEmpty (o : ObjRef) : Bool := o.len == 0 && o.id == 0

/-- A binary32 value times 2^149, exactly; infinities and NaN as 0. -/
def f32Scaled (x : F32) : Int :=
  let v := x.toNat
  let e := bits v 30 23
  let m := bits v 22 0
  let a : Nat := if e = 255 then 0 else if e = 0 then m else (m + 8388608) * 2 ^ (e - 1)
  if bit v 31 then -(a : Int) else a

/-- Set bits of a mask below bit `n`. -/
def popBelow (m n : Nat) : Nat := countBy (fun i => m.testBit i) (List.range n)

end Sys2Proof.Machine
end

