-- ==== Sys2Proof/Machine/Layouts.lean ====
section
/-! DEFINITION. What stands at the bytes of HBM that a copy reaches through a descriptor (R105): the codes of KV pages and the
page list (R157, R158), the session state block and the session table entry (R145, R190, R224), mask windows (R230), row
records (R271) and weights (R198). Each datum is held once, in State; these functions lay it out. -/
namespace Sys2Proof.Machine

/-- Codes of `w` bits packed from bit 0 on (R67). -/
def packCodes (w : Nat) (cs : List Nat) : List Byte :=
  leBytes (ceilDiv (w * cs.length) 8) ((cs.foldl (fun (acc : Nat × Nat) c => (acc.1 + c * 2 ^ acc.2, acc.2 + w)) (0, 0)).1)

/-- `bs` cut or padded with zeros to `n` bytes. -/
def fitTo (n : Nat) (bs : List Byte) : List Byte := (bs ++ List.replicate n 0).take n

/-- `n` bytes of a view from `off` on; a view reads as zero past its end. -/
def viewAt (bs : List Byte) (off n : Nat) : List Byte := fitTo n (bs.drop off)

/-! ### KV pages (R155 to R158) -/

/-- Bytes of one position of one KV head's keys or values in one layer. -/
def kvCodeBytes (h : ModelHdr) : Nat := h.headDim * h.kvBits / 8

/-- Offset in a page of 2^k positions of the code run of position `i` of layer group `g`: its layer and head in the group,
keys (0) or values (1) (R157). -/
def codeOff (h : ModelHdr) (k g layer head kind i : Nat) : Nat :=
  g * (2 ^ k * posBytes h) + (((layer * h.kvHeads + head) * 2 + kind) * 2 ^ k + i) * kvCodeBytes h

/-- One position's codes that a copy moves: its offset in the copy, the page by its place in the list, its place and offset
in that page. -/
structure KvSpot where
  sram : Nat
  page : Nat
  i : Nat
  off : Nat
deriving DecidableEq, Repr, Inhabited

/-- The kinds that a select names: 1 keys, 2 values, 3 both (R95). -/
def selKinds (sel : Nat) : List Nat := if sel = 1 then [0] else if sel = 2 then [1] else if sel = 3 then [0, 1] else []

/-- The page that covers KV position `p`: its place in the list. -/
def pageAt (pages : List Page) (p : Nat) : Option Nat := pages.findIdx? fun q => decide (q.first ≤ p) && decide (p < q.first + 2 ^ q.k)

/-- What a GATHER_KV or SCATTER_KV of `bytes` bytes moves: `first` position, layer group and select are the subfields of its
offset (R95). In SRAM the codes stand layer by layer, head by head, keys before values, position by position
(PRESUMED, log 23). -/
def kvSpots (h : ModelHdr) (pages : List Page) (offset bytes : Nat) : List KvSpot :=
  let first := bits offset 31 0
  let g := bits offset 47 32
  let ks := selKinds (bits offset 55 48)
  let n := bytes / max 1 (h.layersPerGroup * h.kvHeads * ks.length * kvCodeBytes h)
  if layerGroups h ≤ g then [] else
  (List.range h.layersPerGroup).flatMap fun l => (List.range h.kvHeads).flatMap fun hd =>
    (List.range ks.length).flatMap fun ki => (List.range n).filterMap fun i =>
      (pageAt pages (first + i)).map fun j =>
        let p := lget pages j default
        { sram := (((l * h.kvHeads + hd) * ks.length + ki) * n + i) * kvCodeBytes h, page := j, i := first + i - p.first,
          off := codeOff h p.k g l hd (lget ks ki 0) (first + i - p.first) }

/-- The bytes a GATHER_KV brings, each with its offset in the destination; nothing past the filled positions (R106). -/
def gatherKv (h : ModelHdr) (pages : List Page) (offset bytes : Nat) : List (Nat × List Byte) :=
  (kvSpots h pages offset bytes).filterMap fun t =>
    let p := lget pages t.page default
    if t.i < p.filled then some (t.sram, mread p.codes t.off (kvCodeBytes h)) else none

/-- The pages after a SCATTER_KV of `bs`; a shared page takes no write. -/
def scatterKv (h : ModelHdr) (pages : List Page) (offset : Nat) (bs : List Byte) : List Page :=
  (kvSpots h pages offset bs.length).foldl (fun ps t =>
    lmod ps t.page fun p => if p.isShared then p else
      { p with codes := mwrite p.codes t.off (viewAt bs t.sram (kvCodeBytes h)) }) pages

/-- The codes and clamps of values under a pair (R68). -/
def encodeAll (n : Nat) (q : H16 × H16) (xs : List F32) : List Nat × Nat :=
  ((xs.map fun x => encodeCode n q.1 q.2 x), countBy (fun x => (encodeClamp n q.1 q.2 x).2) xs)

/-- The summary page a condenser's entry writes, its frames apart, and the elements it clamped: the FP32 values it puts out, free
values of counter `c`, encoded under pairs fitted to them (R172, R189, R206). -/
def summaryPage (c : Nat) (h : ModelHdr) (slots : Nat) : Page × Nat :=
  let k := log2Ceil slots
  let vals (g l hd kind i : Nat) : List F32 := (List.range h.headDim).map fun e =>
    Config.condensed c ((((((g * h.layersPerGroup + l) * h.kvHeads + hd) * 2 + kind) * 2 ^ k) + i) * h.headDim + e)
  let pair (g hd kind : Nat) : H16 × H16 :=
    fitPair h.kvBits ((List.range h.layersPerGroup).flatMap fun l => (List.range (2 ^ k)).flatMap fun i => vals g l hd kind i)
  let heads := (List.range (layerGroups h)).flatMap fun g => (List.range h.kvHeads).map fun hd => (g, hd)
  let qs := heads.map fun p => (p, pair p.1 p.2 0, pair p.1 p.2 1)
  let out := qs.foldl (fun (acc : Mem × Nat) q =>
    (List.range 2).foldl (fun acc kind => (List.range h.layersPerGroup).foldl (fun acc l => (List.range (2 ^ k)).foldl (fun acc i =>
      let e := encodeAll h.kvBits (if kind = 0 then q.2.1 else q.2.2) (vals q.1.1 l q.1.2 kind i)
      (mwrite acc.1 (codeOff h k q.1.1 l q.1.2 kind i) (packCodes h.kvBits e.1), acc.2 + e.2)) acc) acc) acc) ([], 0)
  ({ k := k, first := 0, filled := 2 ^ k, flashFilled := 0, node := 0, isShared := false, onFlash := false, full := true,
     summary := true, oast := 0, runs := [], pairs := qs.map fun q => (q.2.1.1, q.2.1.2, q.2.2.1, q.2.2.2), codes := out.1,
     dirty := none, oneAppend := true }, out.2)

/-- The first frame, numbered over the module (R3), of a run of die `d`. -/
def frameOf (d : Nat) (r : Run) : Nat := d * Config.dieFrames + r.start

def firstFrame (d : Nat) (rs : List Run) : Nat :=
  match rs with
  | r :: _ => frameOf d r
  | [] => 0

def entryBytes (h : ModelHdr) : Nat := 32 + 8 * h.kvHeads

/-- Pages that a list's run can hold (R158). -/
def listCapacity (h : ModelHdr) (runs : List Run) : Nat :=
  match runs with
  | r :: _ => (2 ^ r.order * 4096 - 64) / (max 1 (layerGroups h) * entryBytes h)
  | [] => 0

def pairBytes (q : H16 × H16 × H16 × H16) : List Byte :=
  leBytes 2 q.1.toNat ++ leBytes 2 q.2.1.toNat ++ leBytes 2 q.2.2.1.toNat ++ leBytes 2 q.2.2.2.toNat

def pageFlags (p : Page) : Nat :=
  (if p.isShared then 1 else 0) + (if p.onFlash then 2 else 0) + (if p.full then 4 else 0) + (if p.summary then 8 else 0)

/-- The entry of a page and layer group `g` in the page list (R158). -/
def pageEntry (h : ModelHdr) (d g : Nat) (p : Page) : List Byte :=
  leBytes 4 (firstFrame d (p.runs.drop g)) ++ leBytes 1 p.k ++ leBytes 1 (pageFlags p) ++ [0, 0] ++ leBytes 4 p.first ++
  leBytes 4 p.filled ++ leBytes 4 p.flashFilled ++ leBytes 4 p.node ++ leBytes 8 p.oast ++
  (List.range h.kvHeads).flatMap fun i => pairBytes (lget p.pairs (g * h.kvHeads + i) (0, 0, 0, 0))

/-- A page list with its header (R158). -/
def pageListBytes (h : ModelHdr) (d : Nat) (runs : List Run) (pages : List Page) : List Byte :=
  leBytes 2 (layerGroups h) ++ leBytes 2 h.kvHeads ++ leBytes 2 (entryBytes h) ++ [0, 0] ++ leBytes 4 pages.length ++
  leBytes 4 (listCapacity h runs) ++ List.replicate 48 0 ++
  pages.flatMap fun p => (List.range (layerGroups h)).flatMap fun g => pageEntry h d g p

/-! ### The session table entry and the state block (R145, R190, R224) -/

def sessFlags (x : Sess) : Nat :=
  (if x.linked then 1 else 0) + (if x.parking then 2 else 0) + (if x.condensing then 4 else 0) + (if x.incoming then 8 else 0) +
  (if x.reviving then 16 else 0)

/-- The 128-byte entry of a session (R145). -/
def sessEntry (x : Sess) : List Byte :=
  lay [(1, x.state), (1, x.gen), (1, x.cls), (1, x.vocab), (2, x.tenant), (2, x.share), (4, x.model), (4, x.epoch),
    (4, x.position), (4, x.released), (4, x.reserved), (4, x.lastSeq), (1, x.homeDie), (1, sessFlags x), (2, x.grammar),
    (2, x.ownerPeer), (2, x.outstanding), (4, firstFrame x.homeDie x.pageList), (4, firstFrame x.homeDie x.stateBlock),
    (8, x.cask), (4, x.extract.getD 0xFFFFFFFF), (4, x.kvShift), (8, x.dwellSince), (8, x.expirySec)] ++
  leBytes 16 x.seed ++ leBytes 16 x.rng ++ List.replicate 16 0

/-- Bytes 24 to 55 of a generate (R50). -/
def genParamBytes (p : GenParams) : List Byte :=
  leBytes 4 p.maxTokens ++ leBytes 4 p.temperature.toNat ++ leBytes 4 p.topP.toNat ++ leBytes 4 p.minP.toNat ++
  leBytes 4 p.repPenalty.toNat ++ leBytes 2 p.topK ++ leBytes 2 p.grammar ++ leBytes 1 p.specK ++ leBytes 1 p.outMode ++
  leBytes 1 p.stopCount ++ leBytes 1 p.genFlags ++ [0, 0, 0, 0]

/-- Place in the ring of the oldest token. -/
def ringFirst (b : StateBlk) : Nat := (b.ringHead + 2048 - b.ring.length) % 2048

/-- The token ring as it stands in the block: word `i` is written at index `i`. -/
def ringBytes (b : StateBlk) : List Byte :=
  (List.range 2048).flatMap fun i => leBytes 4 (lget b.ring ((i + 2048 - ringFirst b) % 2048) 0)

/-- A grammar stack, bottom first, of 64 symbols (State holds the top first). -/
def stackBytes (l : List Nat) : List Byte := fitTo 128 (l.reverse.flatMap (leBytes 2))

/-- The state of the stop matcher: it is fixed by the bytes held back, and is numbered by how many they are and which stop
string they begin (DESIGN CHOICE, log 104: R224 gives its place but no numbering). -/
def matchState (b : StateBlk) : Nat :=
  if b.held = [] then 0
  else 64 * ((b.stops.findIdx? fun t => t.take b.held.length == b.held).getD 0) + b.held.length

/-- Bytes 12,288 to 16,383 of the block (R224). -/
def textBytes (b : StateBlk) : List Byte :=
  leBytes 4 (b.sgCtx.getD 0xFFFFFFFF) ++ leBytes 4 (b.cgCtx.getD 0xFFFFFFFF) ++ leBytes 1 b.sgStack.length ++
  leBytes 1 b.cgStack.length ++ leBytes 1 (if b.gramActive then 1 else 0) ++ leBytes 1 b.carry.length ++
  leBytes 4 (leNat (b.carry.take 3) + b.carryPolicy % 2 * 16777216) ++
  leBytes 4 (leNat (b.outTail.take 3) + b.outTail.length % 4 * 16777216) ++ leBytes 4 (matchState b) ++
  leBytes 2 b.held.length ++ leBytes 1 b.stops.length ++ [0] ++ leBytes 4 b.outBytes ++ List.replicate 32 0 ++
  stackBytes b.sgStack ++ stackBytes b.cgStack ++ fitTo 64 b.held ++
  (List.range 16).flatMap (fun i => let t := lget b.stops i []
                                    leBytes 1 t.length ++ fitTo 64 t ++ [0, 0, 0]) ++
  List.replicate 2624 0

/-- The 16,384 bytes of the state block. -/
def blockBytes (d : Nat) (b : StateBlk) : List Byte :=
  leBytes 4 (b.lastToken.getD 0xFFFFFFFF) ++ leBytes 2 b.ringHead ++ leBytes 2 b.ring.length ++ leBytes 1 b.specK ++
  leBytes 1 b.specRejects ++ leBytes 2 b.specHold ++ leBytes 4 (firstFrame d b.draftList) ++ leBytes 4 b.draftBase ++
  leBytes 4 b.draftPos ++ leBytes 4 b.genSeq ++ leBytes 4 b.genTokens ++ List.replicate 32 0 ++
  (match b.genParams with
    | some p => genParamBytes p
    | none => List.replicate 32 0) ++
  List.replicate 32 0 ++ ringBytes b ++ List.replicate 3968 0 ++ textBytes b

/-- What a copy reads through a STATE descriptor: the block, then the session table entry with `rng` as the counter, then the
first 8 bytes of the session's records (R187). That the entry and those bytes follow the block is PRESUMED (log 23). -/
def stateView (x : Sess) (rng entry : Nat) : List Byte :=
  fitTo 16576 (blockBytes x.homeDie x.blk ++ sessEntry { x with rng := rng } ++ leBytes 4 (handleOf x) ++ leBytes 1 entry)

/-- A grammar stack read back. -/
def readStack (bs : List Byte) (off n : Nat) : List Nat := ((List.range n).map fun i => fld bs (off + 2 * i) 2).reverse

/-- The block after a copy has written its bytes: every field the block holds as data is read back; frames, contexts of
grammars, and the generate that runs are the Cellar's and stay. -/
def readBlock (b : StateBlk) (bs : List Byte) : StateBlk :=
  let head := fld bs 4 2 % 2048
  let n := min 2048 (fld bs 6 2)
  let word (v : Nat) : Option Nat := if v = 0xFFFFFFFF then none else some v
  { b with
    lastToken := word (fld bs 0 4), ringHead := head
    ring := (List.range n).map fun i => fld bs (128 + 4 * ((head + 2048 - n + i) % 2048)) 4
    specK := fld bs 8 1, specRejects := fld bs 9 1, specHold := fld bs 10 2, draftBase := fld bs 16 4, draftPos := fld bs 20 4
    genTokens := fld bs 28 4
    sgCtx := word (fld bs 12288 4), cgCtx := word (fld bs 12292 4)
    sgStack := readStack bs 12352 (min 64 (fld bs 12296 1)), cgStack := readStack bs 12480 (min 64 (fld bs 12297 1))
    gramActive := fld bs 12298 1 != 0
    carry := cut bs 12300 (min 3 (fld bs 12299 1)), carryPolicy := fld bs 12303 1 % 2
    outTail := cut bs 12304 (fld bs 12307 1 % 4), held := cut bs 12608 (min 64 (fld bs 12312 2)), outBytes := fld bs 12316 4
    stops := (List.range (min 16 (fld bs 12314 1))).map fun i => cut bs (12673 + 68 * i) (min 64 (fld bs (12672 + 68 * i) 1)) }

/-- A block with `bs` written at `off`; bytes past the block are the Cellar's (log 48). -/
def putBlock (d : Nat) (b : StateBlk) (off : Nat) (bs : List Byte) : StateBlk :=
  let old := blockBytes d b
  readBlock b ((old.take off ++ bs ++ old.drop (off + bs.length)).take 16384)

/-! ### Mask windows (R230) -/

def maskBytes (tokens : Nat) : Nat := ceilDiv tokens 512 * 64

/-- A slot as bytes, for masks of `mb` bytes. -/
def slotBytes (mb : Nat) (t : MaskSlot) : List Byte :=
  leBytes 4 t.transBase ++ leBytes 1 ((if t.accepting then 1 else 0) + (if t.atLimit then 2 else 0)) ++ List.replicate 59 0 ++
  leBytes mb t.mask ++ leBytes mb t.growMask

/-- The staged window of a session. -/
def windowOf (tokens : Nat) (b : StateBlk) : List Byte := b.slots.flatMap (slotBytes (maskBytes tokens))

/-! ### Embedding rows (R268, R271, R273) -/

def codedFmt (f : Nat) : Bool := f == 0x0D || f == 0x0C

/-- Bits of a code of a coded format. -/
def codeBits (f : Nat) : Nat := if f = 0x0D then 8 else 4

def payloadBytes (f dim : Nat) : Nat := if f = 0x0D then dim else if f = 0x0C then dim / 2 else 2 * dim

/-- Bytes of one row's optimiser state. -/
def stateBytes (opt dim : Nat) : Nat := if opt = 1 then 2 * dim else if opt = 2 then 4 * dim else 0

def strideOf (f dim opt : Nat) : Nat := roundUp (8 + roundUp (payloadBytes f dim) 8 + stateBytes opt dim) 64

/-- Bytes of a transfer row. -/
def rowBytes (f dim : Nat) : Nat := roundUp ((if codedFmt f then 4 else 0) + payloadBytes f dim) 4

def tableOf (s : State) (t : Nat) : Option RowTable := tget s.rows.tables t

def modTable (s : State) (t : Nat) (f : RowTable → RowTable) : State := { s with rows.tables := tmod s.rows.tables t f }

/-- A row as created: every element 0, pair (0, 0), state 0, version 0. -/
def zeroRow (dim opt : Nat) : RowRec :=
  { ver := 0, s := 0, o := 0, payload := List.replicate dim 0, st := List.replicate (opt * dim) 0 }

def rowAt (x : RowTable) (r : Nat) : RowRec := tdef x.recs r (zeroRow x.dim x.opt)

/-- Codes packed two to a byte, lower index low (R67). -/
def packNib : List Nat → List Byte
  | a :: b :: l => BitVec.ofNat 8 (a % 16 + 16 * (b % 16)) :: packNib l
  | [a] => [BitVec.ofNat 8 (a % 16)]
  | [] => []

def packRow (f : Nat) (p : List Nat) : List Byte :=
  if f = 0x0D then p.map (BitVec.ofNat 8) else if f = 0x0C then packNib p else p.flatMap (leBytes 2)

/-- The transfer form of a row (R273). -/
def transferRow (x : RowTable) (r : RowRec) : List Byte :=
  padTo 4 ((if codedFmt x.format then leBytes 2 r.s.toNat ++ leBytes 2 r.o.toNat else []) ++ packRow x.format r.payload)

/-- Pair and payload of a transfer row. -/
def readRow (x : RowTable) (bs : List Byte) : H16 × H16 × List Nat :=
  let o := if codedFmt x.format then 4 else 0
  let body := bs.drop o
  let p := (List.range x.dim).map fun i =>
    if x.format = 0x0D then (lget body i 0).toNat
    else if x.format = 0x0C then (lget body (i / 2) 0).toNat / (if i % 2 = 0 then 1 else 16) % 16
    else fld body (2 * i) 2
  if codedFmt x.format then (BitVec.ofNat 16 (fld bs 0 2), BitVec.ofNat 16 (fld bs 2 2), p) else (0, 0, p)

def rowStride (x : RowTable) : Nat := strideOf x.format x.dim x.opt

/-- A row record in HBM (R271). -/
def rowRecord (x : RowTable) (r : RowRec) : List Byte :=
  fitTo (rowStride x) (leBytes 4 r.ver ++ leBytes 2 r.s.toNat ++ leBytes 2 r.o.toNat ++ padTo 8 (packRow x.format r.payload) ++
    r.st.flatMap fun v => leBytes 2 v.toNat)

/-- A record read back from its bytes. -/
def parseRow (x : RowTable) (bs : List Byte) : RowRec :=
  let body := readRow { x with format := if codedFmt x.format then x.format else 0x09 }
    ((if codedFmt x.format then cut bs 4 4 else []) ++ bs.drop 8)
  let so := 8 + roundUp (payloadBytes x.format x.dim) 8
  { ver := fld bs 0 4, s := BitVec.ofNat 16 (fld bs 4 2), o := BitVec.ofNat 16 (fld bs 6 2), payload := body.2.2,
    st := (List.range (stateBytes x.opt x.dim / 2)).map fun i => BitVec.ofNat 16 (fld bs (so + 2 * i) 2) }

/-- The rows that `n` bytes from `off` on touch. -/
def rowsAt (x : RowTable) (off n : Nat) : List Nat :=
  (List.range (n / max 1 (rowStride x) + 2)).map fun i => off / max 1 (rowStride x) + i

/-- `n` bytes from `off` of a table's region. -/
def tableView (x : RowTable) (off n : Nat) : List Byte :=
  viewAt ((rowsAt x off n).flatMap fun r => rowRecord x (rowAt x r)) (off % max 1 (rowStride x)) n

/-- A table after bytes were written at `off` of its region. -/
def putRows (x : RowTable) (off : Nat) (bs : List Byte) : RowTable :=
  let rs := (rowsAt x off bs.length).filter fun r => decide (r < x.rows)
  let old := rs.flatMap fun r => rowRecord x (rowAt x r)
  let o := off % max 1 (rowStride x)
  let new := (old.take o ++ bs ++ old.drop (o + bs.length)).take old.length
  { x with recs := (List.range rs.length).foldl (fun t i =>
      let rec_ := cut new (i * rowStride x) (rowStride x)
      if rec_ = cut old (i * rowStride x) (rowStride x) then t else tput t (lget rs i 0) (parseRow x rec_)) x.recs }

end Sys2Proof.Machine
end

