-- ==== Sys2Proof/Machine/Cellar.lean ====
section
/-! DEFINITION. Shared operations on sessions: pages and page lists, prefix-tree nodes, rack records, parks, revives,
condenses and closes (R145 to R177, R328 to R335). -/
namespace Sys2Proof.Machine

def hdrOf (s : State) (x : Sess) : ModelHdr := ((modelOf s x.model).map (·.hdr)).getD default

def groupsOf (s : State) (x : Sess) : Nat := layerGroups (hdrOf s x)

/-- K of R156. -/
def sessMaxK (s : State) (x : Sess) : Nat := min (serviceOf s x.cls).pageMaxLog2 (modelMaxK (hdrOf s x))

/-- KV position of session position `p` (R156), modulo 2^32. -/
def kvPos (x : Sess) (p : Nat) : Nat := (p + two32 - x.kvShift) % two32

/-- The KV position after a session's last page. -/
def pagesEnd (x : Sess) : Nat :=
  match x.pages.getLast? with
  | some p => p.first + 2 ^ p.k
  | none => 0

/-- The next KV position to be written: `position`, less a `last_token` without KV (R185). -/
def kvLen (x : Sess) : Nat :=
  let n := kvPos x (x.position - (if x.blk.lastToken.isSome then 1 else 0))
  match x.pages with
  | p :: _ => if p.summary then max n (2 ^ p.k) else n
  | [] => n

/-- k of the page that follows a page list (R156). -/
def nextK (mk : Nat) (l : List Page) : Nat :=
  match l.getLast? with
  | none => 4
  | some p => if p.summary then 4 else min (p.k + 1) mk

/-- The k of each further page until KV position `target` is covered. -/
def pageKs (mk : Nat) : Nat → Nat → Nat → Nat → List Nat
  | 0, _, _, _ => []
  | n + 1, k, endPos, target =>
    if target ≤ endPos then [] else k :: pageKs mk n (min (k + 1) mk) (endPos + 2 ^ k) target

/-- Most pages a session can have: 2^20 positions in pages of at least 16. -/
def pageFuel : Nat := 65544

/-- The k of the pages `n` further positions need (R161). -/
def newPageKs (s : State) (x : Sess) (n : Nat) : List Nat :=
  pageKs (sessMaxK s x) pageFuel (nextK (sessMaxK s x) x.pages) (pagesEnd x) (kvLen x + n)

/-- Order of the run of a page list of `pages` pages (R158). -/
def listOrder (h : ModelHdr) (pages : Nat) : Nat :=
  log2Ceil (ceilDiv (64 + pages * layerGroups h * (32 + 8 * h.kvHeads)) 4096)

/-- The position that a `last_token` without KV adds to what the next command writes (R185). -/
def leadLen (x : Sess) : Nat := if x.blk.lastToken.isSome then 1 else 0

/-- Orders of the runs that `n` further KV positions need: pages and growth of the page list (R161). -/
def ordersFor (s : State) (x : Sess) (n : Nat) : List Nat :=
  let h := hdrOf s x
  let ks := newPageKs s x n
  let now := match x.pageList with
    | r :: _ => r.order
    | [] => 0
  let grown := ((List.range ks.length).map fun i => listOrder h (x.pages.length + i + 1)).eraseDups
  (ks.flatMap fun k => List.replicate (layerGroups h) (pageOrder h k)) ++ grown.filter fun o => decide (o > now)

/-- P_max (R159). -/
def pMax (s : State) (x : Sess) : Nat := min 1048576 (hdrOf s x).maxContext

/-! ### Pages -/

/-- Tokens written to the ring (R190). -/
def pushRing (b : StateBlk) (toks : List Nat) : StateBlk :=
  { b with ring := (b.ring ++ toks).drop (b.ring.length + toks.length - 2048), ringHead := (b.ringHead + toks.length) % 2048 }

/-- The last `n` tokens taken back from the ring. -/
def popRing (b : StateBlk) (n : Nat) : StateBlk :=
  { b with ring := b.ring.take (b.ring.length - n), ringHead := (b.ringHead + 2048 - min n b.ring.length % 2048) % 2048 }

/-- Frames of a session's draft pages and their list (R197). -/
def draftRuns (b : StateBlk) : List Run := b.draftList ++ b.draftPages.flatMap (·.runs)

/-- The block without draft KV (R190). -/
def noDraft (b : StateBlk) : StateBlk := { b with draftList := [], draftPages := [], draftBase := 0, draftPos := 0 }

/-- A session's draft KV is freed. -/
def freeDraft (s : State) (x : Sess) : State :=
  modSess (freeRuns s x.homeDie (draftRuns x.blk)) x.idx fun y => { y with blk := noDraft y.blk }

def blankPage (k first : Nat) (runs : List Run) : Page :=
  { k := k, first := first, filled := 0, flashFilled := 0, node := 0, isShared := false, onFlash := false, full := false,
    summary := false, oast := 0, runs := runs, pairs := [], codes := [], dirty := none,
    oneAppend := true }

/-- The page list moved into a larger run if it outgrows its own (R158). -/
def growList (s : State) (idx seq : Nat) : State :=
  match sessAt s idx with
  | none => s
  | some x =>
    let want := listOrder (hdrOf s x) x.pages.length
    match x.pageList with
    | r :: _ =>
      if want > r.order then
        match runFor s seq idx x.homeDie x.tenant (sliceOfSess s x) want with
        | some (n, s) => modSess (freeRun s x.homeDie r) idx fun y => { y with pageList := [n] }
        | none => s
      else s
    | [] => s

/-- Page j allocated in every layer group at once (R156). -/
def addPage (s : State) (idx seq : Nat) : State :=
  match sessAt s idx with
  | none => s
  | some x =>
    let k := nextK (sessMaxK s x) x.pages
    match runsFor s seq idx x.homeDie x.tenant (sliceOfSess s x) (pageOrder (hdrOf s x) k) (groupsOf s x) with
    | some (rs, s) =>
      growList (modSess s idx fun y => { y with pages := y.pages ++ [blankPage k (pagesEnd x) rs] }) idx seq
    | none => s

/-- Pages allocated until KV position `target` is covered. -/
def addPagesTo (s : State) (idx seq target : Nat) : Nat → State
  | 0 => s
  | n + 1 =>
    match sessAt s idx with
    | some x => if pagesEnd x ≥ target then s else addPagesTo (addPage s idx seq) idx seq target n
    | none => s

/-- The registered pair of layer group `g`, head `hd`, keys (0) or values (1): over the ranges of the group's layers (R189). -/
def registeredPair (h : ModelHdr) (g hd kind : Nat) : H16 × H16 :=
  fitPair h.kvBits ((List.range h.layersPerGroup).flatMap fun l =>
    let r := lget h.ranges ((g * h.layersPerGroup + l) * h.kvHeads + hd) []
    [toF32 (ofBF16 (lget r (2 * kind) 0)), toF32 (ofBF16 (lget r (2 * kind + 1) 0))])

/-- The pairs of a page that has none yet, fixed by the first entry that writes it (R68, R189): fitted to the least and greatest
element, which the entry computed and which are free values of counter `c`, where it is a prefill entry that writes the
whole page; registered otherwise. -/
def fixPairs (c : Nat) (h : ModelHdr) (fitted : Bool) (p : Page) : Page :=
  let pair (g hd kind : Nat) : H16 × H16 :=
    let i := 2 * (g * h.kvHeads + hd) + kind
    if fitted then fitPair h.kvBits [Config.kvLo c i, Config.kvHi c i] else registeredPair h g hd kind
  if p.pairs ≠ [] then p
  else { p with pairs := (List.range (layerGroups h)).flatMap fun g => (List.range h.kvHeads).map fun hd =>
           ((pair g hd 0).1, (pair g hd 0).2, (pair g hd 1).1, (pair g hd 1).2) }

/-- KV positions `a` to `a + n` − 1 committed in a page. `lo` to `hi` is what the committing prefill entry writes: a page whose
pairs no copy has fixed takes them now. `one`: one append carries all of them (R165). -/
def fillPage (c : Nat) (h : ModelHdr) (a n lo hi : Nat) (one : Bool) (p : Page) : Page :=
  let e := min (a + n) (p.first + 2 ^ p.k)
  if a + n ≤ p.first ∨ p.first + 2 ^ p.k ≤ a then p
  else
    let filled := max p.filled (e - p.first)
    { fixPairs c h (decide (lo ≤ p.first ∧ p.first + 2 ^ p.k ≤ hi)) p with
      filled := filled, full := decide (filled = 2 ^ p.k)
      dirty := some (min (max a p.first) (p.dirty.getD (max a p.first)))
      oneAppend := p.oneAppend && one && decide (a ≤ p.first ∨ p.filled ≠ 0) }

/-- Positions from `cut` on removed: page fill lowered, pages wholly beyond freed (R186, R344). -/
def trimPages (s : State) (idx cut : Nat) : State :=
  match sessAt s idx with
  | none => s
  | some x =>
    let gone := x.pages.filter fun p => decide (p.first ≥ cut) && !p.isShared
    let s := gone.foldl (fun s p => freeRuns s x.homeDie p.runs) s
    modSess s idx fun y => { y with
      pages := (y.pages.filter fun p => !(decide (p.first ≥ cut) && !p.isShared)).map fun p =>
        if p.first + p.filled > cut then { p with filled := cut - p.first, full := false } else p }

/-! ### Prefix-tree nodes (R164 to R167) -/

def nodeOf (s : State) (id : Nat) : Option Node := tget s.cellar.nodes id

def modNode (s : State) (id : Nat) (f : Node → Node) : State := { s with cellar.nodes := tmod s.cellar.nodes id f }

/-- A node leaves the tree when no session links it and no cask refers to it; its flash copy is reclaimed (R167). -/
def nodeReap (s : State) (id : Nat) : State :=
  match nodeOf s id with
  | none => s
  | some n =>
    if n.links = 0 ∧ n.casks = 0 then
      let s := if n.inHbm then freeRuns s n.die n.runs else s
      let s := if n.flash ≠ 0 then freeExtent s n.flash else s
      { s with cellar.nodes := tdel s.cellar.nodes id }
    else s

/-- The child of `parent` with exactly these tokens (R164). -/
def childNode (s : State) (x : Sess) (parent j : Nat) (toks : List Nat) : Option Node :=
  (s.cellar.nodes.find? fun p => p.2.tenant == x.tenant && p.2.model == x.model && p.2.vocab == x.vocab &&
    p.2.parent == parent && p.2.j == j && p.2.toks == toks).map (·.2)

/-! ### Rack records (R329 to R335) -/

def optsOut (s : State) (x : Sess) : Bool := bit (serviceOf s x.cls).flags 0

def buddyOf (s : State) (x : Sess) : Nat := lget s.fab.buddies (sliceOfSess s x) 0

/-- Whether the session's records need a buddy's acknowledgement (R328, R335). -/
def racks (s : State) (x : Sess) : Bool := !optsOut s x && buddyOf s x != 0

/-- The stream records of a session not yet acknowledged at link level (R32). -/
def streamsOf (s : State) (handle : Nat) : List StreamRec :=
  let pick (c : Content) : List StreamRec := match c with
    | .stream r => if r.session = handle then [r] else []
    | _ => []
  (s.gl.g0.unacked.flatMap fun f => pick f.content) ++ (s.gl.g0.unsent.flatMap fun f => pick f.2) ++
  (s.gl.g1.unacked.flatMap fun f => pick f.content) ++ (s.gl.g1.unsent.flatMap fun f => pick f.2) ++
  (s.gl.backlog.flatMap fun c => pick c.2)

/-- Those of one generate: its stream tail (R332). -/
def streamTail (s : State) (handle seq : Nat) : List StreamRec := (streamsOf s handle).filter fun r => r.seq == seq

/-- A session's token-stream bytes not yet acknowledged at link level: text bytes and 4 bytes a token id (R32, R51). -/
def unackedBytes (s : State) (handle : Nat) : Nat :=
  sumBy (fun r => r.text.length + 4 * r.ids.length) (streamsOf s handle)

/-- Filled KV bytes of a session's pages. -/
def kvBytesOf (s : State) (x : Sess) : Nat :=
  sumBy (fun p => p.filled) x.pages * posBytes (hdrOf s x) * groupsOf s x

/-- A page as it travels with its session. -/
def imgPage (p : Page) : ImgPage :=
  { k := p.k, first := p.first, filled := p.filled, summary := p.summary, pairs := p.pairs, codes := p.codes }

def imageOf (s : State) (x : Sess) : SessImage :=
  -- what a frozen or incoming session is at heart
  let at_ := if x.state = stOFFERED ∨ x.incoming then x.offeredFrom else x.state
  { handle := handleOf x, tenant := x.tenant, serviceClass := x.cls, shareClass := x.share, vocab := x.vocab,
    grammar := x.grammar, model := x.model, modelDigest := ((modelOf s x.model).map (·.digest)).getD 0, epoch := x.epoch,
    state := x.state, position := x.position, released := x.released, lastSeq := x.lastSeq, kvShift := x.kvShift, homeDie := x.homeDie,
    seed := x.seed, rng := x.rng, expirySec := x.expirySec, ring := x.blk.ring, ringHead := x.blk.ringHead, lastToken := x.blk.lastToken,
    genSeq := x.blk.genSeq, genPort := (x.run.map (·.port)).getD 0, genTokens := x.blk.genTokens, gen := x.blk.genParams,
    outBytes := x.blk.outBytes, carry := x.blk.carry, carryPolicy := x.blk.carryPolicy, appendStart := none,
    incoming := x.incoming, optOut := optsOut s x, caskBytes := if x.cask = 0 then 0 else x.caskBytes,
    hbmBytes := if at_ = stPARKED then 0 else kvBytesOf s x,
    tail := (streamTail s (handleOf x) x.blk.genSeq).map fun r => (r.offset, r.position, r.text, r.ids),
    pages := x.pages.map imgPage,
    sgState := x.blk.sgState, sgStack := x.blk.sgStack, cgState := x.blk.cgState, cgStack := x.blk.cgStack,
    held := x.blk.held, outTail := x.blk.outTail, spec := (x.blk.specK, x.blk.specRejects, x.blk.specHold),
    offeredFrom := at_, genMax := (x.run.map (·.maxTok)).getD 0,
    genCounts := (x.run.map fun r => (r.steps, r.verifies, r.accepted)).getD (0, 0, 0) }

/-- Bytes of a record's descriptor items: the session entry and, in a STEP record, the stream tail (log entry 21). -/
def descBytes (s : State) (x : Sess) (kind : Nat) : Nat :=
  8 + 128 + (if kind = 2 then 8 + (streamTail s (handleOf x) x.blk.genSeq).foldl (fun n r => n + 24 + r.text.length) 0
             else 0)

/-- A change of a session's committed state racked to its buddy: the next `rack_seq` (R329). Without a buddy, or for a
class that opts out, it counts as acknowledged; such a class sends its OPEN and CLOSE records all the same (R335). -/
def rack (s : State) (idx kind kv : Nat) (d : Delta) : State :=
  match sessAt s idx with
  | none => s
  | some x =>
    let q := x.rackSeq + 1
    let need := racks s x
    let img := imageOf s x
    -- a settled offer, a commit and an incoming image carry the state underneath (R330, R337)
    let img := if kind = 14 ∨ kind = 9 ∨ x.incoming then { img with state := x.offeredFrom, incoming := x.incoming && kind != 9 } else img
    -- a condense racks the extract (R172)
    let img := if kind = 7 then
        { img with state := stEXTRACT, offeredFrom := stEXTRACT, pages := x.condPage.toList.map imgPage, hbmBytes := kv, caskBytes := 0 }
      else img
    let s := modSess s idx fun y =>
      { y with rackSeq := q, deltas := y.deltas ++ [{ d with rackSeq := q, rkind := kind, position := x.position }],
               rackAcked := if need then y.rackAcked else q }
    if need ∨ (buddyOf s x ≠ 0 ∧ (kind = 1 ∨ kind = 11)) then
      let r : RackRec := { session := handleOf x, epoch := x.epoch, rackSeq := q, rkind := kind,
                           rflags := if img.incoming then 1 else 0, slice := sliceOfSess s x, tenant := x.tenant, kvBytes := kv,
                           descBytes := descBytes s x kind, position := x.position,
                           image := { img with appendStart := if kind = 3 then some x.position else none } }
      sendMsg s (buddyOf s x) 1 (sliceOfSess s x) 7 x.tenant false (.rack r)
    else s

def plainDelta : Delta := default

/-- Whether every record of a session has been acknowledged. -/
def allAcked (x : Sess) : Bool := decide (x.rackSeq ≤ x.rackAcked)

/-- Committed steps not yet acknowledged (R331). -/
def unackedSteps (x : Sess) : Nat := countBy (fun d => d.isStep && decide (d.rackSeq > x.rackAcked)) x.deltas

/-! ### Parks (R26, R168 to R170) -/

/-- The pages a park writes (R26, R167). -/
def parkPages (s : State) (x : Sess) : List Page :=
  x.pages.filter fun p =>
    if p.isShared then (match nodeOf s p.node with
      | some n => n.flash == 0
      | none => false)
    else !p.onFlash || decide (p.flashFilled < p.filled)

def pageBytes (s : State) (x : Sess) (p : Page) : Nat := p.filled * posBytes (hdrOf s x) * groupsOf s x

/-- Bytes of a cask header with its page directory, padded to 4 KiB (R170). -/
def caskHdrBytes (s : State) (x : Sess) : Nat :=
  roundUp (128 + x.pages.length * groupsOf s x * (24 + 8 * (hdrOf s x).kvHeads)) 4096

def parkWriteBytes (s : State) (x : Sess) : Nat :=
  sumBy (pageBytes s x) (parkPages s x) + 16384 + caskHdrBytes s x

/-- Why a park cannot start now: 0 nothing, 1 no mapped space, 2 held, 3 no flash key, 4 not mounted. -/
def parkBlock (s : State) (x : Sess) : Nat :=
  let n := parkWriteBytes s x
  if s.oast.mountState ≠ 2 ∨ s.oast.quiescing then 4
  else if flashEpoch s x.tenant = none then 3
  else if freeMapped s < n + sumBy (·.bytes) s.oast.writes then 1
  else if mayWrite s (sliceOfSess s x) 6 x.tenant n (some x.idx) then 0 else 2

/-- The pages of a cask: those that the park writes take bulk addresses from `addr` on, each its own 64 KiB units (R292); the others
keep the flash copy they have. -/
def caskPages (s : State) (x : Sess) (addr : Nat) : List CaskPage :=
  let write := (parkPages s x).map (·.first)
  (x.pages.foldl (fun (acc : List CaskPage × Nat) p =>
    let node := if p.isShared then p.node else 0
    if write.contains p.first then
      let n := pageBytes s x p
      (acc.1 ++ [{ first := p.first, filled := p.filled, node := node, addr := acc.2, bytes := n }], acc.2 + 16 * ceilDiv n 65536)
    else
      let a := if p.isShared then ((nodeOf s p.node).map (·.flash)).getD p.oast else p.oast
      (acc.1 ++ [{ first := p.first, filled := p.filled, node := node, addr := a, bytes := 0 }], acc.2)) ([], addr)).1

/-- A directory entry of a cask (R170). -/
def caskEntry (s : State) (h : ModelHdr) (g : Nat) (p : Page) (c : CaskPage) : List Byte :=
  lay [(4, p.first), (4, p.filled), (1, p.k), (1, pageFlags { p with onFlash := true }), (2, 0), (8, c.addr),
       (4, if c.node = 0 then 0 else ((nodeOf s c.node).map (·.hash)).getD 0 % two32)] ++
  (List.range h.kvHeads).flatMap fun i => pairBytes (lget p.pairs (g * h.kvHeads + i) (0, 0, 0, 0))

/-- The header of a cask and its page directory, padded to 4 KiB (R170); the saved state block follows it. -/
def caskHeader (s : State) (x : Sess) (addr seq : Nat) (ps : List CaskPage) : List Byte :=
  let h := hdrOf s x
  let b := lay [(4, 0x4B534143), (2, 1), (2, 0), (4, handleOf x), (2, x.tenant), (1, x.cls), (1, x.vocab), (4, x.model),
      (4, x.epoch), (4, x.position), (4, x.released), (4, x.lastSeq), (2, x.grammar), (2, x.share), (8, s.cellar.sec),
      (8, s.cellar.sec + (serviceOf s x.cls).ttlS), (8, seq)] ++ leBytes 16 x.seed ++ leBytes 16 x.rng ++
    lay [(4, x.pages.length), (2, layerGroups h), (2, h.kvHeads), (8, addr + caskHdrBytes s x / 4096), (4, x.kvShift), (4, 0), (8, 0)] ++
    (x.pages.zip ps).flatMap fun p => (List.range (layerGroups h)).flatMap fun g => caskEntry s h g p.1 p.2
  fitTo (caskHdrBytes s x) b

/-- What a park that starts now writes (R26, R168, R170): its pages in the bulk region, header and state block in the metadata
region. -/
def caskOf (s : State) (x : Sess) : Cask :=
  let bulk := nextBulk s
  let addr := nextMeta s
  let ps := caskPages s x bulk
  { pages := ps, addr := addr, bytes := parkWriteBytes s x, header := caskHeader s x addr (x.caskSeq + 1) ps }

/-- A park starts: its pages, state block and header go to flash and its record to the buddy; the session stays WARM
with `parking` set (R168). `seq` names an explicit SESSION_PARK, or `noSeq`. With `free`, budgets and shapers are not
checked (R418). -/
def beginPark (s : State) (idx seq : Nat) : State :=
  match sessAt s idx with
  | none => s
  | some x =>
    let c := caskOf s x
    match flashWrite s (sliceOfSess s x) 6 x.tenant c.bytes true (.park idx c) (.cask idx) with
    | none => s
    | some (addr, s) =>
      let s := charge s (sliceOfSess s x) 6 1 c.bytes
      let s := noteClass (noteClass s x.share 2 c.bytes) x.share 1 c.bytes
      let s := modSess s idx fun y =>
        { y with parking := true, parkWait := false, parkFull := false, parkTtl := (serviceOf s x.cls).ttlS, parkWear := 0, parkProgs := false, parkAcked := !racks s x,
                 parkCancelled := false, parkBytes := c.bytes, parkSeq := seq, parkAddr := addr, caskSeq := y.caskSeq + 1 }
      rack s idx 5 0 plainDelta

/-- The extents of a completed write of a park: each page it wrote, then header and state block. -/
def parkExtents (s : State) (idx : Nat) (c : Cask) (e : Extent) : State :=
  let put (s : State) (a n : Nat) (o : Owner) : State :=
    { s with oast.exts := tput s.oast.exts a { e with sectors := ceilDiv n 4096, owner := o } }
  let s := (c.pages.filter fun p => p.bytes != 0).foldl (fun s p => put s p.addr p.bytes (if p.node = 0 then .page idx else .node p.node)) s
  put s c.addr (16384 + c.header.length) (.cask idx)

/-- A page that a park wrote takes its place: the copy of a private page replaces its earlier one, a node's first copy becomes
the node's; what has no use any more is freed (R26, R167). -/
def installPage (s : State) (idx : Nat) (c : CaskPage) : State :=
  match (sessAt s idx).bind fun x => x.pages.find? fun p => p.first == c.first with
  | none => freeExtent s c.addr
  | some p =>
    if p.isShared then
      match nodeOf s p.node with
      | some n => if n.flash = 0 then modNode { s with oast.exts := tmod s.oast.exts c.addr fun e => { e with owner := .node n.id } }
                      n.id fun n => { n with flash := c.addr } else freeExtent s c.addr
      | none => freeExtent s c.addr
    else if c.node ≠ 0 then freeExtent s c.addr
    else
      let s := if p.oast ≠ 0 then freeExtent s p.oast else s
      modSess s idx fun y => { y with pages := y.pages.map fun q =>
        if q.first = c.first then { q with onFlash := true, flashFilled := c.filled, oast := c.addr } else q }

/-- The cask so written becomes the session's newest: its private pages point to it, nodes count this cask's reference, the
earlier header is stale (R26, R152, R167). -/
def installCask (s : State) (idx : Nat) (c : Cask) : State :=
  match sessAt s idx with
  | none => s
  | some x =>
    let s := if x.cask ≠ 0 then freeExtent s x.cask else s
    let s := (c.pages.filter fun p => p.bytes != 0).foldl (fun s p => installPage s idx p) s
    let refs := x.pages.filter fun p => p.isShared && !p.onFlash && c.pages.any fun k => k.first == p.first
    let s := refs.foldl (fun s p => modNode s p.node fun n => { n with casks := n.casks + 1 }) s
    modSess s idx fun y =>
      { y with cask := c.addr, caskBytes := c.bytes, parkSec := s.cellar.sec, caskHdr := c.header,
               pages := y.pages.map fun p => if refs.any fun q => q.first == p.first then { p with onFlash := true, flashFilled := p.filled } else p }

/-- A session's HBM is freed: page runs it owns, node links, page list, state block, draft pages. -/
def freeHbm (s : State) (idx : Nat) : State :=
  match sessAt s idx with
  | none => s
  | some x =>
    let s := (x.pages.filter fun p => !p.isShared).foldl (fun s p => freeRuns s x.homeDie p.runs) s
    let s := (x.pages.filter fun p => p.isShared && p.runs != []).foldl (fun s p =>
        modNode s p.node fun n => { n with links := n.links - 1 }) s
    let s := freeDraft (freeRuns (freeRuns s x.homeDie x.pageList) x.homeDie x.stateBlock) x
    modSess s idx fun y =>
      { y with pageList := [], stateBlock := [], pages := y.pages.map fun p => { p with runs := [] } }

/-- The session becomes PARKED (R168). -/
def finishPark (s : State) (idx : Nat) : State :=
  match sessAt s idx with
  | none => s
  | some x =>
    let s := freeHbm s idx
    let s := modSess s idx fun y =>
      { y with state := stPARKED, parking := false, dwellOn := false, byPressure := false, parkSec := s.cellar.sec,
               expirySec := s.cellar.sec + y.parkTtl }
    let s := { s with cellar.cnt.parks := ctrAdd s.cellar.cnt.parks 1 }
    if x.parkSeq ≠ noSeq then complete (applied s idx x.parkSeq) x.parkSeq (ansB (lay [(8, x.parkBytes)])) else s

/-- A park or condense in progress is cancelled; an explicit one completes with RETRY; the session stays WARM. A condense
whose entry runs goes on to the end of it as an item of no session, with no effect (R152). -/
def cancelParkCondense (s : State) (idx own : Nat) : State :=
  match sessAt s idx with
  | none => s
  | some x =>
    let s := if x.parking ∧ x.parkCancelled = false ∧ x.parkSeq ≠ own then
        let s := modSess { s with cellar.cnt.parkCancel := ctrAdd s.cellar.cnt.parkCancel 1 } idx fun y =>
          { y with parkCancelled := true, parkSeq := noSeq, parkWear := 0, byPressure := false }
        if x.parkSeq ≠ noSeq then complete s x.parkSeq (ans stRetry) else s
      else if x.parkWait ∧ x.parkSeq ≠ own then
        let n := if x.parkFull then 0 else 1
        let s := modSess { s with cellar.cnt.parkCancel := ctrAdd s.cellar.cnt.parkCancel n } idx fun y =>
          { y with parkWait := false, parkFull := false, parkSeq := noSeq, parkWear := 0, byPressure := false }
        if x.parkSeq ≠ noSeq then complete s x.parkSeq (ans stRetry) else s
      else s
    if x.condensing then
      -- a buddy that has taken up the extract gets the session's image again
      let s := if x.condDone then rack s idx 13 (kvBytesOf s x) plainDelta else s
      let js := (sessJobs s idx).filter fun j => j.seq != own && j.stage != 0 && (match j.kind with
        | .condense _ => true
        | _ => false)
      let s := { s with
        cellar.cnt.parkCancel := ctrAdd s.cellar.cnt.parkCancel 1,
        mash.items := (s.mash.items.filter fun i => !(i.sess == idx && i.phase == 5 && i.entry.isNone)).map fun i =>
          if i.sess = idx ∧ i.phase = 5 then { i with sess := 0, kind := .condense 0 } else i }
      let s := modSess s idx fun y => { y with condensing := false, condDone := false, condPage := none, condSlots := 0, byPressure := false }
      let s := (s.cellar.resvs.filter fun r => r.sess == idx && r.seq == noSeq).foldl (fun s r => dropResv s r.id) s
      js.foldl (fun s j => complete (dropResvOf s j.seq idx) j.seq (ans stRetry)) s
    else s

/-! ### Ends of sessions -/

/-- A session's casks, extract, reservations and references are released (R153, R171). -/
def releaseCask (s : State) (idx : Nat) : State :=
  match sessAt s idx with
  | none => s
  | some x =>
    let s := freeExtentsIf s fun e => e.owner == .cask idx || e.owner == .page idx
    let ns := x.pages.filter fun p => p.isShared && p.onFlash
    let s := ns.foldl (fun s p => modNode s p.node fun n => { n with casks := n.casks - 1 }) s
    modSess s idx fun y => { y with cask := 0, caskBytes := 0, caskHdr := [],
                                    pages := y.pages.map fun p => { p with onFlash := false, flashFilled := 0, oast := 0 } }

def releaseExtract (s : State) (idx : Nat) : State :=
  match sessAt s idx with
  | some x =>
    match x.extract with
    | some e => modSess { s with cellar.extractsUsed := s.cellar.extractsUsed.erase e } idx fun y => { y with extract := none }
    | none => s
  | none => s

/-- Everything of a session leaves HBM and flash, and its nodes lose its references. -/
def releaseAll (s : State) (idx : Nat) : State :=
  match sessAt s idx with
  | none => s
  | some x =>
    let nodes := (x.pages.filter (·.isShared)).map (·.node)
    let s := releaseExtract (releaseCask (freeHbm s idx) idx) idx
    let s := (s.cellar.resvs.filter fun r => r.sess == idx).foldl (fun s r => dropResv s r.id) s
    let s := { s with
      mash.items := s.mash.items.filter fun i => i.sess != idx,
      oast.reads := s.oast.reads.filter fun r => match r.what with
        | .revive k => k != idx
        | .node k _ => k != idx
        | _ => true }
    nodes.foldl nodeReap (modSess s idx fun y =>
      { y with pages := [], run := none, parking := false, parkWait := false, condensing := false, reviving := false })

/-- The index leaves the table and joins the freed list; the generation stays known (R146). -/
def freeIndex (s : State) (idx : Nat) : State :=
  match sessAt s idx with
  | none => s
  | some x =>
    { s with
      cellar.sess := tdel s.cellar.sess idx
      cellar.gens := tput s.cellar.gens idx x.gen
      cellar.freed := s.cellar.freed ++ [idx] }

/-- CLOSED (R153): everything released, a CLOSE delta to the buddy, the index freed. -/
def closeEntry (s : State) (idx : Nat) : State := freeIndex (rack (releaseAll s idx) idx 11 0 plainDelta) idx

/-- The entry becomes ABSENT for the ABSENT hold (R150, R154). -/
def goAbsent (s : State) (idx owner : Nat) : State :=
  modSess (releaseAll s idx) idx fun y =>
    { y with state := stABSENT, ownerPeer := owner, incoming := false, dwellOn := false, deltas := [],
             expirySec := s.cellar.sec + 60 * max 1 s.cellar.absentHold }

/-- SESSION_EXPIRED, at most 1,000 in a second; the rest are counted for the summary (R466). -/
def raiseExpired (s : State) (x : Sess) : State :=
  if s.cellar.expiredThisSec < 1000 then
    raise { s with cellar.expiredThisSec := s.cellar.expiredThisSec + 1 } 0x42 x.tenant (handleOf x)
      [(8, x.parkSec), (8, x.expirySec), (4, 1)]
  else { s with cellar.expiredExtra := s.cellar.expiredExtra + 1 }

/-- A PARKED session expires (R171). -/
def expire (s : State) (idx : Nat) : State :=
  match sessAt s idx with
  | none => s
  | some x =>
    let s := rack (releaseAll s idx) idx 11 0 plainDelta
    let s := raiseExpired { s with cellar.cnt.expired := ctrAdd s.cellar.cnt.expired 1 } x
    modSess s idx fun y => { y with state := stEXPIRED, deltas := [],
                                    expirySec := s.cellar.sec + 60 * max 1 s.cellar.expiredHold }

/-! ### Revives (R174 to R176) -/

/-- Whether a read of flash into the pool is held: it is charged in flash and in HBM bytes (R126, R127). -/
def readHeld (s : State) (sl act : Nat) : Bool := !(hasBal s sl act 1 && hasBal s sl act 2)

def noteReadHold (s : State) (sl act : Nat) : State :=
  let s := if hasBal s sl act 2 then s else holdOn s sl act 2
  if hasBal s sl act 1 then s else holdOn s sl act 1

/-- A read of flash into the pool that nothing holds. -/
def poolRead (s : State) (sl act n addr : Nat) (what : ReadFor) : State := flashRead (charge s sl act 1 n) sl act n addr what

def revivesRunning (s : State) : Nat := countBy (fun p => p.2.reviving) s.cellar.sess

/-- Pages of the cask that the prefix tree does not hold in HBM. -/
def revivePages (s : State) (x : Sess) : List Page :=
  x.pages.filter fun p =>
    if p.isShared then (match nodeOf s p.node with
      | some n => !n.inHbm
      | none => true)
    else true

def reviveBytes (s : State) (x : Sess) : Nat := sumBy (pageBytes s x) (revivePages s x)

/-- Orders of the runs a cask revive reserves (R161). -/
def reviveOrders (s : State) (x : Sess) : List Nat :=
  let h := hdrOf s x
  ((revivePages s x).flatMap fun p => List.replicate (layerGroups h) (pageOrder h p.k)) ++
    [listOrder h x.pages.length, 2]

/-- The home die a model of a slice takes: most free frames, lowest number on a tie (R201). -/
def bestDie (s : State) (sl : Nat) : Option Nat :=
  minBy (fun d => 1073741824 - poolFree s d)
    ((List.range 4).filter fun d => dieUp s d && decide (sliceQuota s sl d ≠ 0))

/-- Orders of the runs that hold `bytes`: runs of 2^18 frames, then one for each power of two in what is left, the largest first,
so that no frame is taken beyond those needed (DESIGN CHOICE, log 107: R160 says "several runs" and not which). -/
def weightOrders (bytes : Nat) : List Nat :=
  let f := ceilDiv bytes 4096
  List.replicate (f / 262144) 18 ++ (List.range 18).reverse.filter fun i => f.testBit i

/-- The reads of a warm, under MOVE: they wait while a balance is spent (R127, R130, R201). -/
def warmReads (s : State) (m : Nat) : State :=
  match modelOf s m with
  | none => s
  | some x =>
    if x.st ≠ 1 ∨ x.asked then s
    else if readHeld s x.slice 6 then noteReadHold s x.slice 6
    else poolRead { s with models.models := tmod s.models.models m fun y => { y with asked := true } }
      x.slice 6 x.hdr.weightsBytes x.oast (.warm m)

/-- Runs dealt out again to pages in the order of the runs they replace. -/
def redeal : List Page → List Run → List Page
  | [], _ => []
  | p :: ps, rs =>
    if p.isShared then p :: redeal ps rs
    else { p with runs := rs.take p.runs.length } :: redeal ps (rs.drop p.runs.length)

/-- A session whose frames lie on another die than the home die its model takes now is moved there (R18); without frames for
it there it stays (log entry 111). -/
def rehomeSess (home : Nat) (s : State) (idx : Nat) : State :=
  match sessAt s idx with
  | none => s
  | some x =>
    let old := ((x.pages.filter fun p => !p.isShared).flatMap (·.runs)) ++ x.pageList ++ x.stateBlock
    if x.homeDie = home ∨ old = [] ∨ x.pages.any (fun p => p.isShared && p.runs != []) then s
    else match takeRuns s home x.tenant (sliceOfSess s x) (old.map (·.order)) with
    | none => s
    | some (rs, s) =>
      let n := rs.length - x.pageList.length - x.stateBlock.length
      modSess (freeRuns s x.homeDie old) idx fun y =>
        { y with homeDie := home, pages := redeal y.pages rs, pageList := (rs.drop n).take x.pageList.length,
                 stateBlock := rs.drop (n + x.pageList.length) }

/-- A warm starts: WARMING, frames taken on the home die, the weights read from the Oast (R18, R201). Answers `none`
where no die of the slice holds them. -/
def beginWarm (s : State) (m : Nat) : Option State :=
  match modelOf s m with
  | none => none
  | some x =>
    let local_ := x.hdr.expertMap.filter fun e => e.1 == s.fab.self
    let shared := x.hdr.weightsBytes - sumBy (·.2) x.hdr.expertMap
    let mains := s.models.drafts.filterMap fun b =>
      if b.2.1 = m then (modelOf s b.1).bind fun y => if y.st = 2 then some y.homeDie else none else none
    let dies : List (Option Nat) := if mains = [] then [none] else (mains.eraseDups).map some
    let placeOn (acc : Option (List (Nat × Run) × State)) (bytes : Nat) (die : Option Nat) : Option (List (Nat × Run) × State) :=
      match acc with
      | none => none
      | some (rs, s) =>
        match die <|> bestDie s x.slice with
        | none => none
        | some d =>
          match takeRuns s d x.tenant x.slice (weightOrders bytes) with
          | some (r, s) => some (rs ++ r.map fun k => (d, k), s)
          | none => none
    -- a bound draft has one copy on the home die of each resident main (R202)
    let place (acc : Option (List (Nat × Run) × State)) (bytes : Nat) : Option (List (Nat × Run) × State) :=
      dies.foldl (fun acc d => placeOn acc bytes d) acc
    match (shared :: local_.map (·.2)).foldl place (some ([], s)) with
    | none => none
    | some (rs, s) =>
      let home := match rs with
        | (d, _) :: _ => d
        | [] => (bestDie s x.slice).getD 0
      let s := { s with models.models := tmod s.models.models m fun y =>
        { y with st := 1, homeDie := home, runs := rs, warmSince := s.dev.localCtr, asked := false } }
      let here := (s.cellar.sess.filter fun p => p.2.model == m && p.2.state != stPARKED).map (·.1)
      some (warmReads (here.foldl (rehomeSess home) s) m)

/-- The frames of a cask revive asked for on the home die of its model; its reservation bears no command (R18, R161). -/
def askRevive (s : State) (idx : Nat) : State :=
  match sessAt s idx with
  | none => s
  | some x =>
    let d := ((modelOf s x.model).map (·.homeDie)).getD x.homeDie
    let s := dropResvOf (modSess s idx fun y => { y with homeDie := d }) noSeq idx
    askFrames s noSeq idx d x.tenant (sliceOfSess s x) (reviveOrders s x)

/-- A revive starts for a PARKED or EXTRACT session (R174, R176): `reviving` is set, the model warmed if it is only
REGISTERED (R202), and the frames of a cask revive asked for, once a model that is EVICTING has ended that (R201). -/
def beginRevive (s : State) (idx : Nat) : State :=
  match sessAt s idx with
  | none => s
  | some x =>
    let st := ((modelOf s x.model).map (·.st)).getD 0
    let warm (s : State) : State := if st = 0 then (beginWarm s x.model).getD s else s
    if x.reviving then s
    else if x.state = stEXTRACT then warm (modSess s idx fun y => { y with reviving := true, reviveSrc := 1 })
    else if x.state = stPARKED then
      let src := if (s.oast.mountState = 2 ∨ optsOut s x) ∧ x.cask ≠ 0 then 2 else 3
      let s := warm (modSess s idx fun y => { y with reviving := true, reviveSrc := src, reviveRead := false })
      if st = 3 then s else askRevive s idx
    else s

/-- Whether a revive has its frames and has still to issue its reads from the Oast. -/
def reviveDue (s : State) (x : Sess) : Bool :=
  x.reviving && x.reviveSrc == 2 && !x.reviveRead && (match resvBySeq s noSeq x.idx with
    | some r => r.granted
    | none => false) && !(s.oast.reads.any fun r => r.what == .revive x.idx)

/-- The reads of a granted cask revive: from the Oast, held while a MOVE balance is spent, or from the buddy over class 4
(R127, R142, R174). -/
def reviveReads (s : State) (idx : Nat) : State :=
  match sessAt s idx with
  | none => s
  | some x =>
    let sl := sliceOfSess s x
    let n := reviveBytes s x
    if x.reviveSrc = 2 then
      if reviveDue s x = false then s
      else if readHeld s sl 6 then noteReadHold s sl 6
      else
        let s := noteClass (noteClass s x.share 2 n) x.share 1 n
        poolRead s sl 6 n x.cask (.revive idx)
    else if x.reviveSrc = 3 then
      let peer := if x.caskPeer ≠ 0 then x.caskPeer else buddyOf s x
      sendMsg s peer 4 sl 6 x.tenant false (.caskAsk (handleOf x))
    else s

/-- Microseconds from a counter value to now (R406). -/
def usSince (s : State) (t : Nat) : Nat := (s.dev.localCtr - t) / Config.usCycles

/-- Page runs of a revived page: its node's where the node has HBM pages, else new runs of the reservation, which a
node then keeps (R167). -/
def revivePage (s : State) (idx : Nat) (p : Page) : Page × State :=
  match sessAt s idx with
  | none => (p, s)
  | some x =>
    let fresh (s : State) : Option (List Run × State) :=
      runsFor s noSeq idx x.homeDie x.tenant (sliceOfSess s x) (pageOrder (hdrOf s x) p.k) (groupsOf s x)
    if p.isShared then
      match nodeOf s p.node with
      | some n =>
        if n.inHbm then ({ p with runs := n.runs }, modNode s n.id fun n => { n with links := n.links + 1, lastLinked := s.dev.localCtr })
        else match fresh s with
          | some (rs, s) => ({ p with runs := rs }, modNode s n.id fun n =>
              { n with links := n.links + 1, inHbm := true, runs := rs, die := x.homeDie, lastLinked := s.dev.localCtr })
          | none => (p, s)
      | none => (p, s)
    else match fresh s with
      | some (rs, s) => ({ p with runs := rs }, s)
      | none => (p, s)

/-- The pages of a revived session, each read back or linked. -/
def returnPages (s : State) (idx : Nat) (l : List Page) : List Page × State :=
  l.foldl (fun (acc : List Page × State) p => (acc.1 ++ [(revivePage acc.2 idx p).1], (revivePage acc.2 idx p).2)) ([], s)

/-- One run of an order from the session's reservation, or none. -/
def oneRun (s : State) (idx die tenant sl order : Nat) : List Run × State :=
  match runFor s noSeq idx die tenant sl order with
  | some (r, s) => ([r], s)
  | none => ([], s)

/-- The session is WARM again (R174, R176). The cask of a cask revive stays (R150); an extract's slot is released and
its pages become page 0 on; the revive is racked, its commands complete. -/
def finishRevive (s : State) (idx : Nat) : State :=
  match sessAt s idx with
  | none => s
  | some x =>
    let cask := decide (x.state = stPARKED)
    let (ps, s) := if cask then returnPages s idx x.pages else (x.pages, s)
    let (pl, s) := if cask then oneRun s idx x.homeDie x.tenant (sliceOfSess s x) (listOrder (hdrOf s x) x.pages.length)
      else (x.pageList, s)
    let (sb, s) := if cask then oneRun s idx x.homeDie x.tenant (sliceOfSess s x) 2 else (x.stateBlock, s)
    let slots := match x.pages with
      | p :: _ => 2 ^ p.k
      | [] => 0
    let s := if cask then s else releaseExtract s idx
    let s := modSess s idx fun y =>
      { y with state := stWARM, reviving := false, pages := ps, pageList := pl, stateBlock := sb,
               warmSince := s.dev.localCtr, parkWear := 0,
               kvShift := if cask then y.kvShift else (y.position + two32 - slots) % two32,
               linked := y.linked && cask }
    let s := dropResvOf s noSeq idx
    let s := { s with cellar.cnt.revive := lmod s.cellar.cnt.revive x.reviveSrc fun n => ctrAdd n 1 }
    let s := rack s idx 6 0 plainDelta
    let js := (sessJobs s idx).filter fun j => j.kind == .revive
    dwellStart (js.foldl (fun s j => complete (applied s idx j.seq) j.seq
      (ansB (lay [(1, x.reviveSrc), (3, 0), (4, usSince s j.acceptedAt)]))) s) idx

/-! ### Condenses (R172, R173) -/

/-- A loaded condenser segment whose bucket reaches the session's position (R173, R206). -/
def hasCondenser (s : State) (x : Sess) : Bool :=
  s.mill.segs.any fun g => g.2.model == x.model && g.2.phase == 5 && !g.2.replaced && decide (x.position ≤ 2 ^ g.2.bucket)

/-- Whether a further extract can be held: those there are, and those that a condense in progress will make (R173, R177). -/
def extractFree (s : State) : Bool :=
  decide (s.cellar.extractsUsed.length + countBy (fun p => p.2.condensing) s.cellar.sess < Config.extractMax)

def freeExtractSlot (s : State) : Nat :=
  ((List.range (s.cellar.extractsUsed.length + 1)).find? fun i => !s.cellar.extractsUsed.contains i).getD 0

/-- Orders of the runs of an extract of `slots` slots (R173). -/
def extractOrders (s : State) (x : Sess) (slots : Nat) : List Nat :=
  List.replicate (groupsOf s x) (pageOrder (hdrOf s x) (log2Ceil slots))

/-- The second condense row of R150 applies. -/
def condensable (s : State) (x : Sess) : Bool := bit (serviceOf s x.cls).flags 1

end Sys2Proof.Machine
end

