-- ==== Sys2Proof/Machine/Text.lean ====
section
/-! DEFINITION. The Copper: vocabulary and grammar objects, UTF-8, tokenising, detokenising with stop strings, the
grammar step (R208 to R233). -/
namespace Sys2Proof.Machine

/-! ### UTF-8 (R216, R217, R219) -/

/-- Continuation bytes a lead byte needs and the range of the first of them; `none` for a byte that starts nothing. -/
def utf8Lead (b : Nat) : Option (Nat × Nat × Nat) :=
  if b < 0x80 then some (0, 0, 0)
  else if 0xC2 ≤ b ∧ b ≤ 0xDF then some (1, 0x80, 0xBF)
  else if b = 0xE0 then some (2, 0xA0, 0xBF)
  else if b = 0xED then some (2, 0x80, 0x9F)
  else if 0xE1 ≤ b ∧ b ≤ 0xEF then some (2, 0x80, 0xBF)
  else if b = 0xF0 then some (3, 0x90, 0xBF)
  else if 0xF1 ≤ b ∧ b ≤ 0xF3 then some (3, 0x80, 0xBF)
  else if b = 0xF4 then some (3, 0x80, 0x8F)
  else none

/-- Continuation bytes matched, of `need`, the first within `lo` to `hi`; and whether the input ended. -/
def utf8Conts : Nat → Nat → Nat → List Byte → Nat × Bool
  | 0, _, _, _ => (0, false)
  | _ + 1, _, _, [] => (0, true)
  | n + 1, lo, hi, b :: bs =>
    if lo ≤ b.toNat ∧ b.toNat ≤ hi then
      let r := utf8Conts n 0x80 0xBF bs
      (r.1 + 1, r.2)
    else (0, false)

/-- The first unit of a byte string: kind 0 a character, 1 a maximal ill-formed subpart, 2 an incomplete but so far
well-formed tail; and its length. -/
def utf8Unit : List Byte → Nat × Nat
  | [] => (0, 0)
  | b :: bs =>
    match utf8Lead b.toNat with
    | none => (1, 1)
    | some (need, lo, hi) =>
      let r := utf8Conts need lo hi bs
      if r.1 = need then (0, need + 1) else if r.2 then (2, r.1 + 1) else (1, r.1 + 1)

/-- The units of a byte string with their offsets: (kind, offset, bytes). -/
def utf8Units : Nat → Nat → List Byte → List (Nat × Nat × List Byte)
  | 0, _, _ => []
  | n + 1, off, bs =>
    if bs = [] then []
    else
      let u := utf8Unit bs
      (u.1, off, bs.take u.2) :: utf8Units n (off + u.2) (bs.drop u.2)

def unitsOf (bs : List Byte) : List (Nat × Nat × List Byte) := utf8Units bs.length 0 bs

/-- U+FFFD. -/
def replacement : List Byte := [0xEF, 0xBF, 0xBD]

/-- Input or output text with every ill-formed subpart replaced, the tail left over, and the subparts counted. -/
def repairText (bs : List Byte) : List Byte × List Byte × Nat :=
  (unitsOf bs).foldl (fun acc u =>
    if u.1 = 0 then (acc.1 ++ u.2.2, acc.2) else if u.1 = 1 then (acc.1 ++ replacement, acc.2.1, acc.2.2 + 1)
    else (acc.1, u.2.2, acc.2.2)) ([], [], 0)

/-- Offset of the first ill-formed subpart. -/
def firstIll (bs : List Byte) : Option Nat := ((unitsOf bs).find? fun u => u.1 == 1).map fun u => u.2.1

def wellFormed (bs : List Byte) : Bool := (unitsOf bs).all fun u => u.1 == 0

/-! ### Vocabularies (R208 to R210) -/

/-- No two byte strings are equal. -/
def noRepeat : List (List Byte) → Bool
  | [] => true
  | a :: l => !l.contains a && noRepeat l

/-- A vocabulary object read and verified (R208, R209); `none` is a failed verification. -/
def parseVocab (o : ObjRef) (bs : List Byte) : Option Vocab :=
  let n := fld bs 8 4
  let kind := fld bs 6 1
  let unk := fld bs 12 4
  let tokOff := fld bs 16 8
  let bytesOff := fld bs 24 8
  let ruleOff := fld bs 32 8
  let splitOff := fld bs 40 8
  let rules := fld bs 48 4
  let states := fld bs 52 4
  let recs := records bs tokOff 8 n
  let toks : List TokRec := recs.map fun r =>
    { bytes := cut bs (bytesOff + fld r 0 4) (fld r 4 1), special := bit (fld r 5 1) 0 }
  let plain := toks.filter fun t => !t.special
  let ruleLen := if kind = 0 then 12 * rules else 4 * n
  let merges := if kind = 0 then (records bs ruleOff 12 rules).map fun r => (fld r 0 4, fld r 4 4, fld r 8 4) else []
  let tk (i : Nat) : TokRec := lget toks i { bytes := [], special := true }
  let ok := decide (64 ≤ bs.length) && decide (bs.length ≤ 1073741824) && fld bs 0 4 == 0x42434F56 && fld bs 4 2 == 1 &&
    decide (kind ≤ 1) && zeros bs 7 1 && zeros bs 56 8 && decide (2 ≤ n) && decide (n ≤ 262144) &&
    decide (1 ≤ states) && decide (states ≤ 65536) && within bs tokOff (8 * n) && decide (bytesOff ≤ bs.length) &&
    within bs ruleOff ruleLen && decide (splitOff ≤ bs.length) && (kind == 0 || rules == 0) &&
    recs.all (fun r => decide (1 ≤ fld r 4 1) && decide (fld r 4 1 ≤ 128) && decide (fld r 5 1 < 4) && zeros r 6 2 &&
      (!bit (fld r 5 1) 1 || fld r 4 1 == 1) && within bs (bytesOff + fld r 0 4) (fld r 4 1)) &&
    noRepeat (plain.map fun t => t.bytes) &&
    (if kind = 0 then
      unk == 0xFFFFFFFF &&
      (List.range 256).all (fun b => countBy (fun t => t.bytes == [BitVec.ofNat 8 b]) plain == 1) &&
      merges.all (fun m => decide (m.1 < n) && decide (m.2.1 < n) && decide (m.2.2 < n) && !(tk m.1).special &&
        !(tk m.2.1).special && !(tk m.2.2).special && (tk m.2.2).bytes == (tk m.1).bytes ++ (tk m.2.1).bytes)
    else
      unk == 0xFFFFFFFF && (List.range 256).all (fun b => plain.any fun t => t.bytes == [BitVec.ofNat 8 b]) ||
      decide (unk < n))
  if ok then
    some { digest := o.digest, size := o.len, kind := kind, toks := toks, unk := if unk = 0xFFFFFFFF then none else some unk,
           merges := merges, scores := if kind = 1 then (records bs ruleOff 4 n).map fun r => BitVec.ofNat 32 (fld r 0 4) else [],
           split := bs.drop splitOff, runs := [], obj := o }
  else none

/-! ### Tokenising (R212) -/

/-- The pieces of a text: the lengths the pre-tokeniser automaton gives, what is left being the last piece. -/
def cutPieces : List Nat → List Byte → List (List Byte)
  | [], [] => []
  | [], bs => [bs]
  | n :: ns, bs => if bs = [] then [] else if n = 0 then cutPieces ns bs else bs.take n :: cutPieces ns (bs.drop n)

def byteToken (v : Vocab) (b : Byte) : Nat :=
  ((List.range v.toks.length).find? fun i => match v.toks[i]? with
    | some t => !t.special && t.bytes == [b]
    | none => false).getD 0

/-- The leftmost place of an adjacent pair. -/
def pairAt (l r : Nat) : List Nat → Bool
  | a :: b :: t => (a == l && b == r) || pairAt l r (b :: t)
  | _ => false

def mergeAt (l r m : Nat) : List Nat → List Nat
  | a :: b :: t => if a = l ∧ b = r then m :: t else a :: mergeAt l r m (b :: t)
  | x => x

/-- Byte-level BPE: the merge of lowest rank that matches, at its leftmost pair, until none applies. -/
def bpe (merges : List (Nat × Nat × Nat)) : Nat → List Nat → List Nat
  | 0, ts => ts
  | n + 1, ts =>
    match merges.find? fun m => pairAt m.1 m.2.1 ts with
    | some m => bpe merges n (mergeAt m.1 m.2.1 m.2.2 ts)
    | none => ts

/-- A division of a suffix: fallbacks, sum of scores times 2^149, ids. -/
structure Division where
  falls : Nat
  score : Int
  ids : List Nat
deriving DecidableEq, Repr, Inhabited

def lexLt : List Nat → List Nat → Bool
  | _, [] => false
  | [], _ :: _ => true
  | a :: as, b :: bs => decide (a < b) || (a == b && lexLt as bs)

/-- R212's order: fewest fallbacks, greatest sum, fewer tokens, lower id sequence. -/
def divBetter (a b : Division) : Bool :=
  if a.falls ≠ b.falls then decide (a.falls < b.falls)
  else if a.score ≠ b.score then decide (a.score > b.score)
  else if a.ids.length ≠ b.ids.length then decide (a.ids.length < b.ids.length)
  else lexLt a.ids b.ids

def bestDiv : List Division → Option Division
  | [] => none
  | a :: l => match bestDiv l with
    | none => some a
    | some b => if divBetter b a then some b else some a

/-- Best divisions of every suffix of a piece, the whole piece first. -/
def unigram (v : Vocab) : List Byte → List Division
  | [] => [{ falls := 0, score := 0, ids := [] }]
  | b :: bs =>
    let tbl := unigram v bs
    let whole := b :: bs
    let cands := (List.range v.toks.length).filterMap fun i =>
      match v.toks[i]? with
      | some t =>
        if t.special then none
        else if t.bytes.isPrefixOf whole then
          (tbl[t.bytes.length - 1]?).map fun d =>
            { falls := d.falls, score := d.score + f32Scaled (lget v.scores i 0), ids := i :: d.ids : Division }
        else none
      | none => none
    let fall := match v.unk, tbl with
      | some u, d :: _ => [{ falls := d.falls + 1, score := d.score, ids := u :: d.ids : Division }]
      | _, _ => []
    (bestDiv (cands ++ fall)).getD default :: tbl

/-- The tokens of a well-formed text (R212). -/
def tokenise (v : Vocab) (text : List Byte) : List Nat :=
  (cutPieces (Config.pieceLens v.split text) text).flatMap fun p =>
    if v.kind = 0 then bpe v.merges p.length (p.map (byteToken v))
    else match unigram v p with
      | d :: _ => d.ids
      | [] => []

def vocabOf (s : State) (v : Nat) : Option Vocab := tget s.copper.vocabs v

/-- Tokens of `text` counted (R234). -/
def countTok (s : State) (bytes toks repl : Nat) : State :=
  { s with copper.tokBytes := ctrAdd s.copper.tokBytes bytes, copper.tokensIn := ctrAdd s.copper.tokensIn toks,
           copper.replaced := ctrAdd s.copper.replaced repl }

/-- Query, passage and flushed text under REPLACE: an incomplete tail is one subpart more (R216, R218). -/
def tokeniseAll (v : Vocab) (bs : List Byte) : List Nat × Nat :=
  let r := repairText bs
  if r.2.1 = [] then (tokenise v r.1, r.2.2) else (tokenise v (r.1 ++ replacement), r.2.2 + 1)

/-! ### Engines (R215) -/

/-- Free engines take waiting inputs in their order. -/
def fillEngines (s : State) : State :=
  let n := 16 - s.copper.engines.length
  { s with copper.engines := s.copper.engines ++ s.copper.waiting.take n, copper.waiting := s.copper.waiting.drop n }

/-- `n` inputs of a command join the engines, or wait behind them: an append has one, a query one for each text. -/
def enqueueInputs (s : State) (seq n : Nat) : State :=
  fillEngines { s with copper.waiting := s.copper.waiting ++ List.replicate n seq }

def enqueueInput (s : State) (seq : Nat) : State := enqueueInputs s seq 1

/-- An engine has done an input of a command, and takes the next waiting one. -/
def leaveEngine (s : State) (seq : Nat) : State := fillEngines { s with copper.engines := s.copper.engines.erase seq }

/-- Nothing of a command is tokenised any more. -/
def leaveEngines (s : State) (seq : Nat) : State :=
  fillEngines { s with copper.engines := s.copper.engines.filter (· != seq), copper.waiting := s.copper.waiting.filter (· != seq) }

/-- Whether an input of a command is with an engine or waits for one. -/
def tokenising (s : State) (seq : Nat) : Bool := s.copper.engines.contains seq || s.copper.waiting.contains seq

/-! ### Grammars (R225 to R233) -/

/-- Contexts of one state: specific tops ascending, then at most one that matches any top (R226). -/
def ctxOrder : List GramCtx → Bool
  | [] => true
  | [_] => true
  | a :: b :: l => decide (a.top < b.top) && ctxOrder (b :: l)

/-- A grammar object read and verified (R225, R226). `eos` lists the end tokens of the tenant's models of this
vocabulary size. -/
def parseGrammar (o : ObjRef) (tenant vocab vtokens : Nat) (eos : List Nat) (bs : List Byte) : Option Grammar :=
  let tokens := fld bs 8 4
  let ns := fld bs 12 4
  let nc := fld bs 16 4
  let nm := fld bs 20 4
  let nt := fld bs 24 4
  let start := fld bs 28 4
  let mb := fld bs 32 4
  let np := fld bs 36 4
  let so := fld bs 40 8
  let co := fld bs 48 8
  let tro := fld bs 56 8
  let po := fld bs 64 8
  let mo := fld bs 72 8
  let head := decide (128 ≤ bs.length) && decide (bs.length ≤ 268435456) && fld bs 0 4 == 0x4D524743 && fld bs 4 2 == 1 &&
    zeros bs 6 2 && zeros bs 80 48 && tokens == vtokens && decide (1 ≤ ns) && decide (ns ≤ 1048576) && decide (1 ≤ nc) &&
    decide (nc ≤ 4194304) && decide (1 ≤ nm) && decide (nm ≤ 65536) && decide (np ≤ 65536) && decide (start < ns) &&
    mb == ceilDiv tokens 512 * 64 && within bs so (8 * ns) && within bs co (32 * nc) && within bs tro (8 * nt) &&
    within bs po (2 * np) && within bs mo (mb * nm)
  if head = false then none
  else
    let states := (records bs so 8 ns).map fun r => (fld r 0 4, fld r 4 2)
    let masks := (records bs mo mb nm).map leNat
    let ctxs : List GramCtx := (records bs co 32 nc).map fun r =>
      { state := fld r 0 4, top := fld r 4 2, accepting := bit (fld r 6 2) 0, mask := fld r 8 4, growMask := fld r 12 4,
        transBase := fld r 16 4, transCount := fld r 20 4 }
    let trans := (records bs tro 8 nt).map fun r => (fld r 0 4, fld r 4 1, fld r 5 1, fld r 6 2)
    let push := (records bs po 2 np).map fun r => fld r 0 2
    let ok := (records bs so 8 ns).all (fun r => zeros r 6 2) &&
      states.all (fun st => decide (st.1 + st.2 ≤ nc) && ctxOrder ((ctxs.drop st.1).take st.2)) &&
      (records bs co 32 nc).all (fun r => decide (fld r 6 2 < 2) && zeros r 24 8) &&
      ctxs.all (fun c => decide (c.state < ns) && decide (c.mask < nm) && decide (c.growMask < nm) &&
        decide (c.transBase + c.transCount ≤ nt) &&
        c.transCount == popBelow (lget masks c.mask 0) (8 * mb) &&
        lget masks c.mask 0 &&& lget masks c.growMask 0 == lget masks c.growMask 0 &&
        (c.accepting || eos.all fun e => !bit (lget masks c.mask 0) e)) &&
      trans.all (fun t => decide (t.1 < ns) && decide (t.2.2.1 ≤ 4) && decide (t.2.2.1 ≤ t.2.1 + 1) &&
        decide (t.2.2.2 + t.2.2.1 ≤ np))
    if ok then
      some { tenant := tenant, vocab := vocab, digest := o.digest, size := o.len, tokens := tokens, start := start,
             states := states, ctxs := ctxs, trans := trans, push := push, masks := masks, runs := [], obj := o }
    else none

def grammarOf (s : State) (g : Nat) : Option Grammar := tget s.copper.grammars g

/-- The context of a state and a stack, top first (R229): its index. -/
def findCtx (g : Grammar) (state : Nat) (stack : List Nat) : Option Nat :=
  match g.states[state]? with
  | none => none
  | some (f, n) =>
    let ids := (List.range n).map (· + f)
    let topOf (i : Nat) : Nat := (lget g.ctxs i default).top
    match stack with
    | t :: _ =>
      match ids.find? fun i => topOf i == t && topOf i != 0xFFFF with
      | some i => some i
      | none => ids.find? fun i => topOf i == 0xFFFF
    | [] => ids.find? fun i => topOf i == 0xFFFF

/-- A transition: pops, pushes with the last symbol on top, moves; `none` where it pops more than the stack holds
(R232). -/
def gramMove (g : Grammar) (t : Nat) (stack : List Nat) : Option (Nat × List Nat) :=
  match g.trans[t]? with
  | none => none
  | some (next, pop, pushN, pushIdx) =>
    if stack.length < pop then none
    else some (next, ((g.push.drop pushIdx).take pushN).reverse ++ stack.drop pop)

/-- The grammar a running generate samples under: the command's, or the session's. -/
def activeGrammar (s : State) (x : Sess) : Option Grammar :=
  match x.run with
  | some r => if r.p.grammar ≠ 0 then grammarOf s r.p.grammar else if x.grammar ≠ 0 then grammarOf s x.grammar else none
  | none => if x.grammar ≠ 0 then grammarOf s x.grammar else none

/-- The grammar in force with its state and stack. -/
def gramAt (s : State) (x : Sess) : Option (Grammar × Nat × List Nat) :=
  (activeGrammar s x).map fun g =>
    let cmd := match x.run with
      | some r => decide (r.p.grammar ≠ 0)
      | none => false
    if cmd then (g, x.blk.cgState, x.blk.cgStack) else (g, x.blk.sgState, x.blk.sgStack)

/-- The slot of a context (R230); without a context nothing is allowed, and the step is dead (R229). -/
def slotFor (g : Grammar) (st : Nat) (stack : List Nat) : MaskSlot :=
  match findCtx g st stack with
  | some i =>
    let c := lget g.ctxs i default
    { transBase := c.transBase, accepting := c.accepting, atLimit := decide (64 ≤ stack.length),
      mask := lget g.masks c.mask 0, growMask := lget g.masks c.growMask 0 }
  | none => { (default : MaskSlot) with atLimit := decide (64 ≤ stack.length) }

/-- Slot `i` of a session's mask window staged (R230, R232); what stood there and beyond is gone. -/
def stageSlot (s : State) (idx i : Nat) (t : MaskSlot) : State :=
  modSess { s with copper.masksStaged := ctrAdd s.copper.masksStaged 1 } idx fun y =>
    { y with blk := { y.blk with slots := y.blk.slots.take i ++ [t] } }

/-- The slot of the next sample, if the session samples under a grammar. -/
def stageNow (s : State) (idx : Nat) : State :=
  match (sessAt s idx).bind (gramAt s) with
  | some (g, st, stk) => stageSlot s idx 0 (slotFor g st stk)
  | none => s

/-- Whether the session's grammar has no context, so that its step is dead (R229). -/
def noContext (s : State) (idx : Nat) : Bool :=
  match (sessAt s idx).bind (gramAt s) with
  | some (g, st, stk) => (findCtx g st stk).isNone
  | none => false

/-- The Copper applies a reported transition to the grammar in force and stages the next slot (R232). False: the step is dead, by
underflow or for want of a context to have sampled under (R229). -/
def gramApply (s : State) (idx t : Nat) : State × Bool :=
  match sessAt s idx with
  | none => (s, true)
  | some x =>
    match gramAt s x with
    | none => (s, true)
    | some (g, st0, stack) =>
      let cmd := match x.run with
        | some r => decide (r.p.grammar ≠ 0)
        | none => false
      if findCtx g st0 stack = none then (s, false)
      else match gramMove g t stack with
      | none => ({ s with copper.gramFault := ctrAdd s.copper.gramFault 1 }, false)
      | some (st, stk) =>
        let ctx := findCtx g st stk
        (stageSlot (modSess s idx fun y => { y with
          blk := if cmd then { y.blk with cgState := st, cgStack := stk, cgCtx := ctx }
                 else { y.blk with sgState := st, sgStack := stk, sgCtx := ctx } }) idx 0 (slotFor g st stk), true)

/-- A grammar at its start state with an empty stack (R228). -/
def gramStart (s : State) (idx g : Nat) (cmd : Bool) : State :=
  match grammarOf s g with
  | none => s
  | some r =>
    let c := findCtx r r.start []
    modSess s idx fun y => { y with
      blk := if cmd then { y.blk with cgState := r.start, cgStack := [], cgCtx := c }
             else { y.blk with sgState := r.start, sgStack := [], sgCtx := c } }

/-! ### Detokenising (R219 to R223) -/

/-- The stop string that ends on the last byte of `buf`: the longest, the first given among equals. -/
def stopAtEnd (stops : List (List Byte)) (buf : List Byte) : Option (Nat × Nat) :=
  let hits := (List.range stops.length).filterMap fun i =>
    match stops[i]? with
    | some st => if st ≠ [] ∧ st.isSuffixOf buf then some (i, st.length) else none
    | none => none
  hits.foldl (fun (best : Option (Nat × Nat)) h =>
    match best with
    | none => some h
    | some b => if h.2 > b.2 then some h else some b) none

/-- The longest suffix of `buf` that is a proper prefix of a stop string: how many bytes. -/
def holdLen (stops : List (List Byte)) (buf : List Byte) : Nat :=
  (stops.map fun st => (((List.range (min st.length (buf.length + 1))).reverse.find? fun n =>
    (st.take n).isSuffixOf buf).getD 0)).foldl max 0

/-- Bytes fed to the matcher: what is unreleased after them, and the stop string that completed with the bytes kept
before it. -/
def feedMatcher (stops : List (List Byte)) : List Byte → List Byte → List Byte × Option (Nat × List Byte × Nat)
  | buf, [] => (buf, none)
  | buf, b :: bs =>
    let buf' := buf ++ [b]
    match stopAtEnd stops buf' with
    | some (i, n) => (buf', some (i, buf'.take (buf'.length - n), n + bs.length))
    | none => feedMatcher stops buf' bs

/-- What one step of detokenising answers: bytes released, new held bytes, new output tail, subparts replaced, and the
stop index with the bytes withheld. -/
structure Detok where
  out : List Byte
  held : List Byte
  tail : List Byte
  repl : Nat
  stop : Option (Nat × Nat)
deriving DecidableEq, Repr, Inhabited

/-- One token's bytes through UTF-8 assembly, the matcher and holdback (R219, R220). -/
def detok (stops : List (List Byte)) (held tail bytes : List Byte) : Detok :=
  let r := repairText (tail ++ bytes)
  match feedMatcher stops held r.1 with
  | (_, some (i, keep, w)) => { out := keep, held := [], tail := [], repl := r.2.2, stop := some (i, w) }
  | (buf, none) =>
    let h := holdLen stops buf
    { out := buf.take (buf.length - h), held := buf.drop (buf.length - h), tail := r.2.1, repl := r.2.2, stop := none }

/-- The end of a generate that no stop string ended (R222). -/
def detokEnd (stops : List (List Byte)) (held tail : List Byte) : Detok :=
  if tail = [] then { out := held, held := [], tail := [], repl := 0, stop := none }
  else match feedMatcher stops held replacement with
    | (_, some (i, keep, w)) => { out := keep, held := [], tail := [], repl := 1, stop := some (i, w) }
    | (buf, none) => { out := buf, held := [], tail := [], repl := 1, stop := none }

/-- Bytes of all vocabulary and grammar tables (R210, R227). -/
def tableBytes (s : State) : Nat :=
  sumBy (fun v => v.2.size) s.copper.vocabs + sumBy (fun g => g.2.size) s.copper.grammars

end Sys2Proof.Machine
end

