-- ==== Sys2Proof/Machine/Generate.lean ====
section
/-! DEFINITION. Work items, the order of a session's commands, appends, generates, commits, releases and ends (R23, R24,
R131 to R133, R165, R166, R179 to R197, R207, R217 to R233, R331). -/
namespace Sys2Proof.Machine

/-! ### Groups, segments and cost (R93, R116, R118, R181, R182) -/

/-- The activity that runs a phase's items (R119). -/
def phaseAct : Nat → Nat
  | 0 => 1
  | 1 => 2
  | 2 => 3
  | 3 => 4
  | 4 => 4
  | _ => 10

/-- The groups of a layout: (die, first die-local tile, size, governed). -/
def layoutGroups (layout : List Nat) : List (Nat × Nat × Nat × Bool) :=
  (List.range 64).filterMap fun i =>
    let b := lget layout i 0
    if bits b 4 0 = 0 then none else some (i / 16, i % 16, bits b 4 0, bit b 5)

/-- The slice that holds all tiles of a group; `none` where they span two (R123). -/
def groupSlice (s : State) (d t n : Nat) : Option Nat :=
  (List.range 16).find? fun sl =>
    (List.range n).all fun i => bit (lget s.fab.slices sl default).tiles (16 * d + t + i)

/-- Whether the active table assigns a group of size `n` in slice `sl` to activity `act`, or governs it, in some rest. -/
def tableGives (s : State) (sl n act : Nat) : Bool :=
  (layoutGroups s.mash.table.layout).any fun g =>
    g.2.2.1 == n && groupSlice s g.1 g.2.1 g.2.2.1 == some sl &&
    s.mash.table.rests.any fun r =>
      let a := lget r.act (16 * g.1 + g.2.1) 0
      a == act || (a == 0xF && (act == 1 || act == 2))

/-- Loaded segments of a model and phase. -/
def segsOf (s : State) (model phase : Nat) : List Segment :=
  (s.mill.segs.filter fun g => g.2.model == model && g.2.phase == phase && !g.2.replaced).map (·.2)

/-- R182: some loaded segment of the phase has a group of its size with its activity in the slice. -/
def servable (s : State) (model sl phase : Nat) : Bool :=
  (segsOf s model phase).any fun g => tableGives s sl g.groupTiles (phaseAct phase)

/-- The k of a verify item; 0 for every other kind. -/
def itemK : ItemKind → Nat
  | .verify k => k
  | _ => 0

/-- The segment chosen for a head item on a group of size `n`, with `others` further items within reach (R181). A verify item
takes a segment that declares its k (R180). -/
def pickSeg (s : State) (model phase k n lastPos : Nat) (others : Nat → Nat) : Option Segment :=
  let fit := (segsOf s model phase).filter fun g => g.groupTiles == n && decide (lastPos ≤ 2 ^ g.bucket) &&
    (phase != 2 || Config.segK g.digest == k)
  match minBy (fun g => g.bucket) fit with
  | none => none
  | some c =>
    let l := fit.filter fun g => g.bucket == c.bucket
    match minBy (fun g => g.batch) (l.filter fun g => decide (others c.bucket + 1 ≤ g.batch)) with
    | some g => some g
    | none => minBy (fun g => 65536 - g.batch) l

/-- Eligible items but `self` that could share a batch with an item within a bucket (R181). -/
def othersFor (s : State) (self model sl phase k bucket : Nat) : Nat :=
  countBy (fun it => it.entry.isNone && it.id != self && it.model == model && it.slice == sl && it.phase == phase &&
    itemK it.kind == k && decide (it.lastPos ≤ 2 ^ bucket)) s.mash.items

/-- The segment an item's cost is taken from when it becomes eligible: that of the first group size of the layout that
serves it (R132, R181; which size is a choice, log entry 22). -/
def costSeg (s : State) (self model sl phase lastPos : Nat) (kind : ItemKind) : Option Segment :=
  let sizes := (layoutGroups s.mash.table.layout).filterMap fun g =>
    if groupSlice s g.1 g.2.1 g.2.2.1 = some sl then some g.2.2.1 else none
  let k := itemK kind
  match sizes.filterMap fun n =>
    if tableGives s sl n (phaseAct phase) then pickSeg s model phase k n lastPos (othersFor s self model sl phase k) else none with
  | g :: _ => some g
  | [] => none

/-- a − b as a signed difference modulo 2^64 is positive (R133). -/
def tagAfter (a b : Nat) : Bool := decide (0 < (a + two64 - b) % two64) && decide ((a + two64 - b) % two64 < two64 / 2)

def tagMax (a b : Nat) : Nat := if tagAfter b a then b else a

def vTime (s : State) (sl act : Nat) : Nat := tdef (if act = 1 then s.mash.vPrefill else s.mash.vDecode) sl 0

/-- A work item becomes eligible (R132, R133): it takes its finish tag, and its session is ACTIVE (R150); a condense
leaves it WARM (R172, R173). -/
def addItem (s : State) (idx seq tenant sl cls phase model lastPos no : Nat) (kind : ItemKind) (act : Nat) : State :=
  let seg := costSeg s s.mash.nextItem model sl phase lastPos kind
  let cost := match seg with
    | some g => g.groupTiles * g.length * two32 / 16384 / max 1 g.batch
    | none => 0
  let c := classOf s cls
  let f := if act = 1 then (tagMax (vTime s sl 1) c.fPrefill + cost / max 1 c.weight) % two64
           else if act = 2 then (tagMax (vTime s sl 2) c.fDecode + cost / max 1 c.weight) % two64 else 0
  let s := if act = 1 then modClass s cls fun c => { c with fPrefill := f }
           else if act = 2 then modClass s cls fun c => { c with fDecode := f } else s
  let it : Item := { id := s.mash.nextItem, sess := idx, seq := seq, tenant := tenant, slice := sl, cls := cls, act := act,
                     phase := phase, model := model, lastPos := lastPos, kind := kind, samples := false, no := no,
                     eligAt := s.mash.arith, tag := f, cost := cost, solo := (seg.map (·.length)).getD 0, bound := 0,
                     entry := none, ended := false, result := none, noGroup := 0, causes := [0, 0, 0, 0], drafts := [], share := (0, 0, 0) }
  let s := { s with mash.items := s.mash.items ++ [it], mash.nextItem := s.mash.nextItem + 1 }
  modSess s idx fun x => if x.state = stWARM ∧ act ≠ 10 then { x with state := stACTIVE, dwellOn := false } else x

def itemOf (s : State) (id : Nat) : Option Item := s.mash.items.find? fun i => i.id == id

def modItem (s : State) (id : Nat) (f : Item → Item) : State :=
  { s with mash.items := s.mash.items.map fun i => if i.id = id then f i else i }

def dropItem (s : State) (id : Nat) : State := { s with mash.items := s.mash.items.filter fun i => i.id != id }

/-- ACTIVE to WARM once no step or entry of the session is eligible or running (R150). -/
def settleWarm (s : State) (idx : Nat) : State :=
  match sessAt s idx with
  | some x =>
    if x.state = stACTIVE ∧ s.mash.items.any (fun i => i.sess == idx && i.act != 10) = false then
      dwellStart (modSess s idx fun y => { y with state := stWARM, warmSince := s.dev.localCtr }) idx
    else s
  | none => s

/-! ### Streams (R51, R219 to R223) -/

/-- A stream record sent on the generate's port; empty records are not sent. -/
def streamOut (s : State) (x : Sess) (r : GenRun) (offset : Nat) (text : List Byte) (ids : List Nat) (final : Bool) : State :=
  if text = [] ∧ ids = [] ∧ final = false then s
  else emit s r.port false (.stream { session := handleOf x, seq := r.seq, offset := offset, position := r.lastPos,
                                      text := text, ids := ids, final := final })

/-- Text of one detokenising step goes out: offsets, ids whose bytes are complete, positions. `all` streams every id. -/
def flushText (s : State) (idx : Nat) (d : Detok) (all final : Bool) : State :=
  match sessAt s idx with
  | none => s
  | some x =>
    match x.run with
    | none => s
    | some r =>
      let off := x.blk.outBytes
      let upTo := off + d.out.length
      let n := if all then r.idsPending.length else (r.idsPending.takeWhile fun p => decide (p.2 ≤ upTo)).length
      let ids := if r.p.outMode = 0 then [] else (r.idsPending.take n).map (·.1)
      let text := if r.p.outMode = 1 then [] else d.out
      let r' := { r with idsPending := r.idsPending.drop n, lastPos := r.lastPos + n }
      let s := modSess s idx fun y => { y with
        run := some r'
        blk := { y.blk with outBytes := upTo, held := d.held, outTail := d.tail } }
      let s := { s with copper.replaced := ctrAdd s.copper.replaced d.repl }
      let s := match d.stop with
        | some (_, w) => { s with copper.stopHits := ctrAdd s.copper.stopHits 1, copper.withheld := ctrAdd s.copper.withheld w }
        | none => s
      streamOut s x r' off text ids final

/-- Trims a session back to position `pos` (R186). -/
def trimTo (s : State) (idx pos : Nat) : State :=
  match sessAt s idx with
  | none => s
  | some x =>
    let cutRing := x.position - pos
    trimPages (modSess s idx fun y => { y with position := pos, blk := popRing y.blk cutRing })
      idx (kvPos x pos)

/-- The end of a generate is decided: the step that has started, or an ordinary one that waits, becomes the tail and the
generate's other items go (R185, R186). -/
def stepToTail (s : State) (idx seq : Nat) : State :=
  let turns (it : Item) : Bool := (match it.kind with
      | .decode | .resume | .tail => true
      | .verify _ => it.entry.isSome
      | _ => false)
  let s := { s with
    mash.items := (s.mash.items.filter fun (it : Item) =>
        !(it.sess == idx && it.seq == seq && it.entry.isNone && !turns it)).map fun (it : Item) =>
      if it.sess = idx ∧ it.seq = seq ∧ turns it then { it with kind := .tail, samples := false } else it }
  if s.mash.items.any fun it => it.sess == idx && it.seq == seq && it.kind == .tail then s
  else match sessAt s idx with
    | none => s
    | some x =>
      if (x.run.map (·.tailDone)).getD true ∨ x.blk.lastToken.isNone then s
      else addItem s idx seq x.tenant (sliceOfSess s x) x.share 1 x.model x.position (((jobOf s seq).map (·.no)).getD 0) .tail 2

/-- The session grammar as it stood after the token that completed a stop string (R186, R228). -/
def gramBack (s : State) (idx : Nat) (g : Nat × List Nat) : State :=
  modSess s idx fun y => { y with
    blk := { y.blk with sgState := g.1, sgStack := g.2, sgCtx := (grammarOf s y.grammar).bind fun r => findCtx r g.1 g.2 } }

/-- A token through the Copper. Once another end is decided, a stop string that it completes ends nothing and withholds nothing
(R207), but at the token at which `max_tokens` ends the generate it is the end that is reported. -/
def releaseText (x : Sess) (r : GenRun) (bytes : List Byte) : Detok :=
  let d := detok x.blk.stops x.blk.held x.blk.outTail bytes
  let decides := match r.ending with
    | none => true
    | some 0 => decide (x.released + 1 = x.position)
    | some _ => false
  if d.stop.isSome && !decides then detok [] x.blk.held x.blk.outTail bytes else d

/-- A committed and acknowledged token reaches the Copper (R25, R219, R220): bytes, UTF-8, matcher, holdback. A stop
string ends the generate; tokens after it are discarded (R186, R207). -/
def releaseToken (s : State) (idx tok : Nat) (gram : Option (Nat × List Nat)) : State :=
  match sessAt s idx with
  | none => s
  | some x =>
    match x.run with
    | none => s
    | some r =>
      if r.ending = some 1 then s
      else
        let v := vocabOf s x.vocab
        let bytes := match v.bind fun v => v.toks[tok]? with
          | some t => if t.special then [] else t.bytes
          | none => []
        let d := releaseText x r bytes
        let upTo := x.blk.outBytes + d.out.length
        let owed := if bytes = [] then (match r.idsPending.getLast? with
            | some p => p.2
            | none => upTo)
          else upTo + d.held.length + (if d.tail = [] then 0 else 1)
        let s := { s with copper.tokensOut := ctrAdd s.copper.tokensOut 1 }
        let s := modSess s idx fun y => { y with
          released := y.released + 1
          blk := { y.blk with genTokens := y.blk.genTokens + 1 }
          run := some { r with released := r.released + 1, idsPending := r.idsPending ++ [(tok, owed)] } }
        match d.stop with
        | none => flushText s idx d false false
        | some (i, w) =>
          -- the bytes before the string wait for the final record (R220)
          let s := modSess s idx fun y => { y with blk := { y.blk with held := d.out, outTail := [] } }
          let s := { s with copper.replaced := ctrAdd s.copper.replaced d.repl, copper.stopHits := ctrAdd s.copper.stopHits 1,
                            copper.withheld := ctrAdd s.copper.withheld w }
          let keep := x.released + 1
          -- the token that completes the string is kept; what follows is trimmed
          let s := modSess s idx fun y => { y with run := y.run.map fun q =>
            { q with ending := some 1, stopIndex := i, tailNeeded := true } }
          match sessAt s idx with
          | some y =>
            if y.position > keep then
              -- a later step has consumed the kept token: its KV write is the tail; the trim is racked
              let s := rack (trimTo s idx keep) idx 2 0 plainDelta
              let s := match gram with
                | some g => gramBack s idx g
                | none => s
              let s := { s with mash.items := s.mash.items.filter fun it => !(it.sess == idx && it.seq == r.seq) }
              modSess s idx fun y => { y with
                blk := { y.blk with lastToken := none }
                run := y.run.map fun q => { q with tailDone := true, committed := q.committed - (x.position - keep) } }
            else stepToTail s idx r.seq
          | none => s

/-! ### Ends of generates (R52, R207, R222) -/

/-- Positions that a job of a session still holds in `reserved_position` (R161). -/
def unusedMax (x : Sess) (j : Job) : Nat :=
  match j.kind with
  | .append _ _ _ (some t) _ _ => t.length
  | .generate _ m => (match x.run with
      | some r => if r.seq = j.seq then m - r.committed else m
      | none => m)
  | _ => 0

/-- Pages opened for positions that were never committed are given back, once no entry of the session is under way (R161). -/
def dropEmpty (s : State) (idx : Nat) : State :=
  match sessAt s idx with
  | some x => if s.mash.items.any fun i => i.sess == idx && i.entry.isSome then s else trimPages s idx (kvLen x)
  | none => s

/-- `reserved_position` as R161 gives it: `position` plus the unused maxima of the outstanding commands that add
positions. -/
def settleReserved (s : State) (idx : Nat) : State :=
  match sessAt s idx with
  | none => s
  | some x =>
    let n := sumBy (fun j => match j.kind, s.lauter.queries.find? (fun q => q.seq == j.seq) with
      | .query, some q => q.p.tokenBudget
      | _, _ => unusedMax x j) (sessJobs s idx)
    dropEmpty (modSess s idx fun y => { y with reserved := y.position + y.carryToks + n }) idx

/-- The body of R52. -/
def genBody (x : Sess) (r : GenRun) (reason : Nat) : List Byte :=
  lay [(4, r.released), (4, r.steps), (1, reason), (1, if reason = 1 then r.stopIndex else 0), (2, 0), (4, x.position),
       (4, x.blk.outBytes), (4, r.verifies), (4, r.accepted)]

def reasonStatus : Nat → Nat
  | 3 => stGrammarDead
  | 4 => stNoSession
  | 5 => stNoTenant
  | 6 => stWrongState
  | _ => stOk

/-- The final stream record: what the Copper still holds, after a stop string the bytes before it (R220, R222). Answers
the reason in force: U+FFFD may complete a stop string, unless a close or a removal fixes the reason (R53, R56). -/
def finalRecord (s : State) (idx reason : Nat) (fixed : Bool) : State × Nat :=
  match sessAt s idx with
  | none => (s, reason)
  | some x =>
    let d := if reason = 1 then { out := x.blk.held, held := [], tail := [], repl := 0, stop := none }
             else detokEnd (if fixed then [] else x.blk.stops) x.blk.held x.blk.outTail
    let s := match d.stop with
      | some (i, _) => modSess s idx fun y => { y with run := y.run.map fun q => { q with stopIndex := i } }
      | none => s
    let reason := if d.stop.isSome then 1 else reason
    (flushText s idx d true true, reason)

/-- What a generate's end leaves in the state block: a session grammar ended by EOS returns to its start (R228), the mask window's
frames are freed (R230). -/
def clearGen (s : State) (idx reason : Nat) : State :=
  match sessAt s idx with
  | none => s
  | some x =>
    let cmd := match x.run with
      | some r => decide (r.p.grammar ≠ 0)
      | none => false
    let s := modSess (freeRuns s x.homeDie x.blk.slotRuns) idx fun y => { y with
      run := none
      blk := { y.blk with genSeq := 0, genTokens := 0, genParams := none, cgCtx := none, cgState := 0, cgStack := [],
                          gramActive := false, outTail := [], held := [], stops := [], outBytes := 0, slots := [], slotRuns := [] } }
    if reason = 2 ∧ cmd = false ∧ x.grammar ≠ 0 then gramStart s idx x.grammar false else s

/-- A generate ends: final record, reservation and unused maximum given back, COMPLETION (R52, R161, R207), with the
status of its reason. Where `st` names the status (a close, a removal: R53, R56), the reason stands too. -/
def endGenerateAs (s : State) (idx reason : Nat) (st : Option Nat) : State :=
  match sessAt s idx with
  | none => s
  | some x =>
    match x.run with
    | none => s
    | some r =>
      let (s, reason) := finalRecord s idx reason st.isSome
      let x := (sessAt s idx).getD x
      let r := x.run.getD r
      let body := genBody x r reason
      let s := { s with mash.items := s.mash.items.filter fun i => !(i.sess == idx && i.seq == r.seq) }
      let s := clearGen s idx reason
      let s := dropResvOf s r.seq idx
      settleWarm (settleReserved (complete (applied s idx r.seq) r.seq
        { status := st.getD (reasonStatus reason), detail := 0, body := body, handle := none }) idx) idx

def endGenerate (s : State) (idx reason : Nat) : State := endGenerateAs s idx reason none

/-- A generate that ends before its first step for reason 4 or 5: an empty final record and a COMPLETION with a body
(R52). -/
def endHeldGenerate (s : State) (x : Sess) (j : Job) (reason st : Nat) : State :=
  let s := emit s j.port false (.stream { session := handleOf x, seq := j.seq, offset := 0, position := x.position,
                                          text := [], ids := [], final := true })
  complete s j.seq (ansB (lay [(4, 0), (4, 0), (1, reason), (1, 0), (2, 0), (4, x.position), (4, 0), (4, 0), (4, 0)]) |>
    fun a => { a with status := st })

/-- A command that gave up waiting for its frames leaves the carry as it was (R162, R218). -/
def carryBack (s : State) (idx : Nat) (j : Job) : State :=
  let back := match j.kind with
    | .append _ m _ _ _ _ => decide (m ≤ 1) && decide (j.stage = 1)
    | .generate .. => decide (j.stage = 5)
    | _ => false
  modSess s idx fun y =>
    let y := if back then { y with blk := { y.blk with carry := y.carryWas.1, carryPolicy := y.carryWas.2 } } else y
    match j.kind with
    | .generate .. => { y with firstTok := none, carryToks := if j.stage = 5 then 0 else y.carryToks }
    | _ => y

/-- A command of a session ends early with a status and no body: its items, reservation and unused positions are given
back (R161, R162). -/
def failJob (s : State) (idx seq : Nat) (a : Ans) : State :=
  match jobOf s seq, sessAt s idx with
  | some j, some _ =>
    let s := { carryBack s idx j with
      mash.items := s.mash.items.filter fun i => !(i.seq == seq && i.sess == idx)
      lauter.queries := s.lauter.queries.filter fun q => q.seq != seq }
    let s := match (sessAt s idx).bind (·.run) with
      | some r => if r.seq = seq then clearGen s idx 4 else s
      | none => s
    settleWarm (settleReserved (complete (dropResvOf (leaveEngines s seq) seq idx) seq a) idx) idx
  | _, _ => s

/-- The reply body of a query with `packed_tokens` 0 (R262). -/
def packedZero (body : List Byte) : List Byte := body.take 12 ++ List.replicate 4 0 ++ body.drop 16

def queryOf (s : State) (seq : Nat) : Option Query := s.lauter.queries.find? fun q => q.seq == seq

def modQuery (s : State) (seq : Nat) (f : Query → Query) : State :=
  { s with lauter.queries := s.lauter.queries.map fun q => if q.seq = seq then f q else q }

/-- A query ends with a reply: it leaves the Lauter, its counters count, its reservation is given back (R262, R263,
R267). -/
def endQuery (s : State) (seq : Nat) (a : Ans) : State :=
  match queryOf s seq, jobOf s seq with
  | some q, some j =>
    let c := s.lauter.cnt
    let s := { s with
      lauter.queries := s.lauter.queries.filter fun k => k.seq != seq
      lauter.cnt := { c with
        queries := ctrAdd c.queries 1
        partials := if a.status = stPartial then ctrAdd c.partials 1 else c.partials
        shorts := if q.shortRes then ctrAdd c.shorts 1 else c.shorts } }
    let idx := idxOf j.session
    let s := { s with mash.items := s.mash.items.filter fun i =>
      !(i.seq == seq && (i.act == 4 || (i.sess == idx && idx != 0))) }
    if j.session = 0 then complete (leaveEngines s seq) seq a
    else
      settleWarm (settleReserved (complete (dropResvOf (leaveEngines s seq) seq idx) seq a) idx) idx
  | _, _ => s

/-- The pack target leaves the session order: a query whose results are known completes NO_SESSION with them, another
goes on without a target (R262). -/
def detachQuery (s : State) (idx seq : Nat) : State :=
  match queryOf s seq with
  | none => s
  | some q =>
    match q.result with
    | some (_, body) => endQuery s seq { status := stNoSession, detail := 0, body := packedZero body, handle := none }
    | none => modQuery (modJob (dropResvOf s seq idx) seq fun j => { j with session := 0 }) seq fun k =>
        { k with noPack := true }

/-- Every command of a session ends: a generate with its final record and a body of the given reason, the others with
the status alone (R52, R53, R153). -/
def endJobs (s : State) (idx st reason : Nat) : State :=
  (sessJobs s idx).foldl (fun s j =>
    match j.kind, sessAt s idx with
    | .generate .., some x =>
      (match x.run with
        | some r => if r.seq = j.seq then endGenerateAs s idx reason (some st)
                    else endHeldGenerate (dropResvOf s j.seq idx) x j reason st
        | none => endHeldGenerate (dropResvOf s j.seq idx) x j reason st)
    | .query, _ => if st = stNoSession then detachQuery s idx j.seq else failJob s idx j.seq (ans st)
    | .append _ 2 _ _ _ _, _ => if st = stNoSession then detachQuery s idx j.seq else failJob s idx j.seq (ans st)
    | _, _ => failJob s idx j.seq (ans st)) s

/-- A session closed with the status its commands get; the close cancels any park or condense (R152, R153). -/
def closeSession (s : State) (idx st reason : Nat) : State :=
  closeEntry (endJobs (cancelParkCondense s idx (noSeq + 1)) idx st reason) idx

/-- Whether a command of a session waits for its revive (R24, R151). -/
def needsKv (j : Job) : Bool :=
  match j.kind with
  | .append .. => true
  | .generate .. => true
  | .query => true
  | .revive => true
  | .condense _ => true
  | _ => false

/-- A revive ends with a status: its SESSION_REVIVE commands and the commands held for it complete with it; the session
stays PARKED or EXTRACT (R162, R175). -/
def failRevive (s : State) (idx st : Nat) : State :=
  let s := dropResvOf (modSess s idx fun y => { y with reviving := false, reviveRead := false }) noSeq idx
  ((sessJobs s idx).filter needsKv).foldl (fun s j => failJob s idx j.seq (ans st)) s

/-- A generate whose end is decided ends once its tokens are released and its tail has committed (R185). -/
def maybeEnd (s : State) (idx : Nat) : State :=
  match sessAt s idx with
  | some x =>
    match x.run with
    | some r =>
      match r.ending with
      | some reason =>
        let waiting := x.deltas.any fun d => decide (d.toks ≠ [])
        if reason ≥ 3 then (if waiting then s else endGenerate s idx reason)
        else if (r.tailDone ∨ r.tailNeeded = false) ∧ waiting = false then endGenerate s idx reason
        else s
      | none => s
    | none => s
  | none => s

/-! ### Speculation (R194 to R197) -/

/-- The draft bound to a session's model (R194). -/
def boundDraft (s : State) (x : Sess) : Option (Model × Nat) :=
  match tget s.models.drafts x.model with
  | some (d, km) => (modelOf s d).map fun m => (m, km)
  | none => none

/-- The draft of a session's model, if it is bound and resident (R194, R202). -/
def draftOf (s : State) (x : Sess) : Option (Model × Nat) := (boundDraft s x).filter fun p => p.1.st == 2

/-- The draft length of a generate's `spec_k`, at most (R194). -/
def specMax (s : State) (x : Sess) (specK : Nat) : Nat :=
  match boundDraft s x with
  | some (_, km) => if specK = 0xFF then km else min specK km
  | none => 0

/-- Orders of the runs that draft KV of `n` positions takes beyond `l`: pages, and growth of their list (R156, R197). -/
def draftOrders (h : ModelHdr) (l : List Page) (list : List Run) (n : Nat) : List Nat :=
  let ks := pageKs (modelMaxK h) pageFuel (nextK (modelMaxK h) l)
    (match l.getLast? with
      | some p => p.first + 2 ^ p.k
      | none => 0) n
  let grown := ((List.range ks.length).map fun i => listOrder h (l.length + i + 1)).eraseDups
  (ks.flatMap fun k => List.replicate (layerGroups h) (pageOrder h k)) ++ grown.filter fun o => match list with
    | r :: _ => decide (o > r.order)
    | [] => true

/-- The draft page list moved into a run that holds its pages. -/
def growDraftList (s : State) (idx seq : Nat) (h : ModelHdr) : State :=
  match sessAt s idx with
  | none => s
  | some x =>
    let want := listOrder h x.blk.draftPages.length
    if x.blk.draftList.any fun r => decide (want ≤ r.order) then s
    else match runFor s seq idx x.homeDie x.tenant (sliceOfSess s x) want with
      | some (n, s) => modSess (freeRuns s x.homeDie x.blk.draftList) idx fun y => { y with blk := { y.blk with draftList := [n] } }
      | none => s

/-- Draft pages opened until they cover `target` positions, from the generate's reservation (R161, R197). -/
def openDraft (s : State) (idx seq target : Nat) (h : ModelHdr) : Nat → State
  | 0 => s
  | n + 1 =>
    match sessAt s idx with
    | none => s
    | some x =>
      let at_ := match x.blk.draftPages.getLast? with
        | some p => p.first + 2 ^ p.k
        | none => 0
      let k := nextK (modelMaxK h) x.blk.draftPages
      if target ≤ at_ then s
      else match runsFor s seq idx x.homeDie x.tenant (sliceOfSess s x) (pageOrder h k) (layerGroups h) with
        | some (rs, s) =>
          let s := modSess s idx fun y => { y with blk := { y.blk with draftPages := y.blk.draftPages ++ [blankPage k at_ rs] } }
          openDraft (growDraftList s idx seq h) idx seq target h n
        | none => s

/-- Whether chunks of a rebuild are outstanding. -/
def rebuilding (s : State) (x : Sess) : Bool :=
  s.mash.items.any fun i => i.sess == x.idx && (match i.kind with
    | .draftPrefill .. => true
    | _ => false)

/-- The draft KV of a session is complete (R197). -/
def draftReady (s : State) (x : Sess) : Bool := x.blk.draftPages != [] && !rebuilding s x

/-- Draft length of the next step, 0 for an ordinary decode step (R196, R197). -/
def specLen (s : State) (x : Sess) (r : GenRun) : Nat :=
  if r.p.specK = 0 ∨ (draftOf s x).isNone ∨ draftReady s x = false ∨ x.blk.specHold > 0 then 0 else x.blk.specK

/-- The draft length after a verify pass of length `k` with `a` accepted (R196). -/
def specAdapt (b : StateBlk) (adaptive : Bool) (fixedK kMax k a : Nat) : StateBlk :=
  if a = 0 then
    let rej := b.specRejects + 1
    if rej ≥ 4 then { b with specRejects := 4, specK := 0, specHold := 64 }
    else { b with specRejects := rej }
  else if b.specRejects ≥ 4 then { b with specRejects := 0, specK := if adaptive then 1 else fixedK }
  else if a = k ∧ adaptive then { b with specRejects := 0, specK := min (k + 1) kMax }
  else { b with specRejects := 0 }

/-- One ordinary step lowers `spec_hold`; at 0 the next step is a probe at k = 1 (R196). -/
def specStep (b : StateBlk) : StateBlk :=
  if b.specHold = 0 then b
  else if b.specHold = 1 then { b with specHold := 0, specK := 1 } else { b with specHold := b.specHold - 1 }

/-! ### Steps of a generate -/

/-- Positions of one prefill chunk at most: 16, or fewer where more than 4 query heads share a KV head (R188). -/
def chunkMax (h : ModelHdr) : Nat :=
  let g := max 1 (h.qHeads / max 1 h.kvHeads)
  if g ≤ 4 then 16 else max 1 (64 / g)

/-- Where the page ends that holds KV position `p`. -/
def pageEndAt (pages : List (Nat × Nat)) (p : Nat) : Nat :=
  match pages.find? fun q => decide (q.1 ≤ p) && decide (p < q.1 + 2 ^ q.2) with
  | some q => q.1 + 2 ^ q.2
  | none => p + 16

/-- The chunks of an append: at most `lim` positions each, within one page (R179). -/
def chunksOf (pages : List (Nat × Nat)) (lim : Nat) : Nat → Nat → List Nat → List (Nat × List Nat)
  | 0, _, _ => []
  | n + 1, p, toks =>
    if toks = [] then []
    else
      let m := max 1 (min lim (pageEndAt pages p - p))
      (p, toks.take m) :: chunksOf pages lim n (p + m) (toks.drop m)

/-- First positions of pages with given k from `start`. -/
def placeKs : Nat → List Nat → List (Nat × Nat)
  | _, [] => []
  | p, k :: ks => (p, k) :: placeKs (p + 2 ^ k) ks

/-- A draft rebuild begins (R197): `draft_base` is `position` less the tokens of the ring that it covers, at most 2,048, and their
chunks become eligible, charged to VERIFY (R179). The tokens that ordinary steps add until it commits are not in it
(DESIGN CHOICE, log 109). -/
def startDraft (s : State) (idx seq : Nat) (m : Model) : State :=
  match sessAt s idx with
  | none => s
  | some x =>
    let toks := x.blk.ring.drop (x.blk.ring.length - 2048)
    let base := x.position - toks.length
    let no := ((jobOf s seq).map (·.no)).getD 0
    let pages := placeKs 0 (pageKs (modelMaxK m.hdr) pageFuel 4 0 toks.length)
    let cs := chunksOf pages (chunkMax m.hdr) toks.length 0 toks
    let s := modSess s idx fun y => { y with blk := { y.blk with draftBase := base, draftPos := base } }
    (List.range cs.length).foldl (fun s i =>
      match cs[i]? with
      | some (p, ts) => addItem s idx seq x.tenant (sliceOfSess s x) x.share 0 m.id (p + ts.length) no
          (.draftPrefill p ts (decide (i + 1 = cs.length))) 3
      | none => s) s

/-- The next step of a running generate becomes eligible (R179, R185, R195, R197). -/
def nextStep (s : State) (idx : Nat) : State :=
  match sessAt s idx with
  | none => s
  | some x =>
    match x.run with
    | none => s
    | some r =>
      let sl := sliceOfSess s x
      let no := ((jobOf s r.seq).map (·.no)).getD 0
      let go (phase lastPos : Nat) (k : ItemKind) (act : Nat) (model : Nat) : State :=
        addItem s idx r.seq x.tenant sl x.share phase model lastPos no k act
      if r.ending.isSome then (if r.tailNeeded ∧ r.tailDone = false then go 1 x.position .tail 2 x.model else s)
      else if x.blk.lastToken = none then go 1 x.position .head 2 x.model
      else if r.started = false then go 1 x.position .resume 2 x.model
      else
        let k := specLen s x r
        if k > 0 then go 2 (x.position + k) (.verify k) 3 x.model
        else
          let s := match draftOf s x with
            | some (m, _) =>
              if r.p.specK ≠ 0 ∧ x.blk.draftPages = [] ∧ x.blk.specHold = 0 ∧ rebuilding s x = false then startDraft s idx r.seq m
              else s
            | none => s
          addItem s idx r.seq x.tenant sl x.share 1 x.model x.position no .decode 2

/-- Sampled tokens of a committed step join the generate (R185, R186): `last_token`, `position`, the counter, and the
end if it is decided here (R207). `eos` marks EOS as the last token. Tokens past `max_tokens` are trimmed. -/
def takeTokens (s : State) (idx : Nat) (toks : List Nat) (eos : Bool) : State × List Nat :=
  match sessAt s idx with
  | none => (s, [])
  | some x =>
    match x.run with
    | none => (s, [])
    | some r =>
      let room := r.maxTok - r.committed
      let kept := toks.take room
      let full := decide (kept.length ≥ room)
      let eosKept := eos && decide (kept.length = toks.length) && bit r.p.genFlags 0
      let ending := if eosKept then some 2 else if full then some 0 else none
      (modSess s idx fun y => { y with
        position := y.position + kept.length
        blk := { pushRing y.blk kept with lastToken := kept.getLast? }
        run := some { r with committed := r.committed + kept.length, started := true, ending := ending,
                             tailNeeded := ending.isSome } }, kept)

/-- `n` KV positions committed at the session's KV end, by an entry that writes `lo` to `hi`. -/
def commitKv (s : State) (idx seq n lo hi : Nat) (one : Bool) : State :=
  match sessAt s idx with
  | none => s
  | some x =>
    let a := kvLen x
    let s := addPagesTo s idx seq (a + n) 64
    modSess (tick s) idx fun y => { y with pages := y.pages.map (fillPage s.free (hdrOf s x) a n lo hi one) }

/-! ### The order of a session's commands (R23, R24, R161, R217, R218) -/

/-- Jobs that add positions, in order. -/
def addsPositions (j : Job) : Bool :=
  match j.kind with
  | .append .. => true
  | .generate .. => true
  | .query => j.session != 0
  | _ => false

def addingJobs (s : State) (idx : Nat) : List Job := (sessJobs s idx).filter addsPositions

/-- Whether job `j` has reached its turn in its session. -/
def atTurn (s : State) (j : Job) : Bool :=
  match addingJobs s (idxOf j.session) with
  | k :: _ => k.seq == j.seq
  | [] => false

/-- Links the pages of the prefix tree that an append's next tokens spell (R165). Answers the tokens left and whether a
flash copy has to be read first. -/
def linkPages : Nat → State → Nat → Nat → List Nat → State × List Nat × Bool
  | 0, s, _, _, toks => (s, toks, false)
  | n + 1, s, idx, seq, toks =>
    match sessAt s idx with
    | none => (s, toks, false)
    | some x =>
      let k := nextK (sessMaxK s x) x.pages
      let parent := match x.pages.getLast? with
        | some p => p.node
        | none => 0
      let okPos := decide (kvLen x = pagesEnd x) && x.blk.lastToken.isNone && (x.pages.isEmpty || parent != 0)
      if !x.linked || !s.cellar.prefixEn || !okPos || decide (toks.length < 2 ^ k) then (s, toks, false)
      else
        match childNode s x parent x.pages.length (toks.take (2 ^ k)) with
        | none => (s, toks, false)
        | some nd =>
          if nd.inHbm then
            let pg := { blankPage k (pagesEnd x) nd.runs with
                        filled := 2 ^ k, node := nd.id, isShared := true, full := true, pairs := nd.pairs, codes := nd.codes }
            let s := modNode s nd.id fun m => { m with links := m.links + 1, lastLinked := s.dev.localCtr }
            let s := modSess s idx fun y => { y with
              pages := y.pages ++ [pg], position := y.position + 2 ^ k,
              blk := pushRing y.blk (toks.take (2 ^ k)) }
            let s := { s with cellar.cnt.link := ctrAdd s.cellar.cnt.link 1 }
            let s := rack (growList s idx seq) idx 2 (2 ^ k * posBytes (hdrOf s x) * groupsOf s x) plainDelta
            linkPages n s idx seq (toks.drop (2 ^ k))
          else if nd.flash ≠ 0 ∧ s.oast.reads.any (fun r => r.what == .node idx nd.id) = false then
            -- a read of MOVE, held while a balance is spent (R127)
            let sl := sliceOfSess s x
            (if readHeld s sl 6 then noteReadHold s sl 6
             else
               let n := 2 ^ k * posBytes (hdrOf s x) * groupsOf s x
               poolRead (noteClass (noteClass s x.share 2 n) x.share 1 n) sl 6 n nd.flash (.node idx nd.id), toks, true)
          else (s, toks, nd.flash != 0)

/-- The chunks of `toks` become eligible (R132, R180); `last_token` left by a generate goes first (R185). -/
def startChunks (s : State) (idx seq : Nat) (toks : List Nat) : State :=
  match sessAt s idx with
  | none => s
  | some x =>
    let all := (match x.blk.lastToken with
      | some t => [t]
      | none => []) ++ toks
    let pages := (x.pages.map fun p => (p.first, p.k)) ++ placeKs (pagesEnd x) (newPageKs s x all.length)
    let cs := chunksOf pages (chunkMax (hdrOf s x)) all.length (kvLen x) all
    let sl := sliceOfSess s x
    let no := ((jobOf s seq).map (·.no)).getD 0
    (List.range cs.length).foldl (fun s i =>
      match cs[i]? with
      | some (p, ts) =>
        addItem s idx seq x.tenant sl x.share 0 x.model (p + ts.length) no
          (.chunk p ts (decide (i + 1 = cs.length))) 1
      | none => s) s

/-- The carry resolved as one ill-formed subpart (R218): its tokens, under REPLACE. -/
def carryTokens (s : State) (x : Sess) : List Nat :=
  if x.blk.carry = [] then []
  else match vocabOf s x.vocab with
    | some v => tokenise v replacement
    | none => []

/-- The frames granted, an append's tokens are linked and the rest become chunks; with nothing left to run it completes
(R165, R183). Tokens of a carry come first, are an append of their own, and link nothing. -/
def runAppend (s : State) (j : Job) : State :=
  match j.kind with
  | .append policy mode tail (some toks) added start =>
    let idx := idxOf j.session
    let (s, rest, wait) := if ((sessAt s idx).map (·.position)).getD 0 < start then (s, toks, false)
      else linkPages 64 s idx j.seq toks
    let linkedN := toks.length - rest.length
    let s := modJob s j.seq fun k => { k with kind := .append policy mode tail (some rest) (added + linkedN) start,
                                              stage := if wait then 2 else 3 }
    -- its tokens are added when they are linked, or when their chunks commit (R147)
    let s := if linkedN ≠ 0 ∨ (rest = [] ∧ wait = false) then applied s idx j.seq else s
    if wait then s
    else if rest = [] then rack s idx 4 0 { plainDelta with endOfAppend := some j.seq }
    else startChunks s idx j.seq rest
  | _ => s

/-- The session grammar's state and stack. -/
def gramNow (s : State) (idx : Nat) : Nat × List Nat :=
  match sessAt s idx with
  | some x => (x.blk.sgState, x.blk.sgStack)
  | none => (0, [])

/-- Order of the run of a generate's mask window: one slot, or one more than its drafts at most (R230). -/
def slotOrder (s : State) (x : Sess) (g : GenParams) : Option Nat :=
  let id := if g.grammar ≠ 0 then g.grammar else x.grammar
  if id = 0 then none
  else (grammarOf s id).map fun r => log2Ceil (ceilDiv ((specMax s x g.specK + 1) * (64 + 2 * maskBytes r.tokens)) 4096)

/-- The mask window's frames, from the generate's reservation. -/
def takeSlots (s : State) (idx seq : Nat) : Option Nat → State
  | none => s
  | some o =>
    match sessAt s idx with
    | none => s
    | some x => match runFor s seq idx x.homeDie x.tenant (sliceOfSess s x) o with
      | some (r, s) => modSess s idx fun y => { y with blk := { y.blk with slotRuns := [r] } }
      | none => s

/-- A generate's frames are granted: its run begins (R184, R185, R190, R196, R228). -/
def runGenerate (s : State) (j : Job) : State :=
  match j.kind with
  | .generate g maxTok =>
    let idx := idxOf j.session
    match sessAt s idx with
    | none => s
    | some x =>
      let r : GenRun := { seq := j.seq, port := j.port, tenant := j.tenant, p := g, maxTok := maxTok, committed := 0,
                          released := 0, steps := 0, verifies := 0, accepted := 0, started := false, ending := none,
                          stopIndex := 0, tailNeeded := false, tailDone := false, idsPending := [],
                          lastPos := x.position }
      let km := match tget s.models.drafts x.model with
        | some (_, k) => k
        | none => 0
      let k0 := if g.specK = 0xFF then 1 else min g.specK km
      let s := modJob s j.seq fun k => { k with stage := 3 }
      let s := modSess s idx fun y => { y with
        run := some r, firstTok := none, carryToks := 0
        blk := { y.blk with genSeq := j.seq, genTokens := 0, genParams := some g, stops := g.stops, held := [], outTail := [],
                            outBytes := 0, gramActive := decide (g.grammar ≠ 0 ∨ y.grammar ≠ 0),
                            specK := k0, specRejects := 0, specHold := 0 } }
      let s := if g.grammar ≠ 0 then gramStart s idx g.grammar true else s
      let s := stageNow (takeSlots s idx j.seq (slotOrder s x g)) idx
      match x.firstTok with
      | some (t, fl, gs) =>
        let moved := if bit fl 1 ∨ gs = 0xFFFFFFFF then (s, true) else gramApply s idx gs
        if bit fl 1 ∨ moved.2 = false then
          maybeEnd (modSess { moved.1 with copper.gramDead := ctrAdd s.copper.gramDead 1 } idx fun y =>
            { y with run := y.run.map fun q => { q with ending := some 3, started := true } }) idx
        else
          let s := moved.1
          let (s, kept) := takeTokens s idx [t] (bit fl 2)
          let s := modSess s idx fun y => { y with run := y.run.map fun q => { q with steps := 1 } }
          nextStep (rack s idx 2 0 { plainDelta with toks := kept, isStep := true, grams := [gramNow s idx] }) idx
      | none => nextStep s idx
  | _ => s

/-- The frames a command at its turn asks for (R161): pages for its positions, and for a generate its mask window and the draft
pages of `max_tokens` + 2,048 positions (R197, R230). -/
def frameOrders (s : State) (x : Sess) (j : Job) : List Nat :=
  match j.kind with
  | .append _ _ _ (some t) _ _ => ordersFor s x (t.length + leadLen x)
  | .generate g m =>
    let draft := match boundDraft s x with
      | some (d, _) => if g.specK = 0 then [] else draftOrders d.hdr x.blk.draftPages x.blk.draftList (m + 2048)
      | none => []
    ordersFor s x (m + leadLen x) ++ (slotOrder s x g).toList ++ draft
  | _ => []

/-- What the tokeniser makes of a text-mode append (R212 to R218): the packet offset at which REJECT refuses it, or its tokens, the
new carry, and what it counts. -/
structure ReadText where
  bad : Option Nat
  toks : List Nat
  carry : List Byte
  bytes : Nat
  repl : Nat
deriving DecidableEq, Repr, Inhabited

def readText (v : Vocab) (policy : Nat) (carry tail : List Byte) : ReadText :=
  if tail = [] then
    if carry = [] then default
    else if policy = 1 then { (default : ReadText) with bad := some 0 }
    else { (default : ReadText) with toks := tokenise v replacement, bytes := carry.length, repl := 1 }
  else
    let text := carry ++ tail
    match (if policy = 1 then firstIll text else none) with
    | some off => { (default : ReadText) with bad := some (if off < carry.length then 32 else 32 + off - carry.length) }
    | none =>
      let r := repairText text
      { bad := none, toks := tokenise v r.1, carry := r.2.1, bytes := text.length - r.2.1.length, repl := r.2.2 }

/-- A command that ends TEXT_INVALID is counted (R234). -/
def rejectText (s : State) : State := { s with copper.rejected := ctrAdd s.copper.rejected 1 }

/-- An append at its turn: a text that was tokenised behind another carry than it now meets is tokenised again (R217); a
token-id append flushes the carry first, and those tokens are not its own (R218). Then its frames are asked for. -/
def pumpAppend (s : State) (x : Sess) (j : Job) (p m : Nat) (tail : List Byte) (toks : List Nat) : State :=
  let idx := x.idx
  let again : Option ReadText := if m = 0 ∧ j.behind ≠ x.blk.carry then
      (vocabOf s x.vocab).map fun v => readText v p x.blk.carry j.text else none
  let s := match again with
    | some t => countTok s t.bytes t.toks.length t.repl
    | none => s
  let pre := if m = 1 then carryTokens s x else []
  let own := (again.map (·.toks)).getD toks
  let carry := (again.map (·.carry)).getD tail
  if m = 1 ∧ p = 1 ∧ x.blk.carry ≠ [] then failJob (rejectText s) idx j.seq (ans stTextInvalid)
  else match again.bind (·.bad) with
    | some off => failJob (rejectText s) idx j.seq (ansD stTextInvalid off)
    | none =>
      let reserved := x.reserved - toks.length + own.length + pre.length
      if reserved > pMax s x then failJob s idx j.seq (ansD stBadParam 28)
      else
        let s := if pre = [] then s else countTok s x.blk.carry.length pre.length 1
        let s := modSess s idx fun y => { y with
          reserved := reserved
          carryWas := (x.blk.carry, x.blk.carryPolicy)
          firstTok := none
          blk := if m = 1 then { y.blk with carry := [] } else { y.blk with carry := carry, carryPolicy := p } }
        let k : JobKind := .append p m (if m = 1 then List.replicate pre.length 0 else carry) (some (pre ++ own)) 0 (x.position + pre.length)
        let s := rack (modJob s j.seq fun q => { q with stage := 1, kind := k }) idx 3 0 plainDelta
        askFrames s j.seq idx x.homeDie x.tenant (sliceOfSess s x) (frameOrders s x { j with kind := k })

/-- A generate at its turn: a REJECT carry ends it, another is added as its own append ahead of it, within P_max (R159, R218; what
does not fit lowers its maximum: DESIGN CHOICE, log 110). Then its frames are asked for. -/
def pumpGenerate (s : State) (x : Sess) (j : Job) (g : GenParams) (mt : Nat) : State :=
  let idx := x.idx
  if x.blk.carry = [] then
    askFrames (setStage s j.seq 1) j.seq idx x.homeDie x.tenant (sliceOfSess s x) (frameOrders s x j)
  else if x.blk.carryPolicy = 1 then failJob (rejectText s) idx j.seq (ans stTextInvalid)
  else
    let toks := carryTokens s x
    let room := pMax s x - (x.reserved - mt)
    let m := min mt (room - toks.length)
    if m = 0 then failJob s idx j.seq (ansD stBadParam 24)
    else
      let s := countTok s x.blk.carry.length toks.length 1
      let s := modSess s idx fun y => { y with
        blk := { y.blk with carry := [] }, reserved := y.reserved - mt + m + toks.length
        carryWas := (x.blk.carry, x.blk.carryPolicy), carryToks := toks.length, firstTok := none }
      let j := { j with kind := .generate g m }
      let s := modJob s j.seq fun q => { q with stage := 5, kind := j.kind }
      askFrames s j.seq idx x.homeDie x.tenant (sliceOfSess s x)
        (ordersFor s x (toks.length + m + leadLen x) ++ (frameOrders s x j).drop (ordersFor s x (m + leadLen x)).length)

/-- The session's commands go on as far as they can (R23, R24, R151): the first that adds positions asks for its frames
once the session is in HBM; parks, condenses and offers held behind steps are left to `pumpOther`. No held command starts
while the backlog of both ports is full (R34). -/
def pumpAdding (s : State) (idx : Nat) : State :=
  match sessAt s idx, addingJobs s idx with
  | some x, j :: _ =>
    if x.state ≠ stWARM ∧ x.state ≠ stACTIVE ∨ x.reviving then s
    else if j.stage ≠ 0 ∨ backlogFull s then s
    else
      match j.kind with
      | .append _ _ _ none _ _ => s
      | .append p m tail (some toks) _ _ => pumpAppend s x j p m tail toks
      | .generate g mt => pumpGenerate s x j g mt
      | .query =>
        let n := ((queryOf s j.seq).map fun q => q.p.tokenBudget).getD 0
        askFrames (setStage s j.seq 1) j.seq idx x.homeDie x.tenant (sliceOfSess s x)
          (ordersFor s x (n + leadLen x + (carryTokens s x).length))
      | _ => s
  | _, _ => s

/-- A pack is delivered as one append in token-id form, behind any carry (R218, R262): with nothing to deliver the query
completes at once. -/
def deliverPack (s : State) (seq : Nat) : State :=
  match queryOf s seq, jobOf s seq with
  | some q, some j =>
    let idx := idxOf j.session
    match q.result, sessAt s idx with
    | some (st, body), some x =>
      if q.packToks = [] then endQuery s seq { status := st, detail := 0, body := body, handle := none }
      else if x.blk.carry ≠ [] ∧ x.blk.carryPolicy = 1 then
        endQuery (rejectText s) seq { status := stTextInvalid, detail := 0, body := packedZero body, handle := none }
      else
        let pre := carryTokens s x
        let all := pre ++ q.packToks
        if x.reserved + all.length - q.p.tokenBudget > pMax s x then
          endQuery s seq { status := stBadParam, detail := 28, body := packedZero body, handle := none }
        else
        let s := if pre = [] then s else countTok s x.blk.carry.length pre.length 1
        let s := modSess s idx fun y => { y with
          reserved := y.reserved + all.length - q.p.tokenBudget
          blk := { y.blk with carry := [] } }
        let k : JobKind := .append 0 2 (List.replicate pre.length 0) (some all) 0 (x.position + pre.length)
        let s := rack (modJob s seq fun i => { i with stage := 1, kind := k }) idx 3 0 plainDelta
        runAppend s { j with kind := k }
    | _, _ => s
  | _, _ => s

/-- What a grant lets a command do. -/
def granted (s : State) (seq idx : Nat) : State :=
  match jobOf s seq with
  | none => s
  | some j =>
    match j.kind with
    | .append .. => runAppend s j
    | .generate .. =>
      if j.stage = 5 then
        (match sessAt s idx with
        | some x => startChunks s idx seq (match vocabOf s x.vocab with
            | some v => tokenise v replacement
            | none => [])
        | none => s)
      else runGenerate s j
    | .query => deliverPack (setStage s seq 3) seq
    | _ => s

end Sys2Proof.Machine
end

