-- ==== Sys2Proof/Machine/MashObj.lean ====
section
/-! DEFINITION. The mash table object and its seven checks (R117 to R121). -/
namespace Sys2Proof.Machine

/-- A budget field: all ones is unlimited (R120). -/
def budField (n v : Nat) : Option Nat := if v = 2 ^ (8 * n) - 1 then none else some v

def parseBudget (r : List Byte) : Budget :=
  { tileRests := budField 4 (fld r 0 4), hbm := budField 8 (fld r 8 8), flash := budField 8 (fld r 16 8),
    fabric := budField 8 (fld r 24 8) }

def parseRest (r : List Byte) : RestEntry :=
  { act := (List.range 64).map fun i => fld r i 1,
    rt := (List.range 4).filterMap fun i =>
      if fld r (64 + 4 * i) 1 = 0xFF then none
      else some { die := fld r (64 + 4 * i) 1, tile := fld r (65 + 4 * i) 1, cls := fld r (66 + 4 * i) 2 } }

/-- Slices whose bit is set, ascending. -/
def maskSlices (m : Nat) : List Nat := (List.range 16).filter fun i => bit m i

/-- The table as its object spells it. -/
def readMash (digest : Nat) (bs : List Byte) : MashTable :=
  let sl := maskSlices (fld bs 8 2)
  { restCount := fld bs 6 2, sliceMask := fld bs 8 2,
    layout := (List.range 64).map fun i => fld bs (fld bs 16 8 + i) 1,
    rests := (records bs (fld bs 24 8) 80 (fld bs 6 2)).map parseRest,
    budgets := (List.range sl.length).map fun i =>
      (lget sl i 0, (records bs (fld bs 32 8 + 384 * i) 32 12).map parseBudget),
    gov := (List.range sl.length).map fun i =>
      let o := fld bs 40 8 + 8 * i
      (lget sl i 0, { pfMin := fld bs o 1, pfMax := fld bs (o + 1) 1, pfInit := fld bs (o + 2) 1, ratio := fld bs (o + 4) 2 }),
    digest := digest, builtin := false }

/-- Groups of one die tile it exactly once, each aligned to its size (R118): the first position from `i` on that breaks the
rule, `n` positions of a walk at most. -/
def layoutFault (lay : List Nat) : Nat → Nat → Option Nat
  | 0, _ => none
  | n + 1, i =>
    if i ≥ 16 then none
    else
      let b := lget lay i 0
      let g := bits b 4 0
      if ([1, 2, 4, 8, 16].contains g && i % g == 0 && (!bit b 5 || g == 4)) = false then some i
      else match (List.range (g - 1)).find? fun k => bits (lget lay (i + 1 + k) 0) 5 0 != 0 with
        | some k => some (i + 1 + k)
        | none => layoutFault lay n (i + g)

/-- Activities that may be assigned to groups (R119). -/
def assignable (a : Nat) : Bool := [0, 1, 2, 3, 4, 0xA, 0xB, 0xC, 0xF].contains a

/-- Governed groups of a slice, in order of first logical tile: (die, tile). -/
def governedOf (s : State) (t : MashTable) (sl : Nat) : List (Nat × Nat) :=
  (layoutGroups t.layout).filterMap fun g =>
    if g.2.2.2 ∧ groupSlice s g.1 g.2.1 g.2.2.1 = some sl then some (g.1, g.2.1) else none

/-- The first failed check of a table: (offset, check), or `none` (R121). -/
def mashFault (s : State) (t : MashTable) (bs : List Byte) : Option (Nat × Nat) :=
  let bad (n off : Nat) (ok : Bool) : List (Nat × Nat) := if ok then [] else [(off, n)]
  let lo := fld bs 16 8
  let ro := fld bs 24 8
  let bo := fld bs 32 8
  let go := fld bs 40 8
  let ns := (maskSlices t.sliceMask).length
  let sec (off n : Nat) : Bool := off % 64 == 0 && within bs off n
  let gs := layoutGroups t.layout
  let rests := List.range t.rests.length
  let restOf (i : Nat) : RestEntry := lget t.rests i default
  let c1 := bad 1 0 (fld bs 0 4 == 0x4853414D) ++ bad 1 4 (fld bs 4 2 == 1) ++ bad 1 10 (zeros bs 10 6) ++
    bad 1 48 (zeros bs 48 16) ++
    (List.range 64).flatMap (fun i => bad 1 (lo + i) (decide (fld bs (lo + i) 1 < 64))) ++
    rests.flatMap (fun r => (List.range 4).flatMap fun i =>
      bad 1 (ro + 80 * r + 66 + 4 * i) (decide (fld bs (ro + 80 * r + 66 + 4 * i) 2 < 4096))) ++
    (List.range (12 * ns)).flatMap (fun i => bad 1 (bo + 32 * i + 4) (zeros bs (bo + 32 * i + 4) 4)) ++
    (List.range ns).flatMap fun i => bad 1 (go + 8 * i + 3) (zeros bs (go + 8 * i + 3) 1 && zeros bs (go + 8 * i + 6) 2)
  let c2 := bad 2 6 (decide (1 ≤ t.restCount) && decide (t.restCount ≤ 1024)) ++ bad 2 16 (sec lo 64) ++
    bad 2 24 (sec ro (80 * t.restCount)) ++ bad 2 32 (sec bo (384 * ns)) ++ bad 2 40 (sec go (8 * ns))
  let c3 := (List.range 4).flatMap fun d =>
    match layoutFault ((t.layout.drop (16 * d)).take 16) 17 0 with
    | some i => [(lo + 16 * d + i, 3)]
    | none => []
  let c4 := gs.flatMap fun g => bad 4 (lo + 16 * g.1 + g.2.1) (groupSlice s g.1 g.2.1 g.2.2.1).isSome
  let c5 := rests.flatMap fun r => (List.range 64).flatMap fun i =>
    let a := lget (restOf r).act i 0
    let g := gs.find? fun g => 16 * g.1 + g.2.1 == i
    bad 5 (ro + 80 * r + i) (match g with
      | some g => assignable a && ((a == 0xF) == g.2.2.2)
      | none => a == 0)
  let c6 := rests.flatMap fun r => (List.range 4).flatMap fun i =>
    let at_ (k : Nat) : Nat := 16 * fld bs (ro + 80 * r + 64 + 4 * k) 1 + fld bs (ro + 80 * r + 65 + 4 * k) 1
    let used (k : Nat) : Bool := fld bs (ro + 80 * r + 64 + 4 * k) 1 != 0xFF
    bad 6 (ro + 80 * r + 64 + 4 * i) (!used i ||
      (decide (fld bs (ro + 80 * r + 64 + 4 * i) 1 < 4) && decide (fld bs (ro + 80 * r + 65 + 4 * i) 1 < 16) &&
        bits (lget t.layout (at_ i) 0) 4 0 != 0 && [1, 2, 3, 0xF].contains (lget (restOf r).act (at_ i) 0) &&
        (List.range i).all fun k => !(used k && at_ k == at_ i)))
  let c7 := (List.range t.gov.length).flatMap fun i =>
    match t.gov[i]? with
    | some (sl, g) =>
      let o := go + 8 * i
      bad 7 o (decide (g.pfMin ≤ g.pfInit)) ++ bad 7 (o + 2) (decide (g.pfInit ≤ g.pfMax)) ++
        bad 7 (o + 1) (decide (g.pfMax ≤ (governedOf s t sl).length)) ++
        bad 7 (o + 4) (decide (0x100 ≤ g.ratio) && decide (g.ratio ≤ 0x1000))
    | none => []
  match (if bs.length < 64 then [(0, 1)] else if c2 ≠ [] ∧ c1.all (fun p => decide (p.1 ≥ 64)) then c2 else
      c1 ++ c2 ++ c3 ++ c4 ++ c5 ++ c6 ++ c7) with
  | [] => none
  | f :: _ => some f

end Sys2Proof.Machine
end

