-- ==== Sys2Proof/Machine/Segments.lean ====
section
/-! DEFINITION. The segment container: bundles, ops and their durations, copies and fences, and the thirteen checks of a
load (R69, R86 to R96, R100 to R103, R109). The places of counts in parameter records other than those of MMA and ATTEND
and the byte ranges an op touches are presumed (log entry 23). -/
namespace Sys2Proof.Machine

/-- A parameter record of a segment (R89). -/
def pblkOf (g : Segment) (i : Nat) : List Byte := lget g.pblks i []

/-! ### Operand pairs (R69, R91) -/

/-- Class of a format code: 1 MXFP4, 2 MXFP6, 3 MXFP8, 4 FP8, 5 INT8, 6 BF16, 7 FP16, 8 FP32, 9 INT4 code, 10 INT8
code, 0 reserved. -/
def fmtClass : Nat → Nat
  | 0x01 => 1
  | 0x02 => 2
  | 0x03 => 2
  | 0x04 => 3
  | 0x05 => 3
  | 0x06 => 4
  | 0x07 => 4
  | 0x08 => 5
  | 0x09 => 6
  | 0x0A => 7
  | 0x0B => 8
  | 0x0C => 9
  | 0x0D => 10
  | _ => 0

/-- Twice q of R91 for an allowed pair: cycles of two contraction steps. -/
def pairTwoQ (a b : Nat) : Option Nat :=
  let ca := fmtClass a
  let cb := fmtClass b
  if 1 ≤ ca ∧ ca ≤ 3 ∧ 1 ≤ cb ∧ cb ≤ 3 then some (if ca = 1 ∨ cb = 1 then 1 else 2)
  else if ca = 4 ∧ cb = 4 then some 2
  else if ca = 5 ∧ cb = 5 then some 2
  else if ca = 6 ∧ cb = 6 then some 4
  else if ca = 7 ∧ cb = 7 then some 4
  else if ca = 6 ∧ cb = 9 then some 2
  else if ca = 6 ∧ cb = 10 then some 4
  else none

/-- Bits of one element of a format. -/
def fmtBits (f : Nat) : Nat :=
  match fmtClass f with
  | 1 => 4
  | 2 => 6
  | 3 => 8
  | 4 => 8
  | 5 => 8
  | 6 => 16
  | 7 => 16
  | 8 => 32
  | 9 => 4
  | 10 => 8
  | _ => 8

/-! ### Durations (R90 to R92) -/

/-- Head dimension an ATTEND record codes. -/
def attDim : Nat → Nat
  | 0 => 64
  | 1 => 128
  | _ => 256

def attDuration (p : List Byte) : Nat :=
  let d := attDim (fld p 0 1)
  let h := 2 ^ log2Ceil (fld p 1 1)
  let q := if fld p 6 1 = 4 then 1 else 2
  40 + fld p 4 2 * max (q * (d + 128 * ceilDiv d 128)) (4 * fld p 2 1 * h)

/-- ARITH cycles an op holds its slot or lane (R90). -/
def opDur (g : Segment) (vocab : Nat) (o : Op) : Nat :=
  let p := pblkOf g o.pblk
  let n := fld p 0 4
  match o.op with
  | 0x10 => max 8 (ceilDiv (fld p 8 4 * (pairTwoQ (fld p 0 1) (fld p 1 1)).getD 2) 2)
  | 0x11 => attDuration p
  | 0x20 => 8 + ceilDiv n 128
  | 0x21 => 16 + ceilDiv n 128
  | 0x22 => 8 + ceilDiv n 32
  | 0x23 => 96 + 4 * ceilDiv vocab 128
  | 0x30 => 8 + ceilDiv n 256
  | 0x31 => 16 + ceilDiv n 256
  | 0x40 => 32 + ceilDiv (lget g.copies o.w0 default).bytes 160
  | 0x50 => 1
  | 0x60 => 1
  | 0x61 => 4
  | _ => 0

/-! ### SRAM ranges of an op: (address, bytes) read, and written (log entry 23) -/

def opReads (g : Segment) (vocab : Nat) (o : Op) : List (Nat × Nat) :=
  let p := pblkOf g o.pblk
  let n := fld p 0 4
  let opt (a k : Nat) : List (Nat × Nat) := if a = 0 then [] else [(a, k)]
  match o.op with
  | 0x10 =>
    let k := fld p 8 4
    let m := fld p 3 1
    let nc := fld p 4 2
    [(o.w0, ceilDiv (m * k * fmtBits (fld p 0 1)) 8), (o.w1, ceilDiv (nc * k * fmtBits (fld p 1 1)) 8)] ++
      opt (fld p 16 4) (m * ceilDiv k 32) ++ opt (fld p 20 4) (nc * ceilDiv k 32) ++ opt (fld p 24 4) (4 * nc)
  | 0x11 =>
    let d := attDim (fld p 0 1)
    let rows := fld p 1 1 * fld p 2 1
    let cells := fld p 2 1 * fld p 4 2
    [(o.w0, rows * d * 2), (o.w1, cells * 256 * d * fld p 6 1 / 8), (fld p 12 4, 4 * rows), (fld p 16 4, 8 * cells),
     (fld p 20 4, 8 * cells)]
  | 0x20 => [(o.w0, 4 * n)] ++ (if o.flags < 4 then [(o.w1, 4 * n)] else if o.flags = 4 ∧ 0x0C ≤ fld p 4 1 then [(o.w1, 4)] else []) ++
      (if o.flags = 0 then [(o.w2, 4 * n)] else [])
  | 0x21 => [(o.w0, 4 * n)]
  | 0x22 => [(o.w0, 4 * n)]
  | 0x23 =>
    let k := if g.phase = 2 then fld p 8 1 else 0
    [(o.w0, 4 * vocab * (k + 1)), (o.w1, 16576)] ++
      opt (fld p 4 4) ((k + 1) * (64 + 2 * (ceilDiv vocab 512 * 64))) ++
      (if g.phase = 2 then [(fld p 12 4, 4 * k), (fld p 16 4, 4 * vocab * k)] else [])
  | 0x30 => [(o.w0, n)]
  | 0x31 => [(o.w0, n)]
  | 0x61 => [(o.w0, o.w1)]
  | _ => []

/-- Bytes of the output of a VEC op. -/
def vecOutBytes (o : Op) (p : List Byte) : Nat :=
  let n := fld p 0 4
  if o.flags = 4 then ceilDiv (n * fmtBits (fld p 4 1)) 8
  else if o.flags = 5 then ceilDiv (n * fmtBits (fld p 4 1)) 8 + ceilDiv n 32 else 4 * n

/-- What an op writes: tile of the group, address, bytes. -/
def opWrites (g : Segment) (o : Op) : List (Nat × Nat × Nat) :=
  let p := pblkOf g o.pblk
  let n := fld p 0 4
  let t := o.slot
  match o.op with
  | 0x10 => [(t, o.w2, fld p 3 1 * fld p 4 2 * fmtBits (fld p 2 1) / 8)]
  | 0x11 =>
    let d := attDim (fld p 0 1)
    let rows := fld p 1 1 * fld p 2 1
    [(t, o.w2, rows * d * fmtBits (fld p 3 1) / 8 + rows * (8 + 4 * d))]
  | 0x20 => [(t, o.w2, vecOutBytes o p)]
  | 0x21 => [(t, o.w2, 4)]
  | 0x22 => [(t, o.w2, 4 * n)]
  | 0x23 => [(t, o.w2, 64), (t, o.w1 + 16480, 16)]
  | 0x30 => [(t, o.w2, n)]
  | 0x31 => [(o.w1 % 16, o.w2, n)]
  | _ => []

/-! ### Reading the container (R87, R89, R95, R100, R101) -/

def slotsOf (mask : Nat) : List Nat := (List.range 25).filter fun i => bit mask i

def parseOp (bs : List Byte) (off slot : Nat) : Op :=
  { slot := slot, op := fld bs off 1, flags := fld bs (off + 1) 1, pblk := fld bs (off + 2) 2, w0 := fld bs (off + 4) 4,
    w1 := fld bs (off + 8) 4, w2 := fld bs (off + 12) 4 }

/-- Bundles from `off` to `stop`, each with its object offset. -/
def parseBundles (bs : List Byte) : Nat → Nat → Nat → Nat → List (Nat × Bundle)
  | 0, _, _, _ => []
  | n + 1, off, stop, cyc =>
    if off ≥ stop then []
    else
      let mask := fld bs (off + 2) 4 % 33554432
      let fl := fld bs (off + 6) 1
      let c := cyc + fld bs off 2
      let sl := slotsOf mask
      let ops := (List.range sl.length).map fun i => parseOp bs (off + 8 + 16 * i) (lget sl i 0)
      (off, { cycle := c, delta := fld bs off 2, switchPoint := bit fl 0, last := bit fl 1, ops := ops }) ::
        parseBundles bs n (off + 8 + 16 * sl.length) stop c

def parseCopy (r : List Byte) : CopyEnt :=
  { kind := fld r 0 1, lane := fld r 1 1, desc := fld r 2 1, tile := fld r 3 1, sram := fld r 4 4, offset := fld r 8 8,
    bytes := fld r 16 4, issue := fld r 20 4, fence := fld r 24 4 }

/-- Lanes a group of `g` tiles owns (R93). -/
def groupLanes (g : Nat) : Nat := if g = 1 then 1 else g + g / 2

/-- The segment as its object spells it, before any check. -/
def readSeg (o : ObjRef) (tenant : Nat) (bs : List Byte) : Segment × List (Nat × Bundle) :=
  let dc := fld bs 56 2
  let cc := fld bs 60 4
  let pc := fld bs 64 4
  let sc := fld bs 68 4
  let bb := fld bs 72 4
  let bunds := parseBundles bs (bb / 8 + 1) (fld bs 112 8) (fld bs 112 8 + bb) 0
  ({ id := 0, model := fld bs 8 4, tenant := tenant, phase := fld bs 12 1, groupTiles := fld bs 13 1,
     batch := bits (fld bs 14 2) 8 0, bucket := bits (fld bs 14 2) 13 9, digest := o.digest, bytes := o.len,
     length := fld bs 16 4, liveSram := fld bs 20 4, carryIn := fld bs 24 4, carryOut := fld bs 28 4,
     hbm := fld bs 32 8, fabric := fld bs 40 8, flash := fld bs 48 8, lanesUsed := fld bs 58 2,
     descs := (records bs (fld bs 80 8) 8 dc).map fun r =>
       { kind := fld r 0 1, entry := fld r 1 1, writable := bit (fld r 2 1) 0, minBytes := fld r 4 4 },
     copies := (records bs (fld bs 88 8) 32 cc).map parseCopy,
     pblks := records bs (fld bs 96 8) 32 pc,
     switches := (records bs (fld bs 104 8) 8 sc).map fun r => (fld r 0 4, fld r 4 4),
     bundles := bunds.map (·.2), replaced := false, obj := o }, bunds)

/-! ### The checks (R103) -/

/-- Ops with the cycle of their bundle. -/
def opsOf (g : Segment) : List (Nat × Op) := g.bundles.flatMap fun b => b.ops.map fun o => (b.cycle, o)

/-- Whether a copy issued by op `o` is the entry `i`. -/
def issues (o : Op) (i : Nat) : Bool := (o.op == 0x40 || o.op == 0x50 || o.op == 0x60) && o.w0 == i

/-- Minimum fence of a copy (R96). -/
def fenceOk (c : CopyEnt) : Bool :=
  if c.kind ≤ 3 then decide (c.issue + 32 + ceilDiv c.bytes 160 + 15 ≤ c.fence) else decide (c.issue < c.fence)

/-- Lowest bits that `length_arith`, `hbm_bytes` and `fabric_bytes` must equal (R102). -/
def segLength (g : Segment) (vocab : Nat) : Nat :=
  max ((g.copies.map (·.fence)).foldl max 0)
    (((opsOf g).map fun p => p.1 + opDur g vocab p.2 + (if p.2.op = 0x10 then 40 else 0)).foldl max 0)

def segHbm (g : Segment) : Nat :=
  sumBy (fun c => if c.kind ≤ 3 then c.bytes else if c.kind = 6 ∨ c.kind = 7 then 2 * c.bytes else 0) g.copies

def segFabric (g : Segment) : Nat := sumBy (fun c => if c.kind = 4 ∨ c.kind = 5 then c.bytes else 0) g.copies

/-- Whether consecutive issues on one slot or lane keep the duration between them (R88). -/
def spaced : List (Nat × Nat) → Bool
  | (c, d) :: (c', d') :: l => decide (c + d ≤ c') && spaced ((c', d') :: l)
  | _ => true

def slotOk (g : Segment) (o : Op) : Bool :=
  if o.slot < 16 then [0x10, 0x11, 0x20, 0x21, 0x22, 0x23, 0x30, 0x31].contains o.op
  else if o.slot < 22 then o.op == 0x40
  else if o.slot < 24 then o.op == 0x50
  else (o.op == 0x60 || o.op == 0x61) && decide (g.groupTiles ≤ 16)

/-- Kinds of copies an op issues. -/
def kindOk (g : Segment) (o : Op) : Bool :=
  let k := (lget g.copies o.w0 default).kind
  match o.op with
  | 0x40 => decide (k ≤ 3)
  | 0x50 => k == 4
  | 0x60 => k == 6 || k == 7
  | _ => true

/-- Check 3: op codes, pairs and parameter ranges (R69, R90 to R92). -/
def opDefined (g : Segment) (o : Op) : Bool :=
  let p := pblkOf g o.pblk
  slotOk g o && kindOk g o &&
  (match o.op with
    | 0x10 =>
      (pairTwoQ (fld p 0 1) (fld p 1 1)).isSome && [0x06, 0x07, 0x09, 0x0A, 0x0B].contains (fld p 2 1) &&
      decide (1 ≤ fld p 3 1) && decide (fld p 3 1 ≤ 64) && decide (1 ≤ fld p 4 2) && decide (fld p 4 2 ≤ 128) &&
      decide (8 ≤ fld p 8 4) && decide (fld p 8 4 ≤ 65536) &&
      (if fmtClass (fld p 0 1) ≤ 4 then fld p 8 4 % 32 == 0 else fld p 8 4 % 8 == 0)
    | 0x11 =>
      decide (fld p 0 1 ≤ 2) && decide (1 ≤ fld p 1 1) && decide (fld p 1 1 ≤ 64) && decide (1 ≤ fld p 2 1) &&
      decide (fld p 2 1 * 2 ^ log2Ceil (fld p 1 1) ≤ 64) && (fld p 3 1 == 9 || fld p 3 1 == 0x0B) &&
      decide (1 ≤ fld p 4 2) && (fld p 6 1 == 4 || fld p 6 1 == 8)
    | 0x20 => decide (o.flags ≤ 5)
    | 0x21 => decide (o.flags ≤ 1)
    | 0x22 => decide (o.flags ≤ 2)
    | 0x61 => decide (64 ≤ o.w1) && decide (o.w1 ≤ 256) && decide (o.w2 < 65536)
    | _ => true)

/-- Check 1, parameter records: reserved fields and reserved address bits, by their places in the record (R10, R89, R91, R92). -/
def pblkReserved (g : Segment) (o : Op) : List (Nat × Bool) :=
  let p := pblkOf g o.pblk
  let addr (i : Nat) : Nat × Bool := (i, decide (fld p i 4 < 33554432))
  match o.op with
  | 0x10 => [(6, zeros p 6 2), addr 16, addr 20, addr 24, (28, zeros p 28 4)]
  | 0x11 => [(7, decide (fld p 7 1 < 4)), addr 12, addr 16, addr 20, (24, zeros p 24 8)]
  | 0x23 => if g.phase = 2 then [addr 4, addr 12, addr 16] else [addr 4]
  | _ => []

/-- Check 1, ops: reserved flags and reserved address bits (R10, R89). -/
def opReserved (o : Op) : Bool :=
  let addr (a : Nat) : Bool := decide (a < 33554432)
  match o.op with
  | 0x10 => o.flags == 0 && addr o.w0 && addr o.w1 && addr o.w2
  | 0x11 => o.flags == 0 && addr o.w0 && addr o.w1 && addr o.w2
  | 0x20 => addr o.w0 && addr o.w1 && addr o.w2
  | 0x21 => addr o.w0 && addr o.w2
  | 0x22 => addr o.w0 && addr o.w2
  | 0x23 => o.flags == 0 && addr o.w0 && addr o.w1 && addr o.w2
  | 0x30 => o.flags == 0 && addr o.w0 && addr o.w2
  | 0x31 => o.flags == 0 && addr o.w0 && decide (o.w1 < 16) && addr o.w2
  | 0x61 => o.flags == 0 && addr o.w0
  | _ => o.flags == 0

def overlap (a n b m : Nat) : Bool := decide (a < b + m) && decide (b < a + n) && decide (0 < n) && decide (0 < m)

/-- The segment cycle from which an op touches its tile no more: an MMA's result lands 40 cycles after it ends (R91). -/
def opEnd (g : Segment) (vocab cyc : Nat) (o : Op) : Nat := cyc + opDur g vocab o + (if o.op = 0x10 then 40 else 0)

/-- Check 7: no op reads a copy's destination or overwrites its source between issue and fence (R96). -/
def copyQuiet (g : Segment) (vocab : Nat) (c : CopyEnt) : Bool :=
  (opsOf g).all fun p =>
    p.2.slot ≥ 16 || decide (p.1 ≥ c.fence) ||
    (if c.kind = 0 ∨ c.kind = 2 ∨ c.kind = 5 ∨ c.kind = 6 then
      p.2.slot != c.tile || decide (p.1 + opDur g vocab p.2 ≤ c.issue) ||
        (opReads g vocab p.2).all fun r => !overlap r.1 r.2 c.sram c.bytes
     else decide (opEnd g vocab p.1 p.2 ≤ c.issue) ||
        (opWrites g p.2).all fun r => r.1 != c.tile || !overlap r.2.1 r.2.2 c.sram c.bytes)

/-- The bank of an SRAM address, and its line within the bank (R62). -/
def bankOf (a : Nat) : Nat := a / 64 % 32
def bankLine (a : Nat) : Nat := a / 2048

/-- The addresses that the ops and copies of a segment access at tile `t` of the group in one segment cycle. Which addresses of
its ranges an op or copy accesses in which of its cycles is fixed by the part and given by no rule (log 23). -/
def accesses (g : Segment) (vocab t cyc : Nat) : List Nat :=
  ((opsOf g).flatMap fun p =>
    let o := p.2
    let w := [o.op, o.flags, o.w0, o.w1, o.w2]
    if cyc < p.1 ∨ opEnd g vocab p.1 o ≤ cyc ∨ 16 ≤ o.slot then []
    else (if o.slot = t then Config.touched (pblkOf g o.pblk) w (cyc - p.1) else []) ++
      (if o.op = 0x31 ∧ o.w1 % 16 = t then Config.landed (pblkOf g o.pblk) w (cyc - p.1) else [])) ++
  g.copies.flatMap fun c =>
    if c.tile = t ∧ c.issue ≤ cyc ∧ cyc < c.fence then Config.touched [] [c.kind, c.sram, c.bytes] (cyc - c.issue) else []

/-- Check 4: no tile names a bank twice in one cycle (R62). -/
def banksFree (g : Segment) (vocab : Nat) : Bool :=
  (List.range g.groupTiles).all fun t => (List.range (g.length + 1)).all fun c =>
    !hasDup ((accesses g vocab t c).map bankOf)

/-- Check 9: gaps between entry, interior switch points and exit (R109). -/
def switchGaps (len : Nat) : Nat → List Nat → Bool
  | prev, [] => decide (len ≤ prev + 2048)
  | prev, c :: cs => decide (prev < c) && decide (c ≤ prev + 2048) && decide (c < len) && switchGaps len c cs

/-- Check 12: bytes of the bundles that lie within 1,024 cycles from a bundle on. -/
def windowBytes (bs : List Bundle) : Nat :=
  match bs with
  | [] => 0
  | b :: _ => sumBy (fun k => if k.cycle < b.cycle + 1024 then
      8 + 16 * k.ops.length + sumBy (fun o => if o.op < 0x40 then 32 else 0) k.ops else 0) bs

def suffixes {α : Type} : List α → List (List α)
  | [] => []
  | a :: l => (a :: l) :: suffixes l

/-- The first failed check of a segment container: (offset, check), or `none` (R103). -/
def segFault (g : Segment) (bunds : List (Nat × Bundle)) (vocab : Nat) (bs : List Byte)
    (model phase groupTiles batch : Nat) : Option (Nat × Nat) :=
  let copyOff := fld bs 88 8
  let descOff := fld bs 80 8
  let swOff := fld bs 104 8
  let idx {α : Type} (l : List α) : List Nat := List.range l.length
  let bad (n off : Nat) (ok : Bool) : List (Nat × Nat) := if ok then [] else [(off, n)]
  let secOk (off n : Nat) : Bool := off % 64 == 0 && within bs off n
  let perOp (n : Nat) (f : Op → Bool) : List (Nat × Nat) :=
    bunds.flatMap fun b => (idx b.2.ops).flatMap fun i => bad n (b.1 + 8 + 16 * i) (f (lget b.2.ops i default))
  let perCopy (n : Nat) (f : Nat → CopyEnt → Bool) : List (Nat × Nat) :=
    (idx g.copies).flatMap fun i => bad n (copyOff + 32 * i) (f i (lget g.copies i default))
  let c1 :=
    bad 1 0 (fld bs 0 4 == 0x4753584A) ++ bad 1 4 (fld bs 4 2 == 1) ++ bad 1 6 (zeros bs 6 2) ++
    bad 1 8 (decide (g.model < 1048576)) ++ bad 1 13 ([1, 2, 4, 8, 16].contains g.groupTiles) ++
    bad 1 14 (decide (fld bs 14 2 < 16384) && decide (1 ≤ g.batch) && decide (g.batch ≤ 256) && decide (4 ≤ g.bucket) &&
      decide (g.bucket ≤ 20)) ++
    bad 1 56 (decide (1 ≤ g.descs.length) && decide (g.descs.length ≤ 64)) ++ bad 1 60 (decide (g.copies.length ≤ 1048576)) ++
    bad 1 64 (decide (g.pblks.length ≤ 65536)) ++ bad 1 76 (zeros bs 76 4) ++ bad 1 120 (zeros bs 120 8) ++
    bad 1 80 (secOk descOff (8 * g.descs.length)) ++ bad 1 88 (secOk copyOff (32 * g.copies.length)) ++
    bad 1 96 (secOk (fld bs 96 8) (32 * g.pblks.length)) ++ bad 1 104 (secOk swOff (8 * g.switches.length)) ++
    bad 1 112 (secOk (fld bs 112 8) (fld bs 72 4)) ++
    (idx g.descs).flatMap (fun i => bad 1 (descOff + 8 * i) (decide (1 ≤ (lget g.descs i default).kind) &&
      decide ((lget g.descs i default).kind ≤ 8) && decide (fld bs (descOff + 8 * i + 2) 1 < 2) && zeros bs (descOff + 8 * i + 3) 1)) ++
    perCopy 1 (fun i c => decide (c.kind ≤ 7) && decide (c.tile < 16) && zeros bs (copyOff + 32 * i + 28) 4 &&
      ((c.kind != 2 && c.kind != 3) || (decide (c.offset < 72057594037927936) && decide (1 ≤ bits c.offset 55 48) &&
        decide (bits c.offset 55 48 ≤ 3))) && decide (c.sram < 33554432)) ++
    bunds.flatMap (fun b => bad 1 b.1 (decide (fld bs (b.1 + 2) 4 < 33554432) && decide (fld bs (b.1 + 6) 1 < 4) &&
      zeros bs (b.1 + 7) 1 && (b.1 == fld bs 112 8 || b.2.delta != 0) &&
      decide (b.1 + 8 + 16 * b.2.ops.length ≤ fld bs 112 8 + fld bs 72 4))) ++
    perOp 1 opReserved ++
    (opsOf g).flatMap (fun p => (pblkReserved g p.2).flatMap fun r => bad 1 (fld bs 96 8 + 32 * p.2.pblk + r.1) r.2)
  let c2 := bad 2 8 (g.model == model) ++ bad 2 12 (g.phase == phase) ++ bad 2 13 (g.groupTiles == groupTiles) ++
    bad 2 14 (fld bs 14 2 == batch)
  let c4 := bad 4 (fld bs 112 8) (banksFree g vocab)
  let lane (l : Nat) : List (Nat × Nat) := (opsOf g).filterMap fun p =>
    if p.2.op = 0x40 ∧ (lget g.copies p.2.w0 default).lane = l then some (p.1, opDur g vocab p.2) else none
  let slot (t : Nat) : List (Nat × Nat) := (opsOf g).filterMap fun p =>
    if p.2.slot = t then some (p.1, opDur g vocab p.2) else none
  let c5 := bad 5 (fld bs 112 8) ((List.range 16).all (fun t => spaced (slot t)) && (List.range 24).all fun l => spaced (lane l))
  let c6 := perCopy 6 fun i c =>
    let ops := (opsOf g).filter fun p => issues p.2 i
    (if c.kind = 5 then ops == [] && c.issue == 0 else ops.map (·.1) == [c.issue]) && fenceOk c &&
    decide (64 ≤ c.bytes) && decide (c.bytes ≤ 16777216) && c.bytes % 64 == 0
  let c8 := perCopy 8 (fun _ c => decide (c.tile < g.groupTiles) &&
      (if c.kind ≤ 3 then decide (c.lane < groupLanes g.groupTiles) else c.lane == 0xFF)) ++
    perOp 8 (fun o => (o.slot ≥ 16 || decide (o.slot < g.groupTiles)) && (o.op != 0x31 || decide (o.w1 < g.groupTiles))) ++
    bad 8 58 (g.lanesUsed == (g.copies.map fun c => if c.kind ≤ 3 then c.lane + 1 else 0).foldl max 0)
  let marked := (g.bundles.filter (·.switchPoint)).map (·.cycle)
  let c9 := bad 9 swOff (marked == g.switches.map (·.1) && switchGaps g.length 0 (g.switches.map (·.1)))
  let c10 := bad 10 20 (decide (g.liveSram ≤ 25165824) && g.switches.all fun p => decide (p.2 ≤ g.liveSram))
  let c11 := bad 11 16 (g.length == segLength g vocab) ++ bad 11 32 (g.hbm == segHbm g) ++ bad 11 40 (g.fabric == segFabric g)
  let c12 := bad 12 (fld bs 112 8) ((suffixes g.bundles).all fun l => decide (windowBytes l ≤ 2048 * g.groupTiles))
  let c13 := perCopy 13 (fun _ c => decide (c.sram + c.bytes ≤ Config.sramBytes) && decide (c.desc < g.descs.length)) ++
    perOp 13 (fun o => (o.op ≥ 0x40 || decide (o.pblk < g.pblks.length)) &&
      (o.op < 0x40 || o.op == 0x61 || decide (o.w0 < g.copies.length)) &&
      (opReads g vocab o ++ (opWrites g o).map (·.2)).all fun r => decide (r.1 + r.2 ≤ Config.sramBytes))
  let tail := bad 1 (fld bs 112 8) ((bunds.map fun b => b.2.last) ==
    (List.range bunds.length).map fun i => decide (i + 1 = bunds.length))
  match (if bs.length < 128 then [(0, 1)] else
      c1 ++ tail ++ c2 ++ perOp 3 (opDefined g) ++ c4 ++ c5 ++ c6 ++
      perCopy 7 (fun _ c => copyQuiet g vocab c) ++ c8 ++ c9 ++ c10 ++ c11 ++ c12 ++ c13) with
  | [] => none
  | f :: _ => some f

/-- Bytes of the segment store in use (R104). -/
def segBytes (s : State) : Nat := sumBy (fun g => g.2.bytes) s.mill.segs

/-- Whether an entry still runs, is sealed or is saved on a segment. -/
def segInUse (s : State) (id : Nat) : Bool :=
  (s.mill.groups ++ s.mill.coming).any fun g => g.chain.any (·.seg == id) || g.sealed.any (·.seg == id) || g.saved.any (·.seg == id)

/-- Replaced segments whose last instance has ended are freed (R104). -/
def reapSegs (s : State) : State :=
  { s with mill.segs := s.mill.segs.filter fun g => !(g.2.replaced && !segInUse s g.1) }

end Sys2Proof.Machine
end

