-- ==== Sys2Proof/Machine/Commit.lean ====
section
/-! DEFINITION. Commits of steps, acknowledgements and what they release, and the commands of a session as they reach
their turn (R25, R142 to R144, R151, R152, R166, R172, R173, R179 to R186, R331, R337, R341). -/
namespace Sys2Proof.Machine

/-! ### Prefix-tree insertion (R166) -/

/-- The tokens of a page, from the ring (its last entry is the session's last position). -/
def pageToks (x : Sess) (p : Page) : List Nat :=
  (x.blk.ring.drop (x.blk.ring.length - (x.position - p.first))).take (2 ^ p.k)

/-- The page with its last position in KV positions `a` to `b` − 1 becomes a node (R166), if the session still links and insertion is
on: it joins under the node of the page before it, or, where another has inserted the same, stays private and clears `linked`.
At the node limit nothing is inserted, and the refusal is counted (R177). -/
def insertNode (s : State) (idx i : Nat) : State :=
  match sessAt s idx with
  | none => s
  | some x =>
    match x.pages[i]? with
    | none => s
    | some p =>
      if !x.linked || !s.cellar.prefixEn || p.isShared || !p.full then s
      else if s.cellar.nodes.length ≥ Config.nodeMax then { s with cellar.cnt.full := ctrAdd s.cellar.cnt.full 1 }
      else
        let parent := if i = 0 then 0 else (lget x.pages (i - 1) p).node
        let toks := pageToks x p
        if i ≠ 0 ∧ parent = 0 then s
        else match childNode s x parent i toks with
        | some _ => modSess s idx fun y => { y with linked := false }
        | none =>
          let id := s.cellar.nextNode
          let nd : Node := { id := id, tenant := x.tenant, model := x.model, vocab := x.vocab, parent := parent,
                             j := i, k := p.k, toks := toks, die := x.homeDie, runs := p.runs, inHbm := true, pairs := p.pairs,
                             codes := p.codes, flash := 0, links := 1, casks := 0, lastLinked := s.dev.localCtr,
                             hash := Config.nodeHash parent toks % two64 }
          let s := { s with cellar.nodes := tput s.cellar.nodes id nd, cellar.nextNode := id + 1 }
          modSess s idx fun y => { y with pages := lmod y.pages i fun q => { q with isShared := true, node := id } }

/-- The pages that a commit of KV positions `a` to `b` − 1 has filled, in order (R166). -/
def insertNodes (s : State) (idx a b : Nat) : State :=
  let ps := ((sessAt s idx).map (·.pages)).getD []
  (List.range ps.length).foldl (fun s i =>
    let p := lget ps i default
    if a < p.first + 2 ^ p.k ∧ p.first + 2 ^ p.k ≤ b then insertNode s idx i else s) s

/-! ### Acknowledgements (R25, R329) -/

/-- Records acknowledged so far take their effect, in order: tokens are released, an append completes, a park or a
condense learns of it. -/
def takeAcks : Nat → State → Nat → State
  | 0, s, _ => s
  | n + 1, s, idx =>
    match sessAt s idx with
    | none => s
    | some x =>
      match x.deltas with
      | [] => s
      | d :: ds =>
        if d.rackSeq > x.rackAcked then s
        else
          let s := modSess s idx fun y => { y with deltas := ds }
          let s := if d.rkind = 5 then modSess s idx fun y => { y with parkAcked := true } else s
          let s := (List.range d.toks.length).foldl (fun s i => releaseToken s idx (lget d.toks i 0) d.grams[i]?) s
          let s := if d.toks = [] ∧ (d.rkind = 2 ∨ d.rkind = 4) then
              (match sessAt s idx with
                | some y => if y.run.isNone then modSess s idx fun y => { y with released := max y.released d.position } else s
                | none => s) else s
          let s := match d.endOfAppend with
            | some seq =>
              match jobOf s seq with
              | some j =>
                match j.kind with
                | .append _ 2 _ _ _ _ =>
                  (match (queryOf s seq).bind (·.result) with
                    | some (st, body) => endQuery s seq { status := st, detail := 0, body := body, handle := none }
                    | none => s)
                | .append _ mode tail _ added _ =>
                  let n := if mode = 1 then added - tail.length else added
                  settleWarm (dropResvOf (complete s seq (ansB (lay [(4, d.position), (4, n)]))) seq idx) idx
                | _ => complete s seq (ans stOk)
              | none => s
            | none => s
          takeAcks n s idx

/-! ### Migration out: the offer (R337, R341) -/

/-- An offer runs: the peer is checked, the session freezes OFFERED at the next epoch, its record goes to the buddy and
OFFER to the peer. -/
def beginOffer (s : State) (j : Job) (dest : Nat) : State :=
  let idx := idxOf j.session
  match sessAt s idx with
  | none => s
  | some x =>
    if x.epoch ≥ 0xFFFFFFF0 then complete s j.seq (ans stEpoch)
    else if reachable s dest = false then complete s j.seq (ans stRetry)
    else
      let e := x.epoch + 1
      let s := modSess s idx fun y =>
        { y with offeredFrom := y.state, state := stOFFERED, epoch := e, dwellOn := false, ownerPeer := 0,
                 blk := noDraft y.blk }
      let s := freeRuns s x.homeDie (draftRuns x.blk)
      let s := if x.epoch < 0xFFFFFF00 ∧ e ≥ 0xFFFFFF00 then counterNear s 0 (handleOf x) e 0xFFFFFFF0 else s
      let s := rack s idx 8 0 plainDelta
      let s := { setStage s j.seq 3 with
        rack.out := s.rack.out ++ [{ handle := handleOf x, dest := dest, seq := j.seq, attempts := 1, stage := 1, settling := none }] }
      match sessAt s idx with
      | some y => sendMsg s dest 0 0 0 0 false (.offer (imageOf s y))
      | none => s

/-! ### Parks and condenses as they reach their turn (R151, R169, R173) -/

def parkedNow (s : State) (idx seq : Nat) : State :=
  complete (applied s idx seq) seq (ansB (lay [(8, 0)]))

/-- A SESSION_PARK at its turn (R168, R169, R381). -/
def tryPark (s : State) (idx : Nat) (seq : Nat) : State :=
  match sessAt s idx with
  | none => s
  | some x =>
    match parkBlock s x with
    | 0 => beginPark (if seq = noSeq then s else setStage s seq 3) idx seq
    | 1 => if seq = noSeq then modSess s idx fun y => { y with parkWait := true, parkFull := true, parkSeq := noSeq } else
        complete (modSess s idx fun y => { y with parkWait := false, parkFull := false, parkSeq := noSeq, parkWear := 0 }) seq (ans stFlashFull)
    | 3 => if seq = noSeq then modSess s idx fun y => { y with parkWait := false, parkFull := false } else
        complete (modSess s idx fun y => { y with parkWait := false, parkFull := false, parkSeq := noSeq, parkWear := 0 }) seq (ans stDenied)
    | 2 =>
      -- a mash cycle counts once if a spent wear allowance holds the park in it
      let again := x.parkWait && x.parkSeq == seq
      let due := wearHeld s && !(again && x.parkWearAt == s.mash.cycleCnt + 1)
      let wear := (if again then x.parkWear else 0) + (if due then 1 else 0)
      if seq ≠ noSeq ∧ wear ≥ 64 then
        complete (modSess s idx fun y => { y with parkWait := false, parkFull := false, parkSeq := noSeq, parkWear := 0 }) seq
          (ans stWearLimit)
      else
        let s := modSess (if seq = noSeq then s else setStage s seq 1) idx fun y =>
          { y with parkWait := true, parkFull := false, parkSeq := seq, parkWear := wear,
                   parkWearAt := if due then s.mash.cycleCnt + 1 else if again then y.parkWearAt else 0 }
        noteWriteHold s (sliceOfSess s x) 6 x.tenant (parkWriteBytes s x) (some idx)
    | _ => modSess (if seq = noSeq then s else setStage s seq 1) idx fun y =>
        { y with parkWait := true, parkFull := false, parkSeq := seq }

/-- A SESSION_CONDENSE starts: `condensing` is set and its summary pages' frames are asked for (R172, R173). -/
def beginCondense (s : State) (idx seq slots : Nat) : State :=
  match sessAt s idx with
  | none => s
  | some x =>
    let s := modSess s idx fun y => { y with condensing := true, condSlots := slots, condDone := false, condPage := none }
    askFrames (setStage s seq 1) seq idx x.homeDie x.tenant (sliceOfSess s x) (extractOrders s x slots)

/-- The condenser's item becomes eligible; the session stays WARM (R130, R172). -/
def condenseItem (s : State) (x : Sess) (seq no slots : Nat) : State :=
  addItem s x.idx seq x.tenant (sliceOfSess s x) x.share 5 x.model x.position no (.condense slots) 10

/-- A condense of the Cellar's own starts with its frames taken at once, or not at all (R173). -/
def ownCondense (s : State) (idx slots : Nat) : Option State :=
  match sessAt s idx with
  | none => none
  | some x =>
    match takeRuns s x.homeDie x.tenant (sliceOfSess s x) (extractOrders s x slots) with
    | none => none
    | some (rs, s) =>
      let r : Resv := { id := s.cellar.nextResv, seq := noSeq, sess := idx, die := x.homeDie, tenant := x.tenant,
                        slice := sliceOfSess s x, orders := extractOrders s x slots, runs := rs, granted := true,
                        sinceCycle := s.mash.cycleCnt }
      let s := { s with cellar.resvs := s.cellar.resvs ++ [r], cellar.nextResv := s.cellar.nextResv + 1 }
      let s := modSess s idx fun y => { y with condensing := true, condSlots := slots, condDone := false, condPage := none }
      some (condenseItem s x noSeq s.gl.acceptNo slots)

/-- A SESSION_REVIVE of a session that is WARM or ACTIVE: source 0 (R151, R174). -/
def reviveNow (s : State) (idx : Nat) (j : Job) : State :=
  let s := { s with cellar.cnt.revive := lmod s.cellar.cnt.revive 0 fun n => ctrAdd n 1 }
  complete (applied s idx j.seq) j.seq (ansB (lay [(1, 0), (3, 0), (4, usSince s j.acceptedAt)]))

/-- A SESSION_CONDENSE at its turn (R151, R173). -/
def tryCondense (s : State) (idx seq slots : Nat) : State :=
  match sessAt s idx with
  | none => s
  | some x =>
    if condensable s x = false then complete s seq (ans stDenied)
    else if hasCondenser s x = false then complete s seq (ans stWrongState)
    else if extractFree s = false then complete s seq (ans stTableFull)
    else beginCondense s idx seq (if slots = 0 then (serviceOf s x.cls).condenseSlots else slots)

/-- A dwell or pressure move of a WARM session: condensed where the class and the device allow it, parked otherwise
(R150, R163, R173). -/
def retireSession (s : State) (idx : Nat) : State :=
  match sessAt s idx with
  | none => s
  | some x =>
    let slots := (serviceOf s x.cls).condenseSlots
    if condensable s x then
      match (if extractFree s && hasCondenser s x then ownCondense s idx slots else none) with
      | some s => s
      | none => tryPark { s with cellar.cnt.fallback := ctrAdd s.cellar.cnt.fallback 1 } idx noSeq
    else tryPark s idx noSeq

/-- Jobs of a session that do not add positions, as they reach their turn: every earlier job of the session done. -/
def pumpOther (s : State) (idx : Nat) : State :=
  match sessAt s idx, sessJobs s idx with
  | some x, j :: _ =>
    if j.stage ≠ 0 then s
    else
      match j.kind with
      | .park =>
        if x.state = stPARKED then (if x.reviving then s else parkedNow s idx j.seq)
        else if x.state = stWARM ∧ x.reviving = false ∧ s.mash.items.any (fun i => i.sess == idx) = false then
          tryPark s idx j.seq
        else if x.state = stEXTRACT then complete s j.seq (ans stWrongState)
        else s
      | .revive =>
        if x.state = stWARM ∨ x.state = stACTIVE then
          reviveNow s idx j
        else beginRevive s idx
      | .condense slots =>
        if x.state = stWARM ∧ x.reviving = false ∧ s.mash.items.any (fun i => i.sess == idx) = false then tryCondense s idx j.seq slots
        else if x.state = stPARKED then beginRevive s idx
        else if x.state = stEXTRACT then complete s j.seq (ans stWrongState)
        else s
      | .offer dest =>
        if x.state = stWARM ∨ x.state = stPARKED ∨ x.state = stEXTRACT then
          (if x.reviving then s else beginOffer s j dest)
        else s
      | _ => s
  | _, _ => s

/-- The session's commands go on: acknowledged records first, then whatever has reached its turn. -/
def pump (s : State) (idx : Nat) : State :=
  let s := maybeEnd (takeAcks 4096 s idx) idx
  let s := settleWarm s idx
  let s := pumpOther (pumpAdding s idx) idx
  let s := maybeEnd (takeAcks 4096 s idx) idx
  pumpOther (pumpAdding s idx) idx

/-! ### Commits (R25, R142, R166, R179, R183 to R186, R195, R196, R331) -/

/-- A class's accounting of one committed item; work of no session counts in no class (R142, R144, R137). -/
def accountItem (s : State) (it : Item) : State :=
  let o := s.mash.arith - it.eligAt
  if it.sess = 0 then s else modClass s it.cls fun c => { c with
    itemsDone := ctrAdd c.itemsDone 1, winObs := c.winObs + o, winSolo := c.winSolo + it.solo, winItems := c.winItems + 1,
    winCause := (List.range 4).map fun i => lget c.winCause i 0 + lget it.causes i 0,
    rtMiss := if it.bound ≠ 0 ∧ it.bound < o then (c.rtMiss + 1) % two32 else c.rtMiss,
    rtMissNow := c.rtMissNow || (decide (it.bound ≠ 0) && decide (it.bound < o)) }

/-- The step is not committed and runs again from the next seal (R331). -/
def redoItem (s : State) (id : Nat) : State :=
  modItem s id fun i => { i with entry := none, ended := false, result := none, drafts := [] }

def stepDelta (it : Item) (toks : List Nat) (grams : List (Nat × List Nat)) : Delta :=
  { plainDelta with toks := toks, isStep := true, ent := it.entry.getD 0, grams := grams }

/-- A sampled token's grammar transition is in force once its step commits (R232); false where it makes the step dead. -/
def commitGram (s : State) (idx gs : Nat) : State × Bool :=
  if noContext s idx then (s, false) else if gs = 0xFFFFFFFF then (s, true) else gramApply s idx gs

/-- The grammar admitted no token: the generate ends for reason 3 with no `last_token` (R185, R233). -/
def deadStep (s : State) (idx : Nat) : State :=
  modSess { s with copper.gramDead := ctrAdd s.copper.gramDead 1 } idx fun y =>
    { y with blk := { y.blk with lastToken := none }, run := y.run.map fun r => { r with ending := some 3, started := true } }

/-- One sampled token of a decode, head or resume step. -/
def commitSampled (s : State) (it : Item) (tok flags gs : Nat) : State :=
  let idx := it.sess
  let bump (s : State) : State := modSess s idx fun y => { y with
    rng := if bit flags 1 then y.rng else y.rng + 1
    blk := specStep y.blk
    run := y.run.map fun r => { r with steps := r.steps + 1 } }
  let s := bump s
  let moved := commitGram s idx gs
  if bit flags 1 ∨ moved.2 = false then rack (deadStep moved.1 idx) idx 2 0 (stepDelta it [] [])
  else
    let s := moved.1
    let (s, kept) := takeTokens s idx [tok] (bit flags 2)
    let x := (sessAt s idx).getD Sess.zero
    rack s idx 2 (posBytes (hdrOf s x) * groupsOf s x) (stepDelta it kept [gramNow s idx])

/-- The KV positions an append carries: first and one past the last. -/
def appendRange (s : State) (x : Sess) (seq first n : Nat) : Nat × Nat :=
  match jobOf s seq with
  | some j =>
    match j.kind with
    | .append _ _ _ (some t) added start => (kvPos x start, kvPos x start + added + t.length)
    | _ => (first, first + n)
  | none => (first, first + n)

/-- The KV positions that the chunks of one session in one entry write, of the session or of its draft. -/
def entrySpan (s : State) (it : Item) (first n : Nat) : Nat × Nat :=
  s.mash.items.foldl (fun r i =>
    if i.sess = it.sess ∧ i.entry = it.entry then
      match i.kind with
      | .chunk f ts _ => (min r.1 f, max r.2 (f + ts.length))
      | .draftPrefill f ts _ => (min r.1 f, max r.2 (f + ts.length))
      | _ => r
    else r) (first, first + n)

/-- Whether the session samples under a grammar. -/
def activeGrammarOn (s : State) (idx : Nat) : Bool := ((sessAt s idx).bind (activeGrammar s)).isSome

/-- The transition of a token from the grammar's context (R231): its own step reported it. -/
def transOf (s : State) (idx tok : Nat) : Option Nat :=
  match sessAt s idx with
  | none => none
  | some x =>
    match activeGrammar s x with
    | none => none
    | some g =>
      let cmd := match x.run with
        | some r => decide (r.p.grammar ≠ 0)
        | none => false
      let at_ := if cmd then findCtx g x.blk.cgState x.blk.cgStack else findCtx g x.blk.sgState x.blk.sgStack
      match at_ with
      | some c => some ((lget g.ctxs c default).transBase + popBelow (lget g.masks (lget g.ctxs c default).mask 0) tok)
      | none => none

/-- The grammar moves over the tokens a verify pass keeps: the accepted ones by the transitions that their draft steps reported, or
by the token where none did, the last by the one the pass reported; the session grammar after each. It ends before a token whose
transition makes the step dead; the flag says so (R229, R231, R232). -/
def passGrams (s : State) (idx : Nat) (drafts : List (Nat × Nat)) (toks : List Nat) (last : Nat) :
    State × List (Nat × List Nat) × Bool :=
  (List.range toks.length).foldl (fun (acc : State × List (Nat × List Nat) × Bool) i =>
    if acc.2.2 then acc
    else
      let reported := match drafts[i]? with
        | some d => if d.1 = lget toks i 0 ∧ d.2 ≠ 0xFFFFFFFF then some d.2 else none
        | none => none
      let t := if i + 1 = toks.length ∧ last ≠ 0xFFFFFFFF then some last else reported <|> transOf acc.1 idx (lget toks i 0)
      let m := match t with
        | some n => gramApply acc.1 idx n
        | none => (acc.1, !noContext acc.1 idx)
      if m.2 then (m.1, acc.2.1 ++ [gramNow m.1 idx], false)
      -- a draft's own report has counted the fault
      else (if i + 1 < toks.length ∧ reported.isSome then acc.1 else m.1, acc.2.1, true)) (s, [], false)

/-- Whether a command is a generate. -/
def genJob (s : State) (seq : Nat) : Bool :=
  match jobOf s seq with
  | some j => (match j.kind with
    | .generate .. => true
    | _ => false)
  | none => false

/-- Whether the session's next command after an append is still a generate, or the append is what a generate flushed (R183). -/
def samplesNext (s : State) (it : Item) : Bool :=
  genJob s it.seq || (match ((addingJobs s it.sess).filter fun j => j.seq != it.seq).head? with
    | some j => genJob s j.seq
    | none => false)

/-- A verify pass whose last tokens are trimmed has written the KV of the last kept one: that write is the tail
(R185, R186). -/
def trimmedPass (s : State) (idx : Nat) : State :=
  match sessAt s idx with
  | none => s
  | some x =>
    modSess (trimPages s idx (kvPos x x.position)) idx fun y => { y with
      blk := { y.blk with lastToken := none }, run := y.run.map fun r => { r with tailDone := true } }

/-- Draft KV grows with its positions; once they reach the draft's `max_context` its pages are freed for a rebuild
(R197). -/
def growDraft (s : State) (idx : Nat) : State :=
  match sessAt s idx with
  | none => s
  | some x =>
    match draftOf s x with
    | none => s
    | some (d, _) => if d.hdr.maxContext ≤ x.blk.draftPos - x.blk.draftBase then freeDraft s x else s

/-- `n` further draft positions committed (R197). -/
def commitDraft (s : State) (idx seq n lo hi : Nat) : State :=
  match sessAt s idx with
  | none => s
  | some x =>
    match draftOf s x with
    | none => s
    | some (d, _) =>
      let a := x.blk.draftPos - x.blk.draftBase
      let s := openDraft s idx seq (a + n) d.hdr 64
      growDraft (modSess (tick s) idx fun y => { y with blk := { y.blk with
        draftPages := y.blk.draftPages.map (fillPage s.free d.hdr a n lo hi false), draftPos := y.blk.draftPos + n } }) idx

/-- Whether an append has added no token yet (R147). -/
def firstOf (s : State) (seq : Nat) : Bool :=
  match jobOf s seq with
  | some j => (match j.kind with
    | .append _ _ _ _ added _ => added == 0
    | _ => false)
  | none => false

/-- A committed chunk of an APPEND or of a generate's prompt (R179, R184). -/
def commitChunk (s : State) (it : Item) (x : Sess) (first : Nat) (toks : List Nat) (isLast : Bool) : State :=
  let idx := it.sess
  let per := posBytes (hdrOf s x) * groupsOf s x
  -- a generate's last_token that leads the chunk is a position already counted
  let lead := if x.blk.lastToken.isSome then 1 else 0
  let fresh := toks.drop lead
  let range : Nat × Nat := appendRange s x it.seq first toks.length
  let span : Nat × Nat := entrySpan s it first toks.length
  let s := commitKv s idx it.seq toks.length span.1 span.2 true
  let x2 : Sess := (sessAt s idx).getD x
  let now : List Page := x2.pages.filter fun p => decide (p.first < first + toks.length) && decide (first < p.first + 2 ^ p.k)
  let carries := now.all fun p => decide (range.1 ≤ p.first) && decide (p.first + 2 ^ p.k ≤ range.2)
  let s := modSess s idx fun y => { y with
    linked := y.linked && carries && lead == 0
    position := y.position + fresh.length
    blk := { pushRing y.blk fresh with lastToken := none } }
  let s := if firstOf s it.seq then applied s idx it.seq else s
  let s := modJob s it.seq fun j => { j with kind := match j.kind with
    | .append p m t (some ts) added start => .append p m t (some (ts.drop fresh.length)) (added + fresh.length) start
    | k => k }
  let s := modSess s idx fun y => { y with
    reserved := max y.reserved y.position
    carryToks := if genJob s it.seq then y.carryToks - fresh.length else y.carryToks }
  let s := insertNodes s idx first (first + toks.length)
  let s := rack s idx 2 (toks.length * per) (stepDelta it [] [])
  let s := match it.result with
    | some (.chunkDone _ _ (some (t, f, g))) =>
      if it.samples ∧ samplesNext s it then
        modSess s idx fun y => { y with firstTok := some (t, f, g), rng := if bit f 1 then y.rng else y.rng + 1 }
      else s
    | _ => s
  if isLast then
    match jobOf s it.seq with
    | some j =>
      (match j.kind with
      | .append .. => rack s idx 4 0 { plainDelta with endOfAppend := some it.seq }
      | .generate .. => setStage s it.seq 1
      | _ => s)
    | none => s
  else s

/-- A committed verify pass (R195, R197): KV of the inputs up to the last accepted token; of the tokens it emits those up to the
end are kept (R186), and none from one on whose transition makes the step dead (R232): the generate then ends with no
`last_token`, as the pass has written the KV of every token kept (R185). -/
def commitVerify (s : State) (it : Item) (x : Sess) (k : Nat) : State :=
  let idx := it.sess
  let per := posBytes (hdrOf s x) * groupsOf s x
  (match it.result with
  | some (.verifyResult a toks g) =>
    let eosTok := (hdrOf s x).eos
    let eosEnds := match x.run with
      | some r => bit r.p.genFlags 0
      | none => false
    let room := match x.run with
      | some r => r.maxTok - r.committed
      | none => 0
    let upTo := (match (if eosEnds then toks.findIdx? (· == eosTok) else none) with
      | some i => toks.take (i + 1)
      | none => toks).take room
    let (s, grams, dead) := passGrams s idx it.drafts upTo (if upTo.length = toks.length then g else 0xFFFFFFFF)
    let kept := upTo.take grams.length
    let n := if dead then min (kept.length + 1) (k + 1) else min (a + 1) toks.length
    let s := modSess (commitKv s idx it.seq n 0 0 false) idx fun y => { y with linked := false }
    let s := commitDraft s idx it.seq (min n k) 0 0
    let s := (takeTokens s idx kept (kept.getLast? == some eosTok)).1
    let s := if dead then deadStep s idx
             else if kept.length < min (a + 1) toks.length then trimmedPass s idx else s
    let (fixedK, kMax) := match x.run, tget s.models.drafts x.model with
      | some r, some (_, m) => (min r.p.specK m, m)
      | _, _ => (0, 0)
    let adaptive := match x.run with
      | some r => decide (r.p.specK = 0xFF)
      | none => false
    let s := modSess s idx fun y => { y with
      rng := y.rng + 2 * k + 1
      blk := specAdapt y.blk adaptive fixedK kMax k a
      run := y.run.map fun r => { r with steps := r.steps + 1, verifies := r.verifies + 1, accepted := r.accepted + a } }
    rack s idx 2 (kept.length * per) (stepDelta it kept grams)
  | _ => s)

/-- The effect of a committed item on its session (R179 to R197). -/
def commitSess (s : State) (it : Item) : State :=
  let idx := it.sess
  match sessAt s idx with
  | none => s
  | some x =>
    let per := posBytes (hdrOf s x) * groupsOf s x
    match it.kind with
    | .chunk first toks isLast => commitChunk s it x first toks isLast
    | .decode =>
      let s := modSess (commitKv s idx it.seq 1 0 0 false) idx fun y => { y with linked := false }
      (match it.result with
        | some (.stepResult t f g) => commitSampled s it t f g
        | _ => s)
    | .resume =>
      let s := modSess (commitKv s idx it.seq 1 0 0 false) idx fun y => { y with linked := false }
      (match it.result with
        | some (.stepResult t f g) => commitSampled s it t f g
        | _ => s)
    | .head =>
      (match it.result with
        | some (.stepResult t f g) => commitSampled s it t f g
        | _ => s)
    | .tail =>
      let s := if x.blk.lastToken.isSome then commitKv s idx it.seq 1 0 0 false else s
      let s := modSess s idx fun y => { y with
        linked := false
        blk := { y.blk with lastToken := none }
        run := y.run.map fun r => { r with tailDone := true, steps := r.steps + 1 } }
      rack s idx 2 per (stepDelta it [] [])
    | .verify k => commitVerify s it x k
    | .draftPrefill first toks _ =>
      let span := entrySpan s it first toks.length
      commitDraft s idx it.seq toks.length span.1 span.2
    | .condense 0 => s
    | .condense _ => modSess s idx fun y => { y with condDone := true }
    | _ => s

/-- A committed session item: its effect, its leaving, and the session's next step or end. -/
def commitItem (s : State) (it : Item) : State :=
  let idx := it.sess
  let s := commitSess (accountItem s it) it
  let s := dropItem s it.id
  let s := match it.kind with
    | .condense 0 => s
    | .condense slots =>
      (match sessAt s idx with
        | some x => rack s idx 7 (2 ^ log2Ceil slots * posBytes (hdrOf s x) * groupsOf s x) plainDelta
        | none => s)
    | .decode => nextStep s idx
    | .resume => nextStep s idx
    | .head => nextStep s idx
    | .verify _ => nextStep s idx
    | .chunk _ _ true =>
      (match jobOf s it.seq with
        | some j => (match j.kind with
          | .generate .. => runGenerate s j
          | _ => s)
        | none => s)
    | _ => s
  pump s idx

end Sys2Proof.Machine
end

