-- ==== Sys2Proof/Machine/SessionCmd.lean ====
section
/-! DEFINITION. The session commands of R46 and the tokenising of appends (R50, R53, R145 to R153, R159, R168 to R176,
R182, R194, R202, R211 to R221, R228). -/
namespace Sys2Proof.Machine

/-! ### Parameter checks -/

/-- A model id field at `off`: bits [31:20] are reserved (R36); the first byte that holds a set one offends. -/
def modelBits (off model : Nat) : List (Bool × Nat) :=
  [(decide (bits model 23 20 ≠ 0), off + 2), (decide (model ≥ 16777216), off + 3)]

/-- A binary32 value of at least `lo` and at most `hi`, both nonnegative patterns; minus zero counts as zero. -/
def f32Within (v : F32) (lo hi : Nat) : Bool :=
  let n := if v.toNat = 0x80000000 then 0 else v.toNat
  decide (lo ≤ n) && decide (n ≤ hi)

/-- A peer id in its range (R3). -/
def peerOk (p : Nat) : Bool := decide (1 ≤ p) && decide (p ≤ 65534)

/-- A resident grammar of the tenant, compiled for the vocabulary (R228). -/
def grammarFits (s : State) (tenant vocab g : Nat) : Bool :=
  match grammarOf s g with
  | some r => r.tenant == tenant && r.vocab == vocab
  | none => false

/-! ### SESSION_OPEN (R131, R146, R150, R177, R192, R202, R211, R228) -/

/-- The least index from `n` on that no key of a table has. -/
def firstGap : Tab Nat → Nat → Nat
  | [], n => n
  | (a, _) :: t, n => if a < n then firstGap t n else if a = n then firstGap t (n + 1) else n

/-- The index to issue and its generation: a never issued one in ascending order, else the least recently freed one
with its generation advanced (R4, R146). -/
def issueIndex (s : State) : Option (Nat × Nat) :=
  let lo := s.cellar.indexBase
  let hi := s.cellar.indexLimit
  if lo = 0 ∨ lo > hi then none
  else
    let i := firstGap s.cellar.gens lo
    if i ≤ hi then some (i, 0)
    else match s.cellar.freed.find? fun j => decide (lo ≤ j) && decide (j ≤ hi) with
      | some j => some (j, (tdef s.cellar.gens j 0 + 1) % 256)
      | none => none

def openParams (s : State) (h : Hdr) (model vocab grammar share : Nat) : List (Bool × Nat) :=
  let m := modelOf s model
  modelBits 24 model ++
  [(match m with
    | some m => decide (m.hdr.kind ≥ 2)
    | none => true, 24),
   (match vocabOf s vocab with
    | none => true
    | some v => match m with
      | some m => v.toks.length != m.hdr.vocabSize
      | none => false, 29),
   (grammar != 0 && !grammarFits s h.tenant vocab grammar, 30),
   (decide (share ≥ 4096) || ((classOf s share).tenant != 0 && (classOf s share).tenant != h.tenant), 32)]

def openSession (s : State) (h : Hdr) (model cls vocab grammar share seed : Nat) : State × Ans :=
  match modelOf s model with
  | none => (s, ansD stBadParam 24)
  | some m =>
    if m.tenant ≠ h.tenant then (s, ans stDenied)
    else if m.st ≠ 2 then (s, ans stWrongState)
    else match issueIndex s with
      | none => (s, ans stTableFull)
      | some (idx, gen) =>
        match takeRuns s m.homeDie h.tenant m.slice [2, 0] with
        | some (sb :: pl :: _, s) =>
          let (sd, s) := if seed = 0 then (Config.random s.free % 2 ^ 128, tick s) else (seed, s)
          let x : Sess := { Sess.zero with
            idx := idx, gen := gen, state := stWARM, cls := cls, vocab := vocab, tenant := h.tenant, share := share,
            model := model, epoch := 1, homeDie := m.homeDie, linked := true, grammar := grammar,
            pageList := [pl], stateBlock := [sb], seed := sd, dwellSince := s.dev.localCtr, dwellOn := true,
            warmSince := s.dev.localCtr }
          let s := { s with
            cellar.sess := tput s.cellar.sess idx x, cellar.gens := tput s.cellar.gens idx gen,
            cellar.freed := s.cellar.freed.erase idx }
          let s := if grammar ≠ 0 then gramStart s idx grammar false else s
          let s := rack s idx 1 0 plainDelta
          (s, { status := stOk, detail := 0, body := lay [(4, 1), (1, m.homeDie), (3, 0)], handle := some (handleOf x) })
        | _ => (s, ans stNoMemory)

def execSessionOpen (h : Hdr) (model serviceClass vocab grammar shareClass seed : Nat) (s : State) : Out :=
  .next (syncCmd s h { code := 0x0101, isAsync := false, tenantRule := 1, sessRule := 0 } 56
    (fun s => openParams s h model vocab grammar shareClass)
    (fun s => openSession s h model serviceClass vocab grammar shareClass seed))

/-! ### Accepted commands of a session -/

/-- What every command that R151 accepts does first: it cancels a park or condense in progress that is not its own
(R152), starts a revive if it needs the KV (R24), and takes its place. -/
def takePlace (s : State) (idx seq : Nat) (kv : Bool) : State :=
  let s := cancelParkCondense s idx seq
  let s := match sessAt s idx with
    | some x => if kv ∧ (x.state = stPARKED ∨ x.state = stEXTRACT) then beginRevive s idx else s
    | none => s
  pump s idx

/-! ### SESSION_APPEND (R159, R182, R212 to R218) -/

/-- The carry an append will meet, after the session's earlier commands that have still to take theirs up (R217, R218); `none`
while an earlier append is not tokenised. A pack query flushes it when it delivers. Should one of them end otherwise, the append
is tokenised again at its turn. -/
def effCarry (x : Sess) (seq : Nat) (jobs : List Job) : Option (List Byte × Nat) :=
  (jobs.takeWhile fun j => j.seq != seq).foldl (fun acc j =>
    match acc with
    | none => none
    | some (c, p) =>
      let flushed := if p = 1 then some (c, p) else some ([], p)
      match j.kind with
      | .query => flushed
      | .append pol mode tail toks _ _ =>
        if j.stage ≠ 0 then some (c, p)
        else if mode = 0 then toks.map fun _ => (tail, pol)
        else if pol = 1 then some (c, p) else some ([], p)
      | _ => if j.stage ≠ 0 then some (c, p) else flushed) (some (x.blk.carry, x.blk.carryPolicy))

/-- The 4-byte ids of a tail. -/
def ids4 (tail : List Byte) : List Nat := (List.range (tail.length / 4)).map fun i => fld tail (4 * i) 4

/-- An append's tokens are known: P_max is checked and `reserved_position` raised (R159, R161). `text` was tokenised behind the
carry `behind`. -/
def appendKnown (s : State) (idx : Nat) (j : Job) (policy mode : Nat) (tail : List Byte) (toks : List Nat)
    (text behind : List Byte) : State :=
  match sessAt s idx with
  | none => s
  | some x =>
    if x.reserved + toks.length > pMax s x then pump (failJob s idx j.seq (ansD stBadParam 28)) idx
    else
      let s := modJob s j.seq fun k =>
        { k with kind := .append policy mode tail (some toks) 0 0, text := text, behind := behind }
      let s := modSess s idx fun y => { y with reserved := y.reserved + toks.length }
      pump (leaveEngine s j.seq) idx

/-- An append that ends TEXT_INVALID (R216, R218). -/
def textInvalid (s : State) (idx seq detail : Nat) : State :=
  pump (failJob (rejectText s) idx seq (ansD stTextInvalid detail)) idx

/-- The tokeniser's result of an append: token ids checked, or text with its carry tokenised (R212 to R218). -/
def appendTokens (s : State) (j : Job) : State :=
  match j.kind with
  | .append policy mode tail none _ _ =>
    let idx := idxOf j.session
    match sessAt s idx with
    | none => s
    | some x =>
      match vocabOf s x.vocab with
      | none => s
      | some v =>
        if mode = 1 then
          let l := ids4 tail
          match (List.range l.length).find? fun i => decide (lget l i 0 ≥ v.toks.length) with
          | some i => pump (failJob s idx j.seq (ansD stBadParam (32 + 4 * i))) idx
          | none => appendKnown s idx j policy mode [] l [] []
        else
          match effCarry x j.seq (addingJobs s idx) with
          | none => s
          | some (carry, _) =>
            let t := readText v policy carry tail
            match t.bad with
            | some off => textInvalid s idx j.seq off
            | none => appendKnown (countTok s t.bytes t.toks.length t.repl) idx j policy mode t.carry t.toks tail carry
  | _ => s

/-- R182: no group can ever run the phase for the session's model. -/
def noGroupFor (s : State) (h : Hdr) (phase : Nat) : Bool :=
  match sessAt s (idxOf h.session) with
  | some x => !servable s x.model (sliceOfSess s x) phase
  | none => false

def execSessionAppend (h : Hdr) (inPolicy inMode count : Nat) (tail : List Byte) (s : State) : Out :=
  .next (asyncCmd s h { code := 0x0102, isAsync := true, tenantRule := 1, sessRule := 1 }
    (32 + (if inMode = 1 then 4 * count else count))
    (fun _ => [(decide (inPolicy > 1), 24), (decide (inMode > 1), 25)])
    (fun s => [(noGroupFor s h 0, (stWrongState, 0))])
    (fun _ => .append inPolicy inMode tail none 0 0)
    (fun s =>
      let s := takePlace s (idxOf h.session) h.seq true
      if inMode = 1 then (match jobOf s h.seq with
        | some j => appendTokens s j
        | none => s)
      else enqueueInput s h.seq))

/-! ### SESSION_GENERATE (R50, R159, R182, R221, R228) -/

/-- Offset of the `len` byte of each stop string. -/
def stopOffsets : Nat → List (List Byte) → List (Nat × List Byte)
  | _, [] => []
  | o, st :: l => (o, st) :: stopOffsets (o + 1 + st.length) l

def genParamsBad (s : State) (h : Hdr) (g : GenParams) : List (Bool × Nat) :=
  let x := (sessAt s (idxOf h.session)).getD Sess.zero
  [(decide (g.maxTokens = 0) || decide (g.maxTokens > 1048576) || decide (pMax s x ≤ x.reserved), 24),
   (!f32Within g.temperature 0 0x41800000, 28), (!f32Within g.topP 1 0x3F800000, 32),
   (!f32Within g.minP 0 0x3F800000, 36), (!f32Within g.repPenalty 0x3F800000 0x40800000, 40),
   (decide (g.topK > 256), 44), (g.grammar != 0 && !grammarFits s h.tenant x.vocab g.grammar, 46),
   ((decide (g.specK > 8) && g.specK != 0xFF) || (g.specK != 0 && !thas s.models.drafts x.model), 48), (decide (g.outMode > 2), 49), (decide (g.stopCount > 16), 50),
   (decide (g.genFlags > 1), 51)] ++
  (stopOffsets 56 g.stops).map fun p =>
    (decide (p.2.length = 0) || decide (p.2.length > 64) || !wellFormed p.2, p.1)

def execSessionGenerate (h : Hdr) (g : GenParams) (s : State) : Out :=
  .next (asyncCmd s h { code := 0x0103, isAsync := true, tenantRule := 1, sessRule := 1 }
    (56 + sumBy (fun st => 1 + st.length) g.stops)
    (fun s => genParamsBad s h g)
    (fun s => [(noGroupFor s h 1, (stWrongState, 0))])
    (fun s =>
      let x := (sessAt s (idxOf h.session)).getD Sess.zero
      .generate g (min g.maxTokens (pMax s x - x.reserved)))
    (fun s =>
      let n := match (jobOf s h.seq).map (·.kind) with
        | some (.generate _ n) => n
        | _ => 0
      takePlace (modSess s (idxOf h.session) fun y => { y with reserved := y.reserved + n }) (idxOf h.session) h.seq true))

/-! ### SESSION_PARK, SESSION_REVIVE, SESSION_CONDENSE (R151, R168 to R176) -/

def stateIs (s : State) (h : Hdr) (st : Nat) : Bool :=
  match sessAt s (idxOf h.session) with
  | some x => x.state == st
  | none => false

def execSessionPark (h : Hdr) (s : State) : Out :=
  .next (asyncCmd s h { code := 0x0104, isAsync := true, tenantRule := 1, sessRule := 1 } 24 (fun _ => [])
    (fun s => [(stateIs s h stEXTRACT, (stWrongState, 0))]) (fun _ => .park)
    (fun s => takePlace s (idxOf h.session) h.seq false))

def execSessionRevive (h : Hdr) (s : State) : Out :=
  .next (asyncCmd s h { code := 0x0105, isAsync := true, tenantRule := 1, sessRule := 1 } 24 (fun _ => [])
    (fun _ => []) (fun _ => .revive)
    (fun s =>
      let idx := idxOf h.session
      let s := cancelParkCondense s idx h.seq
      match sessAt s idx, jobOf s h.seq with
      | some x, some j =>
        if x.state = stWARM ∨ x.state = stACTIVE then pump (reviveNow s idx j) idx else pump (beginRevive s idx) idx
      | _, _ => s))

def execSessionCondense (h : Hdr) (slots : Nat) (s : State) : Out :=
  .next (asyncCmd s h { code := 0x0106, isAsync := true, tenantRule := 1, sessRule := 1 } 26
    (fun _ => [(!([0, 64, 128, 256, 512, 1024].contains slots), 24)])
    (fun s =>
      let x := (sessAt s (idxOf h.session)).getD Sess.zero
      [((x.state == stWARM || x.state == stPARKED) && !condensable s x, (stDenied, 0)),
       (x.state == stEXTRACT, (stWrongState, 0))])
    (fun _ => .condense slots)
    (fun s => takePlace s (idxOf h.session) h.seq true))

/-! ### SESSION_CLOSE, SESSION_QUERY (R53, R145, R153) -/

def execSessionClose (h : Hdr) (s : State) : Out :=
  .next (syncCmd s h { code := 0x0107, isAsync := false, tenantRule := 1, sessRule := 1 } 24 (fun _ => [])
    (fun s => (closeSession s (idxOf h.session) stNoSession 4, ansB [])))

def queryBody (s : State) (x : Sess) : List Byte :=
  lay [(1, x.state), (1, x.cls), (1, x.vocab), (1, x.homeDie), (4, x.model), (4, x.epoch), (4, x.position),
       (4, x.released), (4, x.lastSeq), (4, if x.state = stPARKED then x.expirySec - s.cellar.sec else 0),
       (2, if x.state = stABSENT then x.ownerPeer else 0), (2, buddyOf s x)]

def execSessionQuery (h : Hdr) (s : State) : Out :=
  .next (syncCmd s h { code := 0x0108, isAsync := false, tenantRule := 1, sessRule := 1 } 24 (fun _ => [])
    (fun s => match sessAt s (idxOf h.session) with
      | some x => (s, ansB (queryBody s x))
      | none => (s, ans stNoSession)))

/-! ### TOKENISE_DONE (R212 to R218) -/

/-- A tokeniser engine finishes an input that it holds; for an append the command proceeds. The text of a retrieval
query is taken up by `queryTokens` of Retrieval. -/
def tokeniseAppend (s : State) (seq : Nat) : State :=
  match jobOf s seq with
  | some j => if s.copper.engines.contains seq then appendTokens s j else s
  | none => s

end Sys2Proof.Machine
end

