-- ==== Sys2Proof/Machine/Sha.lean ====
section
/-! DEFINITION. SHA-256 (FIPS 180-4), HMAC-SHA-256 and the key derivation the spec names (R37, R373, R375, R377). -/
namespace Sys2Proof.Machine

abbrev W32 := BitVec 32

/-- The largest number below 2^36 whose `k`-th power is at most `n`, found bit by bit from the top. -/
def rootFloor (k n : Nat) : Nat :=
  (List.range 36).foldl (fun r i => if (r + 2 ^ (35 - i)) ^ k ≤ n then r + 2 ^ (35 - i) else r) 0

/-- Whether `n` has no divisor between 2 and `n - 1`. -/
def hasNoDivisor (n : Nat) : Bool := 2 ≤ n && (List.range n).all fun d => d < 2 || n % d != 0

/-- The primes below 312: the first 64 (FIPS 180-4, 4.2.2). -/
def shaPrimes : List Nat := (List.range 312).filter hasNoDivisor

/-- The first 32 bits of the fractional part of the `k`-th root of `p`. -/
def rootFrac (k p : Nat) : W32 := BitVec.ofNat 32 (rootFloor k (p * 2 ^ (32 * k)))

/-- The round constants: from the cube roots of the first 64 primes. -/
def shaK : List W32 := shaPrimes.map (rootFrac 3)

/-- The initial hash value: from the square roots of the first 8 primes. -/
def shaInit : List W32 := (shaPrimes.take 8).map (rootFrac 2)

/-- A big-endian number. -/
def beNat (bs : List Byte) : Nat := bs.foldl (fun n b => n * 256 + b.toNat) 0

def beW32 (bs : List Byte) : W32 := BitVec.ofNat 32 (beNat bs)

def wordsOf : Nat → List Byte → List W32
  | 0, _ => []
  | n + 1, bs => beW32 (bs.take 4) :: wordsOf n (bs.drop 4)

def sig0 (x : W32) : W32 := x.rotateRight 7 ^^^ x.rotateRight 18 ^^^ (x >>> 3)
def sig1 (x : W32) : W32 := x.rotateRight 17 ^^^ x.rotateRight 19 ^^^ (x >>> 10)

/-- The message schedule, newest word first. -/
def shaExpand : Nat → List W32 → List W32
  | 0, w => w
  | n + 1, w =>
    let g (i : Nat) : W32 := w.getD i 0
    shaExpand n ((sig1 (g 1) + g 6 + sig0 (g 14) + g 15) :: w)

def shaRound (st : List W32) (kw : W32 × W32) : List W32 :=
  match st with
  | [a, b, c, d, e, f, g, h] =>
    let s1 := e.rotateRight 6 ^^^ e.rotateRight 11 ^^^ e.rotateRight 25
    let ch := (e &&& f) ^^^ (~~~e &&& g)
    let t1 := h + s1 + ch + kw.1 + kw.2
    let s0 := a.rotateRight 2 ^^^ a.rotateRight 13 ^^^ a.rotateRight 22
    let mj := (a &&& b) ^^^ (a &&& c) ^^^ (b &&& c)
    [t1 + s0 + mj, a, b, c, d + t1, e, f, g]
  | x => x

def shaBlock (st : List W32) (blk : List Byte) : List W32 :=
  let w := (shaExpand 48 (wordsOf 16 blk).reverse).reverse
  List.zipWith (· + ·) st ((shaK.zip w).foldl shaRound st)

def shaBlocks : Nat → List W32 → List Byte → List W32
  | 0, st, _ => st
  | n + 1, st, bs => shaBlocks n (shaBlock st (bs.take 64)) (bs.drop 64)

/-- The message padded to whole blocks. -/
def shaPad (bs : List Byte) : List Byte :=
  bs ++ [0x80] ++ List.replicate ((119 - bs.length % 64) % 64) 0 ++ (leBytes 8 (8 * bs.length)).reverse

/-- The digest as 32 bytes. -/
def sha256 (bs : List Byte) : List Byte :=
  let p := shaPad bs
  (shaBlocks (p.length / 64) shaInit p).flatMap fun w => (leBytes 4 w.toNat).reverse

/-- The digest as a big-endian number, the form in which the model keeps digests. -/
def sha256Nat (bs : List Byte) : Nat := beNat (sha256 bs)

/-- HMAC-SHA-256 (RFC 2104). -/
def hmac (key msg : List Byte) : List Byte :=
  let k0 := if key.length > 64 then sha256 key else key
  let k := k0 ++ List.replicate (64 - k0.length) 0
  sha256 (k.map (· ^^^ 0x5C) ++ sha256 (k.map (· ^^^ 0x36) ++ msg))

end Sys2Proof.Machine
end

