-- ==== Sys2Proof/Machine/ModelsCmd.lean ====
section
/-! DEFINITION. Models, segments, vocabularies, grammars and the objects that commands fetch (R37, R104, R114, R121,
R122, R194, R199 to R204, R208 to R210, R225 to R227). -/
namespace Sys2Proof.Machine

/-! ### Fetches (R37, R323, R468) -/

/-- The gateway field of an object reference at `off` that the route table does not serve. -/
def gatewayBad (s : State) (o : ObjRef) (off : Nat) : List (Bool × Nat) := [(!gatewayOk s o, off)]

/-- A running command asks its gateway for its object: class 6, charged to MAINT in `sl`. A gateway that is lost cannot
serve it. -/
def fetchObj (s : State) (seq sl tenant : Nat) (o : ObjRef) : State :=
  if reachable s o.gateway then sendMsg (setStage s seq 1) o.gateway 6 sl 12 tenant false (.fetch o)
  else complete s seq (ans stRetry)

/-- Whether fetched bytes are the object of a reference. -/
def digestOk (o : ObjRef) (bs : List Byte) : Bool := bs.length == o.len && sha256Nat bs == o.digest

/-! ### Model objects (R199) -/

def parseModel (kind : Nat) (bs : List Byte) : Option ModelHdr :=
  let layers := fld bs 8 2
  let lpg := fld bs 10 1
  let kvh := fld bs 12 2
  let qh := fld bs 14 2
  let ex := fld bs 32 2
  let ro := fld bs 48 8
  let eo := fld bs 56 8
  let wo := fld bs 64 8
  let wb := fld bs 40 8
  let mix := kind == 1
  let ok := decide (128 ≤ bs.length) && fld bs 0 4 == 0x4C444F4D && fld bs 4 2 == 1 && fld bs 6 1 == kind && zeros bs 7 1 &&
    decide (1 ≤ layers) && decide (layers ≤ 1024) && [1, 2, 4, 8].contains lpg && layers % max 1 lpg == 0 &&
    (fld bs 11 1 == 4 || fld bs 11 1 == 8) && decide (1 ≤ kvh) && decide (kvh ≤ 64) && decide (1 ≤ qh) &&
    qh % max 1 kvh == 0 && decide (qh ≤ 64 * kvh) && [64, 128, 256].contains (fld bs 16 2) && decide (1 ≤ fld bs 18 1) &&
    decide (fld bs 18 1 ≤ 8) && (if mix then decide (1 ≤ fld bs 19 1) && decide (fld bs 19 1 ≤ 8) else fld bs 19 1 == 0) &&
    decide (2 ≤ fld bs 20 4) && decide (fld bs 20 4 ≤ 262144) && decide (fld bs 24 4 < fld bs 20 4) &&
    decide (16 ≤ fld bs 28 4) && decide (fld bs 28 4 ≤ 1048576) &&
    (if mix then decide (2 ≤ ex) && decide (ex ≤ 4096) && within bs eo (16 * ex) else ex == 0 && eo == 0) &&
    zeros bs 34 6 && zeros bs 72 56 && within bs ro (8 * layers * kvh) && within bs wo wb &&
    (List.range ex).all fun i => zeros bs (eo + 16 * i + 2) 6
  if ok then
    some { kind := kind, layers := layers, layersPerGroup := lpg, kvBits := fld bs 11 1, kvHeads := kvh, qHeads := qh,
           headDim := fld bs 16 2, window := fld bs 18 1, routeTop := fld bs 19 1, vocabSize := fld bs 20 4,
           eos := fld bs 24 4, maxContext := fld bs 28 4, experts := ex, weightsBytes := wb,
           ranges := (records bs ro 8 (layers * kvh)).map fun r =>
             (List.range 4).map fun i => BitVec.ofNat 16 (fld r (2 * i) 2),
           expertMap := (List.range ex).map fun i => (fld bs (eo + 16 * i) 2, fld bs (eo + 16 * i + 8) 8) }
  else none

/-- Whether a session of a model exists in any state but CLOSED. -/
def modelHasSess (s : State) (m : Nat) : Bool := s.cellar.sess.any fun p => p.2.model == m

/-! ### MODEL_REGISTER (R200) -/

/-- A running registration of a model id. -/
def regJob (s : State) (m : Nat) : Option Job :=
  s.gl.jobs.find? fun j => match j.kind with
    | .register k _ _ _ => k == m && j.stage != 5
    | _ => false

def regDigest (j : Job) : Nat :=
  match j.kind with
  | .register _ _ _ o => o.digest
  | _ => 0

/-- The ids whose first registration runs (R200). -/
def runningIds (s : State) : List Nat :=
  ((s.gl.jobs.filterMap fun j => match j.kind with
    | .register k _ _ _ => if (modelOf s k).isNone then some k else none
    | _ => none).eraseDups)

def registerLate (s : State) (h : Hdr) (model : Nat) (o : ObjRef) : List (Bool × Nat × Nat) :=
  let other := match modelOf s model with
    | some m => m.tenant != h.tenant
    | none => match regJob s model with
      | some j => j.tenant != h.tenant
      | none => false
  let wrong := match modelOf s model with
    | some m => m.digest != o.digest && (modelHasSess s model || m.st != 0)
    | none => false
  let wrongRun := match regJob s model with
    | some j => regDigest j != o.digest
    | none => false
  [(other, (stDenied, 0)), (wrong || wrongRun, (stWrongState, 0)),
   (decide (s.models.models.length + (runningIds s).length ≥ Config.modelMax) && (modelOf s model).isNone &&
    !(runningIds s).contains model, (stTableFull, 0))]

def execModelRegister (h : Hdr) (model modelKind slice : Nat) (weights : ObjRef) (s : State) : Out :=
  .next (asyncCmd s h { code := 0x0201, isAsync := true, tenantRule := 1, sessRule := 0 } 96
    (fun s => modelBits 24 model ++ [(model == 0, 24), (decide (modelKind > 4), 28), (decide (slice > 15), 29)] ++
      gatewayBad s weights 32)
    (fun s => registerLate s h model weights)
    (fun _ => .register model modelKind slice weights)
    (fun s =>
      match modelOf s model with
      | some m => if m.digest = weights.digest then complete s h.seq (ansB (lay [(8, m.bytes)]))
                  else fetchObj s h.seq slice h.tenant weights
      | none =>
        -- a second load of an object that is being registered waits for the first (stage 5)
        if (s.gl.jobs.filter fun j => match j.kind with
            | .register k _ _ _ => k == model && j.seq != h.seq
            | _ => false) ≠ [] then setStage s h.seq 5
        else fetchObj s h.seq slice h.tenant weights))

/-- A registration ends: so do those that waited for it, with the same status (R200). -/
def endRegister (s : State) (seq model : Nat) (a : Ans) : State :=
  let rest := s.gl.jobs.filterMap fun j => match j.kind with
    | .register k _ _ _ => if k = model ∧ j.seq ≠ seq ∧ j.stage = 5 then some j.seq else none
    | _ => none
  completeAll { s with models.registering := tdel s.models.registering seq } (seq :: rest) a

/-- The weights section of a model object (R199). -/
def weightsOf (h : ModelHdr) (bs : List Byte) : List Byte := cut bs (fld bs 64 8) h.weightsBytes

/-- The object's write to the Oast, once its header has been verified: charged to MAINT in the model's slice and to the
tenant's write shaper (R139); it waits where a budget or a shaper holds it (stage 2). -/
def registerWrite (s : State) (seq : Nat) : State :=
  match jobOf s seq with
  | some j =>
    match j.kind with
    | .register model _ sl o =>
      if flashEpoch s j.tenant = none then endRegister s seq model (ans stDenied)
      else if mounted s = false ∨ mayWrite s sl 12 j.tenant (roundUp o.len 4096) (some (writeKey seq)) = false then
        setStage (noteWriteHold s sl 12 j.tenant (roundUp o.len 4096) (some (writeKey seq))) seq 2
      else match flashWrite s sl 12 j.tenant (roundUp o.len 4096) true (.model seq) (.model model) with
        | some (_, s) => setStage s seq 3
        | none => endRegister s seq model (ans stFlashFull)
    | _ => s
  | none => s

/-- Why a registration that has run cannot stand (R200): the id belongs to another tenant, the model has sessions or is resident, or
the table is full. -/
def registerRefused (s : State) (j : Job) (model : Nat) (o : ObjRef) : Option Nat :=
  match modelOf s model with
  | some m => if m.tenant ≠ j.tenant then some stDenied
              else if m.digest ≠ o.digest ∧ (modelHasSess s model ∨ m.st ≠ 0) then some stWrongState else none
  | none => if s.models.models.length ≥ Config.modelMax then some stTableFull else none

/-- The object is on flash: the model is REGISTERED, if what R200 asks still holds; else what was written is freed. -/
def registerDone (s : State) (seq addr : Nat) : State :=
  match jobOf s seq, tget s.models.registering seq with
  | some j, some (hd, w) =>
    match j.kind with
    | .register model _ sl o =>
      match registerRefused s j model o with
      | some st => endRegister (freeExtent s addr) seq model (ans st)
      | none =>
        let s := match (modelOf s model).map (·.oast) with
          | some a => freeExtent s a
          | none => s
        let m : Model := { id := model, tenant := j.tenant, slice := sl, digest := o.digest, hdr := hd, st := 0, homeDie := 0,
                           runs := [], oast := addr, bytes := roundUp o.len 4096, weights := w, warmSince := 0, asked := false, obj := o }
        endRegister { s with models.models := tput s.models.models model m } seq model (ansB (lay [(8, roundUp o.len 4096)]))
    | _ => s
  | _, _ => s

/-! ### MODEL_WARM, MODEL_EVICT, DRAFT_BIND (R201 to R204) -/

def modelMissing (s : State) (m : Nat) : List (Bool × Nat) := [((modelOf s m).isNone, 24)]

def modelForeign (s : State) (h : Hdr) (m : Nat) : Bool :=
  match modelOf s m with
  | some x => x.tenant != h.tenant
  | none => false

/-- Every expert's home is this device or a peer of the route table (R204). -/
def expertsHomed (s : State) (x : Model) : Bool :=
  x.hdr.expertMap.all fun e => e.1 == s.fab.self || routed s e.1

/-- A warm of a REGISTERED model begins for a command, or is refused (R18, R201, R204). -/
def tryWarm (s : State) (seq m : Nat) : State :=
  match modelOf s m with
  | none => s
  | some x =>
    if expertsHomed s x = false then complete s seq (ansD stBadParam 24)
    else match beginWarm s m with
      | some s => setStage s seq 2
      | none => complete s seq (ans stNoMemory)

def execModelWarm (h : Hdr) (model : Nat) (s : State) : Out :=
  .next (asyncCmd s h { code := 0x0202, isAsync := true, tenantRule := 1, sessRule := 0 } 28
    (fun s => modelBits 24 model ++ modelMissing s model) (fun s => [(modelForeign s h model, (stDenied, 0))])
    (fun _ => .warm model)
    (fun s =>
      match modelOf s model with
      | none => s
      | some x =>
        if x.st = 2 then complete s h.seq (ansB (lay [(1, x.homeDie), (3, 0), (4, 0)]))
        else if x.st = 0 then tryWarm s h.seq model
        else setStage s h.seq 2))

/-- The reads of a warm have landed: RESIDENT, its MODEL_WARM commands complete (R201). -/
def warmDone (s : State) (m : Nat) : State :=
  match modelOf s m with
  | none => s
  | some x =>
    if x.st = 1 ∧ x.asked ∧ s.oast.reads.any (fun r => r.what == .warm m) = false then
      let s := { s with models.models := tmod s.models.models m fun y => { y with st := 2 } }
      s.gl.jobs.foldl (fun s j =>
        if j.kind = .warm m then
          complete s j.seq (ansB (lay [(1, x.homeDie), (3, 0), (4, usSince s j.acceptedAt)])) else s) s
    else s

def execModelWarmDone (model : Nat) (s : State) : Out := .next (warmDone s model)

/-- Whether an entry that runs, is sealed or is saved uses a model. -/
def modelInUse (s : State) (m : Nat) : Bool :=
  (s.mill.groups ++ s.mill.coming).any fun g => (g.chain ++ g.sealed ++ g.saved).any fun e =>
    match tget s.mill.segs e.seg with
    | some sg => sg.model == m
    | none => false

def evictWrong (s : State) (m : Nat) : Bool :=
  (s.cellar.sess.any fun p => p.2.model == m && ([stACTIVE, stWARM, stEXTRACT, stOFFERED].contains p.2.state || p.2.reviving)) ||
  (s.gl.jobs.any fun j => match j.kind with
    | .generate .. => (match sessAt s (idxOf j.session) with
        | some x => x.model == m
        | none => false)
    | _ => false) ||
  (match modelOf s m with
    | some x => x.st == 1
    | none => false)

/-- A draft's KV in every session that uses it is freed (R203). -/
def dropDraftKv (s : State) (m : Nat) : State :=
  s.cellar.sess.foldl (fun s p =>
    match tget s.models.drafts p.2.model with
    | some (d, _) =>
      if d = m then freeDraft s p.2 else s
    | none => s) s

/-- What follows an eviction: the MODEL_EVICT commands of the model complete, its MODEL_WARM commands and the revives that
waited for it go on (R201, R203). -/
def evictedGoOn (s : State) (m : Nat) : State :=
  let s := s.gl.jobs.foldl (fun s j => if j.kind = .evict m then complete s j.seq (ansB []) else s) s
  let s := s.gl.jobs.foldl (fun s j =>
    if j.kind = .warm m then (match modelOf s m with
      | some y => if y.st = 0 then tryWarm s j.seq m else s
      | none => s) else s) s
  s.cellar.sess.foldl (fun s p =>
    if p.2.model = m ∧ p.2.reviving then
      let s := match modelOf s m with
        | some y => if y.st = 0 then (beginWarm s m).getD s else s
        | none => s
      if p.2.state = stPARKED then askRevive s p.1 else s
    else s) s

/-- The last entry that uses an evicting model has ended: its frames are freed, it is REGISTERED, its MODEL_EVICT
commands complete, and the warms that waited begin (R201, R203). -/
def evictDone (s : State) (m : Nat) : State :=
  match modelOf s m with
  | none => s
  | some x =>
    if x.st = 3 ∧ modelInUse s m = false then
      let s := x.runs.foldl (fun s r => freeRun s r.1 r.2) s
      let s := { s with models.models := tmod s.models.models m fun y => { y with st := 0, runs := [] } }
      evictedGoOn s m
    else s

def execModelEvictDone (model : Nat) (s : State) : Out := .next (evictDone s model)

def execModelEvict (h : Hdr) (model : Nat) (s : State) : Out :=
  .next (asyncCmd s h { code := 0x0203, isAsync := true, tenantRule := 1, sessRule := 0 } 28
    (fun s => modelBits 24 model ++ modelMissing s model)
    (fun s => [(modelForeign s h model, (stDenied, 0)), (evictWrong s model, (stWrongState, 0))])
    (fun _ => .evict model)
    (fun s =>
      match modelOf s model with
      | some x =>
        if x.st = 0 then complete s h.seq (ansB [])
        else
          let s := { s with models.models := tmod s.models.models model fun y => { y with st := 3 } }
          dropDraftKv (setStage s h.seq 2) model
      | none => s))

def execDraftBind (h : Hdr) (model draft kMax : Nat) (s : State) : Out :=
  .next (syncCmd s h { code := 0x0204, isAsync := false, tenantRule := 1, sessRule := 0 } 40
    (fun s =>
      let bad (m : Nat) : Bool := match modelOf s m with
        | some x => x.tenant != h.tenant
        | none => true
      modelBits 24 model ++ modelBits 28 draft ++ [(bad model, 24), (bad draft, 28), (decide (kMax > 8), 32),
        (match modelOf s model, modelOf s draft with
          | some x, some y => y.hdr.kind != 2 || y.hdr.vocabSize != x.hdr.vocabSize || y.hdr.eos != x.hdr.eos
          | _, _ => false, 28)])
    (fun s =>
      if kMax = 0 then ({ s with models.drafts := tdel s.models.drafts model }, ansB [])
      else ({ s with models.drafts := tput s.models.drafts model (draft, kMax) }, ansB [])))

/-! ### SEGMENT_LOAD (R103, R104) -/

def segBody (g : Segment) : List Byte := lay [(4, g.id), (4, g.length), (4, g.liveSram)]

def execSegmentLoad (h : Hdr) (model phase groupTiles batch : Nat) (segment : ObjRef) (s : State) : Out :=
  .next (asyncCmd s h { code := 0x0205, isAsync := true, tenantRule := 1, sessRule := 0 } 96
    (fun s => modelBits 24 model ++ modelMissing s model ++
      [(decide (phase > 5), 28), (!([1, 2, 4, 8, 16].contains groupTiles), 29),
       (bits batch 8 0 == 0 || decide (bits batch 8 0 > 256) || decide (bits batch 13 9 < 4) || decide (bits batch 13 9 > 20) ||
        decide (batch ≥ 16384), 30)] ++ gatewayBad s segment 32)
    (fun s => [(modelForeign s h model, (stDenied, 0))])
    (fun _ => .segment model phase groupTiles batch segment)
    (fun s =>
      match s.mill.segs.find? fun g => g.2.digest == segment.digest && g.2.tenant == h.tenant && !g.2.replaced with
      | some g => complete s h.seq (ansB (segBody g.2))
      | none => fetchObj s h.seq (((modelOf s model).map (·.slice)).getD 0) h.tenant segment))

/-- A fetched segment verified and stored (R103, R104). -/
def loadSegment (s : State) (seq tenant model phase groupTiles batch : Nat) (o : ObjRef) (bs : List Byte) : State :=
  let vocab := ((modelOf s model).map (·.hdr.vocabSize)).getD 0
  let (g, bunds) := readSeg o tenant bs
  match segFault g bunds vocab bs model phase groupTiles batch with
  | some (off, chk) => complete { s with mash.segDiag := (off, chk) } seq (ansD stBadParam 0xFFFE)
  | none =>
    match s.mill.segs.find? fun k => k.2.digest == o.digest && k.2.tenant == tenant && !k.2.replaced with
    | some k => complete s seq (ansB (segBody k.2))
    | none =>
      let same (k : Segment) : Bool := k.model == model && k.phase == phase && k.groupTiles == groupTiles &&
        k.batch == g.batch && k.bucket == g.bucket
      let s1 := reapSegs { s with mill.segs := s.mill.segs.map fun k => if same k.2 then (k.1, { k.2 with replaced := true }) else k }
      if s1.mill.segs.length ≥ Config.segMax then complete s seq (ans stTableFull)
      else if segBytes s1 + o.len > Config.segStore then complete s seq (ans stNoMemory)
      else
        let g := { g with id := s1.mill.nextSeg }
        complete { s1 with mill.segs := tput s1.mill.segs g.id g, mill.nextSeg := g.id + 1 } seq (ansB (segBody g))

/-! ### VOCAB_LOAD, GRAMMAR_LOAD (R208 to R210, R225 to R227) -/

def vocabInUse (s : State) (v : Nat) : Bool :=
  s.cellar.sess.any (fun p => p.2.vocab == v) || s.copper.grammars.any (fun g => g.2.vocab == v)

/-- Frames for a table of `n` bytes, on the die with the most free frames (R210). -/
def takeTable (s : State) (tenant n : Nat) : Option (List (Nat × Run) × State) :=
  match minBy (fun d => 1073741824 - poolFree s d) ((List.range 4).filter (dieUp s)) with
  | none => none
  | some d => match takeRuns s d tenant noSlice (weightOrders n) with
    | some (r, s) => some (r.map fun k => (d, k), s)
    | none => none

def freeTable (s : State) (runs : List (Nat × Run)) : State := runs.foldl (fun s r => freeRun s r.1 r.2) s

def vocabRuns (s : State) (v : Nat) : List (Nat × Run) := ((vocabOf s v).map (·.runs)).getD []
def vocabSize (s : State) (v : Nat) : Nat := ((vocabOf s v).map (·.size)).getD 0
def grammarRuns (s : State) (g : Nat) : List (Nat × Run) := ((grammarOf s g).map (·.runs)).getD []
def grammarSize (s : State) (g : Nat) : Nat := ((grammarOf s g).map (·.size)).getD 0

/-- The loaded vocabulary has this object. -/
def vocabSame (s : State) (v : Nat) (o : ObjRef) : Bool :=
  match vocabOf s v with
  | some x => x.digest == o.digest
  | none => false

def vocabWrong (s : State) (v : Nat) (o : ObjRef) : Bool :=
  (vocabOf s v).isSome && (ObjRefEmpty o || !vocabSame s v o) && vocabInUse s v

def execVocabLoad (h : Hdr) (vocab : Nat) (table : ObjRef) (s : State) : Out :=
  .next (asyncCmd s h { code := 0x0206, isAsync := true, tenantRule := 0, sessRule := 0 } 96
    (fun s => [(decide (vocab > 63), 24)] ++ (if ObjRefEmpty table then [] else gatewayBad s table 32))
    (fun s => [(vocabWrong s vocab table, (stWrongState, 0))])
    (fun _ => .vocab vocab table)
    (fun s =>
      if ObjRefEmpty table then
        let s := freeTable s (vocabRuns s vocab)
        complete { s with copper.vocabs := tdel s.copper.vocabs vocab } h.seq (ansB (lay [(4, 0)]))
      else if vocabSame s vocab table then
        complete s h.seq (ansB (lay [(4, ((vocabOf s vocab).map (·.toks.length)).getD 0)]))
      else fetchObj s h.seq 0 0 table))

def loadVocab (s : State) (seq v : Nat) (o : ObjRef) (bs : List Byte) : State :=
  match parseVocab o bs with
  | none => complete s seq (ansD stBadParam 0xFFFE)
  | some x =>
    if vocabWrong s v o then complete s seq (ans stWrongState)
    else if tableBytes s - vocabSize s v + o.len > Config.textTables then complete s seq (ans stNoMemory)
    else match takeTable s 0 o.len with
      | none => complete s seq (ans stNoMemory)
      | some (r, s) =>
        let s := freeTable s (vocabRuns s v)
        complete { s with copper.vocabs := tput s.copper.vocabs v { x with runs := r } } seq (ansB (lay [(4, x.toks.length)]))

def grammarInUse (s : State) (g : Nat) : Bool :=
  s.cellar.sess.any (fun p => p.2.grammar == g) || s.gl.jobs.any fun j => match j.kind with
    | .generate p _ => p.grammar == g
    | _ => false

def grammarSame (s : State) (g : Nat) (o : ObjRef) : Bool :=
  match grammarOf s g with
  | some x => x.digest == o.digest
  | none => false

def grammarWrong (s : State) (g : Nat) (o : ObjRef) : Bool :=
  (grammarOf s g).isSome && (ObjRefEmpty o || !grammarSame s g o) && grammarInUse s g

def execGrammarLoad (h : Hdr) (grammar vocab : Nat) (table : ObjRef) (s : State) : Out :=
  .next (asyncCmd s h { code := 0x0207, isAsync := true, tenantRule := 1, sessRule := 0 } 96
    (fun s => [(grammar == 0, 24), (decide (vocab > 63), 26)] ++ (if ObjRefEmpty table then [] else gatewayBad s table 32))
    (fun s =>
      let other := match grammarOf s grammar with
        | some x => x.tenant != h.tenant
        | none => false
      [(other, (stDenied, 0)), (grammarWrong s grammar table, (stWrongState, 0)),
       (!ObjRefEmpty table && (grammarOf s grammar).isNone && decide (s.copper.grammars.length ≥ Config.grammarMax), (stTableFull, 0))])
    (fun _ => .grammar grammar vocab table)
    (fun s =>
      if ObjRefEmpty table then
        let s := freeTable s (grammarRuns s grammar)
        complete { s with copper.grammars := tdel s.copper.grammars grammar } h.seq (ansB (lay [(4, 0)]))
      else if grammarSame s grammar table then
        complete s h.seq (ansB (lay [(4, ((grammarOf s grammar).map (·.states.length)).getD 0)]))
      else fetchObj s h.seq 0 h.tenant table))

/-- The end tokens of a tenant's models of a vocabulary's size (R226; log entry 24). -/
def eosOf (s : State) (tenant n : Nat) : List Nat :=
  s.models.models.filterMap fun m => if m.2.tenant = tenant ∧ m.2.hdr.vocabSize = n then some m.2.hdr.eos else none

def loadGrammar (s : State) (seq tenant g v : Nat) (o : ObjRef) (bs : List Byte) : State :=
  let n := ((vocabOf s v).map (·.toks.length)).getD 0
  match (vocabOf s v).bind fun _ => parseGrammar o tenant v n (eosOf s tenant n) bs with
  | none => complete s seq (ansD stBadParam 0xFFFE)
  | some x =>
    let other := match grammarOf s g with
      | some y => y.tenant != tenant
      | none => false
    if other then complete s seq (ans stDenied)
    else if grammarWrong s g o then complete s seq (ans stWrongState)
    else if (grammarOf s g).isNone ∧ s.copper.grammars.length ≥ Config.grammarMax then complete s seq (ans stTableFull)
    else if tableBytes s - grammarSize s g + o.len > Config.textTables then complete s seq (ans stNoMemory)
    else match takeTable s tenant o.len with
      | none => complete s seq (ans stNoMemory)
      | some (r, s) =>
        let s := freeTable s (grammarRuns s g)
        complete { s with copper.grammars := tput s.copper.grammars g { x with runs := r } } seq
          (ansB (lay [(4, x.states.length)]))

/-! ### MASH_LOAD (R48, R121, R122) -/

def execMashLoad (h : Hdr) (activateAt : Nat) (table : ObjRef) (s : State) : Out :=
  .next (asyncCmd s h { code := 0x0501, isAsync := true, tenantRule := 0, sessRule := 0 } 96
    (fun s => gatewayBad s table 32) (fun s => [(s.mash.pendingTab.isSome, (stWrongState, 0))])
    (fun _ => .mash activateAt table) (fun s => fetchObj s h.seq 0 0 table))

/-- A fetched table is verified, and pending if no other is and its time has not passed (R48, R121, R122). -/
def loadMash (s : State) (seq activateAt : Nat) (o : ObjRef) (bs : List Byte) : State :=
  let t := readMash o.digest bs
  match mashFault s t bs with
  | some (off, chk) => complete { s with mash.loadDiag := (off, chk) } seq (ansD stBadParam 0xFFFE)
  | none =>
    if s.mash.pendingTab.isSome then complete s seq (ans stWrongState)
    else if activateAt ≤ s.dev.localCtr then complete s seq (ans stLate)
    else setStage { s with mash.pendingTab := some (t, activateAt, seq) } seq 4

end Sys2Proof.Machine
end

