-- ==== Sys2Proof/Machine/Images.lean ====
section
/-! DEFINITION. Sessions made from images that arrive with a migration or an adoption, and what an acknowledgement of the
buddy completes (R146, R186, R190, R224, R331, R337, R339, R344, R345). -/
namespace Sys2Proof.Machine

/-! ### Entries made from an image -/

def imgHdr (s : State) (i : SessImage) : ModelHdr := ((modelOf s i.model).map (·.hdr)).getD default

/-- Runs dealt out to the pages of an image, one for each layer group; the pages' pairs and codes are the image's (R158). -/
def dealRuns (g : Nat) : List ImgPage → List Run → List Page
  | [], _ => []
  | p :: ps, rs =>
    { blankPage p.k p.first (rs.take g) with
      filled := p.filled, full := decide (p.filled = 2 ^ p.k), summary := p.summary, pairs := p.pairs, codes := p.codes,
      dirty := if p.filled = 0 ∨ p.summary then none else some p.first, oneAppend := false } ::
    dealRuns g ps (rs.drop g)

/-- Orders of the runs an image needs in HBM: its pages, its page list and its state block; a PARKED one needs none. -/
def imageOrders (s : State) (i : SessImage) (st : Nat) : List Nat :=
  let h := imgHdr s i
  if st = stPARKED then []
  else (i.pages.flatMap fun p => List.replicate (layerGroups h) (pageOrder h p.k)) ++ [listOrder h i.pages.length, 2]

/-- The state block of an image (R190, R224): draft KV does not travel. -/
def blkOf (s : State) (i : SessImage) : StateBlk :=
  let cg := match i.gen with
    | some p => p.grammar
    | none => 0
  { (default : StateBlk) with
    lastToken := i.lastToken, ring := i.ring, ringHead := i.ringHead, specK := i.spec.1, specRejects := i.spec.2.1, specHold := i.spec.2.2,
    genSeq := i.genSeq, genTokens := i.genTokens, genParams := i.gen,
    sgCtx := (grammarOf s i.grammar).bind fun g => findCtx g i.sgState i.sgStack, sgState := i.sgState, sgStack := i.sgStack,
    cgCtx := (grammarOf s cg).bind fun g => findCtx g i.cgState i.cgStack, cgState := i.cgState, cgStack := i.cgStack,
    gramActive := i.gen.isSome && (cg != 0 || i.grammar != 0), carry := i.carry, carryPolicy := i.carryPolicy,
    outTail := i.outTail, held := i.held, stops := (i.gen.map (·.stops)).getD [], outBytes := i.outBytes }

/-- A session entry made from an image, its pages on `runs` (in the order of `imageOrders`). Its pages are private, so
`linked` is clear (log entry 30). -/
def sessOfImage (s : State) (i : SessImage) (die st : Nat) (runs : List Run) : Sess :=
  let h := imgHdr s i
  let n := i.pages.length * layerGroups h
  { Sess.zero with
    idx := idxOf i.handle, gen := genOf i.handle, state := st, cls := i.serviceClass, vocab := i.vocab, tenant := i.tenant,
    share := i.shareClass, model := i.model, epoch := i.epoch, position := i.position, released := i.released,
    reserved := i.position, lastSeq := i.lastSeq, homeDie := die, grammar := i.grammar, kvShift := i.kvShift,
    seed := i.seed, rng := i.rng, expirySec := i.expirySec, caskBytes := i.caskBytes,
    pages := dealRuns (layerGroups h) i.pages runs, pageList := (runs.drop n).take 1, stateBlock := (runs.drop (n + 1)).take 1,
    blk := blkOf s i, warmSince := s.dev.localCtr, dwellSince := s.dev.localCtr }

/-- An arriving session takes its index, which counts as issued (R146). -/
def putArrived (s : State) (x : Sess) : State :=
  { s with
    cellar.sess := tput s.cellar.sess x.idx x
    cellar.gens := tput s.cellar.gens x.idx x.gen
    cellar.freed := s.cellar.freed.erase x.idx }

/-- The die a session of a model lives on: the model's home die, or the die a warm would take (R201). -/
def dieFor (s : State) (model : Nat) : Option Nat :=
  match modelOf s model with
  | some m => if m.st = 0 then bestDie s m.slice else some m.homeDie
  | none => none

def imgSlice (s : State) (i : SessImage) : Nat := ((modelOf s i.model).map (·.slice)).getD 0

/-- An extract takes a slot of the table of extracts. -/
def takeExtract (s : State) (idx : Nat) : State :=
  let slot := freeExtractSlot s
  modSess { s with cellar.extractsUsed := s.cellar.extractsUsed ++ [slot] } idx fun y => { y with extract := some slot }

/-- COUNTER_NEAR_LIMIT for a bung epoch that first reaches its mark (R341, R465). -/
def epochMark (s : State) (handle was now : Nat) : State :=
  if was < 0xFFFFFF00 ∧ 0xFFFFFF00 ≤ now then counterNear s 0 handle now 0xFFFFFFF0 else s

/-! ### Migration: the ends of an offer (R337, R339) -/

def migOut (s : State) (handle : Nat) : Option MigOut := s.rack.out.find? fun m => m.handle == handle

def modOut (s : State) (handle : Nat) (f : MigOut → MigOut) : State :=
  { s with rack.out := s.rack.out.map fun m => if m.handle = handle then f m else m }

def dropOut (s : State) (handle : Nat) : State := { s with rack.out := s.rack.out.filter fun m => m.handle != handle }

def migIn (s : State) (handle : Nat) : Option MigIn := s.rack.inn.find? fun m => m.img.handle == handle

def modIn (s : State) (handle : Nat) (f : MigIn → MigIn) : State :=
  { s with rack.inn := s.rack.inn.map fun m => if m.img.handle = handle then f m else m }

def dropIn (s : State) (handle : Nat) : State := { s with rack.inn := s.rack.inn.filter fun m => m.img.handle != handle }

/-- Whether the device owns a session (R339). -/
def owns (x : Sess) : Bool := x.state != stABSENT

/-- The body of BUNG_QUERY (R46, R339). -/
def bungBody (x : Sess) : List Byte := lay [(1, x.state), (1, if owns x then 1 else 0), (2, 0), (4, x.epoch)]

/-- The settle has been acknowledged: the session is back in its earlier state, and the offer completes (R337). -/
def finishSettle (s : State) (idx : Nat) : State :=
  match sessAt s idx with
  | none => s
  | some x =>
    match migOut s (handleOf x) with
    | none => s
    | some m =>
      match m.settling with
      | none => s
      | some st =>
        if x.state = stOFFERED ∧ allAcked x then
          let s := modSess (dropOut s m.handle) idx fun y =>
            { y with state := y.offeredFrom, ownerPeer := 0, warmSince := s.dev.localCtr }
          complete (dwellStart s idx) m.seq (ans st)
        else s

/-- The offer is settled for the sender (R337, R339): epoch + 1, ABORT to the receiver, a SETTLE record; the session
resumes when the buddy has acknowledged it. `st` is the status the offer completes with. -/
def settle (s : State) (idx st : Nat) : State :=
  match sessAt s idx with
  | none => s
  | some x =>
    let h := handleOf x
    let s := match migOut s h with
      | some m => if m.dest = 0 then s else sendMsg s m.dest 0 0 0 0 false (.abort h x.epoch)
      | none => { s with rack.out := s.rack.out ++
          [{ handle := h, dest := 0, seq := noSeq, attempts := 0, stage := 3, settling := none }] }
    let e := min (x.epoch + 1) 0xFFFFFFFF
    let s := epochMark (modSess s idx fun y => { y with epoch := e }) h x.epoch e
    let s := modOut s h fun m => { m with settling := some st }
    finishSettle (rack s idx 14 0 plainDelta) idx

/-- The receiver has committed: held commands complete NOT_OWNER, MOVED is racked, the entry goes ABSENT (R150, R151,
R337). An offer that had not completed does so now. -/
def release (s : State) (idx owner : Nat) : State :=
  match sessAt s idx with
  | none => s
  | some x =>
    let seq := ((migOut s (handleOf x)).map (·.seq)).getD noSeq
    let s := complete s seq (ansB (lay [(4, x.epoch)]))
    let s := (sessJobs s idx).foldl (fun s j => failJob s idx j.seq (ansD stNotOwner owner)) s
    let s := goAbsent (rack s idx 10 0 plainDelta) idx owner
    dropOut { s with fab.cnt.migrations := ctrAdd s.fab.cnt.migrations 1 } (handleOf x)

/-- COMMIT has been acknowledged by the receiver's buddy: the entry takes the offered state, COMMIT goes to the sender,
the command completes (R337, R338). -/
def finishCommit (s : State) (idx : Nat) : State :=
  match sessAt s idx with
  | none => s
  | some x =>
    match migIn s (handleOf x) with
    | none => s
    | some m =>
      if m.stage = 4 ∧ allAcked x then
        let s := modSess s idx fun y =>
          { y with state := y.offeredFrom, incoming := false, ownerPeer := 0, warmSince := s.dev.localCtr }
        let s := dwellStart s idx
        let s := { s with fab.cnt.migrations := ctrAdd s.fab.cnt.migrations 1 }
        let s := sendMsg (modIn s m.img.handle fun k => { k with stage := 6 }) m.src 0 0 0 0 false
          (.commit m.img.handle x.epoch)
        (s.gl.jobs.filter fun j => j.session == m.img.handle && (match j.kind with
          | .accept .. => true
          | _ => false)).foldl (fun s j => complete s j.seq (ansB (lay [(4, x.epoch)]))) s
      else s

/-- What an acknowledgement of a session's records lets happen. -/
def afterAck (s : State) (idx : Nat) : State := pump (finishCommit (finishSettle s idx) idx) idx

/-- The incoming entry is discarded: its racked copy closed, its frames freed, its waiting ACCEPTs WRONG_STATE
(R337, R338). -/
def discardIncoming (s : State) (handle : Nat) : State :=
  match migIn s handle with
  | none => s
  | some m =>
    let s := dropResv (dropIn s handle) m.resv
    let s := match sessByHandle s handle with
      | some x => if x.incoming then
          (if m.stage ≥ 3 ∧ m.stage ≠ 5 then closeEntry s x.idx else freeIndex (releaseAll s x.idx) x.idx) else s
      | none => s
    (s.gl.jobs.filter fun j => j.session == handle && (match j.kind with
      | .accept .. => true
      | _ => false)).foldl (fun s j => complete s j.seq (ans stWrongState)) s

/-- Whether an abort mark stands for (handle, offered epoch) (R339). -/
def abortMarked (s : State) (handle epoch : Nat) : Bool := s.rack.aborts.any fun a => a.1 == handle && a.2.1 == epoch

/-! ### Migration: the incoming side (R337, R338) -/

/-- An ACCEPT that waited goes on: it commits a matched entry whose digest it names or leaves open. -/
def tryAccept (s : State) (j : Job) : State :=
  match j.kind, migIn s j.session, sessByHandle s j.session with
  | .accept _ _ digest, some m, some x =>
    if m.stage ≠ 3 then s
    else if digest ≠ 0 ∧ digest ≠ m.digest then complete s j.seq (ansD stBadParam 32)
    else
      let s := modIn (setStage s j.seq 4) j.session fun k => { k with stage := 4 }
      finishCommit (rack s x.idx 9 0 plainDelta) x.idx
  | _, _, _ => s

/-- The transfer is complete and matches: the incoming state is racked, MATCH goes to the sender, an ACCEPT that waits
goes on (R337 step 4, R338). -/
def matched (s : State) (handle : Nat) : State :=
  match migIn s handle, sessByHandle s handle with
  | some m, some x =>
    let s := modIn s handle fun k => { k with stage := 3 }
    let s := rack s x.idx 13 (m.img.hbmBytes) plainDelta
    let s := sendMsg s m.src 0 0 0 0 false (.digestMatch handle true)
    match s.gl.jobs.find? fun j => j.session == handle && (match j.kind with
      | .accept .. => true
      | _ => false) with
    | some j => tryAccept s j
    | none => s
  | _, _ => s

/-- The cask of an incoming PARKED session written to this device's flash under MOVE, held like any MOVE write (R127,
R337). -/
def migWrite (s : State) (handle : Nat) : State :=
  match migIn s handle, sessByHandle s handle with
  | some m, some x =>
    let sl := imgSlice s m.img
    if mayWrite s sl 6 x.tenant m.img.caskBytes (some x.idx) then
      match flashWrite s sl 6 x.tenant m.img.caskBytes true (.migration x.idx) (.cask x.idx) with
      | some (_, s) => noteClass s m.img.shareClass 2 m.img.caskBytes
      | none => s
    else noteWriteHold s sl 6 x.tenant m.img.caskBytes (some x.idx)
  | _, _ => s

/-- A program of an incoming cask is complete: the cask is the session's (R337). -/
def migWritten (s : State) (idx addr : Nat) : State :=
  match sessAt s idx with
  | none => s
  | some x =>
    let s := modSess s idx fun y =>
      { y with cask := addr, caskSeq := y.caskSeq + 1,
               pages := y.pages.map fun p => { p with onFlash := true, flashFilled := p.filled } }
    if x.incoming then matched s (handleOf x) else modSess s idx fun y => { y with caskPeer := 0 }

/-- The complete state installed on the frames reserved for it (R337 step 3). -/
def installIncoming (s : State) (m : MigIn) (i : SessImage) : State :=
  match sessByHandle s i.handle with
  | none => s
  | some x =>
    let runs := ((resvOf s m.resv).map (·.runs)).getD []
    let s := dropResv (modResv s m.resv fun r => { r with runs := [] }) m.resv
    let y := sessOfImage s i x.homeDie stABSENT runs
    putSess s { y with incoming := true, ownerPeer := m.src, offeredFrom := i.offeredFrom, extract := x.extract }

end Sys2Proof.Machine
end

