-- ==== Sys2Proof/Machine/Migration.lean ====
section
/-! DEFINITION. Migration and the bung: the commands of the control node and the messages between sender and receiver
(R151, R323, R336 to R341). -/
namespace Sys2Proof.Machine

/-! ### SESSION_MIGRATE_OFFER -/

def execSessionMigrateOffer (h : Hdr) (destPeer : Nat) (s : State) : Out :=
  .next (asyncCmd s h { code := 0x0109, isAsync := true, tenantRule := 1, sessRule := 1 } 28
    (fun s => [(!peerOk destPeer || destPeer == s.fab.self, 24)]) (fun _ => []) (fun _ => .offer destPeer)
    (fun s => takePlace s (idxOf h.session) h.seq false))

/-! ### SESSION_MIGRATE_ACCEPT -/

/-- The incoming entry an ACCEPT names: of its handle, from its sender, at its epoch, for its tenant. -/
def acceptEntry (s : State) (h : Hdr) (srcPeer epoch : Nat) : Option MigIn :=
  (migIn s h.session).filter fun m =>
    m.src == srcPeer && m.img.epoch == epoch && m.img.tenant == h.tenant && m.stage != 6 && !abortMarked s h.session epoch

/-- The session is already committed here at that epoch. -/
def acceptDone (s : State) (h : Hdr) (epoch : Nat) : Bool :=
  match sessByHandle s h.session with
  | some x => !x.incoming && owns x && x.epoch == epoch && x.tenant == h.tenant
  | none => false

def execSessionMigrateAccept (h : Hdr) (srcPeer epoch digest : Nat) (s : State) : Out :=
  .next (asyncCmd s h { code := 0x010A, isAsync := true, tenantRule := 1, sessRule := 3 } 64
    (fun s => match acceptEntry s h srcPeer epoch with
      | some m => [(m.stage ≥ 3 && m.stage != 5 && digest != 0 && digest != m.digest, 32)]
      | none => [])
    (fun s => [((acceptEntry s h srcPeer epoch).isNone && !acceptDone s h epoch, (stWrongState, 0))])
    (fun _ => .accept srcPeer epoch digest)
    (fun s =>
      if acceptDone s h epoch then complete s h.seq (ansB (lay [(4, epoch)]))
      else match jobOf s h.seq with
        | some j => tryAccept s j
        | none => s))

/-! ### Messages of a migration -/

/-- Why a receiver refuses an offer (R337); RETRY where an abort mark refuses the incoming state (log entry 31). -/
def offerFault (s : State) (i : SessImage) : Option Nat :=
  let parked := decide (i.offeredFrom = stPARKED)
  let wrong := match modelOf s i.model with
    | some m => m.tenant != i.tenant || m.digest != i.modelDigest
    | none => true
  firstHit [(!tenantLive s i.tenant, stNoTenant), (thas s.cellar.sess (idxOf i.handle), stTableFull),
    (parked && decide (freeMapped s < i.caskBytes + sumBy (·.bytes) s.oast.writes), stFlashFull),
    (parked && (flashEpoch s i.tenant).isNone, stDenied), (wrong, stWrongState),
    (i.offeredFrom == stEXTRACT && !extractFree s, stTableFull), (abortMarked s i.handle i.epoch, stRetry)]

/-- A racked copy of the session that stands at a higher epoch (R336). -/
def copyAhead (s : State) (handle epoch : Nat) : Bool :=
  s.rack.copies.any fun c => c.img.handle == handle && decide (c.img.epoch > epoch)

/-- A session that this device holds, or a copy of it, at a higher epoch (R336). -/
def aheadOf (s : State) (handle epoch : Nat) : Bool :=
  copyAhead s handle epoch ||
  (match sessByHandle s handle with
    | some x => owns x && decide (x.epoch > epoch)
    | none => false)

def staleEpoch (s : State) : State := { s with fab.cnt.epochStale := ctrAdd s.fab.cnt.epochStale 1 }

def execMigrateOfferMsg (src : Nat) (image : SessImage) (s : State) : Out :=
  .next (
    if running s = false then s
    else if aheadOf s image.handle image.epoch then staleEpoch s
    else
      let refuse_ (st : Nat) : State := sendMsg s src 0 0 0 0 false (.offerRefused image.handle st)
      match offerFault s image with
      | some st => refuse_ st
      | none =>
        let st := image.offeredFrom
        match (if st = stPARKED then some ((dieFor s image.model).getD 0) else dieFor s image.model) with
        | none => refuse_ stNoMemory
        | some die =>
          let x := sessOfImage s image die stABSENT []
          let s := putArrived s { x with incoming := true, ownerPeer := src, offeredFrom := st }
          -- an arriving extract holds its slot from the offer on (R173, log entry 111)
          let s := if st = stEXTRACT then takeExtract s x.idx else s
          let orders := imageOrders s image st
          let m : MigIn := { src := src, img := image, digest := 0, stage := 2, resv := 0 }
          if orders = [] then
            sendMsg { s with rack.inn := s.rack.inn ++ [m] } src 0 0 0 0 false (.offerOk image.handle)
          else
            let s := { s with rack.inn := s.rack.inn ++ [{ m with stage := 1, resv := s.cellar.nextResv }] }
            askFrames s noSeq x.idx die image.tenant (imgSlice s image) orders)

/-- The transfer under MOVE, then END with its digest (R337 steps 3 and 4). -/
def sendTransfer (s : State) (x : Sess) (dest : Nat) : State :=
  let i := imageOf s x
  let sl := sliceOfSess s x
  let s := if x.offeredFrom = stPARKED ∧ x.cask ≠ 0 then noteClass (charge s sl 6 2 x.caskBytes) x.share 2 x.caskBytes
    else noteClass (charge s sl 6 1 i.hbmBytes) x.share 1 i.hbmBytes
  sendMsg s dest 4 sl 6 x.tenant true (.transferEnd i (Config.streamDigest i))

/-- The session of an offer in progress with this peer. -/
def offerWith (s : State) (src session : Nat) : Option (MigOut × Sess) :=
  match migOut s session, sessByHandle s session with
  | some m, some x => if m.dest = src ∧ x.state = stOFFERED ∧ m.settling = none then some (m, x) else none
  | _, _ => none

def execOfferReply (src session status : Nat) (s : State) : Out :=
  .next (match offerWith s src session with
    | some (m, x) =>
      if m.stage ≠ 1 then s
      else if status = 0 then sendTransfer (modOut s session fun k => { k with stage := 2 }) x src
      else pump (settle s x.idx status) x.idx
    | none => s)

def execMigrateEnd (src session digest : Nat) (image : SessImage) (s : State) : Out :=
  .next (match migIn s session, sessByHandle s session with
    | some m, some x =>
      if m.src ≠ src ∨ m.stage ≠ 2 then s
      else if image.epoch < m.img.epoch then staleEpoch s
      else
        let s := noteClass (chargeRx s (imgSlice s image) 6 (imgBytes image)) image.shareClass 3 (imgBytes image)
        if digest ≠ Config.streamDigest image ∨ image.handle ≠ session then
          sendMsg s src 0 0 0 0 false (.digestMatch session false)
        else
          let parked := decide (x.offeredFrom = stPARKED)
          let s := installIncoming s m { image with offeredFrom := x.offeredFrom }
          let s := modIn s session fun k => { k with img := image, digest := digest, resv := 0, stage := if parked then 5 else 2 }
          if parked then migWrite s session
          else matched (noteClass (charge s (imgSlice s image) 6 1 image.hbmBytes) image.shareClass 1 image.hbmBytes) session
    | _, _ => s)

def execMigrateMatchReply (src session _digest : Nat) (isMatch : Bool) (s : State) : Out :=
  .next (match offerWith s src session with
    | some (m, x) =>
      if m.stage ≠ 2 then s
      else if isMatch then
        complete (modOut s session fun k => { k with stage := 3 }) m.seq (ansB (lay [(4, x.epoch)]))
      else if m.attempts < 3 then sendTransfer (modOut s session fun k => { k with attempts := k.attempts + 1 }) x src
      else pump (settle s x.idx stRetry) x.idx
    | none => s)

def execMigrateCommitMsg (src session epoch : Nat) (s : State) : Out :=
  .next (match sessByHandle s session with
    | some x =>
      if epoch < x.epoch then staleEpoch s
      else if x.state = stOFFERED ∧ x.epoch = epoch then
        sendMsg (release s x.idx src) src 0 0 0 0 false (.releasedMsg session)
      else if x.state = stABSENT ∧ x.incoming = false then sendMsg s src 0 0 0 0 false (.releasedMsg session)
      else s
    | none => s)

def execMigrateReleased (src session : Nat) (s : State) : Out :=
  .next (match migIn s session with
    | some m => if m.src = src ∧ m.stage = 6 then dropIn s session else s
    | none => s)

def execMigrateAbort (src session epoch : Nat) (s : State) : Out :=
  .next (match migIn s session with
    | some m =>
      if epoch < m.img.epoch then staleEpoch s
      else if m.src = src ∧ m.img.epoch = epoch ∧ m.stage ≠ 6 then discardIncoming s session else s
    | none => s)

/-! ### The bung (R339) -/

/-- A question to `peer` about an OFFERED session, or with peer 0 the settle at once. -/
def askBung (s : State) (x : Sess) (j : Job) (peer : Nat) : State :=
  if peer = 0 then
    let s := settle s x.idx stRetry
    match sessAt s x.idx with
    | some y => pump (finishFinal s j.seq (ansB (bungBody y))) x.idx
    | none => s
  else
    let s := setStage { s with rack.bung := s.rack.bung ++ [{ handle := handleOf x, peer := peer, seq := j.seq }] } j.seq 3
    sendMsg s peer 0 0 0 0 false (.bungAsk (handleOf x) x.epoch)

/-- Whether a session's offer is still to be settled. -/
def unsettled (s : State) (x : Sess) : Bool :=
  x.state == stOFFERED && (match migOut s (handleOf x) with
    | some m => m.settling.isNone
    | none => true)

def bungJobs (s : State) (handle : Nat) : List Job :=
  s.gl.jobs.filter fun j => j.session == handle && (match j.kind with
    | .bung _ => true
    | _ => false)

/-- Queries that waited for another's exchange: with the offer settled they report; else the first asks (R349). -/
def nextBung : Nat → State → Nat → State
  | 0, s, _ => s
  | n + 1, s, handle =>
    match bungJobs s handle, sessByHandle s handle with
    | j :: _, some x =>
      if j.stage ≠ 0 then s
      else match j.kind with
        | .bung peer =>
          if unsettled s x then (let s := askBung s x j peer
                                 if peer = 0 then nextBung n s handle else s)
          else nextBung n (finishFinal s j.seq (ansB (bungBody x))) handle
        | _ => s
    | _, _ => s

def execBungQuery (h : Hdr) (peer : Nat) (s : State) : Out :=
  .next (lateSync s h { code := 0x010B, isAsync := false, tenantRule := 1, sessRule := 1 } 28
    (fun _ => [(decide (peer ≥ 65535), 24)]) (fun _ => none) (fun _ => .bung peer)
    (fun s => nextBung 65536 s h.session))

/-- Whether the device holds the receiver's state past the offer, and the owner it knows (R339). -/
def bungView (s : State) (session epoch : Nat) : Option Nat :=
  let own := match sessByHandle s session with
    | some x => if owns x ∧ x.epoch ≥ epoch then some s.fab.self else none
    | none => none
  match own with
  | some p => some p
  | none =>
    (s.rack.copies.find? fun c => c.img.handle == session && !c.incoming &&
      (decide (c.img.epoch > epoch) || (c.img.epoch == epoch && c.img.state != stOFFERED))).map fun c =>
        match c.frozen with
        | none => c.owner
        | some a => a

def execBungAsk (src session epoch : Nat) (s : State) : Out :=
  .next (if running s = false then s
    else match bungView s session epoch with
    | some owner => sendMsg s src 0 0 0 0 false (.bungAnswer session true owner)
    | none =>
      let s := if abortMarked s session epoch then s
        else { s with
          rack.aborts := s.rack.aborts ++ [(session, epoch, s.cellar.sec + 60 * max 1 s.cellar.absentHold)]
          fab.cnt.abortMarks := ctrAdd s.fab.cnt.abortMarks 1 }
      let s := match migIn s session with
        | some m => if m.img.epoch = epoch ∧ m.stage ≠ 6 then discardIncoming s session else s
        | none => s
      sendMsg s src 0 0 0 0 false (.bungAnswer session false 0))

/-- The open question with this peer about a session. -/
def openBung (s : State) (src session : Nat) : Option BungOpen :=
  s.rack.bung.find? fun b => b.handle == session && b.peer == src

def endBung (s : State) (b : BungOpen) : State :=
  let s := { s with rack.bung := s.rack.bung.erase b }
  let s := match sessByHandle s b.handle with
    | some y => finishFinal s b.seq (ansB (bungBody y))
    | none => finishFinal s b.seq (ans stNoSession)
  nextBung 65536 s b.handle

def execBungAnswer (src session : Nat) (committed : Bool) (owner : Nat) (s : State) : Out :=
  .next (match openBung s src session with
    | none => s
    | some b =>
      let s := match sessByHandle s session with
        | some x =>
          if unsettled s x then (if committed then release s x.idx owner else settle s x.idx stRetry) else s
        | none => s
      pump (endBung s b) (idxOf session))

def execBungAskTimeout (session : Nat) (s : State) : Out :=
  .next (match s.rack.bung.find? fun b => b.handle == session with
    | none => s
    | some b =>
      let at_ := match jobOf s b.seq with
        | some j => j.acceptedAt
        | none => s.dev.localCtr
      endBung (advanceTo s (at_ + max 100 s.fab.peerTimeoutUs * Config.usCycles)) b)

def execAbortMarkExpiry (session epoch : Nat) (s : State) : Out :=
  .next { s with rack.aborts := s.rack.aborts.filter fun a =>
    !(a.1 == session && a.2.1 == epoch && decide (a.2.2 ≤ s.cellar.sec)) }

end Sys2Proof.Machine
end

