-- ==== Sys2Proof/Machine/Racking.lean ====
section
/-! DEFINITION. Racking at the buddy and at the owner, fencing, and spare adoption (R328 to R336, R342 to R345, R348). -/
namespace Sys2Proof.Machine

/-! ### The buddy's copies (R330, R333) -/

def copyOf (s : State) (handle : Nat) : Option RCopy := s.rack.copies.find? fun c => c.img.handle == handle

def modCopy (s : State) (handle : Nat) (f : RCopy → RCopy) : State :=
  { s with rack.copies := s.rack.copies.map fun c => if c.img.handle = handle then f c else c }

/-- The image's frames return to their pools. -/
def freeCopyRuns (s : State) (c : RCopy) : State := c.runs.foldl (fun s r => freeRun s r.1 r.2) s

/-- A racked copy freed: its frames and its racked cask. -/
def dropCopy (s : State) (handle : Nat) : State :=
  match copyOf s handle with
  | none => s
  | some c =>
    let s := freeExtentsIf (freeCopyRuns s c) fun e => e.owner == .rackCask handle
    { s with rack.copies := s.rack.copies.filter fun k => k.img.handle != handle }

/-- The die with the most free frames, the lower number on a tie (R333). -/
def roomiest (s : State) : Nat :=
  (minBy (fun d => 1073741824 - poolFree s d) ((List.range 4).filter fun d => dieUp s d)).getD 0

/-- Bytes an image takes in the pool: its KV, its state block and its descriptors. -/
def imagePoolBytes (i : SessImage) : Nat := i.hbmBytes + 16384 + 128

/-- Frames added to a copy until it holds its image; `none` where no die has them (R333). -/
def growCopy (s : State) (have_ : List (Nat × Run)) (i : SessImage) : Option (List (Nat × Run) × State) :=
  let need := ceilDiv (imagePoolBytes i) 4096
  let held := framesOf (have_.map (·.2))
  if need ≤ held then some (have_, s)
  else
    let d := roomiest s
    match takeRuns s d i.tenant noSlice (weightOrders ((need - held) * 4096)) with
    | some (rs, s) => some (have_ ++ rs.map fun r => (d, r), s)
    | none => none

/-- Frames of all racked images. -/
def imageFrames (s : State) : Nat := sumBy (fun c => framesOf (c.runs.map (·.2))) s.rack.copies

def poolTotal (s : State) : Nat := sumBy (fun a => a.total) s.cellar.allocs

/-- Racked images above `rack_hbm_max` of the pool (R333, R350). -/
def imagesOver (s : State) : Bool := decide (imageFrames s * 256 > poolTotal s * s.fab.rackHbmMax)

/-- The bytes of an image's full pages (R333). -/
def fullBytes (i : SessImage) : Nat :=
  let all := sumBy (·.filled) i.pages
  let full := sumBy (fun p => if p.filled = 2 ^ p.k then p.filled else 0) i.pages
  if all = 0 then 0 else i.hbmBytes * full / all

/-- The full pages of the oldest image written to the buddy's flash as part of its racked cask, under RACK in slice 0
(R330, R333); `none` where none can be written now. -/
def spillOldest (s : State) : Option State :=
  match s.rack.copies.find? fun c => c.pendingPark.isNone && decide (fullBytes c.img ≠ 0) &&
      !s.oast.writes.any (fun w => match w.what with
        | .rackPark _ h _ => h == c.img.handle
        | _ => false) with
  | none => none
  | some c =>
    let n := fullBytes c.img
    if mayWrite s 0 7 c.img.tenant n none ∧ (flashEpoch s c.img.tenant).isSome ∧ mounted s then
      (flashWrite s 0 7 c.img.tenant n false (.rackPark c.owner c.img.handle 0) (.rackCask c.img.handle)).map
        fun p => noteClass p.2 c.img.shareClass 2 n
    else none

def spillWhileOver (s : State) : State := if imagesOver s then (spillOldest s).getD s else s

/-- The pages a PARK record names go to the buddy's flash; held like any RACK write, and the record stays
unacknowledged until the program is complete (R330). -/
def parkCopy (s : State) (handle : Nat) : State :=
  match copyOf s handle with
  | none => s
  | some c =>
    match c.pendingPark with
    | none => s
    | some q =>
      if s.oast.writes.any (fun w => match w.what with
          | .rackPark _ h k => h == handle && k == q
          | _ => false) then s
      else
        let n := c.img.hbmBytes + 16384 + 4096
        if mounted s = false ∨ flashEpoch s c.img.tenant = none then s
        else if mayWrite s 0 7 c.img.tenant n none then
          match flashWrite s 0 7 c.img.tenant n false (.rackPark c.owner handle q) (.rackCask handle) with
          | some (_, s) => noteClass s c.img.shareClass 2 n
          | none => s
        else noteWriteHold s 0 7 c.img.tenant n none

/-- An image with `n` more of its bytes on flash. -/
def onFlash (i : SessImage) (n : Nat) : SessImage := { i with caskBytes := i.caskBytes + n, hbmBytes := i.hbmBytes - n }

/-- The image of a copy whose cask is complete. -/
def parkedImage (i : SessImage) : SessImage := { onFlash i i.hbmBytes with state := stPARKED, offeredFrom := stPARKED }

/-- A racked write has been programmed: with `q` 0 the full pages leave the image; else the copy is PARKED, its image's
pages are freed, and the PARK record is acknowledged (R330, R333). -/
def copyWritten (s : State) (src handle q : Nat) : State :=
  match copyOf s handle with
  | none => s
  | some c =>
    if q = 0 then
      let n := fullBytes c.img
      let s := freeCopyRuns s c
      let i := onFlash c.img n
      match growCopy s [] i with
      | some (rs, s) => modCopy s handle fun k => { k with img := i, runs := rs }
      | none => modCopy s handle fun k => { k with img := i, runs := [] }
    else if c.pendingPark = some q then
      let s := modCopy (freeCopyRuns s c) handle fun k => { k with img := parkedImage k.img, runs := [], pendingPark := none }
      sendMsg s src 0 0 0 0 false (.rackAck handle q)
    else s

/-! ### RACK_RECORD (R329 to R336, R339, R342) -/

/-- The copy after a record: the recorded state, an append's start kept until its end (R329, R344), an incoming state
committed by COMMIT (R339), a PARK still to be written. -/
def recordInto (old : Option RCopy) (src : Nat) (r : RackRec) (runs : List (Nat × Run)) : RCopy :=
  let was := old.bind fun c => c.img.appendStart
  let start := if r.rkind = 3 then r.image.appendStart else if r.rkind = 4 ∨ r.rkind = 13 then none else was
  { owner := src, img := { r.image with appendStart := start }, rackSeq := r.rackSeq, incoming := bit r.rflags 0,
    frozen := none, slice := r.slice, pendingPark := if r.rkind = 5 then some r.rackSeq else none, runs := runs }

/-- Whether the buddy refuses a record "fenced": the owner's copies were frozen, or this one was (R342, R348). -/
def fencedFor (s : State) (src : Nat) (r : RackRec) : Bool :=
  (match copyOf s r.session with
    | some c => c.owner == src && c.frozen.isSome
    | none => false) || s.rack.fenced.contains src

/-- A CONDENSE record frees the racked cask and every page but the summary. -/
def condenseCopy (s : State) (r : RackRec) (runs : List (Nat × Run)) : State × List (Nat × Run) :=
  if r.rkind = 7 then
    (runs.foldl (fun s k => freeRun s k.1 k.2) (freeExtentsIf s fun e => e.owner == .rackCask r.session), [])
  else (s, runs)

/-- A record's copy kept in its frames, and acknowledged, or parked first where the record says so. -/
def keepRecord (s : State) (old : Option RCopy) (src : Nat) (r : RackRec) (runs : List (Nat × Run)) : State :=
  let s := { s with
    rack.copies := (s.rack.copies.filter fun k => k.img.handle != r.session) ++ [recordInto old src r runs] }
  if r.rkind = 5 then parkCopy s r.session
  else if r.image.optOut then s
  else spillWhileOver (sendMsg s src 0 0 0 0 false (.rackAck r.session r.rackSeq))

/-- The image written into the pages of the copy, or the answer "busy" while room is made on flash for the record sent
again (R330, R333). -/
def writeGrown (s : State) (old : Option RCopy) (src : Nat) (r : RackRec) (runs : List (Nat × Run)) : State :=
  match growCopy s runs r.image with
  | none => sendMsg ((spillOldest s).getD s) src 0 0 0 0 false (.rackBusy r.session r.rackSeq)
  | some (runs, s) => keepRecord s old src r runs

/-- A record written into the pool, or answered "busy" (R330, R333). -/
def writeRecord (s : State) (src : Nat) (r : RackRec) : State :=
  if r.rkind = 10 ∨ r.rkind = 11 then sendMsg (dropCopy s r.session) src 0 0 0 0 false (.rackAck r.session r.rackSeq)
  else
    let cc := condenseCopy s r (((copyOf s r.session).map (·.runs)).getD [])
    writeGrown cc.1 (copyOf s r.session) src r cc.2

def execRackRecord (src : Nat) (r : RackRec) (s : State) : Out :=
  .next (
    if running s = false then s
    else if tenantLive s r.tenant = false then { s with fab.cnt.authFail := ctrAdd s.fab.cnt.authFail 1 }
    else
      let n := 32 + r.kvBytes + r.descBytes
      let s := charge (chargeRx s 0 7 n) 0 7 1 (r.kvBytes + r.descBytes)
      let s := noteClass (noteClass s r.image.shareClass 3 n) r.image.shareClass 1 (r.kvBytes + r.descBytes)
      let s := { s with fab.owners := if s.fab.owners.contains src then s.fab.owners else s.fab.owners ++ [src] }
      if fencedFor s src r then sendMsg s src 0 0 0 0 false (.rackFenced r.slice)
      else if abortMarked s r.session r.epoch && (bit r.rflags 0 || r.rkind == 9) then s
      else if aheadOf s r.session r.epoch then staleEpoch s
      else match copyOf s r.session with
        | some c =>
          if c.owner = src ∧ r.rackSeq ≤ c.rackSeq then
            (if c.pendingPark.isSome then s else sendMsg s src 0 0 0 0 false (.rackAck r.session c.rackSeq))
          else writeRecord s src r
        | none => writeRecord s src r)

/-! ### RACK_ACK, FENCED_RECEIVED (R25, R329, R342) -/

def execRackAck (peer session rackSeq : Nat) (s : State) : Out :=
  .next (match sessByHandle s session with
    | some x =>
      if buddyOf s x = peer ∧ x.rackAcked < rackSeq ∧ rackSeq ≤ x.rackSeq then
        let s := { s with fab.cnt.rackRecords := ctrAdd s.fab.cnt.rackRecords (rackSeq - x.rackAcked) }
        afterAck (modSess s x.idx fun y => { y with rackAcked := rackSeq, rackBusy := false }) x.idx
      else s
    | none => s)

/-- Nothing more goes out for a session: what is not yet in a frame is dropped (R342). -/
def silence (s : State) (handle : Nat) : State :=
  let of (c : Content) : Bool := match c with
    | .reply r => r.session == handle
    | .stream r => r.session == handle
    | _ => false
  { s with
    gl.g0.unsent := s.gl.g0.unsent.filter fun c => !of c.2
    gl.g1.unsent := s.gl.g1.unsent.filter fun c => !of c.2
    gl.backlog := s.gl.backlog.filter fun c => !of c.2
    gl.stalled := s.gl.stalled.filter fun c => !of c.2 }

/-- A session becomes ABSENT with owner 0 and no reply of its commands (R151, R342). -/
def fenceSession (s : State) (idx : Nat) : State :=
  match sessAt s idx with
  | none => s
  | some x =>
    let s := (s.gl.jobs.filter fun j => j.session == handleOf x).foldl (fun s j =>
      dropJob (leaveEngines { s with lauter.queries := s.lauter.queries.filter fun q => q.seq != j.seq } j.seq) j.seq) s
    let s := { dropIn (dropOut s (handleOf x)) (handleOf x) with
      rack.bung := s.rack.bung.filter fun b => b.handle != handleOf x }
    goAbsent (silence (modSess s idx fun y => { y with outstanding := 0 }) (handleOf x)) idx 0

/-- The slices whose buddy a peer is, as a mask (R464). -/
def buddySlices (s : State) (peer : Nat) : Nat :=
  sumBy (fun sl => if lget s.fab.buddies sl 0 = peer then 2 ^ sl else 0) (List.range 16)

/-- PEER_LOST (R322, R464): the event, and the peer's open streams discarded. -/
def markLost (s : State) (peer reason : Nat) : State :=
  let s := raise s 0x40 0 0 [(2, peer), (1, reason), (1, 0), (2, buddySlices s peer)]
  { modPeer s peer (fun p => { p with lost := true, streams := [] }) with
    fab.held := s.fab.held.filter fun h => h.peer != peer }

def execFencedReceived (peer slice : Nat) (s : State) : Out :=
  .next (
    if lget s.fab.buddies slice 0 = peer ∧ peer ≠ 0 then
      let s := (s.cellar.sess.filter fun p => sliceOfSess s p.2 == slice && racks s p.2 &&
        p.2.state != stABSENT && p.2.state != stEXPIRED).foldl (fun s p => fenceSession s p.1) s
      markLost s peer 2
    else s)

/-! ### Freezing (R342, R348) -/

/-- Copies of a failed peer that can still be served: not incoming, not yet served to a spare. -/
def servable_ (failed : Nat) (c : RCopy) : Bool :=
  c.owner == failed && !c.incoming && (c.frozen == none || c.frozen == some 0)

/-- The copies served to a spare, those of each slice in a message of its own, charged to that slice (R468). -/
def servePull (s : State) (spare : Nat) (imgs : List SessImage) : State :=
  match (imgs.map (imgSlice s)).eraseDups with
  | [] => sendMsg s spare 4 0 6 0 false (.adoptCopies [])
  | sls => sls.foldl (fun s sl =>
      let l := imgs.filter fun i => imgSlice s i == sl
      sendMsg (l.foldl (fun s i => noteClass s i.shareClass 1 (imgBytes i)) (charge s sl 6 1 (sumBy imgBytes l))) spare 4 sl 6 0 false (.adoptCopies l)) s

def execAdoptFreezeRequest (spare failed : Nat) (s : State) : Out :=
  .next (
    if running s = false then s
    else
      -- copies handed over by a peer that still runs are the only ones served (R348)
      let handed := s.rack.copies.any (fun c => c.owner == failed && c.frozen == some 0) &&
        !(peerOf s failed).lost && !s.rack.fenced.contains failed
      let pick (c : RCopy) : Bool := servable_ failed c && (!handed || c.frozen == some 0)
      let imgs := (s.rack.copies.filter pick).map (·.img)
      let s := { s with
        rack.fenced := if handed ∨ s.rack.fenced.contains failed then s.rack.fenced else s.rack.fenced ++ [failed]
        rack.copies := s.rack.copies.map fun c =>
          if pick c then { c with frozen := some spare }
          else if c.owner = failed ∧ c.frozen = none ∧ handed = false then { c with frozen := some 0 } else c }
      servePull s spare imgs)

def execHandover (src : Nat) (sessions : List Nat) (s : State) : Out :=
  .next (if running s = false then s
    else { s with rack.copies := s.rack.copies.map fun c =>
      if c.owner = src ∧ sessions.contains c.img.handle ∧ c.frozen = none then { c with frozen := some 0 } else c })

/-! ### SPARE_ADOPT and ADOPT_PULL_DONE (R343 to R345) -/

def execSpareAdopt (h : Hdr) (failedPeer buddyPeer : Nat) (s : State) : Out :=
  .next (asyncCmd s h { code := 0x0604, isAsync := true, tenantRule := 0, sessRule := 0 } 32
    (fun _ => [(!peerOk failedPeer, 24), (!peerOk buddyPeer, 26)]) (fun _ => [])
    (fun _ => .adopt failedPeer buddyPeer)
    (fun s =>
      let s := setStage { s with rack.adoptions := s.rack.adoptions ++
        [{ seq := h.seq, failed := failedPeer, buddy := buddyPeer }] } h.seq 3
      sendMsg s buddyPeer 0 0 0 0 false (.adoptAsk failedPeer)))

/-- Counts of an adoption so far: adopted, skipped, lost, bytes. -/
structure AdoptCount where
  adopted : Nat
  skipped : Nat
  lost : Nat
  bytes : Nat
deriving DecidableEq, Repr, Inhabited

/-- An append racked as begun and not ended is removed: the image is cut back to its start (R344). -/
def cutAppend (i : SessImage) : SessImage :=
  match i.appendStart with
  | none => i
  | some p =>
    if p < i.position then
      let kv := (p + two32 - i.kvShift) % two32
      { i with
        position := p, released := min i.released p, ring := i.ring.take (i.ring.length - (i.position - p)),
        ringHead := (i.ringHead + 2048 - min (i.position - p) i.ring.length) % 2048,
        pages := (i.pages.filter fun g => decide (g.first < kv) || g.summary).map fun g =>
          if g.summary then g else { g with filled := min g.filled (kv - g.first) } }
    else i

/-- A model needed by an adoption and only REGISTERED is warmed before its sessions are installed (R343). -/
def warmNow (s : State) (m : Nat) : State :=
  match modelOf s m with
  | some x =>
    if x.st = 0 then
      match beginWarm s m with
      | some s => warmDone { s with oast.reads := s.oast.reads.filter fun r => r.what != .warm m } m
      | none => s
    else s
  | none => s

/-- A running generate of an adopted session resumes under its `cmd_seq` and tenant (R345): the Copper is replayed over
the tokens the racked state had not taken up, the racked stream tail goes out again, and new steps follow. -/
def resumeGenerate (s : State) (idx : Nat) (i : SessImage) : State :=
  match sessAt s idx, i.gen with
  | some _, some g =>
    if i.gen.isNone then s
    else if (cmdRec s i.genSeq).isSome then
      -- its cmd_seq is in use here: the session is left WARM
      { clearGen s idx 0 with fab.cnt.adoptSeq := ctrAdd s.fab.cnt.adoptSeq 1 }
    else
      let late := i.position - i.released
      let toks := i.ring.drop (i.ring.length - late)
      let committed := i.genTokens + late
      let maxTok := max committed i.genMax
      let eos := bit g.genFlags 0 && decide (i.lastToken = some (imgHdr s i).eos)
      let ending := if eos then some 2 else if committed ≥ maxTok then some 0 else none
      let r : GenRun := { seq := i.genSeq, port := i.genPort, tenant := i.tenant, p := g, maxTok := maxTok, committed := committed,
                          released := i.genTokens, steps := i.genCounts.1, verifies := i.genCounts.2.1,
                          accepted := i.genCounts.2.2, started := decide (committed ≠ 0), ending := ending, stopIndex := 0,
                          tailNeeded := ending.isSome && i.lastToken.isSome, tailDone := false,
                          idsPending := [], lastPos := i.released }
      let j : Job := { seq := i.genSeq, port := i.genPort, tenant := i.tenant, session := i.handle, opcode := 0x0103,
                       no := s.gl.acceptNo, acceptedAt := s.dev.localCtr, stage := 3, kind := .generate g maxTok, text := [],
                       behind := [] }
      let c : CmdRec := { seq := i.genSeq, opcode := 0x0103, tenant := i.tenant, port := i.genPort, session := i.handle,
                          phase := 0, repliedAt := s.dev.localCtr, reply := none }
      let s := { s with gl.cmds := s.gl.cmds ++ [c], gl.jobs := s.gl.jobs ++ [j], gl.acceptNo := s.gl.acceptNo + 1 }
      let s := modSess s idx fun y =>
        { y with run := some r, outstanding := 1, reserved := y.position + (maxTok - committed) }
      let rec_ (t : Nat × Nat × List Byte × List Nat) : StreamRec :=
        { session := i.handle, seq := i.genSeq, offset := t.1, position := t.2.1, text := t.2.2.1, ids := t.2.2.2,
          final := false }
      let s := i.tail.foldl (fun s t => emit s i.genPort true (.stream (rec_ t))) s
      let s := toks.foldl (fun s t => releaseToken s idx t none) s
      nextStep (maybeEnd s idx) idx
  | _, _ => s

/-- A lost marker for an opted-out session: it answers SESSION_LOST and leaves after the EXPIRED hold (R335). -/
def lostMarker (s : State) (i : SessImage) : State :=
  putArrived s { Sess.zero with
    idx := idxOf i.handle, gen := genOf i.handle, state := stEXPIRED, tenant := i.tenant, model := i.model, epoch := i.epoch,
    cls := i.serviceClass, share := i.shareClass, lostMark := true,
    expirySec := s.cellar.sec + 60 * max 1 s.cellar.expiredHold }

/-- The copy of an adopted PARKED session's cask to this device's flash, under MOVE in the background (R344). -/
def adoptWrite (s : State) (idx : Nat) : State :=
  match sessAt s idx with
  | none => s
  | some x =>
    let sl := sliceOfSess s x
    if x.caskPeer = 0 ∨ x.state ≠ stPARKED ∨ mounted s = false ∨ flashEpoch s x.tenant = none ∨
        s.oast.writes.any (fun w => w.what == .adoptCopy idx) then s
    else if mayWrite s sl 6 x.tenant x.caskBytes (some idx) then
      match flashWrite s sl 6 x.tenant x.caskBytes true (.adoptCopy idx) (.cask idx) with
      | some (_, s) => noteClass s x.share 2 x.caskBytes
      | none => s
    else noteWriteHold s sl 6 x.tenant x.caskBytes (some idx)

/-- The bytes an adoption pulls for a session. -/
def adoptBytes (i : SessImage) (st : Nat) : Nat := if st = stPARKED then 0 else imgBytes i

/-- An adopted session installed in its frames: state `st`, epoch `e`, and its copy taken over or racked again. -/
def adoptInto (s : State) (buddy : Nat) (i : SessImage) (die st e : Nat) (offered : Bool) (runs : List Run) : State :=
  let x := sessOfImage s { i with epoch := e } die (if offered then stOFFERED else st) runs
  let s := putArrived s { x with
    offeredFrom := st, caskPeer := if st = stPARKED then buddy else 0,
    expirySec := if st = stPARKED then i.expirySec else 0 }
  let idx := x.idx
  let bytes := adoptBytes i st
  let s := chargeRx s (imgSlice s i) 6 bytes
  let s := charge s (imgSlice s i) 6 1 bytes
  let s := noteClass (noteClass s i.shareClass 3 bytes) i.shareClass 1 bytes
  let s := if st = stEXTRACT then takeExtract s idx else s
  let s := epochMark s i.handle i.epoch e
  let s := dwellStart s idx
  -- a spare whose slice buddy is the buddy has nothing to rack again
  let s := if buddyOf s x = buddy then s else rack s idx 13 i.hbmBytes plainDelta
  let s := if st = stWARM ∧ offered = false then resumeGenerate s idx i else s
  adoptWrite s idx

/-- One frozen copy made into a session as R344's table states. -/
def adoptOne (buddy : Nat) (acc : State × AdoptCount) (img : SessImage) : State × AdoptCount :=
  let (s, n) := acc
  let skip : State × AdoptCount := (s, { n with skipped := n.skipped + 1 })
  if tenantLive s img.tenant = false ∨ thas s.cellar.sess (idxOf img.handle) then skip
  else if img.optOut then (lostMarker s img, { n with lost := n.lost + 1 })
  else if img.incoming then acc
  else match modelOf s img.model with
    | none => skip
    | some _ =>
      let s := warmNow s img.model
      let i := cutAppend img
      let offered := decide (i.state = stOFFERED)
      let st := if offered then i.offeredFrom else if i.state = stACTIVE then stWARM else i.state
      let e := if offered then i.epoch else min (i.epoch + 1) 0xFFFFFFFF
      match dieFor s i.model with
      | none => skip
      | some die =>
        if st = stEXTRACT ∧ extractFree s = false then skip
        else match takeRuns s die i.tenant (imgSlice s i) (imageOrders s i st) with
        | none => skip
        | some (runs, s) =>
          (adoptInto s buddy i die st e offered runs,
           { n with adopted := n.adopted + 1, bytes := n.bytes + adoptBytes i st })

/-- The end of an adoption: the buddy is told, FAILOVER_DONE, the command completes (R344). -/
def endAdoption (s : State) (a : Adoption) (n : AdoptCount) : State :=
  let s := { s with
    rack.adoptions := s.rack.adoptions.filter fun k => k.seq != a.seq
    fab.cnt.adopted := ctrAdd s.fab.cnt.adopted n.adopted
    fab.cnt.adoptSkip := ctrAdd s.fab.cnt.adoptSkip n.skipped }
  let s := sendMsg s a.buddy 0 0 0 0 false (.adoptDone a.failed)
  let s := raise s 0x41 0 0 [(2, a.failed), (2, a.buddy), (4, n.adopted), (4, n.skipped), (4, n.lost), (4, 0), (8, n.bytes)]
  complete s a.seq (ansB (lay [(4, n.adopted), (8, n.bytes)]))

def execAdoptPullDone (seq : Nat) (images : List SessImage) (s : State) : Out :=
  .next (match s.rack.adoptions.find? fun a => a.seq == seq with
    | none => s
    | some a =>
      -- ACTIVE sessions first
      let act := images.filter fun i => i.state == stACTIVE
      let rest := images.filter fun i => i.state != stACTIVE
      let r := (act ++ rest).foldl (adoptOne a.buddy) (s, default)
      endAdoption r.1 a r.2)

end Sys2Proof.Machine
end

