-- ==== Sys2Proof/Machine/Lauter.lean ====
section
/-! DEFINITION. The Lauter's arithmetic and search: codes, distance tables, visibility, beam search, linking, repair
(R236, R240 to R247, R251 to R253, R257, R259). -/
namespace Sys2Proof.Machine

/-! ### Codes (R236, R238, R240) -/

/-- A BF16 pattern as binary32. -/
def bf (x : H16) : F32 := BitVec.ofNat 32 (x.toNat * 65536)

/-- Rows J and columns V of a distance table, and the bytes of a code. -/
def codeRows (c : CorpusCfg) : Nat := if c.codeKind = 2 then c.pqBytes else c.dim
def codeCols (c : CorpusCfg) : Nat := if c.codeKind = 0 then 16 else 256
def codeBytes (c : CorpusCfg) : Nat := if c.codeKind = 0 then c.dim / 2 else if c.codeKind = 1 then c.dim else c.pqBytes

/-- Bytes of a node in the pools (R238). -/
def nodeBytes (c : CorpusCfg) : Nat := 4 * c.degree + codeBytes c + 32 + 32 + 16

def bookAt (c : CorpusCfg) (i : Nat) : H16 := lget c.book i 0

/-- Elements of a sub-space. -/
def subDim (c : CorpusCfg) : Nat := c.dim / max 1 c.pqBytes

def centroid (c : CorpusCfg) (j v : Nat) : List F32 :=
  (List.range (subDim c)).map fun i => bf (bookAt c ((256 * j + v) * subDim c + i))

/-- s_j × v + o_j (R236). -/
def scalarVal (c : CorpusCfg) (j v : Nat) : F32 :=
  f32Fma (bf (bookAt c (2 * j))) (f32OfInt v) (bf (bookAt c (2 * j + 1)))

def subVec (c : CorpusCfg) (q : List F32) (j : Nat) : List F32 := (q.drop (j * subDim c)).take (subDim c)

/-- q · v under R73. -/
def dotVec (q v : List F32) : F32 := dot8 (q.map ofF32) (v.map ofF32)

/-- −‖q − v‖², differences rounded once each, under R73. -/
def negDist (q v : List F32) : F32 :=
  let d := (q.zipWith f32Sub v).map ofF32
  f32Neg (dot8 d d)

/-- The vector normalised under R79: each element times the reciprocal root of its squared length. -/
def normalise (v : List H16) : List H16 :=
  let l := v.map bf
  let r := sfuRsqrt (dotVec l l)
  l.map fun x => toBF16 (f32Mul x r)

/-- The squared distance of two vectors, exact. -/
def exactDist (a b : List F32) : Num :=
  exactSum ((a.zipWith (fun x y => (ofF32 x).add (ofF32 y).neg) b).map fun d => d.mul d)

/-- The index of the least number, the first on a tie. -/
def leastNum : Nat → Nat → Num → List Num → Nat
  | _, best, _, [] => best
  | i, best, b, n :: l => if n.lt b then leastNum (i + 1) i n l else leastNum (i + 1) best b l

/-- The code of a vector (R240): R68 for scalar codes, the nearest centroid of each sub-space for product codes, the
lower centroid on a tie. -/
def encodeVec (c : CorpusCfg) (v : List H16) : List Nat :=
  (List.range (codeRows c)).map fun j =>
    if c.codeKind = 2 then
      let q := subVec c (v.map bf) j
      match (List.range 256).map fun k => exactDist q (centroid c j k) with
      | n :: l => leastNum 1 0 n l
      | [] => 0
    else
      encodeCode (if c.codeKind = 0 then 4 else 8) (bookAt c (2 * j)) (bookAt c (2 * j + 1)) (bf (lget v j 0))

/-- The values a code stands for (R236). -/
def decodeVec (c : CorpusCfg) (code : List Nat) : List F32 :=
  if c.codeKind = 2 then (List.range code.length).flatMap fun j => centroid c j (lget code j 0)
  else (List.range code.length).map fun j => scalarVal c j (lget code j 0)

/-! ### Distance tables (R251) -/

/-- t[j][v]. -/
def tableVal (c : CorpusCfg) (q : List F32) (j v : Nat) : F32 :=
  if c.codeKind = 2 then
    if c.metric = 1 then negDist (subVec c q j) (centroid c j v) else dotVec (subVec c q j) (centroid c j v)
  else
    let w := scalarVal c j v
    if c.metric = 1 then (let d := f32Sub (lget q j 0) w
                          f32Neg (f32Mul d d))
    else f32Mul (lget q j 0) w

/-- The least of a row. -/
def rowMin : List F32 → F32
  | [] => 0
  | a :: l => l.foldl (fun m x => if f32Lt x m then x else m) a

/-- t − m in units of 2^k, rounded to the nearest whole number; where t − m is not finite the entry is free. -/
def entryOf (k : Int) (m t : F32) : Nat :=
  match (ofF32 t).add (ofF32 m).neg with
  | .fin _ n e => let r := ratio n (e - k)
                  rndHalfEven r.1 r.2
  | _ => Config.oddEntry t % 4096

/-- Whether δ = 2^k holds the table within its limits. -/
def tableFits (rows : List (F32 × List F32)) (k : Int) : Bool :=
  let us := rows.map fun r => r.2.map (entryOf k r.1)
  us.all (fun l => l.all fun u => decide (u ≤ 65535)) &&
  decide (sumBy (fun l => l.foldl max 0) us ≤ 16777215)

/-- The first of `n` powers from 2^k on that fits. -/
def firstFit (rows : List (F32 × List F32)) : Nat → Int → Int
  | 0, k => k
  | n + 1, k => if tableFits rows k then k else firstFit rows n (k + 1)

/-- An exponent below which no δ fits: 2^17 of it is at most the greatest t − m. -/
def firstPower (rows : List (F32 × List F32)) : Int :=
  let es := rows.flatMap fun r => r.2.filterMap fun t => match (ofF32 t).add (ofF32 r.1).neg with
    | .fin _ n e => if n = 0 then none else some ((Nat.log2 n : Int) + e - 17)
    | _ => none
  match es with
  | [] => 0
  | e :: l => l.foldl max e

/-- A distance table: u by row, δ = 2^k, b. -/
structure DistTable where
  u : List (List Nat)
  k : Int
  b : F32
deriving Repr

def buildTable (c : CorpusCfg) (q : List F32) : DistTable :=
  let rows := (List.range (codeRows c)).map fun j =>
    let l := (List.range (codeCols c)).map fun v => tableVal c q j v
    (rowMin l, l)
  let k := firstFit rows 48 (firstPower rows)
  { u := rows.map fun r => r.2.map (entryOf k r.1), k := k, b := toF32 (exactSum (rows.map fun r => ofF32 r.1)) }

/-- S_y (R252). -/
def codeSum (t : DistTable) (code : List Nat) : Nat := ((t.u.zipWith (fun row v => lget row v 0) code)).foldl (· + ·) 0

/-- fl(δ × S + b) (R252). -/
def scoreOf (t : DistTable) (sum : Nat) : F32 := toF32 ((Num.fin false sum t.k).add (ofF32 t.b))

/-- Score of two nodes by their codes (R241). -/
def codeScore (c : CorpusCfg) (a b : List Nat) : F32 :=
  let q := decodeVec c a
  toF32 (exactSum ((List.range b.length).map fun j => ofF32 (tableVal c q j (lget b j 0))))

/-! ### Visibility and predicates (R242, R252, R257) -/

/-- Visible at snapshot `snap` on a shard published to `ph`. -/
def visibleAt (snap ph : Nat) (y : LNode) : Bool :=
  decide (y.ins ≤ min snap ph) && !(match y.del with
    | some d => decide (d ≤ min snap ph)
    | none => false)

/-- The in-scan predicate. -/
def passesScan (r : SearchReq) (y : LNode) : Bool :=
  (y.attr &&& r.attrAnd) == r.attrAnd && (r.attrOr == 0 || (y.attr &&& r.attrOr) != 0) &&
  decide (r.num0Lo ≤ y.num0) && decide (y.num0 ≤ r.num0Hi) && decide (r.num1Lo ≤ y.num1) && decide (y.num1 ≤ r.num1Hi)

/-- One term of a post-filter on a candidate. -/
def postTerm (c : Cand) (t : List Byte) : Bool :=
  let f := fld t 0 1
  let x := if f = 0 then c.attr else if f = 1 then c.num0 else if f = 2 then c.num1 else lget c.ext (f - 3) 0
  let v := fld t 8 8
  match fld t 1 1 with
  | 0 => x == v
  | 1 => x != v
  | 2 => decide (x < v)
  | 3 => decide (x ≤ v)
  | 4 => decide (x > v)
  | 5 => decide (x ≥ v)
  | 6 => (x &&& v) == v
  | 7 => (x &&& v) != 0
  | _ => (x &&& v) == 0

/-- Terms of one clause join by AND, clauses by OR; no program passes all. -/
def postPass (prog : List Byte) (c : Cand) : Bool :=
  let ts := records prog 0 16 (prog.length / 16)
  ts.isEmpty || (List.range 16).any fun k =>
    let l := ts.filter fun t => fld t 2 1 == k
    !l.isEmpty && l.all (postTerm c)

/-! ### Beam search (R253) -/

/-- A search in progress: navigation list (sum, node, expanded), result list, nodes visited, lists read, waves. -/
structure Walk where
  nav : List (Nat × Nat × Bool)
  res : List (Nat × Nat)
  seen : List Nat
  lists : Nat
  waves : Nat
  full : Bool
deriving Repr, Inhabited

/-- Higher sum first, lower node id on a tie. -/
def hitBefore (a b : Nat × Nat) : Bool := decide (a.1 > b.1) || (a.1 == b.1 && decide (a.2 < b.2))

/-- Node `y` visited and evaluated. -/
def visit (sh : Shard) (t : DistTable) (accept : LNode → Bool) (beam : Nat) (w : Walk) (y : Nat) : Walk :=
  if w.full || w.seen.contains y then w
  else if w.seen.length ≥ 65536 then { w with full := true }
  else match tget sh.nodes y with
    | none => w
    | some nd =>
      let sm := codeSum t nd.code
      { w with
        seen := y :: w.seen
        nav := (insertBy (fun a b => hitBefore (a.1, a.2.1) (b.1, b.2.1)) (sm, y, false) w.nav).take beam
        res := if accept nd then (insertBy hitBefore (sm, y) w.res).take beam else w.res }

/-- Up to `n` waves of at most 4 nodes. -/
def walkWaves (sh : Shard) (t : DistTable) (accept : LNode → Bool) (beam : Nat) : Nat → Walk → Walk
  | 0, w => w
  | n + 1, w =>
    let x := (w.nav.filter fun h => !h.2.2).take 4
    match x with
    | [] => w
    | a :: _ =>
      let worst := ((w.nav.getLast?).map (·.1)).getD 0
      if w.nav.length ≥ beam ∧ a.1 < worst then w
      else
        let w := x.foldl (fun w h =>
          let adj := ((tget sh.nodes h.2.1).map (·.adj)).getD []
          adj.foldl (visit sh t accept beam) { w with lists := w.lists + 1 }) { w with waves := w.waves + 1 }
        if w.full then w
        else walkWaves sh t accept beam n { w with
          nav := w.nav.map fun h => if x.any (fun k => k.2.1 == h.2.1) then (h.1, h.2.1, true) else h }

def search (sh : Shard) (t : DistTable) (accept : LNode → Bool) (beam : Nat) : Walk :=
  walkWaves sh t accept beam (2 * beam) (sh.entries.foldl (visit sh t accept beam) default)

/-- Bytes a search reads through the sparge units (R253). -/
def walkBytes (c : CorpusCfg) (w : Walk) : Nat := w.seen.length * (32 + codeBytes c) + w.lists * 4 * c.degree

/-! ### Shards in the state -/

def corpusOf (s : State) (c : Nat) : Option Corpus := tget s.lauter.corpora c

def modCorpus (s : State) (c : Nat) (f : Corpus → Corpus) : State :=
  { s with lauter.corpora := tmod s.lauter.corpora c f }

def shardOf (s : State) (c h : Nat) : Option Shard := (corpusOf s c).bind fun x => tget x.shards h

def modShard (s : State) (c h : Nat) (f : Shard → Shard) : State :=
  modCorpus s c fun x => { x with shards := tmod x.shards h f }

/-- What holds a search on a shard: SCAN bytes, RETRIEVE tile time, and with full vectors to read RETRIEVE flash bytes
(R127, R130, R259). -/
def scanFree (s : State) (sl : Nat) (rescore : Bool) : Bool :=
  hasBal s sl 5 1 && hasBal s sl 4 0 && (!rescore || hasBal s sl 4 2)

def scanHold (s : State) (sl : Nat) (rescore : Bool) : State :=
  let s := if hasBal s sl 5 1 then s else holdOn s sl 5 1
  let s := if hasBal s sl 4 0 then s else holdOn s sl 4 0
  if rescore = false ∨ hasBal s sl 4 2 then s else holdOn s sl 4 2

/-- The charge of a scan; its tile cycles are a free value (R252). For a session's query it counts in the record of the
session's share class (R142). -/
def chargeScan (s : State) (sl n : Nat) (cls : Option Nat) : State :=
  let k := Config.count s.free
  let s := tick (charge (charge s sl 5 1 n) sl 4 0 k)
  match cls with
  | some c => noteClass (noteClass s c 1 n) c 0 k
  | none => s

/-- The query log of a shard: the newest 256 vectors (R265). -/
def logVector (s : State) (c h : Nat) (v : List H16) : State :=
  if s.lauter.logEn then modShard s c h fun x => { x with log := (x.log ++ [v]).drop (x.log.length + 1 - 256) } else s

/-- Scores of a result list in descending order, equal scores by node. -/
def sortScored (l : List (Nat × F32)) : List (Nat × F32) :=
  sortBy (fun a b => f32Lt b.2 a.2 || (!f32Lt a.2 b.2 && decide (a.1 < b.1))) l

/-- The score of a full vector (R259). -/
def fullScore (c : CorpusCfg) (q : List F32) (v : List H16) : F32 :=
  if c.metric = 1 then negDist q (v.map bf) else dotVec q ((if c.metric = 2 then normalise v else v).map bf)

/-- A search request answered from a shard held here: candidates in order, charged, counted and logged
(R251 to R253, R259, R265). -/
def runSearch (s : State) (r : SearchReq) (frm : Nat) (cls : Option Nat) : State × List Cand :=
  match corpusOf s r.corpus, shardOf s r.corpus r.shard with
  | some c, some sh =>
    let q := r.vector.map bf
    let t := buildTable c.cfg q
    let w := search sh t (fun y => visibleAt r.snapshot sh.ph y && passesScan r y) r.beam
    let node (y : Nat) : LNode := tdef sh.nodes y default
    let l := w.res.map fun p => (p.2, if r.rescore then fullScore c.cfg q (node p.2).vec else scoreOf t p.1)
    let l := if r.rescore then sortScored l else l
    let sl := c.cfg.slice
    let s := chargeScan s sl (walkBytes c.cfg w) cls
    let n := if r.rescore then sumBy (fun p => roundUp (2 * c.cfg.dim + (node p.1).text.length) 4096) l else 0
    let s := charge s sl 4 2 n
    let s := match cls with
      | some k => noteClass s k 2 n
      | none => s
    let s := { s with lauter.cnt.waves := ctrAdd s.lauter.cnt.waves w.waves }
    (logVector s r.corpus r.shard r.vector,
     l.map fun p => let y := node p.1
                    { node := p.1, shard := r.shard, score := p.2, attr := y.attr, num0 := y.num0, num1 := y.num1,
                      ext := y.ext, fromPeer := frm })
  | _, _ => (s, [])

/-! ### Linking (R241) -/

/-- α in sixteenths; values below 16 act as 16 (R266). -/
def alphaOf (s : State) : Nat := max 16 s.lauter.alpha

def linkBeamOf (s : State) : Nat := min 1024 (max 16 s.lauter.linkBeam)

/-- The candidates of x, in order, that no neighbour already kept dominates; at most `degree`. -/
def keepNeighbours (sh : Shard) (c : CorpusCfg) (alpha : Nat) (x : List Nat) : List Nat → List Nat → List Nat
  | [], kept => kept
  | y :: ys, kept =>
    let code (n : Nat) : List Nat := (tdef sh.nodes n default).code
    let bar := (Num.fin false alpha (-4)).mul (ofF32 (codeScore c x (code y)))
    if kept.length ≥ c.degree then kept
    else if kept.any fun z => bar.le (ofF32 (codeScore c (code z) (code y))) then keepNeighbours sh c alpha x ys kept
    else keepNeighbours sh c alpha x ys (kept ++ [y])

/-- A list re-pruned for node `x`: its members in descending score, lower ids first on a tie. -/
def reprune (sh : Shard) (c : CorpusCfg) (alpha x : Nat) (l : List Nat) : List Nat :=
  let code := (tdef sh.nodes x default).code
  let scored := sortScored (l.map fun y => (y, codeScore c code (tdef sh.nodes y default).code))
  keepNeighbours sh c alpha code (scored.map (·.1)) []

def setAdj (sh : Shard) (y : Nat) (l : List Nat) : Shard :=
  { sh with nodes := tmod sh.nodes y fun n => { n with adj := l } }

/-- Node `x`, already stored, linked into its shard. -/
def linkNode (s : State) (cid h x : Nat) : State :=
  match corpusOf s cid, shardOf s cid h with
  | some c, some sh =>
    let nd := tdef sh.nodes x default
    let q := decodeVec c.cfg nd.code
    let qv := if c.cfg.metric = 2 then (normalise nd.vec).map bf else nd.vec.map bf
    let t := buildTable c.cfg (if qv.length = c.cfg.dim then qv else q)
    let w := search sh t (fun y => y.del.isNone) (linkBeamOf s)
    let kept := keepNeighbours sh c.cfg (alphaOf s) nd.code ((w.res.map (·.2)).filter (· != x)) []
    let sh := setAdj sh x kept
    let sh := kept.foldl (fun sh y =>
      let l := (tdef sh.nodes y default).adj ++ [x]
      setAdj sh y (if l.length ≤ c.cfg.degree then l else reprune sh c.cfg (alphaOf s) y l)) sh
    let sh := if sh.entries.length < 64 then { sh with entries := sh.entries ++ [x] } else sh
    let s := chargeScan s c.cfg.slice (walkBytes c.cfg w + (kept.length + 1) * 4 * c.cfg.degree) none
    { modShard s cid h (fun _ => sh) with lauter.cnt.waves := ctrAdd s.lauter.cnt.waves w.waves }
  | _, _ => s

/-! ### Tombstones (R245, R246) -/

def tombstones (sh : Shard) : Nat := countBy (fun p => p.2.del.isSome) sh.nodes

/-- INDEX_DEGRADED above 10 %, armed again below 8 %. -/
def degradeCheck (s : State) (cid h : Nat) : State :=
  match corpusOf s cid, shardOf s cid h with
  | some c, some sh =>
    let t := tombstones sh
    let n := sh.nodes.length
    if sh.degraded = false ∧ 10 * t > n then
      raise (modShard s cid h fun x => { x with degraded := true }) 0x60 c.tenant 0 [(4, cid), (2, h), (2, 0), (8, t), (8, n)]
    else if sh.degraded ∧ 100 * t < 8 * n then modShard s cid h fun x => { x with degraded := false }
    else s
  | _, _ => s

/-- Queries and peer requests that run on a shard: (number, snapshot). A query is numbered 2 × cmd_seq, a request
2 × id + 1. -/
def runningOn (s : State) (cid h : Nat) : List (Nat × Nat) :=
  (s.lauter.queries.filterMap fun q =>
    if q.p.corpus = cid ∧ q.asked.any (fun a => a.shard == h && (a.owner == s.fab.self || a.replica == s.fab.self)) then
      some (2 * q.seq, q.snapshot) else none) ++
  (s.lauter.reqs.filterMap fun r => if r.corpus = cid ∧ r.shard = h then some (2 * r.rid + 1, r.snapshot) else none)

/-- Every query and peer request of the Lauter, numbered the same way. -/
def allRunning (s : State) : List Nat := s.lauter.queries.map (fun q => 2 * q.seq) ++ s.lauter.reqs.map (fun r => 2 * r.rid + 1)

/-- Ids of removed nodes become free once every query that began before their sweep's end has ended (R246). -/
def reapIds (s : State) : State :=
  let live := allRunning s
  { s with lauter.corpora := s.lauter.corpora.map fun p => (p.1, { p.2 with shards := p.2.shards.map fun h =>
      (h.1, { h.2 with
        freeIds := h.2.freeIds ++ (h.2.leaving.filter fun l => !(l.2.any live.contains)).map (·.1)
        leaving := h.2.leaving.filter fun l => l.2.any live.contains }) }) }

/-- The live node nearest the mean of the codes' values. -/
def centreNode (c : CorpusCfg) (live : List (Nat × LNode)) : Option Nat :=
  let vecs := live.map fun p => (p.1, decodeVec c p.2.code)
  let n : Num := .fin false live.length 0
  let total := (List.range c.dim).map fun d => exactSum (vecs.map fun v => ofF32 (lget v.2 d 0))
  let dist := vecs.map fun v =>
    exactSum ((List.range c.dim).map fun d =>
      let e := (n.mul (ofF32 (lget v.2 d 0))).add (lget total d (.fin false 0 0)).neg
      e.mul e)
  match dist with
  | [] => none
  | a :: l => (vecs[leastNum 1 0 a l]?).map (·.1)

/-- One repair sweep of a shard (R246). -/
def repairShard (s : State) (cid h : Nat) : State :=
  match corpusOf s cid, shardOf s cid h with
  | some c, some sh =>
    let f := (runningOn s cid h).foldl (fun m p => min m p.2) sh.ph
    let gone := sh.nodes.filter fun p => match p.2.del with
      | some d => decide (d ≤ f)
      | none => false
    let ids := gone.map (·.1)
    let adjOf (y : Nat) : List Nat := ((tget sh.nodes y).map (·.adj)).getD []
    let isTomb (y : Nat) : Bool := ((tget sh.nodes y).map (·.del.isSome)).getD true
    let newAdj (x : Nat) (l : List Nat) : List Nat :=
      if l.any ids.contains then
        let add := (l.filter ids.contains).flatMap fun m => (adjOf m).filter fun y => !isTomb y && y != x
        let l := (l.filter fun y => !ids.contains y) ++ add
        reprune sh c.cfg (alphaOf s) x (l.foldl (fun acc y => if acc.contains y then acc else acc ++ [y]) [])
      else l
    let nodes := (sh.nodes.filter fun p => !ids.contains p.1).map fun p => (p.1, { p.2 with adj := newAdj p.1 p.2.adj })
    let live := nodes.filter fun p => p.2.del.isNone
    let drawn := (List.range 63).filterMap fun i => (live[Config.draw (s.free + i) % max 1 live.length]?).map (·.1)
    let entries := ((centreNode c.cfg live).toList ++ drawn).foldl (fun acc y => if acc.contains y then acc else acc ++ [y]) []
    let wait := allRunning s
    let s := gone.foldl (fun s p => freeExtent s p.2.oast) s
    let s := modShard { s with free := s.free + 63 } cid h fun x => { x with
      nodes := nodes, entries := entries,
      removedSeq := gone.foldl (fun m p => max m (p.2.del.getD 0)) x.removedSeq,
      leaving := x.leaving ++ ids.map fun y => (y, wait) }
    let s := chargeScan s c.cfg.slice (sh.nodes.length * 4 * c.cfg.degree) none
    let s := { s with lauter.cnt.removed := ctrAdd s.lauter.cnt.removed ids.length }
    degradeCheck (reapIds s) cid h
  | _, _ => s

end Sys2Proof.Machine
end

