-- ==== Sys2Proof/Machine/Retrieval.lean ====
section
/-! DEFINITION. Retrieval commands and events: corpora, items, publication, queries with their fan-out, merge, texts,
re-ranking and packing, peer requests, repair, probes, expert tokens (R205, R235 to R265). -/
namespace Sys2Proof.Machine

/-! ### Configuration records (R235 to R238) -/

/-- An object reference in an object (R37). -/
def objRefAt (bs : List Byte) (o : Nat) : ObjRef :=
  { gateway := fld bs o 2, len := fld bs (o + 8) 8, id := fld bs (o + 16) 16, digest := leNat (cut bs (o + 32) 32).reverse }

/-- The configuration a record of 128 bytes gives, without its codebook's words. -/
def cfgOf (r : List Byte) : CorpusCfg :=
  { metric := fld r 5 1, codeKind := fld r 6 1, degree := fld r 7 1, dim := fld r 8 2, pqBytes := fld r 10 1,
    sepLen := fld r 11 1, encoder := fld r 12 4, cross := fld r 16 4, sep := cut r 24 16, slice := fld r 40 1,
    codebook := objRefAt r 64, book := [], raw := r }

/-- Bytes of the codebook of a configuration (R236). -/
def bookBytes (c : CorpusCfg) : Nat := if c.codeKind = 2 then 512 * c.dim else 4 * c.dim

/-- A model of the tenant, of a kind, registered with a slice. -/
def modelIs (s : State) (tenant m kind sl : Nat) : Bool :=
  match modelOf s m with
  | some x => x.tenant == tenant && x.hdr.kind == kind && x.slice == sl
  | none => false

/-- First nonzero byte of a range, as an offset. -/
def nonzeroAt (r : List Byte) (o n : Nat) : Option Nat :=
  (List.range n).find? (fun i => lget r (o + i) 0 != 0) |>.map (o + ·)

/-- Faults of a configuration record: offsets within the record. -/
def cfgFaults (s : State) (tenant shard : Nat) (r : List Byte) : List (Bool × Nat) :=
  let c := cfgOf r
  [(fld r 0 4 != 128, 0), (decide (c.metric > 2), 5), (decide (c.codeKind > 2), 6), (!([16, 32, 48, 64].contains c.degree), 7),
   (decide (c.dim < 64) || decide (c.dim > 4096) || c.dim % 16 != 0 || (c.codeKind == 1 && decide (c.dim > 1024)), 8),
   (if c.codeKind = 2 then decide (c.pqBytes < 16) || decide (c.pqBytes > 128) || c.pqBytes % 8 != 0 || c.dim % max 1 c.pqBytes != 0
    else c.pqBytes != 0, 10),
   (decide (c.sepLen > 16), 11),
   (!modelIs s tenant c.encoder 3 c.slice || ((modelOf s c.encoder).map fun m => Config.encoderWidth m.digest) != some c.dim, 12),
   (c.cross != 0 && !modelIs s tenant c.cross 4 c.slice, 16),
   (if shard = 65535 then fld r 20 4 != 0 else decide (fld r 20 4 = 0) || decide (fld r 20 4 > 4294967040), 20),
   (!wellFormed (c.sep.take c.sepLen), 24),
   ((nonzeroAt r (24 + c.sepLen) (16 - c.sepLen)).isSome, (nonzeroAt r (24 + c.sepLen) (16 - c.sepLen)).getD 24),
   (decide (c.slice > 15), 40), ((nonzeroAt r 41 23).isSome, (nonzeroAt r 41 23).getD 41), (!gatewayOk s c.codebook, 64),
   ((nonzeroAt r 66 6).isSome, (nonzeroAt r 66 6).getD 66), (c.codebook.len != bookBytes c, 72)]

/-- First byte at which two records of one corpus differ, `max_items` apart unless `all`. -/
def differAt (all : Bool) (a b : List Byte) : Option Nat :=
  (List.range 128).find? fun i => (all || decide (i < 20) || decide (i ≥ 24)) && lget a i 0 != lget b i 0

/-- The words of a codebook. -/
def words16 (bs : List Byte) : List H16 := (records bs 0 2 (bs.length / 2)).map fun r => BitVec.ofNat 16 (fld r 0 2)

/-- Shards and declarations of the device (R237). -/
def shardCount (s : State) : Nat := sumBy (fun c => c.2.shards.length + (if c.2.declared then 1 else 0)) s.lauter.corpora

/-- Runs for a shard's nodes, a quarter on each die (R238). -/
def shardRuns (s : State) (tenant sl bytes : Nat) : Option (List (Nat × Run) × State) :=
  (List.range 4).foldl (fun acc d =>
    match acc with
    | none => none
    | some (l, s) =>
      match takeRuns s d tenant sl (weightOrders (ceilDiv bytes 4)) with
      | some (rs, s) => some (l ++ rs.map fun r => (d, r), s)
      | none => none) (some ([], s))

/-- A corpus and shard (0xFFFF: the declaration) created with a configuration; the status (R235 to R238). -/
def createShard (s : State) (tenant cid h maxItems : Nat) (cfg : CorpusCfg) : State × Ans :=
  let old := corpusOf s cid
  let c : Corpus := old.getD { id := cid, tenant := tenant, cfg := cfg, declared := false, pc := 0, shards := [], map := none }
  let put (s : State) (c : Corpus) : State := { s with lauter.corpora := tput s.lauter.corpora cid c }
  let body := ansB (leBytes 4 0xFFFFFF00)
  if shardCount s ≥ Config.shardMax then (s, ans stTableFull)
  else if h = 65535 then (put s { c with declared := true }, body)
  else match shardRuns s tenant cfg.slice (maxItems * nodeBytes cfg) with
    | none => (s, ans stNoMemory)
    | some (runs, s) =>
      let sh : Shard := { maxItems := maxItems, nodes := [], freeIds := [], nextId := 0, ph := 0, removedSeq := 0, entries := [],
                          degraded := false, log := [], lost := false, runs := runs, leaving := [] }
      (put s { c with shards := tput c.shards h sh }, body)

/-- What a configuration record answers at once; `none`: its codebook has to be fetched. -/
def configNow (s : State) (h : Hdr) (cid shard : Nat) (r : List Byte) : Option (State × Ans) :=
  match corpusOf s cid with
  | none => none
  | some c =>
    if c.tenant ≠ h.tenant then some (s, ans stDenied)
    else match differAt false c.cfg.raw r with
      | some i => some (s, ansD stBadParam (40 + i))
      | none =>
        let body := ansB (leBytes 4 0xFFFFFF00)
        if shard = 65535 then (if c.declared then some (s, body) else some (createShard s h.tenant cid shard 0 c.cfg))
        else match tget c.shards shard with
          | some sh => if sh.maxItems = fld r 20 4 then some (s, body) else some (s, ansD stBadParam 60)
          | none => some (createShard s h.tenant cid shard (fld r 20 4) c.cfg)

/-- The codebook has arrived and its digest agrees (R235, R236). -/
def finishConfig (s : State) (seq : Nat) (bs : List Byte) : State :=
  match jobOf s seq with
  | some j =>
    match j.kind with
    | .corpusCfg cid shard _ r =>
      let h : Hdr := { (default : Hdr) with tenant := j.tenant }
      match configNow s h cid shard r with
      | some (s, a) => finishFinal s seq a
      | none =>
        let (s, a) := createShard s j.tenant cid shard (fld r 20 4) { cfgOf r with book := words16 bs }
        finishFinal s seq a
    | _ => s
  | none => s

/-- Whether a shard (0xFFFF: the declaration) may not be dropped (R237). -/
def dropWrong (s : State) (c : Corpus) (h : Nat) : Bool :=
  if h = 65535 then !c.shards.isEmpty || s.lauter.queries.any (fun q => q.p.corpus == c.id)
  else !(runningOn s c.id h).isEmpty || s.lauter.textReqs.any fun t => t.corpus == c.id && t.shard == h

/-- A shard freed with its node storage and its items (R237). -/
def dropShard (s : State) (cid h : Nat) : State :=
  match shardOf s cid h with
  | none => s
  | some sh =>
    let s := sh.nodes.foldl (fun s p => freeExtent s p.2.oast) s
    let s := sh.runs.foldl (fun s r => freeRun s r.1 r.2) s
    modCorpus s cid fun c => { c with shards := tdel c.shards h }

/-- A corpus with neither shard nor declaration leaves the device. -/
def dropIfEmpty (s : State) (cid : Nat) : State :=
  match corpusOf s cid with
  | some c => if c.shards.isEmpty ∧ c.declared = false then { s with lauter.corpora := tdel s.lauter.corpora cid } else s
  | none => s

def dropRecord (s : State) (h : Hdr) (cid shard : Nat) : State × Ans :=
  match corpusOf s cid with
  | none => (s, ansD stBadParam 24)
  | some c =>
    if c.tenant ≠ h.tenant then (s, ans stDenied)
    else if (shard = 65535 ∧ c.declared = false) ∨ (shard ≠ 65535 ∧ (tget c.shards shard).isNone) then (s, ansD stBadParam 28)
    else if dropWrong s c shard then (s, ans stWrongState)
    else
      -- the node id a DROP answers with is not stated
      let body := ansB (leBytes 4 (Config.draw s.free))
      let s := tick s
      let s := if shard = 65535 then modCorpus s cid fun c => { c with declared := false } else dropShard s cid shard
      (dropIfEmpty s cid, body)

/-! ### Items (R239, R240) -/

/-- Item records of a tail: (offset, bytes). -/
def itemRecs (tail : List Byte) : Nat → Nat → List (Nat × List Byte)
  | 0, _ => []
  | n + 1, o => (o, cut tail o (fld tail o 4)) :: itemRecs tail n (o + fld tail o 4)

/-- Faults of an item record at tail offset `o`: packet offsets. -/
def itemFaults (dim : Nat) (tail : List Byte) (o : Nat) (r : List Byte) : List (Bool × Nat) :=
  let tl := fld tail (o + 6) 2
  [(fld tail o 4 != 64 + 2 * dim + roundUp tl 8 || decide (tail.length < o + fld tail o 4), o),
   (fld tail (o + 4) 1 != 0, o + 4), (fld tail (o + 5) 1 != 0, o + 5), (decide (tl > 16384), o + 6),
   ((nonzeroAt r 56 8).isSome, o + (nonzeroAt r 56 8).getD 56),
   ((nonzeroAt r (64 + 2 * dim + tl) (roundUp tl 8 - tl)).isSome, o + (nonzeroAt r (64 + 2 * dim + tl) (roundUp tl 8 - tl)).getD 0)].map
    fun p => (p.1, 40 + p.2)

/-- Ids for `n` new nodes: fresh ones ascending, then the least recently freed (log entry 44). -/
def newIds (sh : Shard) (n : Nat) : List Nat × Shard :=
  let f := min n (sh.maxItems - sh.nextId)
  ((List.range f).map (sh.nextId + ·) ++ sh.freeIds.take (n - f),
   { sh with nextId := sh.nextId + f, freeIds := sh.freeIds.drop (n - f) })

/-- One item stored, encoded and linked. -/
def insertItem (s : State) (cid h pub node : Nat) (r : List Byte) : State :=
  match corpusOf s cid with
  | none => s
  | some c =>
    let d := c.cfg.dim
    let vec := words16 (cut r 64 (2 * d))
    let v := if c.cfg.metric = 2 then normalise vec else vec
    let nd : LNode := { adj := [], code := encodeVec c.cfg v, ins := pub, del := none, attr := fld r 8 8, num0 := fld r 16 4,
                        num1 := fld r 20 4, ext := (List.range 8).map fun i => fld r (24 + 4 * i) 4, oast := 0,
                        text := cut r (64 + 2 * d) (fld r 6 2), vec := vec }
    let s := modShard s cid h fun x => { x with nodes := tput x.nodes node nd }
    let s := linkNode s cid h node
    { tick (charge s c.cfg.slice 12 0 (Config.count s.free)) with lauter.cnt.inserts := ctrAdd s.lauter.cnt.inserts 1 }

/-- Bytes of an item's object on flash. -/
def itemBytes (c : CorpusCfg) (n : LNode) : Nat := roundUp (2 * c.dim + n.text.length) 4096

/-- Whether encoding and linking may start: MAINT tile time and SCAN bytes (R127, R240). -/
def mayEncode (s : State) (sl : Nat) : Bool := hasBal s sl 12 0 && hasBal s sl 5 1

def encodeHold (s : State) (sl : Nat) : State :=
  let s := if hasBal s sl 12 0 then s else holdOn s sl 12 0
  if hasBal s sl 5 1 then s else holdOn s sl 5 1

/-- The items of an insert that are not stored yet, in record order, encoded and linked as budgets allow (R127, R240). -/
def insertEncode : Nat → State → Nat → State
  | 0, s, _ => s
  | n + 1, s, seq =>
    match jobOf s seq with
    | some j =>
      match j.kind with
      | .insert cid h pub todo ids =>
        let sl := ((corpusOf s cid).map (·.cfg.slice)).getD 0
        if todo = 0 ∨ (shardOf s cid h).isNone then s
        else if mayEncode s sl = false then encodeHold s sl
        else
          let i := ids.length - todo
          let r := ((itemRecs j.text ids.length 0)[i]?).getD (0, [])
          let s := insertItem s cid h pub (lget ids i 0) r.2
          insertEncode n (modJob s seq fun k => { k with kind := .insert cid h pub (todo - 1) ids }) seq
      | _ => s
    | none => s

/-- Writes the items of an insert that are neither on flash nor in flight, as budgets and the tenant's shaper allow
(R139, R240); with all of them linked and programmed the reply is sent. An insert whose shard is dropped meanwhile is answered
WRONG_STATE (DESIGN CHOICE, log 44: R237 makes only queries and peer requests refuse a DROP). -/
def insertWrite (s : State) (seq : Nat) : State :=
  match jobOf s seq with
  | some j =>
    match j.kind with
    | .insert cid h _ todo ids =>
      match corpusOf s cid, shardOf s cid h with
      | some c, some sh =>
        let left := (ids.take (ids.length - todo)).filter fun y => match tget sh.nodes y with
          | some n => n.oast == 0
          | none => false
        let who := some (writeKey seq)
        if left = [] ∧ todo = 0 then finishFinal s seq (ansB (ids.flatMap (leBytes 4)))
        else left.foldl (fun s y =>
          let n := itemBytes c.cfg (tdef sh.nodes y default)
          if s.oast.writes.any fun w => w.owner == .item cid h y then s
          else if mounted s && mayWrite s c.cfg.slice 12 j.tenant n who then
            match flashWrite s c.cfg.slice 12 j.tenant n true (.corpus seq) (.item cid h y) with
            | some (_, s) => s
            | none => s
          else noteWriteHold s c.cfg.slice 12 j.tenant n who) s
      | _, _ => finishFinal s seq (ans (if tenantLive s j.tenant then stWrongState else stNoTenant))
    | _ => s
  | none => s

/-- An insert goes on: what budgets hold neither encoded, linked nor written yet waits. -/
def insertGo (s : State) (seq : Nat) : State :=
  let n := match (jobOf s seq).map (·.kind) with
    | some (.insert _ _ _ todo _) => todo
    | _ => 0
  insertWrite (insertEncode n s seq) seq

/-- An item's program has succeeded. -/
def itemWritten (s : State) (seq cid h y addr : Nat) : State :=
  insertWrite (modShard s cid h fun x => { x with nodes := tmod x.nodes y fun n => { n with oast := addr } }) seq

/-- Why an insert of items answers at once. -/
def itemsAnswer (s : State) (h : Hdr) (cid shard count : Nat) (tail : List Byte) : Option Ans :=
  match corpusOf s cid with
  | none => some (ansD stBadParam 24)
  | some c =>
    if c.tenant ≠ h.tenant then some (ans stDenied)
    else match tget c.shards shard with
      | none => some (ansD stBadParam 28)
      | some sh =>
        let recs := itemRecs tail count 0
        match minBy id (((recs.flatMap fun r => itemFaults c.cfg.dim tail r.1 r.2).filter (·.1)).map (·.2)) with
        | some o => some (ansD stBadParam o)
        | none =>
          if flashEpoch s h.tenant = none then some (ans stDenied)
          else if !(layoutGroups s.mash.table.layout).any (fun g => tableGives s c.cfg.slice g.2.2.1 12) then some (ans stWrongState)
          else if count > (sh.maxItems - sh.nextId) + sh.freeIds.length then some (ans stTableFull)
          else if freeMapped s < sumBy (·.bytes) s.oast.writes + sumBy (fun r => roundUp (2 * c.cfg.dim + fld r.2 6 2) 4096) recs then
            some (ans stFlashFull)
          else if count = 0 then some (ansB [])
          else none

/-- Records of a tail end where their lengths say. -/
def recsEnd (tail : List Byte) (count : Nat) : Nat :=
  match (itemRecs tail count 0).getLast? with
  | some (o, _) => o + max 5 (fld tail o 4)
  | none => 0

def pubLow (s : State) (cid shard pub : Nat) : Bool :=
  match shardOf s cid shard with
  | some sh => decide (pub ≤ sh.ph)
  | none => false

/-- The answer of a CORPUS_INSERT that needs no wait. -/
def insertLate (s : State) (h : Hdr) (cid shard count : Nat) (tail : List Byte) : Option Ans :=
  match fld tail 4 1 with
  | 1 =>
    if count ≠ 1 then some (ansD stBadParam 30)
    else match minBy id (((cfgFaults s h.tenant shard tail).filter (·.1)).map (·.2)) with
      | some o => some (ansD stBadParam (40 + o))
      | none => if shardCount s ≥ Config.shardMax ∧ (corpusOf s cid).isNone then some (ans stTableFull) else none
  | 2 =>
    if count ≠ 1 then some (ansD stBadParam 30)
    else if fld tail 0 4 ≠ 8 then some (ansD stBadParam 40)
    else match nonzeroAt tail 5 3 with
      | some o => some (ansD stBadParam (40 + o))
      | none => none
  | _ => itemsAnswer (reapIds s) h cid shard count tail

/-- What a CORPUS_INSERT does once accepted. -/
def insertStart (s : State) (h : Hdr) (cid shard count pub : Nat) (tail : List Byte) : State :=
  match fld tail 4 1 with
  | 1 =>
    match configNow s h cid shard tail with
    | some (s, a) => finishFinal s h.seq a
    | none =>
      let o := objRefAt tail 64
      if reachable s o.gateway then sendMsg (setStage s h.seq 1) o.gateway 6 (fld tail 40 1) 12 h.tenant false (.fetch o)
      else finishFinal s h.seq (ans stRetry)
  | 2 => let (s, a) := dropRecord s h cid shard
         finishFinal s h.seq a
  | _ =>
    let s := reapIds s
    match shardOf s cid shard with
    | none => s
    | some sh =>
      let (ids, sh) := newIds sh count
      let s := modShard s cid shard fun _ => sh
      let s := modJob s h.seq fun j => { j with kind := .insert cid shard pub count ids, stage := 3, text := tail }
      degradeCheck (insertGo s h.seq) cid shard

def execCorpusInsert (h : Hdr) (corpus shard count pubSeq : Nat) (tail : List Byte) (s : State) : Out :=
  .next (lateSync s h { code := 0x0302, isAsync := false, tenantRule := 1, sessRule := 0 } (40 + recsEnd tail count)
    (fun s => [(pubLow s corpus shard pubSeq, 32)])
    (fun s => insertLate s h corpus shard count tail)
    (fun _ => if fld tail 4 1 = 1 then .corpusCfg corpus shard (objRefAt tail 64) tail else .insert corpus shard pubSeq 0 [])
    (fun s => insertStart s h corpus shard count pubSeq tail))

/-! ### Deletes, publication, shard maps (R243, R244, R254) -/

/-- A corpus the device does not know for the tenant, and a shard it does not hold. -/
def corpusBad (s : State) (h : Hdr) (cid : Nat) : Bool :=
  match corpusOf s cid with
  | some c => c.tenant != h.tenant
  | none => true

def shardBad (s : State) (cid shard : Nat) : Bool := !(corpusOf s cid).isNone && (shardOf s cid shard).isNone

/-- One id of a delete. -/
def deleteNode (s : State) (cid h pub y : Nat) : State :=
  match (shardOf s cid h).bind fun sh => tget sh.nodes y with
  | some _ => modShard s cid h fun x => { x with nodes := tmod x.nodes y fun n => { n with del := some (min pub (n.del.getD pub)) } }
  | none => { s with lauter.cnt.delMiss := ctrAdd s.lauter.cnt.delMiss 1 }

def execCorpusDelete (h : Hdr) (corpus shard count pubSeq : Nat) (nodes : List Nat) (s : State) : Out :=
  .next (syncCmd s h { code := 0x0303, isAsync := false, tenantRule := 1, sessRule := 0 } (40 + 4 * count)
    (fun s => [(corpusBad s h corpus, 24), (shardBad s corpus shard, 28), (pubLow s corpus shard pubSeq, 32)] ++
      (List.range nodes.length).map fun i => (decide (0xFFFFFF00 ≤ lget nodes i 0), 40 + 4 * i))
    (fun s => (degradeCheck (nodes.foldl (fun s y => deleteNode s corpus shard pubSeq y) s) corpus shard, ansB [])))

def execCorpusPublish (h : Hdr) (corpus shard pubSeq : Nat) (s : State) : Out :=
  .next (syncCmd s h { code := 0x0304, isAsync := false, tenantRule := 1, sessRule := 0 } 40
    (fun s => [(corpusBad s h corpus, 24), (shard != 65535 && shardBad s corpus shard, 28),
      (match corpusOf s corpus with
        | some c => if shard = 65535 then decide (pubSeq < c.pc) else decide (pubSeq < ((tget c.shards shard).map (·.ph)).getD 0)
        | none => false, 32)])
    (fun s =>
      let s := if shard = 65535 then s else modShard s corpus shard fun x => { x with ph := pubSeq }
      (modCorpus s corpus fun c => { c with pc := max c.pc pubSeq }, ansB [])))

def execShardMapSet (h : Hdr) (corpus count : Nat) (entries : List ShardEntry) (s : State) : Out :=
  .next (syncCmd s h { code := 0x0305, isAsync := false, tenantRule := 1, sessRule := 0 } (32 + 8 * count)
    (fun s => [(corpusBad s h corpus, 24), (decide (count > 4096), 28)] ++
      (List.range entries.length).flatMap fun i =>
        match entries[i]? with
        | some e => [(decide (e.shard ≥ 65535), 32 + 8 * i), (!peerOk e.owner, 34 + 8 * i), (decide (e.replica = 65535), 36 + 8 * i)]
        | none => [])
    (fun s => (modCorpus s corpus fun c => { c with map := some entries }, ansB [])))

/-! ### Queries: acceptance (R248, R249) -/

def postFaults (prog : List Byte) : List (Bool × Nat) :=
  (List.range (prog.length / 16)).flatMap fun i =>
    let t := cut prog (16 * i) 16
    [(decide (fld t 0 1 > 10) || decide (fld t 1 1 > 8), 96 + 16 * i), (decide (fld t 2 1 > 15), 98 + 16 * i),
     ((nonzeroAt t 3 5).isSome, 96 + 16 * i + (nonzeroAt t 3 5).getD 3),
     (decide (1 ≤ fld t 0 1) && decide (fld t 12 4 ≠ 0), 104 + 16 * i)]

def queryParams (s : State) (h : Hdr) (p : QueryParams) : List (Bool × Nat) :=
  let c := (corpusOf s p.corpus).getD default
  let x := (sessAt s (idxOf h.session)).getD Sess.zero
  let pack := bit p.qFlags 3
  [(corpusBad s h p.corpus, 24),
   ((vocabOf s p.vocab).isNone || (pack && h.session != 0 && x.vocab != p.vocab), 28),
   (pack != (h.session != 0) || decide (p.qFlags > 15), 29),
   (decide (p.k = 0) || decide (p.k > 1024), 30),
   (decide (p.beam < 16) || decide (p.beam > 1024) || decide (p.beam < max p.k p.rerankN), 32),
   (p.rerankN != 0 && (decide (p.rerankN < p.k) || decide (p.rerankN > 1024) || c.cfg.cross == 0), 34),
   (if h.session ≠ 0 then decide (p.tokenBudget = 0) || decide (p.tokenBudget + x.reserved > pMax s x) else p.tokenBudget != 0, 36),
   (p.deadlineUs != 0 && (decide (p.deadlineUs < 1000) || decide (p.deadlineUs > 1000000)), 40),
   (decide (p.snapshot > c.pc), 48), (decide (p.num0Lo > p.num0Hi), 72), (decide (p.num1Lo > p.num1Hi), 80),
   (decide (p.postLen > 1024) || p.postLen % 16 != 0, 88), (decide (p.queryLen = 0) || decide (p.queryLen > 16384), 90)] ++
  postFaults p.post

def resident (s : State) (m : Nat) : Bool :=
  match modelOf s m with
  | some x => x.st == 2
  | none => false

/-- The shards a query covers: its map, or the shards held here (R254). -/
def coverage (s : State) (c : Corpus) : List ShardEntry :=
  match c.map with
  | some l => l
  | none => c.shards.map fun h => { shard := h.1, owner := s.fab.self, replica := 0 }

def queryWrong (s : State) (p : QueryParams) : Bool :=
  match corpusOf s p.corpus with
  | none => false
  | some c =>
    !resident s c.cfg.encoder || (p.rerankN != 0 && !resident s c.cfg.cross) ||
    !(layoutGroups s.mash.table.layout).any (fun g => tableGives s c.cfg.slice g.2.2.1 4) ||
    (match c.map with
      | some l => l.any fun e => (e.owner == s.fab.self || (e.replica == s.fab.self && e.replica != 0)) && (tget c.shards e.shard).isNone
      | none => false)

def newQuery (s : State) (h : Hdr) (p : QueryParams) : Query :=
  let c := (corpusOf s p.corpus).getD default
  { seq := h.seq, tenant := h.tenant, p := p, snapshot := if p.snapshot = 0 then c.pc else p.snapshot, stage := 0, toks := [],
    vec := [], map := coverage s c, asked := [], cands := [], beam := p.beam, widened := 0, fanoutAt := 0, fetchAt := 0,
    survivors := [], missing := [], partialRes := false, shortRes := false, packToks := [], result := none, noPack := false, textsAsked := false }

def execLauterQuery (h : Hdr) (q : QueryParams) (s : State) : Out :=
  .next (asyncCmd s h { code := 0x0301, isAsync := true, tenantRule := 1, sessRule := 2 } (roundUp (96 + q.postLen) 8 + q.queryLen)
    (fun s => queryParams s h q) (fun s => [(queryWrong s q, (stWrongState, 0))]) (fun _ => .query)
    (fun s =>
      let s := { s with lauter.queries := s.lauter.queries ++ [newQuery s h q] }
      let s := if h.session = 0 then s
               else takePlace (modSess s (idxOf h.session) fun y => { y with reserved := y.reserved + q.tokenBudget })
                 (idxOf h.session) h.seq true
      enqueueInput s h.seq))

/-! ### Queries: stages (R250, R254 to R263) -/

def cfgOfQuery (s : State) (q : Query) : CorpusCfg := ((corpusOf s q.p.corpus).map (·.cfg)).getD default

/-- The stage boundary of a tenant being removed (R56, R264). -/
def queryDead (s : State) (q : Query) : Bool := !tenantLive s q.tenant || (corpusOf s q.p.corpus).isNone

/-- The session index of a query's pack target, 0 for none, and whether it packs. -/
def packIdx (s : State) (q : Query) : Nat := ((jobOf s q.seq).map fun j => idxOf j.session).getD 0

def packing (s : State) (q : Query) : Bool := bit q.p.qFlags 3 && !q.noPack && packIdx s q != 0

/-- The tile work of a query becomes eligible: class of its pack target, or share class 0 (log entry 45). -/
def queryItem (s : State) (q : Query) (phase model lastPos : Nat) (k : ItemKind) : State :=
  let idx := packIdx s q
  let cls := ((sessAt s idx).map (·.share)).getD 0
  let no := ((jobOf s q.seq).map (·.no)).getD 0
  addItem s 0 q.seq q.tenant (cfgOfQuery s q).slice cls phase model lastPos no k 4

/-- The query text's tokens are known: EMBED (R250). -/
def queryTokens (s : State) (q : Query) : State :=
  match vocabOf s q.p.vocab with
  | none => s
  | some v =>
    let c := cfgOfQuery s q
    let (t, repl) := tokeniseAll v q.p.text
    let s := countTok s q.p.text.length t.length repl
    let t := t.take (((modelOf s c.encoder).map (·.hdr.maxContext)).getD 0)
    let s := modQuery s q.seq fun k => { k with toks := t, stage := 1 }
    queryItem s { q with toks := t } 3 c.encoder t.length (.embed q.seq)

def deadlineOf (s : State) (q : Query) : Nat := if q.p.deadlineUs = 0 then max 1000 s.lauter.deadlineDef else q.p.deadlineUs

/-- The search request of a shard. -/
def requestOf (s : State) (q : Query) (shard : Nat) : SearchReq :=
  { src := s.fab.self, qid := q.seq, tenant := q.tenant, corpus := q.p.corpus, shard := shard, vector := q.vec, beam := q.beam,
    snapshot := q.snapshot, attrAnd := q.p.attrAnd, attrOr := q.p.attrOr, num0Lo := q.p.num0Lo, num0Hi := q.p.num0Hi,
    num1Lo := q.p.num1Lo, num1Hi := q.p.num1Hi, rescore := bit q.p.qFlags 1,
    remainingUs := deadlineOf s q - min (deadlineOf s q) (usSince s q.fanoutAt) }

/-- The status of a request on this device: 0 searchable, 1 not held, 3 snapshot too old, 4 denied (R247, R256). -/
def shardStatus (s : State) (r : SearchReq) : Nat :=
  match corpusOf s r.corpus with
  | none => 1
  | some c =>
    if c.tenant ≠ r.tenant then 4
    else match tget c.shards r.shard with
      | none => 1
      | some sh => if sh.lost then 1 else if r.snapshot < sh.removedSeq then 3 else 0

def modAsked (s : State) (seq shard : Nat) (f : Asked → Asked) : State :=
  modQuery s seq fun q => { q with asked := q.asked.map fun a => if a.shard = shard then f a else a }

/-- A shard's complete result list has come: the first one is used. -/
def takeCands (s : State) (seq shard : Nat) (l : List Cand) : State :=
  match queryOf s seq with
  | some q =>
    if q.asked.any fun a => a.shard == shard && !a.done then
      modQuery (modAsked s seq shard fun a => { a with done := true }) seq fun k => { k with cands := k.cands ++ l }
    else s
  | none => s

/-- The share class of the session a query packs for (R142). -/
def classOfQuery (s : State) (seq : Nat) : Option Nat :=
  (jobOf s seq).bind fun j => (sessByHandle s j.session).map (·.share)

/-- A shard searched on this device, where budgets allow; otherwise it waits. -/
def searchHere (s : State) (q : Query) (shard : Nat) : State :=
  let r := requestOf s q shard
  if scanFree s (cfgOfQuery s q).slice r.rescore then
    let (s, l) := runSearch s r s.fab.self (classOfQuery s q.seq)
    takeCands s q.seq shard l
  else scanHold s (cfgOfQuery s q).slice r.rescore

/-- The replica is asked, once (R255). -/
def askReplica (s : State) (seq shard : Nat) : State :=
  match queryOf s seq with
  | none => s
  | some q =>
    match q.asked.find? fun a => a.shard == shard && !a.done && !a.replicaAsked && a.replica != 0 with
    | none => s
    | some a =>
      let s := { modAsked s seq shard fun a => { a with replicaAsked := true } with
                 lauter.cnt.replica := ctrAdd s.lauter.cnt.replica 1 }
      if a.replica = s.fab.self then
        (if shardStatus s (requestOf s q shard) = 0 then searchHere s q shard else s)
      else sendMsg s a.replica 3 (cfgOfQuery s q).slice 4 q.tenant true (.search (requestOf s q shard))

/-- The owner of a shard is asked (R254, R255). -/
def askOwner (s : State) (seq : Nat) (e : ShardEntry) : State :=
  match queryOf s seq with
  | none => s
  | some q =>
    if e.owner = s.fab.self then
      let st := shardStatus s (requestOf s q e.shard)
      let s := if st = 3 then { s with lauter.cnt.snapOld := ctrAdd s.lauter.cnt.snapOld 1 } else s
      if st = 0 then searchHere s q e.shard else askReplica s seq e.shard
    else if reachable s e.owner then
      sendMsg s e.owner 3 (cfgOfQuery s q).slice 4 q.tenant true (.search (requestOf s q e.shard))
    else askReplica s seq e.shard

/-- SEARCH and MERGE begin: every shard of the query is asked (R254). -/
def fanOut (s : State) (seq : Nat) : State :=
  match queryOf s seq with
  | none => s
  | some q =>
    let s := modQuery s seq fun k => { k with
      stage := 2, fanoutAt := s.dev.localCtr, cands := [],
      asked := q.map.map fun e => { shard := e.shard, owner := e.owner, replica := e.replica, replicaAsked := false, done := false } }
    q.map.foldl (fun s e => askOwner s seq e) s

/-- MERGE's order: descending score, then shard, then node. -/
def candBefore (a b : Cand) : Bool :=
  f32Lt b.score a.score || (!f32Lt a.score b.score && (decide (a.shard < b.shard) || (a.shard == b.shard && decide (a.node < b.node))))

/-- A node that owner and replica both returned appears once. -/
def dedupCands (l : List Cand) : List Cand :=
  l.foldl (fun acc c => if acc.any fun k => k.shard == c.shard && k.node == c.node then acc else acc ++ [c]) []

/-- Text records of a reply body (R263). -/
def textRecs (l : List (Cand × Option (List Byte) × F32)) : List Byte :=
  l.flatMap fun c =>
    let t := c.2.1.getD []
    lay [(4, c.1.node), (2, c.1.shard), (2, t.length)] ++ padTo 8 t

/-- The reply body of R46 and R263 for the final list, with `packed` tokens. -/
def queryReply (q : Query) (l : List (Cand × Option (List Byte) × F32)) (packed : Nat) : List Byte :=
  let head := lay [(8, q.snapshot), (2, l.length), (2, q.missing.length), (4, packed)] ++
    l.flatMap fun c => lay [(4, c.1.node), (2, c.1.shard), (2, 0), (4, c.1.score.toNat), (4, c.2.2.toNat)]
  let head := head ++ q.missing.flatMap (leBytes 2)
  if bit q.p.qFlags 2 then padTo 8 head ++ textRecs l else head

def queryStatus (q : Query) : Nat := if q.partialRes then stPartial else if q.shortRes then stShort else stOk

/-- Whole passages while they fit the budget, the first that does not cut to fit (R262). -/
def packTokens (budget : Nat) : List (List Nat) → List Nat
  | [] => []
  | t :: l => if t.length ≤ budget then t ++ packTokens (budget - t.length) l else t.take budget

/-- PACK's passages are tokenised: the result is known and delivered in the query's place (R262). -/
def packDone (s : State) (q : Query) : State :=
  let c := cfgOfQuery s q
  if queryDead s q then endQuery s q.seq (ans stNoTenant)
  else if packing s q = false then
    endQuery s q.seq { status := stNoSession, detail := 0, body := queryReply q q.survivors 0, handle := none }
  else
    let texts := (q.survivors.filterMap fun x => x.2.1).map fun t => t ++ c.sep.take c.sepLen
    let v := ((sessAt s (packIdx s q)).bind fun x => vocabOf s x.vocab).getD default
    let toks := texts.map fun t => (tokeniseAll v t).1
    let packed := packTokens q.p.tokenBudget toks
    let s := texts.foldl (fun s t => let r := tokeniseAll v t
                                     countTok s t.length r.1.length r.2) s
    let s := modQuery s q.seq fun k => { k with
      packToks := packed, result := some (queryStatus q, queryReply q q.survivors packed.length) }
    match jobOf s q.seq with
    | some j => if j.stage = 3 then deliverPack s q.seq else s
    | none => s

/-- The passage texts of a query's list that have come. -/
def passages (q : Query) : List (List Byte) := q.survivors.filterMap fun c => c.2.1

/-- A query's results are final: it packs, each passage an input of the tokenisers, or ends (R215, R262, R263). -/
def finalise (s : State) (seq : Nat) : State :=
  match queryOf (modQuery s seq fun k => { k with survivors := k.survivors.take k.p.k, stage := 5 }) seq with
  | none => s
  | some q =>
    let s := modQuery s seq fun _ => q
    if packing s q then (if passages q = [] then packDone s q else enqueueInputs s seq (passages q).length)
    else endQuery s seq { status := if bit q.p.qFlags 3 then stNoSession else queryStatus q, detail := 0,
                          body := queryReply q q.survivors 0, handle := none }

/-- The longest pair a cross-encoder's loaded buckets hold (R261). -/
def pairMax (s : State) (m : Nat) : Nat := 2 ^ ((segsOf s m 4).foldl (fun b g => max b g.bucket) 0)

def pairTokens (s : State) (q : Query) (text : List Byte) : List Nat :=
  match vocabOf s q.p.vocab with
  | some v => (tokeniseAll v text).1.take (pairMax s (cfgOfQuery s q).cross - q.toks.length)
  | none => []

/-- RERANK has run: the list in descending `rerank_score` (R261). -/
def rerankDone (s : State) (seq : Nat) : State :=
  match queryOf s seq with
  | none => s
  | some q =>
    if queryDead s q then endQuery s seq (ans stNoTenant)
    else
      let m := (cfgOfQuery s q).cross
      let l := q.survivors.filterMap fun c => c.2.1.map fun t => (c.1, some t, Config.crossScore m q.toks (pairTokens s q t))
      let l := sortBy (fun a b => f32Lt b.2.2 a.2.2 || (!f32Lt a.2.2 b.2.2 && candBefore a.1 b.1)) l
      finalise (modQuery s seq fun k => { k with survivors := l }) seq

/-- Whether a query needs passage texts (R260). -/
def needTexts (s : State) (q : Query) : Bool := q.p.rerankN != 0 || bit q.p.qFlags 2 || packing s q

/-- Texts are complete or their time is over: RERANK's passages go to the tokenisers, each an input of its own, or the list is
final (R215, R260, R261). -/
def afterTexts (s : State) (seq : Nat) : State :=
  match queryOf s seq with
  | none => s
  | some q =>
    if queryDead s q then endQuery s seq (ans stNoTenant)
    else if q.p.rerankN = 0 then finalise s seq
    else
      let s := modQuery s seq fun k => { k with stage := 4 }
      if passages q = [] then rerankDone s seq else enqueueInputs s seq (passages q).length

/-- Suppliers of the texts still wanted. -/
def suppliers (q : Query) : List (Nat × Nat) :=
  (q.survivors.filter fun c => c.2.1.isNone).foldl (fun l c =>
    let k := (c.1.fromPeer, c.1.shard)
    if l.contains k then l else l ++ [k]) []

/-- Flash bytes of the listed nodes of a shard. -/
def nodeTextBytes (s : State) (cid shard : Nat) (nodes : List Nat) : Nat :=
  match corpusOf s cid, shardOf s cid shard with
  | some c, some sh => sumBy (fun y => itemBytes c.cfg (tdef sh.nodes y default)) nodes
  | _, _ => 0

/-- The texts that lie here are read in one flash wave, or wait while RETRIEVE has no flash balance (R127, R130, R260). -/
def textReads (s : State) (seq : Nat) : State :=
  match queryOf s seq with
  | none => s
  | some q =>
    let mine := (q.survivors.filter fun c => c.2.1.isNone && c.1.fromPeer == s.fab.self).map (·.1)
    let sl := (cfgOfQuery s q).slice
    if q.stage ≠ 3 ∨ q.textsAsked ∨ mine = [] then s
    else if hasBal s sl 4 2 = false then holdOn s sl 4 2
    else
      let n := sumBy (fun c => nodeTextBytes s q.p.corpus c.shard [c.node]) mine
      let s := match classOfQuery s seq with
        | some k => noteClass s k 2 n
        | none => s
      flashRead (modQuery s seq fun k => { k with textsAsked := true }) sl 4 n 0 (.texts seq)

/-- The texts of the survivors are asked for (R260): one flash wave here, one request per owner and shard. -/
def fetchTexts (s : State) (seq : Nat) : State :=
  let s := modQuery s seq fun k => { k with stage := 3, fetchAt := s.dev.localCtr, textsAsked := false }
  match queryOf s seq with
  | none => s
  | some q =>
    if q.survivors = [] then afterTexts s seq
    else
      let s := textReads s seq
      (suppliers q).foldl (fun s k =>
        let nodes := (q.survivors.filter fun x => x.1.fromPeer == k.1 && x.1.shard == k.2).map (·.1.node)
        if k.1 = s.fab.self then s
        else sendMsg s k.1 3 (cfgOfQuery s q).slice 4 q.tenant true (.textAsk seq q.p.corpus k.2 nodes)) s

/-- MERGE (R256 to R258): the merged list filtered until R candidates survive; with too few, a wider round. -/
def mergeQuery (s : State) (seq : Nat) : State :=
  match queryOf s seq with
  | none => s
  | some q =>
    if queryDead s q then endQuery s seq (ans stNoTenant)
    else
      let r := max q.p.k q.p.rerankN
      let l := ((dedupCands (sortBy candBefore q.cands)).filter (postPass q.p.post)).take r
      if l.length < r ∧ bit q.p.qFlags 0 ∧ q.widened < 2 ∧ q.beam < 1024 then
        let s := modQuery s seq fun k => { k with beam := min 1024 (2 * k.beam), widened := k.widened + 1 }
        fanOut { s with lauter.cnt.widen := ctrAdd s.lauter.cnt.widen 1 } seq
      else
        let miss := sortBy (fun a b => decide (a < b)) ((q.asked.filter fun a => !a.done).map (·.shard))
        let s := modQuery s seq fun k => { k with
          survivors := l.map fun c => (c, none, c.score), missing := miss, partialRes := !miss.isEmpty,
          shortRes := decide (l.length < q.p.k) }
        match queryOf s seq with
        | some q => if needTexts s q then fetchTexts s seq else finalise s seq
        | none => s

/-- A query whose shards have all answered is merged; a wider round may complete at once as well. -/
def progressQuery : Nat → State → Nat → State
  | 0, s, _ => s
  | n + 1, s, seq =>
    match queryOf s seq with
    | some q => if q.stage = 2 ∧ q.asked.all (·.done) then progressQuery n (mergeQuery s seq) seq else s
    | none => s

/-- EMBED has run: the vector, normalised for cosine (R250), then fan-out. -/
def embedDone (s : State) (seq : Nat) : State :=
  match queryOf s seq with
  | none => s
  | some q =>
    if queryDead s q then endQuery s seq (ans stNoTenant)
    else
      let c := cfgOfQuery s q
      let v := (List.range c.dim).map fun i => lget (Config.encode c.encoder q.toks) i 0
      let v := if c.metric = 2 then normalise v else v
      progressQuery 4 (fanOut (modQuery s seq fun k => { k with vec := v }) seq) seq

/-- The passages are tokenised: RERANK's pairs become eligible (R261). -/
def rerankStart (s : State) (q : Query) : State :=
  let texts := passages q
  let lens := texts.map fun t => q.toks.length + (pairTokens s q t).length
  let s := match vocabOf s q.p.vocab with
    | some v => texts.foldl (fun s t => let r := tokeniseAll v t
                                        countTok s t.length r.1.length r.2) s
    | none => s
  queryItem s q 4 (cfgOfQuery s q).cross (lens.foldl max 0) (.rerank q.seq)

/-! ### TOKENISE_DONE (R215) -/

/-- A tokeniser engine finishes an input of a command: an append's text, a query's text, a passage of RERANK or of PACK. A
query goes on when none of its inputs is with an engine or waits for one (R215). -/
def execTokeniseDone (seq : Nat) (s : State) : Out :=
  .next (match queryOf s seq with
    | some q =>
      if s.copper.engines.contains seq then
        let s := leaveEngine s seq
        if queryDead s q then endQuery s seq (ans stNoTenant)
        else if tokenising s seq then s
        else if q.stage = 0 then queryTokens s q
        else if q.stage = 4 then rerankStart s q
        else if q.stage = 5 then packDone s q
        else s
      else s
    | none => tokeniseAppend s seq)

/-! ### Peer requests and replies (R255, R256, R260) -/

/-- A request that can run is answered with its candidates. -/
def serveRequest (s : State) (rid : Nat) : State :=
  match s.lauter.reqs.find? fun r => r.rid == rid with
  | none => s
  | some p =>
    let sl := ((corpusOf s p.corpus).map (·.cfg.slice)).getD 0
    let st := shardStatus s p.req
    let drop (s : State) : State := { s with lauter.reqs := s.lauter.reqs.filter fun r => r.rid != rid }
    if st ≠ 0 then sendMsg (drop s) p.src 3 sl 4 p.tenant true (.candReply p.qid p.shard st [])
    else if scanFree s sl p.req.rescore then
      let (s, l) := runSearch s p.req 0 none
      sendMsg (drop s) p.src 3 sl 4 p.tenant true (.candReply p.qid p.shard 0 l)
    else scanHold s sl p.req.rescore

/-- The slice of a corpus, and of the corpus of a query. -/
def corpusSlice (s : State) (cid : Nat) : Nat := ((corpusOf s cid).map (·.cfg.slice)).getD 0

def querySlice (s : State) (qid : Nat) : Nat := ((queryOf s qid).map fun q => (cfgOfQuery s q).slice).getD 0

/-- A search refused or answered without candidates. -/
def answerSearch (s : State) (r : SearchReq) (st : Nat) : State :=
  sendMsg s r.src 3 (corpusSlice s r.corpus) 4 r.tenant true (.candReply r.qid r.shard st [])

/-- A search request that has arrived (R255, R256). -/
def takeSearch (s : State) (r : SearchReq) : State :=
  let st := shardStatus s r
  if r.remainingUs = 0 then { s with lauter.cnt.abandoned := ctrAdd s.lauter.cnt.abandoned 1 }
  else if st ≠ 0 then
    answerSearch (if st = 3 then { s with lauter.cnt.snapOld := ctrAdd s.lauter.cnt.snapOld 1 } else s) r st
  else if s.lauter.reqs.length ≥ Config.peerReqMax then answerSearch s r 2
  else
    let p : PeerReq := { rid := s.lauter.nextReq, src := r.src, qid := r.qid, tenant := r.tenant, corpus := r.corpus, shard := r.shard,
                         snapshot := r.snapshot, expiresAt := s.dev.localCtr + r.remainingUs * Config.usCycles, req := r }
    serveRequest { s with lauter.reqs := s.lauter.reqs ++ [p], lauter.nextReq := s.lauter.nextReq + 1 } p.rid

def execSearchRequest (r : SearchReq) (s : State) : Out :=
  .next (if running s = false then s else takeSearch (chargeRx s (corpusSlice s r.corpus) 4 (msgBytes (.search r))) r)

/-- A reply that comes after its query has gone on is dropped, and counted unless the query's deadline is still to come
(R255). -/
def lateReply (s : State) (qid : Nat) : State :=
  match queryOf s qid with
  | some q =>
    if s.dev.localCtr < q.fanoutAt + deadlineOf s q * Config.usCycles then s
    else { s with lauter.cnt.lateReply := ctrAdd s.lauter.cnt.lateReply 1 }
  | none => { s with lauter.cnt.lateReply := ctrAdd s.lauter.cnt.lateReply 1 }

/-- Texts that come after the fetch they answer (R260). -/
def lateText (s : State) : State := { s with lauter.cnt.lateReply := ctrAdd s.lauter.cnt.lateReply 1 }

/-- The candidates of a shard reach their query, or its shard is asked for at the replica (R255, R256). -/
def takeReply (s : State) (src qid shard status : Nat) (cands : List Cand) : State :=
  match queryOf s qid with
  | none => lateReply s qid
  | some q =>
    if q.stage ≠ 2 then lateReply s qid
    else match q.asked.find? fun a => a.shard == shard && !a.done && (a.owner == src || (a.replica == src && a.replicaAsked)) with
      | none => s
      | some a =>
        if status = 0 then
          progressQuery 4 (takeCands s qid shard (cands.map fun c => { c with shard := shard, fromPeer := src })) qid
        else if a.owner = src ∧ status ≠ 4 then progressQuery 4 (askReplica s qid shard) qid
        else s

def execCandidateReply (src qid shard status : Nat) (cands : List Cand) (s : State) : Out :=
  .next (if running s = false then s
    else takeReply (chargeRx s (querySlice s qid) 4 (msgBytes (.candReply qid shard status cands))) src qid shard status cands)

def execReplicaDeadline (qid shard : Nat) (s : State) : Out :=
  .next (match queryOf s qid with
    | some q =>
      if q.stage = 2 ∧ q.asked.any (fun a => a.shard == shard && !a.done) then
        let s := advanceTo s (q.fanoutAt + deadlineOf s q * Config.usCycles / 2)
        progressQuery 4 (askReplica s qid shard) qid
      else s
    | none => s)

def execMergeDeadline (qid : Nat) (s : State) : Out :=
  .next (match queryOf s qid with
    | some q =>
      if q.stage = 2 then
        progressQuery 4 (mergeQuery (advanceTo s (q.fanoutAt + deadlineOf s q * Config.usCycles)) qid) qid
      else s
    | none => s)

/-- Texts taken into a query; with none outstanding it goes on. -/
def takeTexts (s : State) (seq frm : Nat) (texts : List (Nat × Nat × List Byte)) : State :=
  let fill (c : Cand × Option (List Byte) × F32) : Cand × Option (List Byte) × F32 :=
    if c.1.fromPeer = frm ∧ c.2.1.isNone then
      (match texts.find? fun t => t.1 == c.1.shard && t.2.1 == c.1.node with
      | some t => (c.1, some t.2.2, c.2.2)
      | none => c)
    else c
  let s := modQuery s seq fun q => { q with survivors := q.survivors.map fill }
  match queryOf s seq with
  | some q => if q.survivors.all fun c => c.2.1.isSome then afterTexts s seq else s
  | none => s

/-- Whether an item's object on flash is marked lost (R306, R307): its text cannot be read. -/
def itemLost (s : State) (n : LNode) : Bool := ((tget s.oast.exts n.oast).map (·.lost)).getD false

/-- The flash wave of a query's texts has been read. -/
def textsRead (s : State) (seq : Nat) (ok : Bool) : State :=
  match queryOf s seq with
  | none => s
  | some q =>
    if q.stage ≠ 3 ∨ ok = false then s
    else
      let mine := (q.survivors.filter fun c => c.1.fromPeer == s.fab.self).filterMap fun c =>
        ((shardOf s q.p.corpus c.1.shard).bind fun sh => (tget sh.nodes c.1.node).filter fun n => !itemLost s n).map fun n => (c.1.shard, c.1.node, n.text)
      takeTexts s seq s.fab.self mine

/-- Texts from a peer reach their query. -/
def takeTextReply (s : State) (src qid : Nat) (texts : List (Nat × Nat × List Byte)) : State :=
  match queryOf s qid with
  | some q => if q.stage = 3 then takeTexts s qid src texts else lateText s
  | none => lateText s

def execTextFetchReply (src qid : Nat) (texts : List (Nat × Nat × List Byte)) (s : State) : Out :=
  .next (if running s = false then s
    else takeTextReply (chargeRx s (querySlice s qid) 4 (msgBytes (.textReply qid texts))) src qid texts)

def execTextFetchDeadline (qid : Nat) (s : State) : Out :=
  .next (match queryOf s qid with
    | some q => if q.stage = 3 then afterTexts (advanceTo s (q.fetchAt + deadlineOf s q * Config.usCycles / 2)) qid else s
    | none => s)

/-- The nodes of a peer's request that this device holds for its tenant. -/
def askedNodes (s : State) (t : TextAsk) : List (Nat × LNode) :=
  match corpusOf s t.corpus with
  | none => []
  | some c => if c.tenant ≠ t.tenant then [] else
      t.nodes.filterMap fun y => ((tget c.shards t.shard).bind fun sh => tget sh.nodes y).map fun n => (y, n)

/-- A peer's request for texts is answered with those it names that are held and could be read (R260). -/
def textServed (s : State) (rid : Nat) (ok : Bool) : State :=
  match s.lauter.textReqs.find? fun t => t.rid == rid with
  | none => s
  | some t =>
    let found := if ok then (askedNodes s t).filter fun p => !itemLost s p.2 else []
    sendMsg { s with lauter.textReqs := s.lauter.textReqs.filter fun k => k.rid != rid } t.src 3 (corpusSlice s t.corpus) 4 t.tenant true
      (.textReply t.qid (found.map fun p => (t.shard, p.1, p.2.text)))

/-- Its flash wave issues, or waits while RETRIEVE has no flash balance (R127, R130). -/
def serveRead (s : State) (rid : Nat) : State :=
  match s.lauter.textReqs.find? fun t => t.rid == rid && !t.asked with
  | none => s
  | some t =>
    let sl := corpusSlice s t.corpus
    if hasBal s sl 4 2 = false then holdOn s sl 4 2
    else flashRead { s with lauter.textReqs := s.lauter.textReqs.map fun k => if k.rid = rid then { k with asked := true } else k }
      sl 4 (nodeTextBytes s t.corpus t.shard ((askedNodes s t).map (·.1))) 0 (.serve rid)

/-- The texts of nodes of a shard held here, read in one flash wave and sent back; nothing where the corpus is another
tenant's or the shard is not held. -/
def serveTexts (s : State) (src qid tenant corpus shard : Nat) (nodes : List Nat) : State :=
  match corpusOf s corpus, shardOf s corpus shard with
  | some c, some _ =>
    if c.tenant ≠ tenant then s
    else
      let t : TextAsk := { rid := s.lauter.nextReq, src := src, qid := qid, tenant := tenant, corpus := corpus, shard := shard,
                           nodes := nodes, asked := false }
      serveRead { s with lauter.textReqs := s.lauter.textReqs ++ [t], lauter.nextReq := s.lauter.nextReq + 1 } t.rid
  | _, _ => s

/-- Passage texts of nodes held here (R260). -/
def execTextFetchRequest (src qid tenant corpus shard : Nat) (nodes : List Nat) (s : State) : Out :=
  .next (if running s = false then s
    else serveTexts (chargeRx s (corpusSlice s corpus) 4 (msgBytes (.textAsk qid corpus shard nodes))) src qid tenant corpus shard nodes)

def execPeerRequestExpire (rid : Nat) (s : State) : Out :=
  .next (match s.lauter.reqs.find? fun r => r.rid == rid with
    | some r => { advanceTo s r.expiresAt with
        lauter.reqs := s.lauter.reqs.filter fun k => k.rid != rid
        lauter.cnt.abandoned := ctrAdd s.lauter.cnt.abandoned 1 }
    | none => s)

/-! ### Repair (R246) and probes (R265) -/

def execRepairSweep (corpus shard : Nat) (s : State) : Out :=
  .next (match corpusOf s corpus, shardOf s corpus shard with
    | some c, some _ =>
      if s.lauter.repairEn = false ∨ running s = false then s
      else if hasBal s c.cfg.slice 12 0 = false then holdOn s c.cfg.slice 12 0
      else if hasBal s c.cfg.slice 5 1 = false then holdOn s c.cfg.slice 5 1
      else tick (charge (repairShard s corpus shard) c.cfg.slice 12 0 (Config.count s.free))
    | _, _ => s)

/-- The first `k` nodes of a list; what fills a shorter one is not stated. -/
def topK (s : State) (k : Nat) (l : List Nat) : State × List Byte :=
  let l := l.take k
  ({ s with free := s.free + k },
   (l ++ (List.range (k - l.length)).map fun i => Config.draw (s.free + i) % two32).flatMap (leBytes 4))

/-- One logged vector: an exact search over every visible node, then the beam search. -/
def probeOne (s : State) (cid h k beam : Nat) (v : List H16) : State × List Byte :=
  match corpusOf s cid, shardOf s cid h with
  | some c, some sh =>
    let t := buildTable c.cfg (v.map bf)
    let vis (y : LNode) : Bool := visibleAt sh.ph sh.ph y
    let all := sortBy hitBefore ((sh.nodes.filter fun p => vis p.2).map fun p => (codeSum t p.2.code, p.1))
    let w := search sh t vis beam
    let s := chargeScan s c.cfg.slice (sh.nodes.length * (32 + codeBytes c.cfg) + walkBytes c.cfg w) none
    let s := { s with lauter.cnt.waves := ctrAdd s.lauter.cnt.waves w.waves }
    let (s, a) := topK s k (all.map (·.2))
    let (s, b) := topK s k (w.res.map (·.2))
    (s, a ++ b)
  | _, _ => (s, [])

/-- The reply's records of every probed vector. -/
def probeAll (s : State) (cid h k beam : Nat) (vs : List (List H16)) : State × List Byte :=
  vs.foldl (fun (a : State × List Byte) v =>
    ((probeOne a.1 cid h k beam v).1, a.2 ++ (probeOne a.1 cid h k beam v).2)) (s, padTo 8 (lay [(2, vs.length), (2, k)]))

/-- A probe runs once SCAN and RETRIEVE allow it. -/
def runProbe (s : State) (seq : Nat) : State :=
  match jobOf s seq with
  | some j =>
    match j.kind with
    | .recall cid h k beam sample =>
      match corpusOf s cid, shardOf s cid h with
      | some c, some sh =>
        if scanFree s c.cfg.slice false then
          let vs := (sh.log.drop (sh.log.length - sample)).reverse
          let (s, body) := probeAll s cid h k beam vs
          complete s seq (ansB body)
        else scanHold s c.cfg.slice false
      | _, _ => complete s seq (ans stNoTenant)
    | _ => s
  | none => s

def execRecallProbe (h : Hdr) (corpus shard k beam sample : Nat) (s : State) : Out :=
  .next (asyncCmd s h { code := 0x0306, isAsync := true, tenantRule := 1, sessRule := 0 } 40
    (fun s => [(corpusBad s h corpus, 24), (shardBad s corpus shard, 28), (decide (k = 0) || decide (k > 1024), 30),
      (decide (beam < k) || decide (beam < 16) || decide (beam > 1024), 32), (decide (sample = 0) || decide (sample > 256), 34)])
    (fun _ => []) (fun _ => .recall corpus shard k beam sample) (fun s => runProbe s h.seq))

/-! ### What waits for budgets, and lost peers -/

/-- At a rest boundary what a spent balance held goes on (R127). -/
def lauterRest (s : State) : State :=
  let s := reapIds s
  let s := s.lauter.queries.foldl (fun s q =>
    if q.stage = 3 then textReads s q.seq
    else if q.stage ≠ 2 then s
    else progressQuery 4 (q.asked.foldl (fun s a =>
      if a.done then s
      else if (a.owner = s.fab.self ∨ (a.replica = s.fab.self ∧ a.replicaAsked)) ∧ shardStatus s (requestOf s q a.shard) = 0 then
        searchHere s q a.shard
      else s) s) q.seq) s
  let s := s.lauter.reqs.foldl (fun s r => serveRequest s r.rid) s
  let s := s.lauter.textReqs.foldl (fun s t => serveRead s t.rid) s
  s.gl.jobs.foldl (fun s j => match j.kind with
    | .insert .. => insertGo s j.seq
    | .recall .. => runProbe s j.seq
    | _ => s) s

/-- Shards asked of a lost peer go to their replicas at once (R255, R322); its requests are dropped. -/
def lauterPeerLost (s : State) (peer : Nat) : State :=
  let s := { s with lauter.reqs := s.lauter.reqs.filter fun r => r.src != peer
                    lauter.textReqs := s.lauter.textReqs.filter fun t => t.src != peer }
  s.lauter.queries.foldl (fun s q =>
    if q.stage = 2 then
      progressQuery 4 (q.asked.foldl (fun s a => if a.owner = peer ∧ a.done = false then askReplica s q.seq a.shard else s) s) q.seq
    else s) s

/-! ### Expert tokens (R205) -/

def expertKey (model expert : Nat) : Nat := model * 4096 + expert

/-- Payload bytes of a token on its way to an expert or back, of which the spec gives no layout (log entry 43). -/
def tokenBytes : Nat := 64

/-- The next expert entry's item, in arrival order: charged to the activity and the class of the first token (log entry 43). How
many tokens it takes is known with its segment (R205). -/
def expertItem (s : State) (model expert : Nat) : State :=
  match tdef s.models.queues (expertKey model expert) [], modelOf s model with
  | (src, _, cls, act) :: _, some m =>
    if s.mash.items.any fun i => match i.kind with
      | .expert a b _ => a == model && b == expert
      | _ => false
    then s
    else addItem s 0 src m.tenant m.slice cls (act - 1) model 1 s.gl.acceptNo (.expert model expert 0) act
  | _, _ => s

/-- Tokens arrive at an expert homed here, charged to the expert's slice (R468), and join its queue; those beyond its 65,536
wait at their senders, so they keep their place behind them. `payer` is the sending entry's share class and activity. -/
def execExpertTokens (src model expert : Nat) (payer : Nat × Nat) (tokens : List Nat) (s : State) : Out :=
  .next (match modelOf s model with
    | some m =>
      let home := ((m.hdr.expertMap[expert]?).map (·.1)).getD 0
      let q := tdef s.models.queues (expertKey model expert) []
      if running s = false ∨ m.st ≠ 2 ∨ m.hdr.expertMap.length ≤ expert ∨ home ≠ s.fab.self then s
      else
        let s := chargeRx s m.slice payer.2 (tokenBytes * tokens.length)
        expertItem { s with models.queues := tput s.models.queues (expertKey model expert) (q ++ tokens.map fun t => (src, t, payer)) }
          model expert
    | none => s)

/-- An expert entry has run: the results of the tokens it took return to their senders by the path they came (R204), and those
left wait for the next entry. -/
def expertDone (s : State) (model expert n act : Nat) : State :=
  let q := tdef s.models.queues (expertKey model expert) []
  let done := q.take n
  let m := (modelOf s model).getD default
  let s := { s with models.queues := tput s.models.queues (expertKey model expert) (q.drop n) }
  let s := ((done.map (·.1)).eraseDups).foldl (fun s src =>
    sendMsg s src 2 m.slice act m.tenant true (.expertResult model expert (countBy (fun t => t.1 == src) done))) s
  expertItem s model expert

end Sys2Proof.Machine
end

