-- ==== Sys2Proof/Machine/Oast.lean ====
section
/-! DEFINITION. The Oast's events: programs, erases, reads, garbage collection, patrol, failing LUNs, the wear governor
(R297 to R316). -/
namespace Sys2Proof.Machine

/-! ### Quiescing (R309, R432) -/

/-- Whether any relocation copy is in progress. -/
def copying (s : State) : Bool := s.oast.reads.any fun r => match r.what with
  | .relocate _ _ => true
  | _ => false

/-- Once every program and copy in progress is complete, the map and its commit page are written: `mount_state` 3, and
NF_WP_N low (R309, R432). -/
def quiesceCheck (s : State) : State :=
  if s.oast.quiescing ∧ s.oast.mountState = 2 ∧ s.oast.writes = [] ∧ copying s = false then
    { s with oast.mountState := 3, oast.cfg.commit := true, oast.cfg.marker := false, dev.pins.nfWpN := false }
  else s

/-- Client writes stop, on a mounted array (R309). -/
def startQuiesce (s : State) : State :=
  if s.oast.mountState = 2 then quiesceCheck { s with oast.quiescing := true } else s

/-! ### Programs (R297, R305) -/

/-- A staged image is in the inactive slot, and FIRMWARE_STAGE completes (R383). -/
def imageWritten (s : State) (seq addr : Nat) (e : Extent) : State :=
  match jobOf s seq with
  | some j =>
    match j.kind with
    | .fwWrite svn ver dig _ =>
      let slot := 1 - s.sec.activeSlot
      let s := freeExtentsIf s fun k => k.owner == .config slot
      let s := { s with
        oast.exts := tput s.oast.exts addr { e with owner := .config slot }
        sec.slots := lmod s.sec.slots slot fun _ => (svn, ver, dig)
        sec.staged := some slot }
      complete s seq (ansB (lay [(4, ver)]))
    | _ => s
  | none => s

/-- Whether a cask that a session wrote can still become its newest: the session lives in HBM, and no later park's cask has come
before it (R26, R152). -/
def caskFits (x : Sess) (c : Cask) : Bool :=
  fld c.header 8 4 == handleOf x && (x.state == stWARM || x.state == stACTIVE || (x.state == stOFFERED && x.offeredFrom == stWARM)) &&
  (x.caskHdr == [] || decide (fld x.caskHdr 56 8 < fld c.header 56 8))

/-- A write's data is on flash and the map names it; its client goes on. -/
def writeDone (s : State) (w : FWrite) : State :=
  let s := { s with oast.writes := s.oast.writes.filter fun k => k.id != w.id }
  let (b, s) := placeOn (nextSeq s) w.lun w.bytes
  let e : Extent := { sectors := ceilDiv w.bytes 4096, tenant := w.tenant, keyEpoch := (flashEpoch s w.tenant).getD 0,
                      originSeq := w.originSeq, seq := s.oast.seq, lun := w.lun, block := b, lost := false, owner := w.owner }
  let put (s : State) : State := { s with oast.exts := tput s.oast.exts w.addr e }
  -- data whose client has gone is freed as it completes
  let stale (s : State) : State := modBlock s w.lun b fun k => { k with valid := k.valid - w.bytes }
  match w.what with
  | .park idx c =>
    (match sessAt s idx with
      | some x =>
        if caskFits x c = false then stale s
        else
          let s := installCask (parkExtents s idx c e) idx c
          if x.parking = false ∨ x.parkAddr ≠ w.addr then s
          else if x.parkCancelled then modSess s idx fun y => { y with parking := false, parkCancelled := false }
          else modSess s idx fun y => { y with parkProgs := true }
      | none => stale s)
  | .model seq => if (jobOf s seq).isSome then registerDone (put s) seq w.addr else stale s
  | .rackPark src handle q => if (copyOf s handle).isSome then copyWritten (put s) src handle q else stale s
  | .corpus seq =>
    (match w.owner with
      | .item cid h y =>
        if ((shardOf s cid h).bind fun sh => tget sh.nodes y).isSome then itemWritten (put s) seq cid h y w.addr else stale s
      | _ => stale s)
  | .migration idx => if (sessAt s idx).isSome then migWritten (put s) idx w.addr else stale s
  | .adoptCopy idx => if (sessAt s idx).isSome then migWritten (put s) idx w.addr else stale s
  | .config seq => if (jobOf s seq).isSome then imageWritten s seq w.addr e else stale s
  | .image => put s

/-- A failed program: the data goes to another block, the rest of the failed block is moved, the block retires. -/
def writeFailed (s : State) (w : FWrite) : State :=
  let s := { s with oast.cnt.progFail := ctrAdd s.oast.cnt.progFail 1 }
  let s := match blockIdx (lunAt s w.lun) fun b => b.st == 1 with
    | some b => retire (moveExtents (modBlock s w.lun b fun k => { k with st := 2 }) w.lun b 2) w.lun b 0
    | none => s
  let l := (pickLun s).getD w.lun
  { s with oast.writes := s.oast.writes.map fun k => if k.id = w.id then { k with lun := l } else k }

def execFlashProgramDone (wid : Nat) (ok : Bool) (s : State) : Out :=
  .next (match s.oast.writes.find? fun w => w.id == wid with
    | some w => if s.dev.powered = false then s else quiesceCheck (if ok then writeDone s w else writeFailed s w)
    | none => s)

/-! ### Erases (R304, R305) -/

/-- Whether a closed block may be erased: nothing valid is left in it and no relocation reads it. -/
def erasable (s : State) (l b : Nat) : Bool :=
  match (lunAt s l).blocks[b]? with
  | some k => k.st == 2 && !(s.oast.exts.any fun e => e.2.lun == l && e.2.block == b) &&
      !(s.oast.reads.any fun r => r.what == .relocate l b)
  | none => false

def execFlashEraseDone (lun block : Nat) (ok : Bool) (s : State) : Out :=
  .next (if s.dev.powered = false ∨ erasable s lun block = false then s
    else if ok then
      let s := { s with oast.cnt.eraseBytes := ctrAdd s.oast.cnt.eraseBytes (lunAt s lun).blockBytes }
      modBlock s lun block fun k => { st := 0, erases := k.erases + 1, valid := 0, closeSeq := 0, pslc := false, relocate := false }
    else retire { s with oast.cnt.eraseFail := ctrAdd s.oast.cnt.eraseFail 1 } lun block 1)

/-! ### Garbage collection (R299, R302 to R307) -/

/-- A victim's valid data is read under OAST_GC, in slice 0. -/
def gcRead (s : State) (l b : Nat) : State :=
  let n := ((lunAt s l).blocks[b]?.map (·.valid)).getD 0
  let s := charge s 0 9 2 n
  { s with
    oast.reads := s.oast.reads ++ [{ id := s.oast.nextIo, addr := 0, bytes := n, slice := 0, act := 9, what := .relocate l b }],
    oast.nextIo := s.oast.nextIo + 1 }

/-- The next victim of a LUN (R303), among closed blocks that hold valid data and are not being read. -/
def victim (s : State) (l : Nat) : Option Nat :=
  let u := lunAt s l
  let blk (i : Nat) : Block := lget u.blocks i default
  let cands := (List.range u.blocks.length).filter fun i =>
    (blk i).st == 2 && decide ((blk i).valid > 0) && !(s.oast.reads.any fun r => r.what == .relocate l i)
  let (hi, lo) := eraseSpread u
  match cands.find? fun i => (blk i).relocate with
  | some i => some i
  | none =>
    if hi - lo > s.oast.wlGap then minBy (fun i => (blk i).erases) cands
    else minBy (fun i => (blk i).valid * two64 + (blk i).closeSeq) cands

/-- Blocks of a LUN that are free or will be once their erase completes. -/
def freeSoon (s : State) (l : Nat) : Nat :=
  countBy (fun b => b.st == 0 || (b.st == 2 && b.valid == 0)) (lunAt s l).blocks +
  countBy (fun r => match r.what with
    | .relocate k _ => k == l
    | _ => false) s.oast.reads

/-- Victims are taken until free blocks reach twice `gc_start`, within the OAST_GC budget. -/
def gcLoop : Nat → State → Nat → State
  | 0, s, _ => s
  | n + 1, s, l =>
    let u := lunAt s l
    let queued := u.blocks.any fun b => b.relocate && b.st == 2
    if freeSoon s l * 1000 ≥ 2 * s.oast.gcStart * goodBlocks u ∧ queued = false then s
    else if hasBal s 0 9 2 = false then holdOn s 0 9 2
    else match victim s l with
      | some b => gcLoop n (gcRead s l b) l
      | none => s

def execGcStart (lun : Nat) (s : State) : Out :=
  let u := lunAt s lun
  .next (if lun < s.oast.luns.length ∧ s.dev.powered ∧ s.oast.mountState = 2 ∧ s.oast.quiescing = false ∧ u.failed = false ∧
      (freeBlocks u * 1000 < s.oast.gcStart * goodBlocks u ∨ u.gcActive ∨ (u.blocks.any fun b => b.relocate && b.st == 2)) then
      let s := gcLoop u.blocks.length s lun
      modLun s lun fun v => { v with gcActive := decide (freeBlocks v * 1000 < 2 * s.oast.gcStart * goodBlocks v) }
    else s)

/-- One relocated copy's uncorrectable sector: which of the block's extents it lies in is a free value. It is marked
lost (R307). -/
def loseOne (s : State) (l b : Nat) : State :=
  let es := s.oast.exts.filter fun e => e.2.lun == l && e.2.block == b
  match es[Config.draw s.free % max 1 es.length]? with
  | some e => { tick s with oast.exts := tput s.oast.exts e.1 { e.2 with lost := true } }
  | none => s

/-- A relocation's read has ended (R304 to R307): the copies are made; a block with an uncorrectable sector retires. -/
def relocated (s : State) (l b : Nat) (bad : Bool) : State :=
  if bad then retire (moveExtents (loseOne s l b) l b 1) l b 2
  else modBlock (moveExtents s l b 1) l b fun k => { k with relocate := false }

/-! ### Reads (R300) -/

/-- A cask that cannot be read: the buddy's copy, or the session is lost (R174, R175). -/
def reviveBad (s : State) (idx : Nat) : State :=
  match sessAt s idx with
  | none => s
  | some x =>
    if racks s x ∨ x.caskPeer ≠ 0 then reviveReads (modSess s idx fun y => { y with reviveSrc := 3 }) idx
    else
      let s := (sessJobs s idx).foldl (fun s j => failJob s idx j.seq (ans stLost)) s
      closeEntry (modSess s idx fun y => { y with reviving := false }) idx

/-- A warm whose weights cannot be read: its frames are freed, the model is REGISTERED, its commands end RETRY
(DESIGN CHOICE, log entry 47). -/
def warmBad (s : State) (m : Nat) : State :=
  match modelOf s m with
  | none => s
  | some x =>
    let s := x.runs.foldl (fun s r => freeRun s r.1 r.2) s
    let s := { s with models.models := tmod s.models.models m fun y => { y with st := 0, runs := [], asked := false } }
    s.gl.jobs.foldl (fun s j => if j.kind = .warm m then complete s j.seq (ans stRetry) else s) s

/-- A tree node's flash copy put into frames of its reader's reservation (R165), unless another reader's came first; a copy that
could not be read is gone. -/
def nodeGot (s : State) (x : Sess) (seq : Nat) (n : Node) (ok : Bool) : Bool × State :=
  if n.inHbm then (true, s)
  else if ok = false then (false, modNode s n.id fun n => { n with flash := 0 })
  else match runsFor s seq x.idx x.homeDie n.tenant (sliceOfSess s x) (pageOrder (hdrOf s x) n.k) (groupsOf s x) with
    | some (rs, s) => (true, modNode s n.id fun n => { n with inHbm := true, runs := rs, die := x.homeDie })
    | none => (false, s)

/-- A node's flash copy has been read for a link: its pages are in HBM again and the append goes on (R165). -/
def nodeRead (s : State) (idx id : Nat) (ok : Bool) : State :=
  match sessAt s idx, nodeOf s id, (addingJobs s idx).head? with
  | some x, some n, some j =>
    if j.stage ≠ 2 then s
    else
      let (got, s) := nodeGot s x j.seq n ok
      if got then pump (runAppend s j) idx
      else match j.kind with
        | .append _ _ _ (some toks) _ _ => pump (startChunks (setStage s j.seq 3) idx j.seq toks) idx
        | _ => s
  | _, _, _ => s

/-- Whether a sector that a read needs is marked lost (R306, R307): of a cask, its header and every page that is not in HBM. -/
def readLost (s : State) (r : FRead) : Bool :=
  let lost (a : Nat) : Bool := ((tget s.oast.exts a).map (·.lost)).getD false
  lost r.addr || (match r.what with
    | .revive idx => (match sessAt s idx with
      | some x => (revivePages s x).any fun p => lost (if p.isShared then ((nodeOf s p.node).map (·.flash)).getD 0 else p.oast)
      | none => false)
    | _ => false)

def execFlashReadDone (rid outcome : Nat) (s : State) : Out :=
  .next (match s.oast.reads.find? fun r => r.id == rid with
    | none => s
    | some r =>
      if s.dev.powered = false then s
      else
        let bad := decide (outcome ≥ 2) || readLost s r
        let s := { s with oast.reads := s.oast.reads.filter fun k => k.id != rid }
        let s := if outcome ≥ 1 then { s with oast.cnt.readRetry := ctrAdd s.oast.cnt.readRetry 1 } else s
        let s := if bad then { s with oast.cnt.uncorrectable := ctrAdd s.oast.cnt.uncorrectable 1 } else s
        let s := match (if outcome ≥ 1 then tget s.oast.exts r.addr else none) with
          | some e => modBlock s e.lun e.block fun k => { k with relocate := true }
          | none => s
        match r.what with
        | .revive idx =>
          if bad then pump (reviveBad s idx) idx
          else modSess s idx fun y => if y.reviving then { y with reviveRead := true } else y
        | .node idx id => nodeRead s idx id (!bad)
        | .warm m => if bad then warmBad s m else s
        | .texts q => textsRead s q (!bad)
        | .serve n => textServed s n (!bad)
        | .patrol => s
        | .relocate l b => quiesceCheck (relocated s l b bad))

/-! ### Seconds and weeks (R299, R301, R314, R316) -/

/-- Pseudo-SLC data beyond B is folded into TLC blocks, oldest first (R299). -/
def foldBuffer (s : State) : State :=
  let all := (List.range s.oast.luns.length).flatMap fun l =>
    (List.range (lunAt s l).blocks.length).filterMap fun b =>
      let k := lget (lunAt s l).blocks b default
      if k.st = 2 ∧ k.pslc ∧ k.valid > 0 ∧ s.oast.reads.any (fun r => r.what == .relocate l b) = false then
        some (k.closeSeq, l, b, k.valid) else none
  let beyond := sumBy (fun x => x.2.2.2) all - s.oast.pslcBytes
  ((sortBy (fun (x y : Nat × Nat × Nat × Nat) => decide (x.1 < y.1)) all).foldl (fun (acc : State × Nat) x =>
    if acc.2 = 0 then acc
    else if hasBal acc.1 0 9 2 = false then (holdOn acc.1 0 9 2, 0)
    else (gcRead acc.1 x.2.1 x.2.2.1, acc.2 - min acc.2 x.2.2.2)) (s, beyond)).1

def execPslcRecompute (s : State) : Out :=
  .next (if s.dev.powered ∧ s.oast.mountState = 2 then foldBuffer { s with oast.pslcBytes := pslcB s } else s)

/-- OAST_WEAR_WARN once at each threshold (R316). -/
def wearWarn (s : State) (t : Nat) : State :=
  if s.oast.warned < t ∧ t * 65536 ≤ 100 * lifeUsed s then
    raise (alertSet { s with oast.warned := t } 6) 0x20 0 0 [(1, t), (3, 0), (4, lifeUsed s), (8, s.oast.allowRate), (4, s.oast.waEst)]
  else s

/-- Seconds of the target life left (R314). -/
def lifeLeft (s : State) : Nat := max (max 1 s.oast.targetYears * 31536000 - s.oast.powerSec) 2592000

/-- WA in units of 1/256; with no client byte written in a day it is free. -/
def waNow (s : State) : Nat :=
  if s.oast.waHist.length ≤ 86400 then max 256 s.oast.waInit
  else
    let new := s.oast.waHist.headD (0, 0)
    let old := s.oast.waHist.getLastD (0, 0)
    let du := new.1 - old.1
    let dc := new.2 - old.2
    if dc = 0 then max 256 (Config.count s.free) else max 256 (du * 256 / dc)

def execWearGovernorTick (s : State) : Out :=
  .next (if s.dev.powered = false ∨ s.oast.mountState < 2 then s
    else
      let s := { s with
        oast.powerSec := ctrAdd s.oast.powerSec 1
        oast.waHist := ((wearU s, s.oast.cnt.hostWrite) :: s.oast.waHist).take 86401 }
      let s := { tick s with oast.waEst := waNow s }
      let s := { s with oast.allowRate := (wearL s - wearU s) * 256 / (s.oast.waEst * lifeLeft s) }
      wearWarn (wearWarn (wearWarn s 70) 85) 95)

def execPowerSecSave (s : State) : Out :=
  .next (if s.dev.powered ∧ s.oast.mountState = 2 then { s with oast.cfg.powerSec := s.oast.powerSec } else s)

/-- Two pages of a closed block read under OAST_GC (R301). -/
def execPatrolRead (lun block : Nat) (retried : Bool) (s : State) : Out :=
  .next (match (lunAt s lun).blocks[block]? with
    | some k =>
      if k.st ≠ 2 ∨ s.dev.powered = false ∨ s.oast.mountState ≠ 2 then s
      else if hasBal s 0 9 2 = false then holdOn s 0 9 2
      else
        let s := charge s 0 9 2 32768
        if retried then
          modBlock { s with oast.cnt.readRetry := ctrAdd s.oast.cnt.readRetry 1 } lun block fun k => { k with relocate := true }
        else s
    | none => s)

/-! ### A LUN that stops answering (R306, R309) -/

/-- Whether a LUN is usable. -/
def lunUsable (s : State) (l : Nat) : Bool := decide (l < s.oast.luns.length) && !(lunAt s l).failed

/-- The root LUNs (R309): the lowest usable LUN of the four lowest-numbered channels that have one. -/
def rootLunsOf (s : State) : List Nat :=
  let firsts := (List.range s.oast.luns.length).filter fun l =>
    lunUsable s l && !(List.range l).any fun k => lunUsable s k && (lunAt s k).channel == (lunAt s l).channel
  (sortBy (fun a b => decide ((lunAt s a).channel < (lunAt s b).channel)) firsts).take 4

/-- The root LUN that takes over from a failed one: the next of its channel, or of the next channel that has none. -/
def nextRoot (s : State) (l : Nat) : List Nat :=
  let rest := s.oast.rootLuns.filter (· != l)
  let c := (lunAt s l).channel
  match (List.range s.oast.luns.length).find? fun k => lunUsable s k && (lunAt s k).channel == c with
  | some k => rest ++ [k]
  | none =>
    match minBy (fun k => (lunAt s k).channel * 65536 + k) ((List.range s.oast.luns.length).filter fun k =>
        lunUsable s k && !(rest.any fun r => (lunAt s r).channel == (lunAt s k).channel)) with
    | some k => rest ++ [k]
    | none => rest

def execLunTimeout (lun : Nat) (s : State) : Out :=
  .next (if lunUsable s lun = false ∨ s.dev.powered = false then s
    else
      let u := lunAt s lun
      let n := countBy (fun b => b.st != 3) u.blocks
      let s := modLun s lun fun v => { v with
        failed := true, spares := 0, blocks := v.blocks.map fun b => { b with st := 3, valid := 0, relocate := false } }
      let s := { s with
        oast.exts := s.oast.exts.map fun e => if e.2.lun = lun then (e.1, { e.2 with lost := true }) else e
        oast.cnt.retired := ctrAdd s.oast.cnt.retired n }
      let s := raise s 0x22 0 0 [(1, u.channel), (1, u.lun), (1, 2), (1, 0), (4, 0xFFFFFFFF), (4, 0)]
      let l := (pickLun s).getD 0
      let move (w : FWrite) : FWrite := if w.lun = lun then { w with lun := l } else w
      let s := { s with oast.writes := s.oast.writes.map move }
      spareLowCheck (if s.oast.rootLuns.contains lun then { s with oast.rootLuns := nextRoot s lun, oast.cfg.marker := true } else s) lun)

end Sys2Proof.Machine
end

