-- ==== Sys2Proof/Machine/Rows.lean ====
section
/-! DEFINITION. Embedding tables and the row engine (R268 to R286). -/
namespace Sys2Proof.Machine

/-! ### Elements (R275) -/

def bf16To32 (x : Nat) : F32 := BitVec.ofNat 32 (x * 65536)

/-- x_d of R275. -/
def element (f : Nat) (r : RowRec) (d : Nat) : F32 :=
  let c := lget r.payload d 0
  if codedFmt f then f32Fma (bf16To32 r.s.toNat) (f32OfInt c) (bf16To32 r.o.toNat)
  else if f = 0x09 then bf16To32 c
  else toF32 (decodeNum fmtFP16 c)

/-- An FP32 row stored in a table's format: pair, payload, saturations, NaN results (R275, R76). -/
def storeRow (f : Nat) (xs : List F32) : H16 × H16 × List Nat × Nat × Nat :=
  if codedFmt f then
    let (s, o) := fitPair (codeBits f) xs
    let cs := xs.map (encodeClamp (codeBits f) s o)
    (s, o, cs.map (·.1), countBy (·.2) cs, countBy f32IsNan xs)
  else
    let cs := xs.map (convFloat f)
    (0, 0, cs.map (·.val), sumBy (·.sat) cs, sumBy (·.nan) cs)

/-- NaN results among values (R76). -/
def nansOf (xs : List F32) : Nat := countBy f32IsNan xs

/-- Element `d` of a pooled bag, and the NaN results of its decodes, sums and product (R275, R76). -/
def poolElem (x : RowTable) (pooling : Nat) (bag : List RowRec) (d : Nat) : F32 × Nat :=
  let es := bag.map fun r => element x.format r d
  let acc := es.foldl (fun (a : F32 × Nat) e => (f32Add a.1 e, a.2 + nansOf [f32Add a.1 e])) (f32Zero, nansOf es)
  let v := f32Mul acc.1 (f32Div f32One (f32OfInt bag.length))
  if pooling = 2 ∧ bag ≠ [] then (v, acc.2 + nansOf [v]) else acc

/-- Pooling of one bag of row records, element by element (R275). -/
def poolBag (x : RowTable) (pooling : Nat) (bag : List RowRec) : List (F32 × Nat) :=
  (List.range x.dim).map (poolElem x pooling bag)

/-! ### ROWS groups (R270, R276 to R279) -/

/-- Whether a group of the layout is a ROWS group in rest `r`. -/
def rowsIn (s : State) (d t r : Nat) : Bool :=
  match s.mash.table.rests[r]? with
  | some e => lget e.act (16 * d + t) 0 == 0xB
  | none => false

/-- ROWS groups of a die in the active table: group index and size. -/
def rowsGroups (s : State) (d : Nat) : List (Nat × Nat) :=
  (List.range s.mill.groups.length).filterMap fun i =>
    match s.mill.groups[i]? with
    | some g => if g.die = d ∧ (List.range s.mash.table.rests.length).any (rowsIn s d g.tile) then some (i, g.size) else none
    | none => none

/-- The ROWS groups of a die that run a ROWS entry in the present rest. -/
def rowsNow (s : State) (d : Nat) : List Nat :=
  (List.range s.mill.groups.length).filter fun i =>
    match s.mill.groups[i]? with
    | some g => g.die == d && !g.blocked && rowsIn s d g.tile s.mash.rest
    | none => false

def hotEntryBytes (x : RowTable) : Nat := roundUp (8 + rowBytes x.format x.dim) 64

/-- Whether tile work of a table may start (R127, R130). -/
def rowsFree (s : State) (x : RowTable) : Bool :=
  running s && (rowsNow s x.die != []) && hasBal s x.slice 11 0 && hasBal s x.slice 11 1

def rowsHold (s : State) (x : RowTable) : State :=
  if hasBal s x.slice 11 0 = false then holdOn s x.slice 11 0
  else if hasBal s x.slice 11 1 = false then holdOn s x.slice 11 1 else s

/-- HBM bytes, and tile time of an amount the spec leaves to the run. -/
def chargeRows (s : State) (x : RowTable) (n : Nat) : State := tick (charge (charge s x.slice 11 1 n) x.slice 11 0 (Config.count s.free))

/-- The tile that pools and encodes: the first of the first ROWS group that runs (log entry 46). -/
def countTile (s : State) (d sat nan : Nat) : State :=
  match (rowsNow s d).head?.bind fun i => s.mill.groups[i]? with
  | some g => { s with mill.tiles := lmod s.mill.tiles (16 * d + g.tile) fun t =>
      { t with sat := ctrAdd t.sat sat, nan := ctrAdd t.nan nan } }
  | none => s

/-- A row record written: its hot entries are cleared in the same operation, its chunks are marked (R278, R355). -/
def writeRow (s : State) (t r : Nat) (rec_ : RowRec) : State :=
  modTable { s with rows.interlockWait := ctrAdd s.rows.interlockWait (Config.interlock s.free) } t fun x =>
    let st := strideOf x.format x.dim x.opt
    let marks := (List.range ((r * st + st - 1) / 65536 + 1 - r * st / 65536)).map (r * st / 65536 + ·)
    { x with recs := tput x.recs r rec_, dirty := x.dirty ++ marks.filter fun k => !x.dirty.contains k,
             hot := x.hot.map fun e => if e.row = r then { e with valid := false } else e }

/-- Entries of the hot set that a running ROWS group has not, or has invalid. -/
def hotMissing (s : State) (x : RowTable) : List (Nat × Nat) :=
  (rowsNow s x.die).flatMap fun g => (x.hotRows.filter fun r => !(x.hot.any fun e => e.group == g && e.row == r && e.valid)).map
    fun r => (g, r)

/-- Installs or reinstalls hot entries (R278): the copy of the row as it stands is valid. -/
def installHot (s : State) (t : Nat) : State :=
  match tableOf s t with
  | none => s
  | some x =>
    let l := hotMissing s x
    let s := chargeRows s x (l.length * strideOf x.format x.dim x.opt)
    let s := modTable s t fun y => { y with
      hot := y.hot.filter (fun e => !l.any fun k => k.1 == e.group && k.2 == e.row) ++
        l.map fun k => { group := k.1, row := k.2, valid := true, cells := rowAt x k.2 } }
    { s with rows.refreshRows := ctrAdd s.rows.refreshRows l.length }

/-- A group that starts an entry of another activity, or changes, loses its hot area (R277). -/
def clearHot (s : State) (g : Nat) : State :=
  { s with rows.tables := s.rows.tables.map fun p => (p.1, { p.2 with hot := p.2.hot.filter fun e => e.group != g }) }

/-! ### Table commands (R268 to R270, R283, R284) -/

/-- Runs of a table's records on a die. -/
def tableOrders (rows stride : Nat) : List Nat := weightOrders (rows * stride)

def runningRows (s : State) (t : Nat) : Bool :=
  s.gl.jobs.any fun j => match j.kind with
    | .rows k _ => k == t
    | .replace k _ => k == t
    | _ => false

/-- The table, its shadow and its hot set are freed. -/
def dropTable (s : State) (t : Nat) : State :=
  match tableOf s t with
  | none => s
  | some x => { freeRuns s x.die (x.runs ++ x.shadowRuns) with rows.tables := tdel s.rows.tables t }

/-- A removal that waited for the table's commands. -/
def tryRemoveTable (s : State) (t : Nat) : State :=
  if runningRows s t then s
  else s.gl.jobs.foldl (fun s j => if j.kind = .tableRemove t then finishFinal s j.seq (ansB []) else s) (dropTable s t)

/-- Whether a removal of the table waits. -/
def removing (s : State) (t : Nat) : Bool := s.gl.jobs.any fun j => j.kind == .tableRemove t

/-- The home die of a new table (R270). -/
def tableDie (s : State) (sl : Nat) : Option Nat :=
  minBy (fun d => 1073741824 - poolFree s d) ((List.range 4).filter fun d =>
    dieUp s d && (rowsGroups s d).any fun g => match s.mill.groups[g.1]? with
      | some k => groupSlice s k.die k.tile k.size == some sl
      | none => false)

def createTable (s : State) (tenant t dim rows format opt : Nat) : State × Ans :=
  if s.rows.tables.length ≥ Config.tableMax then (s, ans stTableFull)
  else match tableDie s s.rows.rowsSlice with
    | none => (s, ans stWrongState)
    | some d =>
      match takeRuns s d tenant s.rows.rowsSlice (tableOrders rows (strideOf format dim opt)) with
      | none => (s, ans stNoMemory)
      | some (rs, s) =>
        let x : RowTable := { (default : RowTable) with
          tenant := tenant, slice := s.rows.rowsSlice, die := d, dim := dim, rows := rows, format := format, opt := opt, runs := rs }
        ({ s with rows.tables := tput s.rows.tables t x }, ansB [])

/-- What TABLE_CREATE of a table answers, with the state after it. -/
def createNow (s : State) (h : Hdr) (t dim rows format opt : Nat) : State × Ans :=
  match tableOf s t with
  | none => createTable s h.tenant t dim rows format opt
  | some x =>
    if x.tenant ≠ h.tenant then (s, ans stDenied)
    else if x.dim = dim ∧ x.rows = rows ∧ x.format = format ∧ x.opt = opt ∧ removing s t = false then (s, ansB [])
    else (s, ans stWrongState)

/-- Whether the fields of a TABLE_CREATE ask for a removal. -/
def asksRemoval (dim rows format opt : Nat) : Bool := dim == 0 && rows == 0 && format == 0 && opt == 0

def createParams (t dim rows format opt : Nat) : List (Bool × Nat) :=
  let make := !asksRemoval dim rows format opt
  [(decide (t = 0) || decide (t > 65535), 24),
   (make && (decide (dim = 0) || decide (dim > 16384) || (format == 0x0C && dim % 2 != 0)), 26),
   (make && (decide (rows = 0) || decide (rows > 2147483648)), 28),
   (make && !([0x0D, 0x0C, 0x09, 0x0A].contains format), 32), (make && decide (opt > 2), 33)]

/-- A removal waits for the table's running commands; a table that does not exist answers OK. -/
def execTableCreate (h : Hdr) (table dim rows format optimiser : Nat) (s : State) : Out :=
  let c : Cmd := { code := 0x0401, isAsync := false, tenantRule := 1, sessRule := 0 }
  .next (
    if asksRemoval dim rows format optimiser then
      lateSync s h c 40 (fun _ => createParams table dim rows format optimiser)
        (fun s => match tableOf s table with
          | none => some (ansB [])
          | some x => if x.tenant ≠ h.tenant then some (ans stDenied) else none)
        (fun _ => .tableRemove table) (fun s => tryRemoveTable s table)
    else syncCmd s h c 40 (fun _ => createParams table dim rows format optimiser)
      (fun s => createNow s h table dim rows format optimiser))

/-- The table of a command, where it does not exist for the tenant. -/
def tableMissing (s : State) (t : Nat) : List (Bool × Nat) := [((tableOf s t).isNone, 24)]

/-- Refusals shared by the commands of a table: another tenant, a removal that waits, no ROWS group. -/
def tableLate (s : State) (h : Hdr) (t : Nat) (tiles : Bool) : Option Ans :=
  match tableOf s t with
  | none => some (ansD stBadParam 24)
  | some x =>
    if x.tenant ≠ h.tenant then some (ans stDenied)
    else if removing s t ∨ x.lost ∨ (tiles ∧ rowsGroups s x.die = []) then some (ans stWrongState)
    else none

/-! ### Lookups and updates (R274 to R276, R280, R281) -/

/-- Indices cut into bags. -/
def bagsOf : List Nat → List Nat → List (List Nat)
  | [], _ => []
  | n :: ls, idx => idx.take n :: bagsOf ls (idx.drop n)

/-- The valid hot copy of a row in the group that serves a lookup (R276). -/
def hotCopy (s : State) (x : RowTable) (r : Nat) : Option RowRec :=
  match (rowsNow s x.die).head? with
  | some g => (x.hot.find? fun e => e.group == g && e.row == r && e.valid).map (·.cells)
  | none => none

/-- Rows a lookup reads from valid hot copies of the group that serves it. -/
def hotHits (s : State) (x : RowTable) (idx : List Nat) : Nat := countBy (fun r => (hotCopy s x r).isSome) idx

/-- A row as a lookup reads it: the valid hot copy, or the record in HBM (R276). -/
def lookedUp (s : State) (x : RowTable) (r : Nat) : RowRec := (hotCopy s x r).getD (rowAt x r)

def doLookup (s : State) (x : RowTable) (pooling : Nat) (lens idx : List Nat) : State × Ans :=
  let hits := hotHits s x idx
  let pools := (bagsOf lens idx).map fun b => poolBag x pooling (b.map (lookedUp s x))
  let stored := pools.map fun p => storeRow x.format (p.map (·.1))
  let out := if pooling = 0 then idx.map fun r => transferRow x (lookedUp s x r)
             else stored.map fun p => transferRow x { ver := 0, s := p.1, o := p.2.1, payload := p.2.2.1, st := [] }
  let s := chargeRows s x ((idx.length - hits) * strideOf x.format x.dim x.opt)
  let s := if pooling = 0 then s
           else countTile s x.die (sumBy (fun p => p.2.2.2.1) stored) (sumBy (fun p => p.2.2.2.2) stored + sumBy (fun p => sumBy (·.2) p) pools)
  ({ s with
     rows.lookups := ctrAdd s.rows.lookups 1, rows.hotHits := ctrAdd s.rows.hotHits hits,
     rows.hbmReads := ctrAdd s.rows.hbmReads (idx.length - hits) },
   ansB (lay [(4, out.length), (4, rowBytes x.format x.dim)] ++ out.flatten))

/-- New row element and state of one element, and the NaN results among its operations (R281, R76). -/
def stepElem (b1 b2 eps lr : F32) (opt : Nat) (w g : F32) (a b : F32) : F32 × F32 × F32 × Nat :=
  if opt = 1 then
    let sq := f32Mul g g
    let gg := f32Add a sq
    let e := f32Add gg eps
    let lg := f32Mul lr g
    let u := f32Mul lg (sfuRsqrt e)
    (f32Sub w u, gg, b, nansOf [sq, gg, e, lg, sfuRsqrt e, u, f32Sub w u])
  else if opt = 2 then
    let k1 := f32Sub f32One b1
    let k2 := f32Sub f32One b2
    let m := f32Add (f32Mul b1 a) (f32Mul k1 g)
    let v := f32Add (f32Mul b2 b) (f32Mul (f32Mul k2 g) g)
    let e := f32Add v eps
    let lm := f32Mul lr m
    let u := f32Mul lm (sfuRsqrt e)
    (f32Sub w u, m, v,
      nansOf [k1, k2, f32Mul b1 a, f32Mul k1 g, m, f32Mul b2 b, f32Mul k2 g, f32Mul (f32Mul k2 g) g, v, e, sfuRsqrt e, lm, u, f32Sub w u])
  else
    let u := f32Mul lr g
    (f32Sub w u, a, b, nansOf [u, f32Sub w u])

/-- One update record: one read-modify-write. -/
def updateRow (s : State) (t : Nat) (lr : F32) (r : Nat) (grad : List H16) : State :=
  match tableOf s t with
  | none => s
  | some x =>
    let old := rowAt x r
    let st (i : Nat) : F32 := bf16To32 (lget old.st i 0).toNat
    let es := (List.range x.dim).map fun d =>
      stepElem s.rows.beta1 s.rows.beta2 s.rows.eps lr x.opt (element x.format old d) (bf16To32 (lget grad d 0).toNat)
        (st d) (st (x.dim + d))
    let (sc, o, p, sat, nan) := storeRow x.format (es.map (·.1))
    let ver := old.ver % 2 + 2 * ((old.ver / 2 + 1) % 2147483648)
    let wide := if x.opt = 0 then [] else if x.opt = 1 then es.map (·.2.1) else es.map (·.2.1) ++ es.map (·.2.2.1)
    let states := wide.map toBF16
    let decoded := (List.range x.dim).map fun d => element x.format old d
    let nan := nan + sumBy (·.2.2.2) es + nansOf decoded + nansOf wide
    let s := writeRow s t r { ver := ver, s := sc, o := o, payload := p, st := states }
    let s := countTile (chargeRows s x (2 * strideOf x.format x.dim x.opt)) x.die sat nan
    let s := match x.commit with
      | some next => if r ≥ next ∧ (x.shadow.map fun m => thas m r) = some true then
          modTable s t fun y => { y with updatesInCommit := tput y.updatesInCommit r (tdef y.updatesInCommit r 0 + 1) } else s
      | none => s
    { s with rows.updates := ctrAdd s.rows.updates 1 }

/-- HOTSET_SET's effect (R277, R279). -/
def setHot (s : State) (t refreshUs : Nat) (rows : List Nat) : State :=
  let l := rows.foldl (fun acc r => if acc.contains r then acc else acc ++ [r]) []
  installHot (modTable s t fun x => { x with hotRows := l, refreshUs := refreshUs, hot := x.hot.filter fun e => l.contains e.row }) t

/-- The hot sets of a die with `n` rows of `x` in place of its present ones fit the smallest ROWS group. -/
def hotFits (s : State) (t : Nat) (x : RowTable) (n : Nat) : Bool :=
  let others := sumBy (fun p => if p.1 ≠ t ∧ p.2.die = x.die then p.2.hotRows.length * hotEntryBytes p.2 else 0) s.rows.tables
  match minBy (·.2) (rowsGroups s x.die) with
  | some g => decide (others + n * hotEntryBytes x ≤ min s.rows.hotKib 16384 * 1024 * g.2)
  | none => false

/-- Runs the waiting row work of a table, in acceptance order, while it may start (R127, R276, R280). -/
def runRows : Nat → State → Nat → State
  | 0, s, _ => s
  | n + 1, s, t =>
    match tableOf s t, s.gl.jobs.find? (fun j => match j.kind with
        | .rows k _ => k == t
        | _ => false) with
    | some x, some j =>
      if tenantLive s j.tenant = false then runRows n (finishFinal s j.seq (ans stNoTenant)) t
      else if rowsFree s x = false then rowsHold s x
      else
        let s := match j.kind with
          | .rows _ (.lookup p lens idx) => let r := doLookup s x p lens idx
                                            finishFinal r.1 j.seq r.2
          | .rows _ (.update lr recs) => finishFinal (recs.foldl (fun s r => updateRow s t lr r.1 r.2) s) j.seq (ansB [])
          | .rows _ (.hotset us rows) => finishFinal (setHot s t us rows) j.seq (ansB [])
          | _ => s
        runRows n s t
    | _, _ => s

/-- Row work enters its table's queue. -/
def startRows (s : State) (t : Nat) : State := runRows (s.gl.jobs.length + 1) s t

/-- The index, in the list of lengths, at which their sum first passes 16,384. -/
def sumOver : Nat → Nat → List Nat → Option Nat
  | _, _, [] => none
  | i, acc, n :: l => if acc + n > 16384 then some i else sumOver (i + 1) (acc + n) l

def execRowLookup (h : Hdr) (table pooling bags : Nat) (lens idx : List Nat) (s : State) : Out :=
  let o := roundUp (32 + 2 * lens.length) 4
  .next (lateSync s h { code := 0x0402, isAsync := false, tenantRule := 1, sessRule := 0 } (o + 4 * idx.length)
    (fun s => tableMissing s table ++ [(decide (pooling > 2), 26), (decide (bags = 0) || decide (bags > 4096), 28),
        ((lens.any fun n => decide (n > 1024)), 32 + 2 * ((List.range lens.length).find? fun i => decide (lget lens i 0 > 1024)).getD 0),
        ((sumOver 0 0 lens).isSome, 32 + 2 * (sumOver 0 0 lens).getD 0)] ++
      (match tableOf s table with
        | some x => [(idx.any fun r => decide (r ≥ x.rows),
                      o + 4 * ((List.range idx.length).find? fun i => decide (lget idx i 0 ≥ x.rows)).getD 0)]
        | none => []))
    (fun s => tableLate s h table true) (fun _ => .rows table (.lookup pooling lens idx)) (fun s => startRows s table))

def execRowUpdate (h : Hdr) (table count : Nat) (lr : F32) (recs : List (Nat × List H16)) (s : State) : Out :=
  let size := roundUp (4 + 2 * ((tableOf s table).map (·.dim)).getD 0) 4
  .next (lateSync s h { code := 0x0403, isAsync := false, tenantRule := 1, sessRule := 0 } (32 + count * size)
    (fun s => tableMissing s table ++ [(decide (count = 0), 26), (decide (bits lr.toNat 30 23 = 255), 28)] ++
      (match tableOf s table with
        | some x => [(recs.any fun r => decide (r.1 ≥ x.rows),
            32 + size * ((List.range recs.length).find? fun i => decide (((recs[i]?).map (·.1)).getD 0 ≥ x.rows)).getD 0)]
        | none => []))
    (fun s => tableLate s h table true) (fun _ => .rows table (.update lr recs)) (fun s => startRows s table))

def execHotsetSet (h : Hdr) (table refreshUs count : Nat) (rows : List Nat) (s : State) : Out :=
  .next (lateSync s h { code := 0x0407, isAsync := false, tenantRule := 1, sessRule := 0 } (40 + 4 * count)
    (fun s => tableMissing s table ++ [(decide (refreshUs < 100) || decide (refreshUs > 60000000), 28),
        (decide (count > 1048576), 32)] ++
      (match tableOf s table with
        | some x => [(rows.any fun r => decide (r ≥ x.rows),
                      40 + 4 * ((List.range rows.length).find? fun i => decide (lget rows i 0 ≥ x.rows)).getD 0)]
        | none => []))
    (fun s => match tableLate s h table true with
      | some a => some a
      | none => match tableOf s table with
        | some x => if hotFits s table x (rows.foldl (fun acc r => if acc.contains r then acc else r :: acc) []).length then none
                    else some (ans stNoMemory)
        | none => none)
    (fun _ => .rows table (.hotset refreshUs rows)) (fun s => startRows s table))

/-! ### Replacement (R283 to R285) -/

def execTableReplaceBegin (h : Hdr) (table : Nat) (s : State) : Out :=
  .next (syncCmd s h { code := 0x0404, isAsync := false, tenantRule := 1, sessRule := 0 } 32
    (fun s => tableMissing s table)
    (fun s => match tableLate s h table false, tableOf s table with
      | some a, _ => (s, a)
      | none, none => (s, ansD stBadParam 24)
      | none, some x =>
        if x.commit.isSome then (s, ans stWrongState)
        else if x.shadow.isSome then (s, ansB [])
        else
          let n := x.rows * roundUp (4 * ceilDiv (rowBytes x.format x.dim) 4) 64
          match takeRuns s x.die x.tenant x.slice (weightOrders (n + ceilDiv x.rows 8)) with
          | none => (s, ans stNoMemory)
          | some (rs, s) => (modTable s table fun y => { y with shadow := some [], shadowRuns := rs }, ansB [])))

def execTableReplaceRows (h : Hdr) (table count firstRow : Nat) (rows : List (List Byte)) (s : State) : Out :=
  let size := ((tableOf s table).map fun x => rowBytes x.format x.dim).getD 0
  .next (syncCmd s h { code := 0x0405, isAsync := false, tenantRule := 1, sessRule := 0 } (32 + count * size)
    (fun s => tableMissing s table ++ [(decide (count = 0), 26),
      (match tableOf s table with
        | some x => decide (firstRow + count > x.rows)
        | none => false, 28)])
    (fun s => match tableLate s h table false, tableOf s table with
      | some a, _ => (s, a)
      | none, none => (s, ansD stBadParam 24)
      | none, some x =>
        match x.shadow, x.commit with
        | some sh, none =>
          let sh := (List.range rows.length).foldl (fun m i => tput m (firstRow + i) (readRow x (lget rows i []))) sh
          (modTable s table fun y => { y with shadow := some sh }, ansB [])
        | _, _ => (s, ans stWrongState)))

/-- One supplied row replaced (R284). -/
def replaceRow (s : State) (t r : Nat) (v : H16 × H16 × List Nat) : State :=
  match tableOf s t with
  | none => s
  | some x =>
    let old := rowAt x r
    let ver := 2 * (old.ver / 2) + (1 - old.ver % 2)
    let s := writeRow s t r { ver := ver, s := v.1, o := v.2.1, payload := v.2.2, st := List.replicate (x.opt * x.dim) 0 }
    let beyond := tdef x.updatesInCommit r 0
    let s := modTable s t fun y => { y with commit := some (r + 1) }
    chargeRows { s with rows.replaced := ctrAdd s.rows.replaced 1, rows.superseded := ctrAdd s.rows.superseded beyond } x
      (roundUp (4 * ceilDiv (rowBytes x.format x.dim) 4) 64 + strideOf x.format x.dim x.opt)

/-- A commit is over: its shadow is freed and its command answered. -/
def endCommit (s : State) (t : Nat) (x : RowTable) (seq : Nat) (a : Ans) : State :=
  complete (modTable (freeRuns s x.die x.shadowRuns) t fun y =>
    { y with shadow := none, shadowRuns := [], commit := none, updatesInCommit := [] }) seq a

/-- The walk goes on by a number of rows that the spec leaves to the run, at least one (R284). -/
def walkCommit (s : State) (t : Nat) : State :=
  match tableOf s t, s.gl.jobs.find? (fun j => match j.kind with
      | .replace k _ => k == t
      | _ => false) with
  | some x, some j =>
    match x.shadow, x.commit with
    | some sh, some next =>
      if tenantLive s j.tenant = false then
        endCommit s t x j.seq (ans stNoTenant)
      else if rowsFree s x = false then rowsHold s x
      else
        let left := sh.filter fun p => decide (p.1 ≥ next)
        let go := left.take (1 + Config.count s.free)
        let s := go.foldl (fun s p => replaceRow s t p.1 p.2) (tick s)
        if go.length < left.length then s
        else
          let s := endCommit s t x j.seq (ansB (lay [(4, sh.length)]))
          if removing s t then tryRemoveTable s t else s
    | _, _ => s
  | _, _ => s

def execTableReplaceCommit (h : Hdr) (table : Nat) (s : State) : Out :=
  .next (asyncCmd s h { code := 0x0406, isAsync := true, tenantRule := 1, sessRule := 0 } 32
    (fun s => tableMissing s table)
    (fun s => match tableLate s h table true, tableOf s table with
      | some a, _ => [(true, a.status, a.detail)]
      | none, some x => [(x.shadow.isNone || x.commit.isSome, (stWrongState, 0))]
      | none, none => [])
    (fun _ => .replace table 0)
    (fun s => walkCommit (modTable s table fun x => { x with commit := some 0 }) table))

/-! ### Refreshes and the rest boundary (R277 to R279) -/

def execHotRefresh (table : Nat) (s : State) : Out :=
  .next (match tableOf s table with
    | some x => if rowsFree s x then installHot s table else rowsHold s x
    | none => s)

/-- At a rest boundary: hot areas of groups that run something else are gone, a group that starts ROWS again refills
before its first lookup, waiting work and commits go on, removals that waited end. -/
def rowsRest (s : State) : State :=
  let s := (List.range s.mill.groups.length).foldl (fun s i =>
    match s.mill.groups[i]? with
    | some g => if g.blocked ∨ g.chain ≠ [] then clearHot s i else s
    | none => s) s
  s.rows.tables.foldl (fun s p =>
    match tableOf s p.1 with
    | none => s
    | some x =>
      let s := if x.hotRows ≠ [] ∧ (rowsNow s x.die).any (fun g => !(x.hot.any fun e => e.group == g)) ∧ rowsFree s x then
          installHot s p.1 else s
      let s := walkCommit (startRows s p.1) p.1
      if removing s p.1 then tryRemoveTable s p.1 else s) s

end Sys2Proof.Machine
end

