-- ==== Sys2Proof/Machine/Sample.lean ====
section
/-! DEFINITION. The sampler: the generator of R192, the steps of R191 in the exact operations of R469, and the
acceptance of a verify pass (R195). -/
namespace Sys2Proof.Machine

/-! ### Philox-4x32-10 (R192) -/

/-- One round on four 32-bit words under a key of two. -/
def philoxRound (x : List Nat) (k0 k1 : Nat) : List Nat :=
  let p0 := 0xD2511F53 * lget' x 0
  let p1 := 0xCD9E8D57 * lget' x 2
  [(p1 / 4294967296) ^^^ lget' x 1 ^^^ k0, p1 % 4294967296, (p0 / 4294967296) ^^^ lget' x 3 ^^^ k1, p0 % 4294967296]
where
  /-- Word `i` of a block. -/
  lget' (x : List Nat) (i : Nat) : Nat := x.getD i 0

/-- Rounds with the key bumped before every round but the first. -/
def philoxRun : Nat → List Nat → Nat → Nat → List Nat
  | 0, x, _, _ => x
  | n + 1, x, k0, k1 =>
    philoxRun n (philoxRound x k0 k1) ((k0 + 0x9E3779B9) % 4294967296) ((k1 + 0xBB67AE85) % 4294967296)

/-- The 32-bit value of counter `c` and token id `i` under a 128-bit seed. -/
def philoxWord (seed c i : Nat) : Nat :=
  let k := (seed % 2 ^ 64) ^^^ (seed / 2 ^ 64 % 2 ^ 64)
  (philoxRun 10 [i / 4, c % 4294967296, c / 4294967296 % 4294967296, c / 2 ^ 64 % 4294967296]
    (k % 4294967296) (k / 4294967296)).getD (i % 4) 0

/-- u(c, i) = (x[31:8] + 0.5) × 2^−24, exact: it is not rounded to binary32, so it stays below 1. -/
def uniform (seed c i : Nat) : Num := .fin false (2 * (philoxWord seed c i / 256) + 1) (-25)

/-! ### SAMPLE (R191, R469) -/

/-- The sampling fields of a generate (R50). -/
structure SampleParams where
  temperature : F32
  topP : F32
  minP : F32
  repPenalty : F32
  topK : Nat
  eosEnds : Bool
  eos : Nat

/-- The result of one SAMPLE. -/
inductive SampleOut where
  | dead
  | token (t : Nat)
deriving DecidableEq, Repr

/-- Ids in descending order of their value, the lower id first among equals. -/
def byValue (z : List (Nat × F32)) : List (Nat × F32) :=
  z.foldl (fun acc a => ins a acc) []
where
  /-- Insertion behind every value that is not smaller. -/
  ins (a : Nat × F32) : List (Nat × F32) → List (Nat × F32)
    | [] => [a]
    | b :: l => if f32Lt b.2 a.2 then a :: b :: l else b :: ins a l

/-- The id with the greatest value, the lower id among equals. -/
def argmax (z : List (Nat × F32)) : Option Nat :=
  (z.foldl (fun (best : Option (Nat × F32)) a => match best with
    | none => some a
    | some b => if f32Lt b.2 a.2 then some a else some b) none).map (·.1)

/-- The logits after the grammar mask, the repetition penalty and the EOS rule. -/
def maskedLogits (p : SampleParams) (logits : List F32) (allowed : Nat → Bool) (ring : List Nat) : List (Nat × F32) :=
  let recent := ring.drop (ring.length - 1024)
  (List.range logits.length).map fun i =>
    let z := if allowed i then logits.getD i 0 else f32NegInf
    let z := if recent.contains i then (if f32Lt 0 z then f32Div z p.repPenalty else f32Mul z p.repPenalty) else z
    (i, if p.eosEnds = false ∧ i = p.eos then f32NegInf else z)

/-- The shortest prefix whose running mass over the total reaches `topP`. -/
def nucleus (topP : F32) (cand : List (Nat × F32)) : List (Nat × F32) :=
  match cand with
  | [] => []
  | c :: _ =>
    let w := cand.map fun x => f32Exp (f32Sub x.2 c.2)
    let total := pairSum w
    go total topP 0 cand w
where
  /-- The kept candidates, with the mass of those before. -/
  go (total topP s : F32) : List (Nat × F32) → List F32 → List (Nat × F32)
    | x :: xs, w :: ws =>
      let s := f32Add s w
      if f32Le topP (f32Div s total) then [x] else x :: go total topP s xs ws
    | l, _ => l

/-- The candidates of R191 with their values, after temperature, min_p, top_k and top_p. -/
def candidates (p : SampleParams) (z : List (Nat × F32)) : List (Nat × F32) :=
  let z := z.map fun x => (x.1, f32Div x.2 p.temperature)
  let m := z.foldl (fun (a : F32) x => if f32Lt a x.2 then x.2 else a) f32NegInf
  let z := if f32Lt 0 p.minP then
      let t := f32Add m (f32Ln p.minP)
      z.map fun x => if f32Lt x.2 t then (x.1, f32NegInf) else x
    else z
  let c := z.filter fun x => x.2 != f32NegInf
  if p.topK > 0 ∨ f32Lt p.topP f32One then
    let c := (byValue c).take (min (if p.topK = 0 then 256 else p.topK) c.length)
    if f32Lt p.topP f32One then nucleus p.topP c else c
  else c

/-- The Gumbel key of R469. -/
def gumbel (z : F32) (u : Num) : F32 := f32Sub z (f32Ln (f32Neg (lnNum u)))

/-- The draw over candidates at counter `c`; equal keys go to the lower id. -/
def drawFrom (seed c : Nat) (cand : List (Nat × F32)) : Option Nat :=
  let k := cand.map fun x => (x.1, gumbel x.2 (uniform seed c x.1))
  let best := k.foldl (fun (b : Option (Nat × F32)) a => match b with
    | none => some a
    | some b => if f32Lt b.2 a.2 ∨ (f32Lt a.2 b.2 = false ∧ a.1 < b.1) then some a else some b) none
  best.map (·.1)

/-- The NaN results among the binary32 operations of a SAMPLE on masked logits `z` (R76): the penalised values, the values over
the temperature, the min_p threshold, the weights of top_p and the Gumbel keys. -/
def sampleNans (p : SampleParams) (seed c : Nat) (z : List (Nat × F32)) (ring : List Nat) : Nat :=
  let nans (l : List (Nat × F32)) : Nat := countBy (fun x => f32IsNan x.2) l
  let pen := nans (z.filter fun x => (ring.drop (ring.length - 1024)).contains x.1)
  if (ofF32 p.temperature).isZero then pen
  else
    let t := z.map fun x => (x.1, f32Div x.2 p.temperature)
    let cand := candidates p z
    let m := t.foldl (fun (a : F32) x => if f32Lt a x.2 then x.2 else a) f32NegInf
    pen + nans t + (if f32Lt 0 p.minP && f32IsNan (f32Add m (f32Ln p.minP)) then 1 else 0) +
    (if f32Lt p.topP f32One then nans (cand.map fun x => (x.1, f32Exp (f32Sub x.2 (cand.headD (0, 0)).2))) else 0) +
    nans (cand.map fun x => (x.1, gumbel x.2 (uniform seed c x.1)))

/-- SAMPLE at counter `c`; the counter advances unless the grammar is dead. -/
def sample (p : SampleParams) (seed c : Nat) (logits : List F32) (allowed : Nat → Bool) (ring : List Nat) : SampleOut :=
  let z := maskedLogits p logits allowed ring
  if z.all fun x => x.2 == f32NegInf then .dead
  else if (ofF32 p.temperature).isZero then (match argmax z with
    | some t => .token t
    | none => .dead)
  else match drawFrom seed c (candidates p z) with
    | some t => .token t
    | none => .dead

/-! ### Verify passes (R195, R469) -/

/-- Probabilities within a candidate set, in token-id order. -/
def probs (cand : List (Nat × F32)) : List (Nat × F32) :=
  let l := (List.range (cand.foldl (fun n x => max n (x.1 + 1)) 0)).filterMap fun i => cand.find? fun x => x.1 == i
  let m := l.foldl (fun (a : F32) x => if f32Lt a x.2 then x.2 else a) f32NegInf
  let w := l.map fun x => (x.1, f32Exp (f32Sub x.2 m))
  let t := pairSum (w.map (·.2))
  w.map fun x => (x.1, f32Div x.2 t)

def probOf (d : List (Nat × F32)) (t : Nat) : F32 := ((d.find? fun x => x.1 == t).map (·.2)).getD 0

/-- Draft token `d` at index `i` (from 1) of a pass whose draft samples ended at counter `c` is accepted. -/
def accepts (seed c i : Nat) (main draft : List (Nat × F32)) (d : Nat) : Bool :=
  (uniform seed (c + i - 1) 0).lt (ofF32 (f32Div (probOf main d) (probOf draft d)))

/-- The extra token after a rejection: a draw from max(0, p − q) at counter `c` + k. -/
def residualDraw (seed c k : Nat) (main draft : List (Nat × F32)) : Option Nat :=
  let r := main.filterMap fun x =>
    let v := f32Sub x.2 (probOf draft x.1)
    if f32Lt 0 v then some (x.1, f32Ln v) else none
  drawFrom seed (c + k) r

/-- What one position of a verify pass compares: the main's masked logits, the draft's, and the draft token. -/
structure VerifyRow where
  main : List (Nat × F32)
  draft : List (Nat × F32)
  token : Nat

/-- Draft token `i` (from 1) of a pass is accepted: at temperature 0 if it is the main's result (R195). -/
def rowAccepts (p : SampleParams) (seed c i : Nat) (r : VerifyRow) : Bool :=
  if (ofF32 p.temperature).isZero then argmax r.main == some r.token
  else accepts seed c i (probs (candidates p r.main)) (probs (candidates p r.draft)) r.token

/-- Tokens accepted from index `i` on: up to the first rejection, and to the first accepted EOS if EOS ends. -/
def acceptRun (p : SampleParams) (seed c : Nat) : Nat → List VerifyRow → List Nat
  | _, [] => []
  | i, r :: l =>
    if rowAccepts p seed c i r = false then []
    else if p.eosEnds ∧ r.token = p.eos then [r.token]
    else r.token :: acceptRun p seed c (i + 1) l

/-- The token after the accepted ones, if any (R195): from the residual after a rejection, from the main's last row after
full acceptance; after an accepted EOS none is sampled (DEDUCED, log 91: the rule names only the other two cases). -/
def extraToken (p : SampleParams) (seed c : Nat) (rows : List VerifyRow) (last : List (Nat × F32)) (acc : List Nat) : Option Nat :=
  let zero := (ofF32 p.temperature).isZero
  if p.eosEnds ∧ acc.getLast? = some p.eos then none
  else match rows[acc.length]? with
    | some r =>
      if r.main.all fun x => x.2 == f32NegInf then none
      else if zero then argmax r.main
      else residualDraw seed c rows.length (probs (candidates p r.main)) (probs (candidates p r.draft))
    | none =>
      if last.all fun x => x.2 == f32NegInf then none
      else if zero then argmax last else drawFrom seed (c + rows.length) (candidates p last)

end Sys2Proof.Machine
end

