-- ==== Sys2Proof/Machine/Tile.lean ====
section
/-! DEFINITION. What each slot op computes on tile SRAM and HBM (R16, R62, R64, R66 to R83, R90 to R92, R95, R105, R106, R187,
R191, R195, R231). The order of elements in SRAM, of the cells of an ATTEND op and of the sampler's operands are presumed
(log entry 23). -/
namespace Sys2Proof.Machine

def tileAt (s : State) (t : Nat) : Tile := lget s.mill.tiles t default

def modTile (s : State) (t : Nat) (f : Tile → Tile) : State := { s with mill.tiles := lmod s.mill.tiles t f }

/-- Bytes of a tile's SRAM from `a`. -/
def sread (m : Mem) (a n : Nat) : Nat := leNat (mread m a n)

/-- Element `i` of width `w` bits of an array at `a` (R67). -/
def elemCode (m : Mem) (a w i : Nat) : Nat := sread m (a + w * i / 8) 3 / 2 ^ (w * i % 8) % 2 ^ w

def f32At (m : Mem) (a i : Nat) : F32 := BitVec.ofNat 32 (sread m (a + 4 * i) 4)
def h16At (m : Mem) (a i : Nat) : H16 := BitVec.ofNat 16 (sread m (a + 2 * i) 2)

/-- The value of a code of an operand format (R65, R91). -/
def codeNum (fmt c : Nat) : Num :=
  match fmt with
  | 0x01 => decodeNum fmtE2M1 c
  | 0x02 => decodeNum fmtE2M3 c
  | 0x03 => decodeNum fmtE3M2 c
  | 0x04 => decodeNum fmtE4M3 c
  | 0x05 => decodeNum fmtE5M2 c
  | 0x06 => decodeNum fmtE4M3 c
  | 0x07 => decodeNum fmtE5M2 c
  | 0x08 => if c ≥ 128 then .fin true (256 - c) 0 else .fin false c 0
  | 0x09 => decodeNum fmtBF16 c
  | 0x0A => decodeNum fmtFP16 c
  | 0x0B => decodeNum fmtF32 c
  | _ => .fin false c 0

/-- Row `r` of a matrix of `k` elements a row. -/
def rowNums (m : Mem) (a fmt k r : Nat) : List Num :=
  (List.range k).map fun i => codeNum fmt (if fmt = 0x0B then sread m (a + 4 * (r * k + i)) 4 else elemCode m a (fmtBits fmt) (r * k + i))

/-- An E8M0 scale (R65, R66). -/
def scaleNum (b : Nat) : Num := if b = 255 then .nan else .fin false 1 ((b : Int) - 127)

/-- The MX scale of block `j` of row `r`; an array address of 0 names none. -/
def mxScale (m : Mem) (a k r j : Nat) : Num :=
  if a = 0 then .fin false 1 0 else scaleNum (sread m (a + r * ceilDiv k 32 + j) 1)

/-- A saturating 32-bit sum of integer products, with its saturations (R74). -/
def intDot (ps : List Int) : Int × Nat :=
  ps.foldl (fun acc p =>
    let v := acc.1 + p
    if v > 2147483647 then (2147483647, acc.2 + 1) else if v < -2147483648 then (-2147483648, acc.2 + 1) else (v, acc.2)) (0, 0)

def numInt : Num → Int
  | .fin n m e => if e ≥ 0 then signed n (m * 2 ^ e.toNat) else 0
  | _ => 0

/-- Bytes of a converted result of format `fmt`. -/
def outBytes (fmt : Nat) (c : Nat) : List Byte := leBytes (fmtBits fmt / 8) c

/-- The bytes written by an op, the cells it leaves in its accumulator set, and what it adds to the counters TILE_IOVF,
TILE_SAT and TILE_NAN. A NaN counts once for each result a rule names: an element read out, a result of a vector or
special-function op, and in an ATTEND each z, exp, p, ps, acc and l, and each output element (DESIGN CHOICE, log 105). -/
structure TileOut where
  writes : List (Nat × List Byte)
  iovf : Nat
  sat : Nat
  nan : Nat
  acc : List (Nat × F32) := []
deriving Repr, Inhabited

/-- Results converted one after the other (R76). -/
def convAll (fmt : Nat) (xs : List F32) : List Byte × Nat × Nat :=
  xs.foldl (fun acc x =>
    let c := convFloat fmt x
    (acc.1 ++ outBytes fmt c.val, acc.2.1 + c.sat, acc.2.2 + c.nan)) ([], 0, 0)

/-! ### MMA (R69 to R75, R91) -/

/-- One accumulator after the whole contraction of a row of A and a column of B (R72, R73). -/
def mmaAcc (cls : Nat) (as bs : List Num) (sa sb : Nat → Num) : F32 :=
  let ps := as.zipWith Num.mul bs
  if cls ≤ 3 then
    let rs := runsOf 32 ps.length ps
    (List.range rs.length).foldl (fun acc j => addRun32 acc (rs.getD j []) ((sa j).mul (sb j))) 0
  else if cls = 4 then (runsOf 32 ps.length ps).foldl (fun acc r => addRun32 acc r (.fin false 1 0)) 0
  else (runsOf 8 ps.length ps).foldl addRun8 0

/-- One accumulator at the end of an op, with its integer saturations: a binary32 value, or for INT8 the 32-bit whole number
(R72 to R74). -/
def mmaCell (m : Mem) (p : List Byte) (as bs : List Num) (r c : Nat) : F32 × Nat :=
  let k := fld p 8 4
  let cls := fmtClass (fld p 0 1)
  if cls = 5 then
    let d := intDot (as.zipWith (fun a b => numInt a * numInt b) bs)
    (BitVec.ofInt 32 d.1, d.2)
  else (mmaAcc cls as bs (mxScale m (fld p 16 4) k r) (mxScale m (fld p 20 4) k c), 0)

/-- Whether an op's B is coded: its sum column then holds Σ a (R75). -/
def codedB (p : List Byte) : Bool := fmtClass (fld p 1 1) == 9 || fmtClass (fld p 1 1) == 10

def rowSum (as : List Num) : F32 := dot8 as (as.map fun _ => .fin false 1 0)

/-- The readout of one accumulator of column `c` (R75). -/
def mmaRead (m : Mem) (p : List Byte) (acc sum : F32) (c : Nat) : F32 :=
  let alpha : F32 := BitVec.ofNat 32 (fld p 12 4)
  if fmtClass (fld p 0 1) = 5 then f32Mul alpha (f32OfInt acc.toInt)
  else if codedB p then
    let so := fld p 24 4
    f32Mul alpha (f32Fma (toF32 (ofBF16 (h16At m so (2 * c)))) acc (f32Mul (toF32 (ofBF16 (h16At m so (2 * c + 1)))) sum))
  else f32Mul alpha acc

def runMma (m : Mem) (p : List Byte) (o : Op) : TileOut :=
  let rows := fld p 3 1
  let cols := fld p 4 2
  let k := fld p 8 4
  let as := (List.range rows).map fun r => rowNums m o.w0 (fld p 0 1) k r
  let bs := (List.range cols).map fun c => rowNums m o.w1 (fld p 1 1) k c
  let sums := as.map rowSum
  let cells := (List.range rows).flatMap fun r => (List.range cols).map fun c =>
    (r, c, mmaCell m p (lget as r []) (lget bs c []) r c)
  let (bytes, sat, nan) := convAll (fld p 2 1) (cells.map fun x => mmaRead m p x.2.2.1 (lget sums x.1 0) x.2.1)
  { writes := [(o.w2, bytes)], iovf := sumBy (fun x => x.2.2.2) cells, sat := sat, nan := nan,
    acc := cells.map (fun x => (129 * x.1 + x.2.1, x.2.2.1)) ++
      (if codedB p then (List.range rows).map fun r => (129 * r + 128, lget sums r 0) else []) }

/-! ### ATTEND (R81 to R83, R92) -/

def countNan (xs : List F32) : Nat := countBy f32IsNan xs

/-- Softmax state of one row: m, l, acc, and the NaN results so far. -/
structure AttState where
  m : F32
  l : F32
  acc : List F32
  nan : Nat
deriving Inhabited

/-- One chunk of a row. -/
structure AttChunk where
  first : Nat
  len : Nat
  sK : F32
  oK : F32
  sV : F32
  oV : F32
  key : Nat → List Num
  val : Nat → List Num

/-- The accumulation over one chunk (R81). Each product and each sum of the pseudocode rounds once: a × acc rounds, then the
sum with the readout (DESIGN CHOICE, log 105: R81 does not say whether they are fused). -/
def attStep (tau : F32) (lastPos : Nat) (q : List Num) (st : AttState) (c : AttChunk) : AttState :=
  let qs := rowSum q
  let js := List.range c.len
  let z := js.map fun j =>
    if c.first + j ≤ lastPos then f32Mul tau (f32Fma c.sK (dot8 q (c.key j)) (f32Mul c.oK qs)) else f32NegInf
  let mNew := z.foldl f32Max st.m
  if mNew = f32NegInf then st
  else
    let a := sfuExp (f32Sub st.m mNew)
    let es := z.map fun v => sfuExp (f32Sub v mNew)
    let ps := es.map fun v => ofBF16 (toBF16 v)
    let tot := rowSum ps
    let acc := (List.range st.acc.length).map fun d =>
      let v := dot8 ps (js.map fun j => (c.val j).getD d (.fin false 0 0))
      f32Add (f32Mul a (st.acc.getD d 0)) (f32Fma c.sV v (f32Mul c.oV tot))
    let l := f32Add (f32Mul a st.l) tot
    { m := mNew, l := l, acc := acc,
      nan := st.nan + countNan (z ++ es ++ [a, tot, l] ++ acc) + countBy Num.isNan ps }

/-- The output row: acc × reciprocal(l) where l > 0, else zeros (R81, R82). -/
def attOut (st : AttState) : List F32 :=
  if f32Lt 0 st.l then st.acc.map fun a => f32Mul a (sfuRecip st.l) else st.acc.map fun _ => 0

/-- Chunk `j` of band `b`. -/
def attChunk (m : Mem) (p : List Byte) (o : Op) (b j : Nat) : AttChunk :=
  let d := attDim (fld p 0 1)
  let w := fld p 6 1
  let cell := b * fld p 4 2 + j
  let base := o.w1 + cell * (256 * d * w / 8)
  let so := fld p 16 4 + 8 * cell
  let cm := fld p 20 4 + 8 * cell
  let wide (i : Nat) : F32 := toF32 (ofBF16 (h16At m so i))
  let codes (off j : Nat) : List Num := (List.range d).map fun i => .fin false (elemCode m base w (off + j * d + i)) 0
  { first := sread m cm 4, len := min 128 (sread m (cm + 4) 4), sK := wide 0, oK := wide 1, sV := wide 2, oV := wide 3,
    key := codes 0, val := codes (128 * d) }

def runAttend (m : Mem) (p : List Byte) (o : Op) : TileOut :=
  let d := attDim (fld p 0 1)
  let h := fld p 1 1
  let bands := fld p 2 1
  let fmt := fld p 3 1
  let first := bit (fld p 7 1) 0
  let last := bit (fld p 7 1) 1
  let tau : F32 := BitVec.ofNat 32 (fld p 8 4)
  let rowB := d * fmtBits fmt / 8
  let stBase := o.w2 + h * bands * rowB
  let outs := (List.range (h * bands)).map fun i =>
    let q := rowNums m o.w0 0x09 d i
    let sa := stBase + i * (8 + 4 * d)
    let st0 : AttState := if first then { m := f32NegInf, l := 0, acc := List.replicate d 0, nan := 0 }
      else { m := f32At m sa 0, l := f32At m sa 1, acc := (List.range d).map fun k => f32At m sa (2 + k), nan := 0 }
    let st := (List.range (fld p 4 2)).foldl (fun st j =>
      attStep tau (sread m (fld p 12 4 + 4 * i) 4) q st (attChunk m p o (i / max 1 h) j)) st0
    let state := (st.m :: st.l :: st.acc).flatMap fun v => leBytes 4 v.toNat
    if last then
      let (bytes, sat, nan) := convAll fmt (attOut st)
      ([(o.w2 + i * rowB, bytes), (sa, state)], sat, st.nan + nan)
    else ([(sa, state)], 0, st.nan)
  { writes := outs.flatMap (·.1), iovf := 0, sat := sumBy (·.2.1) outs, nan := sumBy (·.2.2) outs }

/-! ### VEC, VREDUCE, SFU (R76 to R80) -/

def f32Bytes (xs : List F32) : List Byte := xs.flatMap fun v => leBytes 4 v.toNat

/-- CONVERT: the codes, saturations and NaN results. A target of coded values takes its (s, o) pair from SRAM at `w1`
(PRESUMED, log 23). A NaN that becomes INT8 0 or code 0 counts as a NaN result (DESIGN CHOICE, log 105). -/
def convertTo (m : Mem) (p : List Byte) (o : Op) (xs : List F32) : List Byte × Nat × Nat :=
  let fmt := fld p 4 1
  if fmt = 0x08 then
    let cs := xs.map convInt8
    (cs.map fun c => BitVec.ofNat 8 c.val, sumBy (·.sat) cs, sumBy (·.nan) cs)
  else if fmt = 0x0C ∨ fmt = 0x0D then
    let w := fmtBits fmt
    let cs := xs.map fun x => encodeClamp w (h16At m o.w1 0) (h16At m o.w1 1) x
    (packCodes w (cs.map (·.1)), countBy (·.2) cs, countNan xs)
  else convAll fmt xs

/-- VEC; the codes of `op_flags` are 0 FMA, 1 ADD, 2 MUL, 3 MAX, 4 CONVERT, 5 TO_MX, of VREDUCE 0 sum and 1 maximum, of SFU
0 exp, 1 reciprocal and 2 rsqrt (DESIGN CHOICE, log 105: R90 names the functions and no codes). A NaN block of TO_MX counts
its 32 elements (log 105). -/
def runVec (m : Mem) (p : List Byte) (o : Op) : TileOut :=
  let n := fld p 0 4
  let ins (a : Nat) : List F32 := (List.range n).map fun i => f32At m a i
  let two (f : F32 → F32 → F32) : TileOut :=
    let r := (ins o.w0).zipWith f (ins o.w1)
    { writes := [(o.w2, f32Bytes r)], iovf := 0, sat := 0, nan := countNan r }
  match o.flags with
  | 0 =>
    let r := (List.range n).map fun i => f32Fma (f32At m o.w0 i) (f32At m o.w1 i) (f32At m o.w2 i)
    { writes := [(o.w2, f32Bytes r)], iovf := 0, sat := 0, nan := countNan r }
  | 1 => two f32Add
  | 2 => two f32Mul
  | 3 => two f32Max
  | 4 =>
    let (bytes, sat, nan) := convertTo m p o (ins o.w0)
    { writes := [(o.w2, bytes)], iovf := 0, sat := sat, nan := nan }
  | _ =>
    let bs := (runsOf 32 n (ins o.w0)).map (toMx (fld p 4 1))
    let w := fmtBits (fld p 4 1)
    { writes := [(o.w2, packCodes w (bs.flatMap (·.2.1))),
                 (o.w2 + ceilDiv (n * w) 8, bs.map fun b => BitVec.ofNat 8 b.1)],
      iovf := 0, sat := sumBy (·.2.2) bs, nan := 32 * countBy (fun b => b.1 == 255) bs }

/-- Lane sums of rows of 128 values, missing lanes holding `z`, then the tree (R80). How a count other than 128 meets the lanes
is a DESIGN CHOICE (log 105). -/
def laneReduce (f : F32 → F32 → F32) (z : F32) (xs : List F32) : F32 :=
  let rows := runsOf 128 xs.length xs
  let pad (r : List F32) : List F32 := r ++ List.replicate (128 - r.length) z
  match rows with
  | [] => z
  | r :: rs => pairTree f 64 (rs.foldl (fun acc r => acc.zipWith f (pad r)) (pad r))

def runReduce (m : Mem) (p : List Byte) (o : Op) : TileOut :=
  let xs := (List.range (fld p 0 4)).map fun i => f32At m o.w0 i
  let v := if o.flags = 0 then laneReduce f32Add 0 xs else laneReduce f32Max f32NegInf xs
  { writes := [(o.w2, leBytes 4 v.toNat)], iovf := 0, sat := 0, nan := countNan [v] }

def runSfu (m : Mem) (p : List Byte) (o : Op) : TileOut :=
  let f := if o.flags = 0 then sfuExp else if o.flags = 1 then sfuRecip else sfuRsqrt
  let r := (List.range (fld p 0 4)).map fun i => f (f32At m o.w0 i)
  { writes := [(o.w2, f32Bytes r)], iovf := 0, sat := 0, nan := countNan r }

/-! ### SAMPLE (R191, R195, R231) on the sampler state in SRAM -/

/-- What SAMPLE reads of the state at `w1` (the bytes of `stateView`) and of its parameter record. -/
structure Sampler where
  p : SampleParams
  seed : Nat
  ctr : Nat
  ring : List Nat
  gram : Bool
  /-- the common bytes of the session's records (R187) -/
  head : List Byte
  /-- address of the first slot of the mask window, and bytes of a mask -/
  slot : Nat
  mb : Nat

def readSampler (m : Mem) (vocab : Nat) (p : List Byte) (o : Op) : Sampler :=
  let a := o.w1
  let at32 (i : Nat) : F32 := BitVec.ofNat 32 (sread m (a + 64 + i) 4)
  let head := sread m (a + 4) 2
  let count := sread m (a + 6) 2
  { p := { temperature := at32 4, topP := at32 8, minP := at32 12, repPenalty := at32 16, topK := sread m (a + 84) 2,
           eosEnds := bit (sread m (a + 91) 1) 0, eos := fld p 0 4 },
    seed := sread m (a + 16464) 16, ctr := sread m (a + 16480) 16,
    ring := (List.range count).map fun i => sread m (a + 128 + 4 * ((head + 2048 - count + i) % 2048)) 4,
    gram := sread m (a + 12298) 1 == 1, head := mread m (a + 16512) 8, slot := fld p 4 4, mb := maskBytes vocab }

def Sampler.slotAt (q : Sampler) (i : Nat) : Nat := q.slot + i * (64 + 2 * q.mb)

def windowBit (m : Mem) (a t : Nat) : Bool := bit (sread m (a + t / 8) 1) (t % 8)

/-- Whether slot `i` allows token `t`: in the mask, and at the depth limit not in the grow mask (R231). -/
def Sampler.allows (q : Sampler) (m : Mem) (i t : Nat) : Bool :=
  !q.gram || (windowBit m (q.slotAt i + 64) t &&
    !(bit (sread m (q.slotAt i + 4) 1) 1 && windowBit m (q.slotAt i + 64 + q.mb) t))

/-- `grammar_state` of token `t` sampled under slot `i`: trans_base and the mask's bits below t (R231). -/
def Sampler.trans (q : Sampler) (m : Mem) (i t : Nat) : Nat :=
  if q.gram then sread m (q.slotAt i) 4 + countBy (windowBit m (q.slotAt i + 64)) (List.range t) else 0xFFFFFFFF

/-- The body of a STEP_RESULT (R187). -/
def stepBody (token flags gs : Nat) : List Byte := leBytes 4 token ++ leBytes 1 flags ++ [0, 0, 0] ++ leBytes 4 gs

/-- SAMPLE of a step: a whole STEP_RESULT record at `w2`; in a prefill segment the common bytes at `w2` and the body at
`w2` + 16, where a CHUNK_DONE record has it (PRESUMED, log 23). The counter advances unless the step is dead. -/
def sampleStep (m : Mem) (phase vocab : Nat) (q : Sampler) (o : Op) : TileOut :=
  let logits := (List.range vocab).map fun i => f32At m o.w0 i
  let allowed := q.allows m 0
  let nans := sampleNans q.p q.seed q.ctr (maskedLogits q.p logits allowed q.ring) q.ring
  let put (body : List Byte) : List (Nat × List Byte) :=
    if phase = 0 then [(o.w2, q.head), (o.w2 + 16, body)] else [(o.w2, fitTo 64 (q.head ++ body))]
  match sample q.p q.seed q.ctr logits allowed q.ring with
  | .dead => { writes := put (stepBody 0 2 0xFFFFFFFF), iovf := 0, sat := 0, nan := nans }
  | .token t =>
    { writes := put (stepBody t (1 + (if t = q.p.eos then 4 else 0)) (q.trans m 0 t)) ++ [(o.w1 + 16480, leBytes 16 (q.ctr + 1))],
      iovf := 0, sat := 0, nan := nans }

/-- SAMPLE of a verify pass: k draft tokens, k rows of the draft's logits, k + 1 rows of the main's, and the VERIFY_RESULT
record at `w2` (R187, R195). The ring at position i holds the draft tokens before it. -/
def sampleVerify (m : Mem) (vocab : Nat) (p : List Byte) (q : Sampler) (o : Op) : TileOut :=
  let k := fld p 8 1
  let base := q.ring.take (q.ring.length - k)
  let ds := (List.range k).map fun i => sread m (fld p 12 4 + 4 * i) 4
  let ringAt (i : Nat) : List Nat := base ++ ds.take i
  let masked (a i : Nat) : List (Nat × F32) :=
    maskedLogits q.p ((List.range vocab).map fun t => f32At m (a + 4 * vocab * i) t) (q.allows m i) (ringAt i)
  let rows := (List.range k).map fun i => { main := masked o.w0 i, draft := masked (fld p 16 4) i, token := lget ds i 0 : VerifyRow }
  let last := masked o.w0 k
  let acc := acceptRun q.p q.seed q.ctr 1 rows
  let extra := extraToken q.p q.seed q.ctr rows last acc
  let out := acc ++ extra.toList
  let gs := match out.getLast? with
    | some t => q.trans m (out.length - 1) t
    | none => 0xFFFFFFFF
  { writes := [(o.w2, fitTo 64 (q.head ++ leBytes 1 acc.length ++ leBytes 1 out.length ++ [0, 0] ++ out.flatMap (leBytes 4) ++
                 leBytes 4 gs)),
               (o.w1 + 16480, leBytes 16 (q.ctr + k + 1))],
    iovf := 0, sat := 0,
    nan := sumBy (fun i => sampleNans q.p q.seed (q.ctr + i) (masked o.w0 i) (ringAt i)) (List.range (k + 1)) }

def runSample (m : Mem) (phase vocab : Nat) (p : List Byte) (o : Op) : TileOut :=
  let q := readSampler m vocab p o
  if phase = 2 then sampleVerify m vocab p q o else sampleStep m phase vocab q o

/-! ### One op of an entry -/

/-- What a tile op writes in its own tile. -/
def tileOp (m : Mem) (g : Segment) (vocab : Nat) (o : Op) : TileOut :=
  let p := pblkOf g o.pblk
  match o.op with
  | 0x10 => runMma m p o
  | 0x11 => runAttend m p o
  | 0x20 => runVec m p o
  | 0x21 => runReduce m p o
  | 0x22 => runSfu m p o
  | 0x23 => runSample m g.phase vocab p o
  | 0x30 => { writes := [(o.w2, mread m o.w0 (fld p 0 4))], iovf := 0, sat := 0, nan := 0 }
  | _ => { writes := [], iovf := 0, sat := 0, nan := 0 }

/-- An accumulator set with new values in some cells (R61). -/
def setCells (old : List F32) (cells : List (Nat × F32)) : List F32 :=
  (List.range 8256).map fun i => match cells.find? fun c => c.1 == i with
    | some c => c.2
    | none => lget old i 0

/-- A tile's SRAM, accumulators and counters after an op: an MMA leaves its values in one set and the next takes the other
(R61, R91). What an ATTEND leaves in them is not held: nothing reads them (log 105). -/
def applyOut (t : Tile) (r : TileOut) : Tile :=
  { t with
    sram := r.writes.foldl (fun m w => mwrite m w.1 w.2) t.sram
    accs := if r.acc = [] then t.accs else
      (List.range 2).map fun i => if i = t.accSel % 2 then setCells (lget t.accs i []) r.acc else lget t.accs i []
    accSel := if r.acc = [] then t.accSel else (t.accSel + 1) % 2
    iovf := ctrAdd t.iovf r.iovf, sat := ctrAdd t.sat r.sat, nan := ctrAdd t.nan r.nan }

/-! ### Copies (R95, R96, R105, R106, R204) -/

/-- The pages a segment's KV copies reach: the session's, or its draft pages in a segment of the draft model (R197). -/
def pagesFor (g : Segment) (x : Sess) : List Page := if x.model = g.model then x.pages else x.blk.draftPages

/-- The draft tokens that the items of an entry have had reported for a session (R195). -/
def draftsFor (s : State) (e : Entry) (x : Sess) : List Nat :=
  ((e.items.filterMap (itemOf s)).filter fun it => it.sess == x.idx).flatMap fun it => it.drafts.map (·.1)

/-- A session as the tiles see it in a speculative chain: the drafts follow in the ring, the counter has advanced past them,
and a draft step goes on from the last of them (DEDUCED, log 91). -/
def sessSeen (s : State) (g : Segment) (e : Entry) (x : Sess) : Sess :=
  let ds := draftsFor s e x
  let b := pushRing x.blk ds
  { x with blk := if x.model ≠ g.model ∧ ds ≠ [] then { b with lastToken := ds.getLast? } else b }

/-- Bytes of the datum behind a descriptor, from an offset on; none where the descriptor's kind has no bytes (log 48). -/
def viewBytes (s : State) (g : Segment) (e : Entry) (ds : Desc) (off n : Nat) : Option (List Byte) :=
  match ds.kind with
  | 1 => (modelOf s g.model).map fun k => viewAt k.weights off n
  | 2 => (sessByHandle s ds.object).map fun x =>
      viewAt (pageListBytes (hdrFor s g) x.homeDie (if x.model = g.model then x.pageList else x.blk.draftList) (pagesFor g x)) off n
  | 3 => some (mread s.mill.hbm (ds.base * 4096 + off) n)
  | 4 => (sessByHandle s ds.object).map fun x =>
      let at_ := e.items.findIdx? fun i => (itemOf s i).any fun it => it.sess == x.idx
      viewAt (stateView (sessSeen s g e x) (x.rng + (draftsFor s e x).length) (at_.getD 0)) off n
  | 5 => (tget s.rows.tables ds.object).map fun t => tableView t off n
  | 7 => (sessByHandle s ds.object).map fun x => viewAt (windowOf (hdrFor s g).vocabSize x.blk) off n
  | 8 => some ((List.range n).map fun i => Config.stagedByte g.digest (off + i))
  | _ => none
where
  hdrFor (s : State) (g : Segment) : ModelHdr := ((modelOf s g.model).map (·.hdr)).getD default

/-- The writes in SRAM of a copy into it. -/
def copyIn (s : State) (g : Segment) (e : Entry) (i : Nat) (c : CopyEnt) (ds : Desc) : List (Nat × List Byte) :=
  if c.kind = 5 then [(c.sram, (List.range c.bytes).map (Config.fabricIn e.id i))]
  else if c.kind = 2 then
    (match sessByHandle s ds.object with
      | some x => (gatherKv (viewBytes.hdrFor s g) (pagesFor g x) c.offset c.bytes).map fun w => (c.sram + w.1, w.2)
      | none => [])
  else match viewBytes s g e ds c.offset c.bytes with
    | some bs => [(c.sram, bs)]
    | none => []

/-- Bytes of a sequence replaced from `off` on; nothing past its end. -/
def overlay (old : List Byte) (off : Nat) (bs : List Byte) : List Byte :=
  (old.take off ++ bs ++ old.drop (off + bs.length)).take old.length

/-- The KV positions a prefill entry writes for a session: first and past the last. -/
def copySpan (s : State) (e : Entry) (x : Sess) : Nat × Nat :=
  ((e.items.filterMap (itemOf s)).filter fun it => it.sess == x.idx).foldl (fun (sp : Nat × Nat) it =>
    match it.kind with
    | .chunk f toks _ =>
      let a := kvPos x f
      if sp.1 = sp.2 then (a, a + toks.length) else (min sp.1 a, max sp.2 (a + toks.length))
    | _ => sp) (0, 0)

/-- A SCATTER_KV: the codes written, and the pairs of pages that it is the first to write fixed (R189). -/
def scatterTo (s : State) (g : Segment) (e : Entry) (c : CopyEnt) (x : Sess) (bs : List Byte) : State :=
  let h := viewBytes.hdrFor s g
  let ps := pagesFor g x
  let span := copySpan s e x
  let hit := (kvSpots h ps c.offset bs.length).map (·.page)
  let new := (List.range ps.length).map fun j =>
    let p := lget (scatterKv h ps c.offset bs) j default
    if hit.contains j then fixPairs s.free h (decide (span.1 ≤ p.first ∧ p.first + 2 ^ p.k ≤ span.2)) p else p
  modSess (tick s) x.idx fun y =>
    if y.model = g.model then { y with pages := new } else { y with blk := { y.blk with draftPages := new } }

/-- What a copy out of SRAM writes through a descriptor. -/
def copyOut (s : State) (g : Segment) (e : Entry) (c : CopyEnt) (ds : Desc) (bs : List Byte) : State :=
  if c.kind = 3 then
    (match sessByHandle s ds.object with
      | some x => scatterTo s g e c x bs
      | none => s)
  else match ds.kind with
    | 1 => { s with models.models := tmod s.models.models g.model fun k => { k with weights := overlay k.weights c.offset bs } }
    | 3 => { s with mill.hbm := mwrite s.mill.hbm (ds.base * 4096 + c.offset) bs }
    | 4 =>
      (match sessByHandle s ds.object with
        | some x => modSess s x.idx fun y => { y with blk := putBlock y.homeDie y.blk c.offset bs }
        | none => s)
    | 5 => { s with rows.tables := tmod s.rows.tables ds.object fun t => putRows t c.offset bs }
    | _ => s

/-- The die bridges that bytes from die `a` to die `b` cross, as `Mill.bridge` numbers them: the shorter way round the ring, and
over two bridges the way of increasing die number (R16). -/
def ringRoute (a b : Nat) : List Nat :=
  let n := (b + 4 - a) % 4
  if n ≤ 2 then (List.range n).map fun i => (a + i) % 4 else [4 + b]

def crossBridges (s : State) (a b n : Nat) : State :=
  { s with mill.bridge := (ringRoute a b).foldl (fun l i => lmod l i fun v => ctrAdd v n) s.mill.bridge }

/-- Copy `i` of an entry, issued by the group at die-local tile `t0` of die `d` on a slot. A copy through a descriptor that is
not present moves no byte (R106), and one out of SRAM writes only through a writable slot (R101). -/
def runCopy (s : State) (d t0 slot : Nat) (g : Segment) (e : Entry) (i : Nat) : State :=
  let c := lget g.copies i default
  let ds := lget e.descs c.desc default
  let tile := 16 * d + t0 + c.tile
  let home := ds.base / Config.dieFrames
  let bytes := mread (tileAt s tile).sram c.sram c.bytes
  if ds.present = false then s
  else if c.kind = 0 ∨ c.kind = 2 ∨ c.kind = 5 ∨ c.kind = 6 then
    let s := if c.kind = 6 then crossBridges s home d c.bytes else s
    modTile s tile fun t => { t with sram := (copyIn s g e i c ds).foldl (fun m w => mwrite m w.1 w.2) t.sram }
  else if c.kind = 4 then
    sendOnQueue s ds.peer (2 * d + (slot - 22)) e.slice e.act e.tenant (.expertSend g.model e.id i bytes)
  else if (lget g.descs c.desc default).writable = false then s
  else copyOut (if c.kind = 7 then crossBridges s d home c.bytes else s) g e c ds bytes

/-! ### Records (R187) -/

/-- A record as a POST op finds it in SRAM: session, batch entry, record. A CHUNK_DONE record bears a step result where the
flags there say sampled or dead (PRESUMED, log 23). -/
def parsePost (kind : Nat) (bs : List Byte) : Nat × Nat × PostRec :=
  (fld bs 0 4, fld bs 4 1,
    match kind with
    | 1 => .stepResult (fld bs 8 4) (fld bs 12 1) (fld bs 16 4)
    | 2 => .chunkDone (fld bs 8 4) (fld bs 12 2)
        (if fld bs 20 1 % 4 = 0 then none else some (fld bs 16 4, fld bs 20 1, fld bs 24 4))
    | 3 => .verifyResult (fld bs 8 1) ((List.range (fld bs 9 1)).map fun i => fld bs (12 + 4 * i) 4) (fld bs (12 + 4 * fld bs 9 1) 4)
    | 4 => .condenseDone (fld bs 8 2) (fld bs 12 2)
    | k => .other k)

/-- POST: the record goes to the hub, which takes it by POST_RECORD. The tile whose SRAM it reads is the group's first
(PRESUMED, log 23: the op names no tile). -/
def runPost (s : State) (d t0 : Nat) (o : Op) : State :=
  let r := parsePost o.w2 (mread (tileAt s (16 * d + t0)).sram o.w0 o.w1)
  { s with mill.dies := lmod s.mill.dies d fun x => { x with posted := x.posted ++ [r] } }

/-- One op of an entry of the group at die-local tile `t0` of die `d`. -/
def runOp (s : State) (d t0 vocab : Nat) (g : Segment) (e : Entry) (o : Op) : State :=
  if o.slot < 16 then
    let t := 16 * d + t0 + o.slot
    if o.op = 0x31 then
      let dst := 16 * d + t0 + o.w1 % 16
      let bytes := mread (tileAt s t).sram o.w0 (fld (pblkOf g o.pblk) 0 4)
      modTile s dst fun x => { x with sram := mwrite x.sram o.w2 bytes }
    else modTile s t fun x => applyOut x (tileOp x.sram g vocab o)
  else if o.op = 0x40 ∨ o.op = 0x50 ∨ o.op = 0x60 then runCopy s d t0 o.slot g e o.w0
  else if o.op = 0x61 then runPost s d t0 o
  else s

/-- The peers' data of FABRIC_IN copies whose fence is `from_` or later lands (R96): at cycle 0, and again after a suspension,
whose saved image need not cover the destination (R109). -/
def landFabric (s : State) (d t0 : Nat) (g : Segment) (e : Entry) (from_ : Nat) : State :=
  (List.range g.copies.length).foldl (fun s i =>
    let c := lget g.copies i default
    if c.kind = 5 ∧ from_ ≤ c.fence then runCopy s d t0 0 g e i else s) s

/-- The ops of an entry whose bundles lie from segment cycle `a` up to `b` (R85, R87). -/
def runOps (s : State) (d t0 vocab : Nat) (g : Segment) (e : Entry) (a b : Nat) : State :=
  let s := if a = 0 ∧ b > 0 then landFabric s d t0 g e 0 else s
  g.bundles.foldl (fun s k =>
    if a ≤ k.cycle ∧ k.cycle < b then k.ops.foldl (fun s o => runOp s d t0 vocab g e o) s else s) s

end Sys2Proof.Machine
end

