-- ==== Sys2Proof/Machine/Mill.lean ====
section
/-! DEFINITION. The mills: what a rest runs on each tile group, suspensions, late copies, records and commits (R22, R25,
R86 to R99, R105 to R114, R187, R331, R346). -/
namespace Sys2Proof.Machine

def grpAt (s : State) (i : Nat) : Group := lget s.mill.groups i default

def modGrp (s : State) (i : Nat) (f : Group → Group) : State := { s with mill.groups := lmod s.mill.groups i f }

def modDie (s : State) (d : Nat) (f : Die → Die) : State := { s with mill.dies := lmod s.mill.dies d f }

def segAt (s : State) (id : Nat) : Segment := tdef s.mill.segs id default

/-- The group that starts at die-local tile `t` of die `d`. -/
def grpIdx (s : State) (d t : Nat) : Option Nat :=
  (List.range s.mill.groups.length).find? fun i => (grpAt s i).die == d && (grpAt s i).tile == t

/-- The group that contains logical tile `t`. -/
def grpOfTile (s : State) (t : Nat) : Option Nat :=
  (List.range s.mill.groups.length).find? fun i =>
    let g := grpAt s i
    decide (16 * g.die + g.tile ≤ t) && decide (t < 16 * g.die + g.tile + g.size)

/-- The logical tiles of a group. -/
def grpTiles (g : Group) : List Nat := (List.range g.size).map fun k => 16 * g.die + g.tile + k

/-- Cycles of a save or restore of `live` bytes a tile (R110). -/
def moveCycles (live : Nat) : Nat := 96 + ceilDiv live 256

/-! ### Entries (R105 to R107) -/

/-- The checks at the start of an entry (R106). -/
def descsOk (g : Segment) (e : Entry) : Bool :=
  g.descs.length == e.descs.length &&
  (g.descs.zip e.descs).all (fun p => p.1.kind == p.2.kind && (!p.2.present || decide (p.1.minBytes ≤ p.2.frames * 4096))) &&
  (match e.descs.filter (·.present) with
    | [] => true
    | d :: ds => ds.all fun x => x.tenant == d.tenant)

/-- The items of an entry run again from the next seal; records its tiles had posted for them are dropped. A speculative step of
which a draft step is lost begins again (R195; DESIGN CHOICE, log 91). -/
def redoEntry (s : State) (e : Entry) : State :=
  let mine := e.items.filterMap fun id => (itemOf s id).bind fun it => (sessAt s it.sess).map handleOf
  { s with
    mash.items := s.mash.items.map fun it =>
      if e.items.contains it.id ∧ it.ended = false then { it with entry := none, ended := false, result := none, drafts := [] } else it
    mill.dies := s.mill.dies.map fun d => { d with posted := d.posted.filter fun r => !mine.contains r.1 } }

/-- What an item's class was charged for it is taken back (R142). -/
def unshare (s : State) (it : Item) : State :=
  modClass (modItem s it.id fun k => { k with share := (0, 0, 0) }) it.cls fun c => { c with
    tileCycles := (c.tileCycles + two64 - it.share.1) % two64
    hbmBytes := (c.hbmBytes + two64 - it.share.2.1) % two64
    fabricBytes := (c.fabricBytes + two64 - it.share.2.2) % two64 }

def unshareAll (s : State) (e : Entry) : State :=
  (s.mash.items.filter fun it => it.entry == some e.id).foldl unshare s

/-- Frames of a saved context return to the pool (R160). -/
def freeCtx (s : State) (die : Nat) (e : Entry) : State := freeRuns s die e.ctxRuns

/-- What an entry was charged in one currency goes back: a charge of the coming cycle that has not reached its balance yet is
dropped; another is credited (R126). -/
def uncredit (s : State) (e : Entry) (cur n : Nat) : State :=
  let k := balKey e.slice e.act cur
  let m := min n (tdef s.mash.ahead k 0)
  credit { s with mash.ahead := if m = 0 then s.mash.ahead else tput s.mash.ahead k (tdef s.mash.ahead k 0 - m) } e.slice e.act cur (n - m)

/-- What an entry that will not start was charged is credited. -/
def uncharge (s : State) (e : Entry) : State :=
  uncredit (uncredit (uncredit s e 0 e.chargedTile) e 1 e.chargedHbm) e 3 e.chargedFabric

/-- An entry of group `i` that has not started is withdrawn: a context to be resumed goes back to those saved, the items of
another entry wait again, and its charges return. -/
def withdraw (i : Nat) (s : State) (e : Entry) : State :=
  let s := unshareAll (uncharge s e) e
  if e.resumed ∧ tenantLive s e.tenant then modGrp s i fun x => { x with saved := x.saved ++ [{ e with switchLeft := 0, swBegun := false }] }
  else freeCtx (redoEntry s e) (grpAt s i).die e

/-- Frames of the area that keeps the context of a group of `n` tiles with `live` bytes each, with the entry's descriptor table,
stall and open fences (R110, R160): none where the pool has none (log 61). -/
def takeCtx (s : State) (g : Group) (e : Entry) (live : Nat) : List Run × State :=
  (takeRuns s g.die e.tenant e.slice (weightOrders (g.size * live + 32 * e.descs.length + 4096))).getD ([], s)

/-- The live bytes of a group's tiles. -/
def liveImage (s : State) (g : Group) (live : Nat) : List Mem :=
  (grpTiles g).map fun t => (tileAt s t).sram.filter fun c => decide (c.1 < live)

/-- Whether the entry that follows takes over the live state in place (R111). -/
def passes (s : State) (e : Entry) (next : Option Entry) : Bool :=
  match next with
  | some n => !n.resumed && (segAt s n.seg).carryIn != 0 && (segAt s n.seg).carryIn == (segAt s e.seg).carryOut && n.tenant == e.tenant
  | none => false

/-- The charges of keeping an exit state: a save of its live area (R110, R113). -/
def keepCharge (s : State) (g : Group) (e : Entry) (live : Nat) : State :=
  charge (charge s e.slice e.act 0 (g.size * moveCycles live)) e.slice e.act 1 (g.size * live)

/-- The kept exit states of a group: the frames of those beyond the eighth are freed. -/
def storeKept (s : State) (i die : Nat) (l : List Entry) : State :=
  (l.drop 8).foldl (fun s k => freeCtx s die k) (modGrp s i fun x => { x with kept := l.take 8, inSwitch := true })

/-- The exit state of an entry kept for a later one (R111): at most 8 of a group, the oldest dropped. Its save is charged
to the entry's activity (R113). -/
def keepExit (s : State) (i : Nat) (e : Entry) : State :=
  let g := grpAt s i
  let live := (segAt s e.seg).liveSram
  let p := takeCtx (keepCharge s g e live) g e live
  storeKept (modDie p.2 g.die fun d =>
    { d with switchCnt := ctrAdd d.switchCnt 1, switchCyc := ctrAdd d.switchCyc (moveCycles live) }) i g.die
    ({ e with ctx := liveImage p.2 g live, ctxRuns := p.1, copies := [] } :: g.kept)

/-- A condenser's entry has written its summary page; what it clamps counts at the group's first tile (R189, R206). -/
def condenseOut (i : Nat) (s : State) (id : Nat) : State :=
  match itemOf s id with
  | none => s
  | some it =>
    match it.kind, sessAt s it.sess with
    | .condense (n + 1), some x =>
      let p := summaryPage s.free (hdrOf s x) (n + 1)
      let g := grpAt s i
      modSess (modTile (tick s) (16 * g.die + g.tile) fun t => { t with sat := ctrAdd t.sat p.2 }) it.sess fun y =>
        { y with condPage := some p.1 }
    | _, _ => s

/-- The head entry of a group has run to its exit (R25, R111). Answers the cycles of a save. -/
def endEntry (s : State) (i : Nat) (e : Entry) : State × Nat :=
  let g := segAt s e.seg
  let keeps := e.keep && !passes s e ((grpAt s i).chain.drop 1).head?
  let s := e.items.foldl (condenseOut i) (if keeps then keepExit s i e else s)
  let s := modGrp s i fun x => { x with chain := x.chain.drop 1, lastCarry := g.carryOut }
  ({ s with mash.items := s.mash.items.map fun it => if it.entry = some e.id then { it with ended := true } else it },
    if keeps then moveCycles g.liveSram else 0)

/-- An entry that fails its checks runs nothing, nor do the other entries of its speculative step (R106, R195). -/
def failEntry (s : State) (i : Nat) (e : Entry) : State :=
  let s := modDie (redoEntry s e) (grpAt s i).die fun d => { d with descFault := ctrAdd d.descFault 1 }
  modGrp s i fun x => { x with chain := (x.chain.drop 1).filter fun k => !(k.items.any e.items.contains) }

/-- What precedes the first op of an entry on its tiles: the clear on a change of tenant or after ROWS, then the saved image
(R110, R277, R387). -/
def beginEntry (s : State) (i : Nat) (e : Entry) : State :=
  let g := grpAt s i
  let s := if (g.lastTenant ≠ 0 ∧ g.lastTenant ≠ e.tenant) ∨ g.lastAct = 11 then
      (grpTiles g).foldl (fun s t => modTile s t fun x => { x with sram := [], accs := if g.lastTenant = e.tenant then x.accs else [] }) s
    else s
  let live := (segAt s e.seg).liveSram
  let s := if e.ctx = [] then s else
    (List.range g.size).foldl (fun s k => modTile s (16 * g.die + g.tile + k) fun x =>
      { x with sram := lget e.ctx k [] ++ x.sram.filter fun c => decide (live ≤ c.1) }) s
  let s := if e.resumed then landFabric s g.die g.tile (segAt s e.seg) e e.ran else s
  modGrp (freeCtx s g.die e) i fun x => { x with
    lastTenant := e.tenant, lastAct := e.act, stall := x.stall + e.stall
    chain := lmod x.chain 0 fun q => { q with ctx := [], ctxRuns := [], stall := 0 } }

/-- The fence at which an entry waits for a late copy (R98). -/
def barrier (e : Entry) : Option Nat :=
  minBy id ((e.copies.filter fun c => !c.complete && c.missedAt.isSome).map (·.fence))

/-- The spans of segment cycles in which ops run, by their start. -/
def busySpans (g : Segment) (vocab : Nat) : List (Nat × Nat) := (opsOf g).map fun p => (p.1, p.1 + opDur g vocab p.2)

/-- Cycles from `a` to before `b` that lie in no span; the spans rise by their start. -/
def idleIn : List (Nat × Nat) → Nat → Nat → Nat
  | [], a, b => b - a
  | (x, y) :: l, a, b => (min x b - a) + idleIn l (max a y) b

/-- Segment cycles an entry gains on its schedule in `avail` cycles from cycle `ran`: the accumulated stall shrinks by the cycles
in which no op runs (R98). -/
def catchUp (spans : List (Nat × Nat)) (ran avail stall : Nat) : Nat :=
  (List.range (stall + 1)).foldl (fun x _ => min stall (idleIn spans ran (ran + avail + x))) 0

def modHead (s : State) (i : Nat) (f : Entry → Entry) : State := modGrp s i fun x => { x with chain := lmod x.chain 0 f }

/-- `d` cycles of the switch work before an entry: with the save before it, it counts as one switch (R113). -/
def runSwitch (s : State) (i : Nat) (e : Entry) (d : Nat) : State :=
  let new := !e.swBegun && !(grpAt s i).inSwitch
  let s := modDie s (grpAt s i).die fun x => { x with
    switchCnt := if new then ctrAdd x.switchCnt 1 else x.switchCnt, switchCyc := ctrAdd x.switchCyc d }
  modHead (modGrp s i fun x => { x with inSwitch := false }) i fun q => { q with switchLeft := q.switchLeft - d, swBegun := true }

def segVocab (s : State) (g : Segment) : Nat := ((modelOf s g.model).map (·.hdr.vocabSize)).getD 0

/-- Up to `avail` cycles of a rest on group `i`. Answers the cycles left over. -/
def runChain : Nat → State → Nat → Nat → State × Nat
  | 0, s, _, avail => (s, avail)
  | n + 1, s, i, avail =>
    let g := grpAt s i
    match g.chain with
    | [] => (s, avail)
    | e :: _ =>
      if avail = 0 then (s, 0)
      else if e.switchLeft > 0 then
        let d := min e.switchLeft avail
        runChain n (runSwitch s i e d) i (avail - d)
      else if e.left = 0 then
        -- a copy missed at the exit fence still stalls the group
        if (barrier e).isSome then (s, 0)
        else
          let r := endEntry s i e
          if r.2 ≤ avail then runChain n r.1 i (avail - r.2)
          else (modGrp r.1 i fun x => { x with drain := x.drain + (r.2 - avail) }, 0)
      else if e.ran = 0 ∧ descsOk (segAt s e.seg) e = false then runChain n (failEntry s i e) i avail
      else
        let s := if e.ran = 0 ∨ e.ctx ≠ [] then beginEntry s i e else s
        let seg := segAt s e.seg
        let room := match barrier e with
          | some f => f - e.ran
          | none => e.left
        let spans := busySpans seg (segVocab s seg)
        let stall := (grpAt s i).stall
        let m := min (avail + catchUp spans e.ran avail stall) (min e.left room)
        let gain := min stall (idleIn spans e.ran (e.ran + m))
        let s := runOps s g.die g.tile (segVocab s seg) seg e e.ran (e.ran + m)
        let s := modHead (modGrp s i fun x => { x with stall := x.stall - gain }) i fun q => { q with
          ran := q.ran + m, left := q.left - m
          copies := q.copies.filter fun c => c.missedAt.isSome || decide (e.ran + m ≤ c.fence) }
        if m = e.left then runChain n s i (avail - (m - gain)) else (s, 0)

/-- Cycles of this rest that late copies of the running entry took (R98). -/
def lateCycles (g : Group) : Nat :=
  sumBy (fun e => sumBy (fun c => if c.complete then c.missedAt.getD 0 else 0) e.copies) (g.chain.take 1)

/-- The rest that ends has run on group `i`; `act` is what the rest gave it. A group that no entry covers, nor one that a suspension
let run on, is idle: it counts its rest and works off its stall (R22, R98, R108). -/
def runGroup (s : State) (i act : Nat) : State :=
  let g := grpAt s i
  let late := lateCycles g
  let s := modGrp s i fun x => { x with
    drain := x.drain - Config.restLen
    chain := lmod x.chain 0 fun e => { e with copies := e.copies.filter fun c => !(c.complete && c.missedAt.isSome) } }
  if g.chain = [] then
    let s := modGrp s i fun x => { x with stall := x.stall - Config.restLen, lastAct := if act = 11 then 11 else x.lastAct }
    if g.drain = 0 ∨ g.blocked then modDie s g.die fun d => { d with idleRests := ctrAdd d.idleRests 1 } else s
  else
    let (s, beyond) := runChain 64 s i (Config.restLen - late - g.drain)
    modGrp s i fun x => { x with stall := x.stall - beyond }

/-! ### Suspension (R107, R110 to R113, R126) -/

/-- The first switch point of a segment at or after cycle `ran` (R109). -/
def switchAt (g : Segment) (ran : Nat) : Nat :=
  match (0 :: g.switches.map (·.1)).find? fun c => decide (ran ≤ c) with
  | some c => c
  | none => g.length

/-- HBM bytes and fabric bytes of the copies not issued before cycle `sp` (R126). -/
def unissued (g : Segment) (sp : Nat) : Nat × Nat :=
  g.copies.foldl (fun (a : Nat × Nat) c =>
    if c.issue < sp then a
    else if c.kind ≤ 3 then (a.1 + c.bytes, a.2)
    else if c.kind ≥ 6 then (a.1 + 2 * c.bytes, a.2) else (a.1, a.2 + c.bytes)) (0, 0)

/-- Frames for the context a suspension saves, with the charges and the counts of the save; none where the entry is discarded
(R110, R113). -/
def saveCtx (s : State) (g : Group) (e : Entry) (live : Nat) (gone : Bool) : List Run × State :=
  if gone then ([], s)
  else
    let p := takeCtx s g e live
    (p.1, modDie (keepCharge p.2 g e live) g.die fun d =>
      { d with switchCnt := ctrAdd d.switchCnt 1, switchCyc := ctrAdd d.switchCyc (moveCycles live) })

/-- The cycles of a save wait on the entry's items as switch cost (R144). -/
def countSave (s : State) (entry n : Nat) : State :=
  { s with mash.items := s.mash.items.map fun it => if it.entry = some entry then
      { it with causes := lmod it.causes 3 fun k => k + n } else it }

/-- The classes of the entry's items get back their shares of what has not run or been issued. -/
def creditShare (s : State) (e : Entry) (seg : Segment) (sp : Nat) (u : Nat × Nat) : State :=
  (s.mash.items.filter fun it => it.entry == some e.id && it.sess != 0).foldl (fun s it =>
    let b := max 1 seg.batch
    let back := (seg.groupTiles * (seg.length - sp) / b, u.1 / b, u.2 / b)
    modClass (modItem s it.id fun k => { k with
        share := (k.share.1 - back.1, k.share.2.1 - back.2.1, k.share.2.2 - back.2.2) }) it.cls fun c => { c with
      tileCycles := (c.tileCycles + two64 - back.1) % two64
      hbmBytes := (c.hbmBytes + two64 - back.2.1) % two64
      fabricBytes := (c.fabricBytes + two64 - back.2.2) % two64 }) s

/-- The group's running chain is suspended at the running entry's first switch point; entries not started are withdrawn. The
saved context holds the live bytes, the descriptors, the open fences and the stall (R110). The entries of a tenant being
removed leave none (R388), nor does a draft step. The cycles it takes before other work are added to `drain`. -/
def suspendChain (s : State) (i : Nat) : State :=
  let g := grpAt s i
  match g.chain with
  | [] => s
  | e :: rest =>
    let s := rest.foldl (withdraw i) s
    let seg := segAt s e.seg
    -- a draft step whose pass is withdrawn with the rest leaves nothing to resume (log 91)
    let gone := !tenantLive s e.tenant || rest.any fun k => k.items.any e.items.contains
    if e.ran = 0 ∨ e.ctx ≠ [] then modGrp (withdraw i s e) i fun x => { x with chain := [] }
    else
      let sp := switchAt seg e.ran
      if sp ≥ seg.length then modGrp s i fun x => { x with chain := [e] }
      else
        let s := runOps s g.die g.tile (segVocab s seg) seg e e.ran sp
        let ctx := liveImage s g seg.liveSram
        let u := unissued seg sp
        let s := credit (credit (credit s e.slice e.act 0 (g.size * (seg.length - sp))) e.slice e.act 1 u.1) e.slice e.act 3 u.2
        let s := creditShare s e seg sp u
        let save := if gone then 0 else moveCycles seg.liveSram
        let p := saveCtx s g e seg.liveSram gone
        modGrp (countSave p.2 e.id save) i fun x => { x with
          chain := [], drain := x.drain + (sp - e.ran) + save, inSwitch := !gone, stall := if gone then x.stall else 0
          saved := if gone then x.saved else
            x.saved ++ [{ e with ran := sp, left := seg.length - sp, resumed := true, switchLeft := 0, swBegun := false, ctx := ctx,
                                 ctxRuns := p.1, stall := x.stall,
                                 copies := e.copies.filter fun c => c.missedAt.isSome || decide (sp ≤ c.fence) }] }

/-- The running entry abandoned with every later entry of its chain: no step of it commits, and its items run again; entries
that had not started are withdrawn (R99, R346). -/
def abandonChain (s : State) (i : Nat) : State :=
  let g := grpAt s i
  let s := g.sealed.foldl (withdraw i) s
  let s := match g.chain with
    | [] => s
    | e :: rest => rest.foldl (fun s k => freeCtx (redoEntry (unshareAll (uncharge s k) k) k) g.die k) (freeCtx (redoEntry s e) g.die e)
  modGrp s i fun x => { x with chain := [], sealed := [], preempt := false }

/-- A tile out of use until its self-test (R346). -/
def askSelfTest (s : State) (t : Nat) : State := modTile s t fun x => { x with selfTest := true }

/-! ### Late copies (R98, R99) -/

/-- The gated ARITH cycle at which the running entry of a group reaches cycle `c`, counted from the start of the rest: behind
what drains, its switch work and the copies that were late in this rest, less the stall it works off on the way (R98). -/
def arithAt (s : State) (g : Group) (e : Entry) (c : Nat) : Nat :=
  let seg := segAt s e.seg
  s.mash.arith + g.drain + e.switchLeft + lateCycles g + (c - e.ran) - min g.stall (idleIn (busySpans seg (segVocab s seg)) e.ran c)

/-- Copy `copy` of the entry that runs on the group at a tile, whose fence is still to come: the group's place in the list,
the entry and the copy. -/
def fenceAhead (s : State) (die tile copy : Nat) : Option (Nat × Entry × CopyEnt) :=
  (grpIdx s die tile).bind fun i =>
    (grpAt s i).chain.head?.bind fun e =>
      ((segAt s e.seg).copies[copy]?).bind fun c =>
        if running s = false ∨ c.fence < e.ran then none else some (i, e, c)

/-- What the running entry of the group at place `i` has noted of a copy. -/
def copyNoted (s : State) (i copy : Nat) : Option OpenCopy :=
  (grpAt s i).chain.head?.bind fun e => e.copies.find? fun k => k.idx == copy

/-- The copy is incomplete at its fence: the group stalls, and the lateness is counted at the die and for the share class. -/
def fenceMissed (s : State) (die i copy : Nat) (e : Entry) (c : CopyEnt) : State :=
  let s := modHead s i fun q => { q with
    copies := q.copies ++ [{ idx := copy, fence := c.fence, complete := false, missedAt := some (arithAt s (grpAt s i) e c.fence) }] }
  let s := modDie s die fun d => { d with copyLate := ctrAdd d.copyLate 1 }
  match s.mash.items.find? fun it => it.entry == some e.id && it.sess != 0 with
  | some it => modClass s it.cls fun x => { x with copyLate := (x.copyLate + 1) % two32 }
  | none => s

/-- A copy that completes after its fence: the stall ends at `cycle`, and its cycles are counted at the die and for the
entry's items: a late SEND as a hold by shapers or gates, another copy as a copy stall (R98, R139, R144). -/
def stallEnds (s : State) (die i copy cycle : Nat) (e : Entry) (k : OpenCopy) : State :=
  let m := k.missedAt.getD cycle
  let here := cycle - max m s.mash.arith
  let s := modHead (modGrp s i fun x => { x with stall := x.stall + (cycle - m) }) i fun q => { q with
    copies := q.copies.map fun q => if q.idx = copy then { q with complete := true, missedAt := some here } else q }
  let cause := if (lget (segAt s e.seg).copies copy default).kind = 4 then 1 else 2
  let s := { s with mash.items := s.mash.items.map fun it => if it.entry = some e.id then
      { it with causes := lmod it.causes cause fun n => n + (cycle - m) } else it }
  modDie s die fun d => { d with copyStall := ctrAdd d.copyStall (cycle - m) }

/-- At its fence an incomplete copy of the group's running entry stalls the group (R98). -/
def execFenceCheck (die tile copy : Nat) (s : State) : Out :=
  .next (match fenceAhead s die tile copy with
    | none => s
    | some (i, e, c) =>
      match copyNoted s i copy with
      | some k => if k.complete ∧ k.missedAt = none then modHead s i fun q => { q with copies := q.copies.filter fun k => k.idx != copy } else s
      | none => fenceMissed s die i copy e c)

/-- A copy completes at gated ARITH cycle `cycle`: before its fence it is noted, after it the group's stall ends
(R98). -/
def execCopyComplete (die tile copy cycle : Nat) (s : State) : Out :=
  .next (match fenceAhead s die tile copy with
    | none => s
    | some (i, e, c) =>
      match copyNoted s i copy with
      | none => modHead s i fun q => { q with
          copies := q.copies ++ [{ idx := copy, fence := c.fence, complete := true, missedAt := none }] }
      | some k => if k.complete then s else stallEnds s die i copy cycle e k)

/-- A copy still incomplete 1,048,576 ARITH cycles after its fence: the running entry and its chain are abandoned, and
the group's tiles are self-tested (R99, R346). -/
def execCopyAbandon (die tile copy : Nat) (s : State) : Out :=
  .next (match grpIdx s die tile with
    | none => s
    | some i =>
      let g := grpAt s i
      match copyNoted s i copy with
      | none => s
      | some k =>
        if k.complete ∨ k.missedAt = none then s else
        if running s = false ∨ s.mash.arith + Config.restLen ≤ k.missedAt.getD 0 + Config.abandonCycles then s
        else (grpTiles g).foldl askSelfTest (abandonChain s i))

/-! ### Records and commits (R25, R187, R331) -/

/-- The item a record answers: the batch entry of the running work of its session, on its die. -/
def recordItem (s : State) (die session entry : Nat) : Option Item :=
  let ids := (s.mill.groups.filter fun g => g.die == die).flatMap fun g =>
    (g.chain ++ g.saved ++ g.sealed).filterMap fun e => e.items[entry]?
  s.mash.items.find? fun it => it.result.isNone && it.entry.isSome &&
    (match sessAt s it.sess with
      | some x => it.sess != 0 && handleOf x == session
      | none => it.sess == 0 && session == 0) &&
    (ids.contains it.id || it.ended)

/-- Whether a record kind answers an item (R187): a verify item takes the records of its draft steps too (R195). -/
def recordFits (it : Item) (r : PostRec) : Bool :=
  match it.kind, r with
  | .decode, .stepResult .. => true
  | .head, .stepResult .. => true
  | .tail, .stepResult .. => true
  | .resume, .stepResult .. => true
  | .chunk .., .chunkDone .. => true
  | .draftPrefill .., .chunkDone .. => true
  | .verify _, .verifyResult .. => true
  | .verify k, .stepResult .. => decide (it.drafts.length < k)
  | .condense .., .condenseDone .. => true
  | _, _ => false

/-- A draft step of a verify item has reported: its token and transition are kept, and the slot of the next sample staged with the
context after the drafts so far (R195, R232). One the grammar cannot take counts COPPER_GRAM_FAULT. -/
def holdDraft (s : State) (it : Item) (t g : Nat) : State :=
  let s := modItem s it.id fun k => { k with drafts := k.drafts ++ [(t, g)] }
  match (sessAt s it.sess).bind (gramAt s) with
  | none => s
  | some (gr, st, stk) =>
    let move (a : Option (Nat × List Nat)) (d : Nat × Nat) : Option (Nat × List Nat) := a.bind fun c => gramMove gr d.2 c.2
    let before := it.drafts.foldl move (some (st, stk))
    let s := if before.isSome ∧ g ≠ 0xFFFFFFFF ∧ move before (t, g) = none then
        { s with copper.gramFault := ctrAdd s.copper.gramFault 1 } else s
    stageSlot s it.sess (it.drafts.length + 1) (match move before (t, g) with
      | some (st, stk) => slotFor gr st stk
      | none => default)

/-- A record held for its item. A transition the grammar cannot take counts COPPER_GRAM_FAULT and makes the step dead
(R232, R233). -/
def holdRecord (s : State) (it : Item) (r : PostRec) : State :=
  match it.kind, r with
  | .verify _, .stepResult t _ g => holdDraft s it t g
  | _, .stepResult t f g =>
    if g ≠ 0xFFFFFFFF ∧ bit f 1 = false ∧ (gramApply s it.sess g).2 = false then
      modItem { s with copper.gramFault := ctrAdd s.copper.gramFault 1 } it.id fun k =>
        { k with result := some (.stepResult t (f + 2) g) }
    else modItem s it.id fun k => { k with result := some r }
  | _, r => modItem s it.id fun k => { k with result := some r }

/-- The record of a session's batch entry that a tile of the die has posted, and the state without it. -/
def takePosted (s : State) (die session entry : Nat) : Option (PostRec × State) :=
  ((lget s.mill.dies die default).posted.find? fun r => r.1 == session && r.2.1 == entry).map fun r =>
    (r.2.2, modDie s die fun d => { d with posted := d.posted.erase r })

/-- A tile's POST record reaches the hub: the one the tile posted for the session's batch entry, if it posted one, else the one
the row gives. A record of another kind, or of the wrong kind, counts as a descriptor fault and changes nothing (R187). -/
def execPostRecord (die session entry : Nat) (r : PostRec) (s : State) : Out :=
  .next (if running s = false then s
    else
      let (r, s) := (takePosted s die session entry).getD (r, s)
      match r with
      | .other _ => modDie s die fun d => { d with descFault := ctrAdd d.descFault 1 }
      | r =>
        match recordItem s die session entry with
        | none => s
        | some it => if recordFits it r then holdRecord s it r else s)

/-- Whether an item commits with a record of its own (R187). -/
def needsRecord (k : ItemKind) : Bool :=
  match k with
  | .embed _ => false
  | .rerank _ => false
  | .expert .. => false
  | .condense n => n != 0
  | _ => true

/-- The step's last rest has ended and its record is held: it commits, unless the session's previous step is still
unacknowledged (R25, R331). -/
def execStepCommit (item : Nat) (s : State) : Out :=
  .next (match itemOf s item with
    | none => s
    | some it =>
      if running s = false ∨ it.ended = false ∨ (needsRecord it.kind ∧ it.result = none) then s
      else
        match it.kind with
        | .embed q => embedDone (dropItem s item) q
        | .rerank q => rerankDone (dropItem s item) q
        | .expert m e n => expertDone (dropItem s item) m e n it.act
        | _ =>
          let x := (sessAt s it.sess).getD Sess.zero
          let early := x.deltas.any fun d => d.isStep && decide (d.rackSeq > x.rackAcked) && d.ent != it.entry.getD 0
          if it.sess ≠ 0 ∧ early then
            { redoItem s item with fab.cnt.rackRedo := ctrAdd s.fab.cnt.rackRedo 1 }
          else commitItem s it)

end Sys2Proof.Machine
end

