-- ==== Sys2Proof/Machine/Seal.lean ====
section
/-! DEFINITION. The choices the hub seals for the next rest, their charges, and the die streams composed from them (R22,
R86, R93, R97, R105 to R108, R116, R126, R127, R131 to R137, R181 to R183, R195, R331). -/
namespace Sys2Proof.Machine

/-! ### What a rest gives a group (R116, R119, R123, R346) -/

/-- The activity of an `act` byte for a group, governed groups by their phase. -/
def actFor (t : MashTable) (phases : Tab Bool) (r : Nat) (g : Group) : Nat :=
  let a := lget (lget t.rests r default).act (16 * g.die + g.tile) 0
  if a = 0xF then (if tdef phases (16 * g.die + g.tile) false then 1 else 2) else a

def tilesFit (s : State) (g : Group) : Bool :=
  (grpTiles g).all fun t => (tileAt s t).inService && !(tileAt s t).selfTest

/-- Why a group runs nothing: its tiles leave old groups, are out of use, or lie in two slices. -/
def cannotRun (s : State) (g : Group) : Bool :=
  g.blocked || !tilesFit s g || (groupSlice s g.die g.tile g.size).isNone || (lget s.mill.dies g.die default).lost

/-! ### Which items may be placed (R32, R132, R201, R331, R333) -/

/-- Earlier chunks of the same append, or of the same draft rebuild, that have not committed, other than those in `batch`. -/
def chunkBefore (s : State) (it : Item) (batch : List Nat) : Bool :=
  match it.kind with
  | .chunk f _ _ => s.mash.items.any fun k =>
      k.sess == it.sess && k.id != it.id && !batch.contains k.id &&
      (match k.kind with
        | .chunk g _ _ => decide (g < f)
        | _ => false)
  | .draftPrefill f _ _ => s.mash.items.any fun k =>
      k.sess == it.sess && k.id != it.id && !batch.contains k.id &&
      (match k.kind with
        | .draftPrefill g _ _ => decide (g < f)
        | _ => false)
  | _ => false

/-- Steps of a session committed and not acknowledged: those of one entry count once (R331). -/
def openSteps (x : Sess) : Nat :=
  ((x.deltas.filter fun d => d.isStep && decide (d.rackSeq > x.rackAcked)).map (·.ent)).eraseDups.length

/-- Whether an item is a step of a generate (R15, R32). -/
def genStep : ItemKind → Bool
  | .decode | .head | .tail | .resume | .verify _ => true
  | _ => false

/-- Whether every shard of some kinds of a tenant in a slice has been read and sent: its objects have been copied (R356). -/
def shardsSent (r : CkptRun) (kinds : List Nat) (tenant sl : Nat) : Bool :=
  r.shards.all fun d => !(kinds.contains d.kind && d.tenant == tenant && d.slice == sl) || d.sent

/-- Whether a step of a session must wait for checkpoint staging (R356): its state block is in the checkpoint's set, has not been
copied, and its copy would overflow the limit. -/
def cowBlocked (s : State) (idx : Nat) : Bool :=
  match s.ckpt.run with
  | none => false
  | some r =>
    match tget r.recSess idx with
    | none => false
    | some i =>
      r.phase == 1 && !(r.staged.any fun o => o.kind == 3 && o.id == idx && o.sub == 1) &&
      !shardsSent r [3] i.tenant (((modelOf s i.model).map (·.slice)).getD 0) &&
      decide (max 1 s.ckpt.stageGib * 1073741824 < r.stagedBytes + 16384)

/-- Whether a step of the item's session may be placed now. -/
def sessReady (s : State) (it : Item) : Bool :=
  if it.sess = 0 then true
  else match sessAt s it.sess with
    | none => false
    | some x => decide (openSteps x ≤ 1) && (!genStep it.kind || decide (unackedBytes s (handleOf x) ≤ Config.streamMax)) && !x.rackBusy &&
        !cowBlocked s it.sess && decide (x.state = stACTIVE ∨ x.state = stWARM)

def modelReady (s : State) (m : Nat) : Bool :=
  match modelOf s m with
  | some k => decide (k.st = 2)
  | none => false

def placeable (s : State) (sl act : Nat) (it : Item) : Bool :=
  it.act == act && it.slice == sl && it.entry.isNone && tenantLive s it.tenant && modelReady s it.model && sessReady s it &&
  s.dev.shutPhase == 0

/-! ### Real-time classes (R135, R136) -/

/-- Whether a segment has lane copies through frames of its model or its sessions: those lie on the home die, and lanes reach
only the stacks of their own die (R17, R18). -/
def needsHome (g : Segment) : Bool :=
  g.copies.any fun c => decide (c.kind ≤ 3) && [1, 2, 4, 7].contains (lget g.descs c.desc default).kind

/-- Whether a die may run an item: its model's home die, or any where no segment of its phase has lane copies from home. -/
def onDie (s : State) (die : Nat) (it : Item) : Bool :=
  ((modelOf s it.model).map (·.homeDie)).getD die == die || (segsOf s it.model it.phase).all fun g => !needsHome g

/-- Whether a reserved rest of a class is available: some reservation names a group that may run and has no tile that awaits its
self-test (R136). -/
def reservedFor (s : State) (c : Nat) : Bool :=
  s.mash.table.rests.any fun r => r.rt.any fun v => v.cls == c &&
    (match grpIdx s v.die v.tile with
      | some i => !cannotRun s (grpAt s i)
      | none => false)

/-- Rests of the cycle whose choices are being sealed that a class has used (R135, R136): in the last rest of a cycle the seals
are for rest 0 of the next. -/
def rtSpent (s : State) (c : Nat) : Nat := let k := classOf s c
                                           if s.mash.sealAhead then k.rtAhead else k.rtUsed

/-- A real-time class under the fallback with rests left, or with the rest now sealed counted already. -/
def fallback (s : State) (c : Nat) : Bool :=
  let k := classOf s c
  decide (k.rtRests > 0) && (k.rtNow || decide (rtSpent s c < k.rtRests)) && !reservedFor s c

/-- The rest being sealed counts for a class, once. -/
def spendRt (s : State) (c : Nat) : State :=
  modClass s c fun k => if k.rtNow then k else
    { k with rtNow := true, rtUsed := if s.mash.sealAhead then k.rtUsed else k.rtUsed + 1,
             rtAhead := if s.mash.sealAhead then k.rtAhead + 1 else k.rtAhead }

/-- The class a rest of the table reserves a group for, with rests left in the cycle (R135). -/
def rtFor (s : State) (t : MashTable) (r : Nat) (g : Group) : Option Nat :=
  match (lget t.rests r default).rt.find? fun v => v.die == g.die && v.tile == g.tile with
  | some v =>
    let k := classOf s v.cls
    if k.rtRests > 0 ∧ (k.rtNow ∨ rtSpent s v.cls < k.rtRests) then some v.cls else none
  | none => none

/-- The order in which items start: fallback classes first; then tags, share class and eligibility for PREFILL and DECODE,
acceptance for every other activity (R127, R133, R136). -/
def itemBefore (s : State) (act : Nat) (a b : Item) : Bool :=
  let fa := fallback s a.cls
  let fb := fallback s b.cls
  if fa ≠ fb then fa
  else if act = 1 ∨ act = 2 then
    (if a.tag ≠ b.tag then tagAfter b.tag a.tag else if a.cls ≠ b.cls then decide (a.cls < b.cls) else decide (a.id < b.id))
  else if a.no ≠ b.no then decide (a.no < b.no) else decide (a.id < b.id)

/-- The bound promised to an item of a real-time class, fixed at the first seal after it became eligible (R136). `r` is the
rest whose choice is being sealed: it begins one rest from now, and G counts from the rest that begins now. -/
def boundOf (s : State) (t : MashTable) (phases : Tab Bool) (r : Nat) (it : Item) : Nat :=
  match costSeg s it.id it.model it.slice it.phase it.lastPos it.kind with
  | none => 0
  | some g =>
    let n := max 1 t.rests.length
    let tr := if g.carryIn = 0 then 0 else moveCycles g.liveSram
    let c := ceilDiv g.hbm (80 * max 1 g.lanesUsed)
    let base := 2048 + 98400 + 12288 + tr + g.length + c
    let reserved (k : Nat) : Bool := (lget t.rests ((r + k) % n) default).rt.any fun v => v.cls == it.cls
    let given (k : Nat) : Bool := s.mill.groups.any fun q =>
      q.size == g.groupTiles && groupSlice s q.die q.tile q.size == some it.slice && actFor t phases ((r + n - 1 + k) % n) q == it.act
    if reservedFor s it.cls then
      match (List.range n).find? reserved with
      | some k => s.mash.arith + 16384 * (k + 1) - it.eligAt + base
      | none => base
    else
      match (List.range n).find? given with
      | some k => 16384 * (k + 2) + base
      | none => 16384 * 2 + base

def setBounds (s : State) (t : MashTable) (phases : Tab Bool) (r : Nat) : State :=
  s.mash.items.foldl (fun s it =>
    if it.bound = 0 ∧ it.entry.isNone ∧ (classOf s it.cls).rtRests > 0 ∧ (it.act = 1 ∨ it.act = 2 ∨ it.act = 3) then
      let b := boundOf s t phases r it
      modClass (modItem s it.id fun k => { k with bound := b }) it.cls fun c => { c with rtBoundMax := max c.rtBoundMax b }
    else s) s

/-! ### Descriptors (R101, R105) -/

/-- First frame of the device-table region of a die that holds the SCRATCH and STAGED frames of a group: 2,048 frames of each for
a tile, counted down from the end of the die's frames (DESIGN CHOICE, log 48). -/
def scratchFrame (g : Group) (staged : Bool) : Nat :=
  g.die * Config.dieFrames + Config.dieFrames - 65536 + 4096 * g.tile + (if staged then 2048 * g.size else 0)

/-- A descriptor of frame runs, numbered over the module (R3, R105). -/
def runsDesc (kind tenant object d : Nat) (runs : List (Nat × Run)) : Desc :=
  { kind := kind, present := decide (runs ≠ []), tenant := tenant,
    base := (match runs with
      | (e, r) :: _ => frameOf e r
      | [] => d * Config.dieFrames),
    frames := sumBy (fun r => 2 ^ r.2.order) runs, object := object, pageList := 0, peer := 0 }

/-- How many slots of a kind a segment declares before slot `j`. -/
def slotRank (decls : List DescDecl) (j kind : Nat) : Nat := countBy (fun d => d.kind == kind) (decls.take j)

/-- The peers that experts of a model are homed on, but for this device, each once in the order of its expert map (R204). -/
def expertPeers (s : State) (h : ModelHdr) : List Nat := ((h.expertMap.map (·.1)).eraseDups).filter (· != s.fab.self)

/-- The descriptor of declared slot `j` for the items of an entry (R105, R106, R184, R197). A PEER slot names the peers of the
model's expert map in their order, or for an expert entry the peer whose tokens it takes, and a TABLE slot the tenant's tables in
ascending order (DESIGN CHOICE, log 48). -/
def descOf (s : State) (g : Group) (seg : Segment) (items : List Item) (j : Nat) : Desc :=
  let d := lget seg.descs j default
  let none_ : Desc := { (default : Desc) with kind := d.kind }
  let mdl := modelOf s seg.model
  let tenant := ((mdl.map (·.tenant)).getD 0)
  let h := (mdl.map (·.hdr)).getD default
  let it := items[d.entry]?
  let x := it.bind fun k => sessAt s k.sess
  match d.kind with
  | 1 => runsDesc 1 tenant seg.model g.die ((mdl.map (·.runs)).getD [])
  | 2 =>
    (match it, x with
    | some k, some x =>
      let r := runsDesc 2 x.tenant (handleOf x) x.homeDie (((pagesFor seg x).flatMap (·.runs)).map fun r => (x.homeDie, r))
      { r with
        present := r.present && !(d.writable && k.kind == .head)
        pageList := firstFrame x.homeDie (if x.model = seg.model then x.pageList else x.blk.draftList) }
    | _, _ => none_)
  | 3 => { none_ with present := true, tenant := tenant, base := scratchFrame g false, frames := 2048 * g.size }
  | 4 =>
    (match x with
    | some x => runsDesc 4 x.tenant (handleOf x) x.homeDie (x.stateBlock.map fun r => (x.homeDie, r))
    | none => none_)
  | 5 =>
    (match (s.rows.tables.filter fun t => t.2.tenant == tenant)[slotRank seg.descs j 5]? with
    | some (n, t) => runsDesc 5 t.tenant n t.die (t.runs.map fun r => (t.die, r))
    | none => none_)
  | 6 =>
    let peer := match items.head?.map (·.kind) with
      | some (.expert m e _) => (((tdef s.models.queues (4096 * m + e) []).head?).map (·.1)).orElse fun _ => (expertPeers s h)[slotRank seg.descs j 6]?
      | _ => (expertPeers s h)[slotRank seg.descs j 6]?
    (match peer with
    | some p => { none_ with present := true, tenant := tenant, peer := p }
    | none => none_)
  | 7 =>
    (match x with
    | some x => match activeGrammar s x with
      | some _ => runsDesc 7 x.tenant (handleOf x) x.homeDie (x.blk.slotRuns.map fun r => (x.homeDie, r))
      | none => none_
    | none => none_)
  | _ => { none_ with present := true, tenant := tenant, base := scratchFrame g true, frames := 2048 * g.size }

/-! ### Batches (R181, R183) -/

/-- Whether two items can lie in one batch: the same model, phase and k, and neither an expert entry's, whose batch entries are
the tokens it takes (R180, R181, R205). -/
def mates (a b : Item) : Bool :=
  let expert (k : Item) : Bool := match k.kind with
    | .expert .. => true
    | _ => false
  a.model == b.model && a.phase == b.phase && itemK a.kind == itemK b.kind && !expert a && !expert b

/-- Items that can share the head's batch within a bucket, in order, at most `n`: earlier chunks of a session first. -/
def fillBatch (s : State) (head : Item) (bucket n : Nat) (l : List Item) : List Item :=
  l.foldl (fun acc k =>
    if acc.length < n ∧ k.id ≠ head.id ∧ mates head k ∧ k.lastPos ≤ 2 ^ bucket ∧ chunkBefore s k (acc.map (·.id)) = false then
      acc ++ [k] else acc) [head]

/-- Chunks of one session made consecutive, in position order (R180). -/
def groupBySess (l : List Item) : List Item :=
  l.foldl (fun acc k =>
    if k.sess = 0 ∨ acc.any (fun a => a.sess == k.sess) = false then acc ++ [k]
    else
      let n := (acc.reverse.takeWhile fun a => a.sess != k.sess).length
      acc.take (acc.length - n) ++ [k] ++ acc.drop (acc.length - n)) []

/-- The head item, its segment and its batch on a group of size `n` (R133, R135, R181). -/
def pickWork (s : State) (act sl die n : Nat) (rt : Option Nat) : Option (Item × Segment × List Item) :=
  let l := sortBy (itemBefore s act) (s.mash.items.filter fun it => placeable s sl act it && onDie s die it)
  let heads := l.filter fun it => (match rt with
    | some c => it.cls == c
    | none => true) && !chunkBefore s it []
  (heads.filterMap fun h =>
    let others (b : Nat) : Nat := countBy (fun k => k.id != h.id && mates h k && decide (k.lastPos ≤ 2 ^ b)) l
    (pickSeg s h.model h.phase (itemK h.kind) n h.lastPos others).map fun g => (h, g, groupBySess (fillBatch s h g.bucket g.batch l))).head?

/-- A chunk samples if it holds the append's last position and the session's next command is a generate, or if a generate's
carry is what it appends (R183, R218). -/
def samplesNow (s : State) (it : Item) : Bool :=
  match it.kind with
  | .chunk _ _ true => samplesNext s it
  | _ => false

/-- The generate for which a sampling chunk samples. -/
def sampledFor (s : State) (it : Item) : Option GenParams :=
  let params (j : Job) : Option GenParams := match j.kind with
    | .generate g _ => some g
    | _ => none
  ((jobOf s it.seq).bind params).orElse fun _ => ((addingJobs s it.sess).filter fun j => j.seq != it.seq).head?.bind params

/-- What a sampling chunk's SAMPLE reads: the generate's parameters, and the slot of its grammar at the start of the generate
(R183, R190, R230). -/
def primeSample (s : State) (it : Item) : State :=
  if samplesNow s it = false then s
  else match sampledFor s it, sessAt s it.sess with
    | some g, some x =>
      let s := modSess s it.sess fun y => { y with
        blk := { y.blk with genParams := some g, gramActive := decide (g.grammar ≠ 0 ∨ y.grammar ≠ 0) } }
      match (if g.grammar ≠ 0 then (grammarOf s g.grammar).map fun r => (r, r.start, [])
             else (grammarOf s x.grammar).map fun r => (r, x.blk.sgState, x.blk.sgStack)) with
      | some (r, st, stk) => stageSlot s it.sess 0 (slotFor r st stk)
      | none => s
    | _, _ => s

/-! ### Pages an entry's positions reach (R156, R197) -/

/-- The pages of the positions that an item's entry will write, allocated from its command's reservation. -/
def openPages (s : State) (it : Item) : State :=
  match sessAt s it.sess with
  | none => s
  | some x =>
    let draft (s : State) (n : Nat) : State := match boundDraft s x with
      | some (d, _) => openDraft s it.sess it.seq n d.hdr 64
      | none => s
    match it.kind with
    | .chunk p ts _ => addPagesTo s it.sess it.seq (p + ts.length) 64
    | .decode | .tail | .resume => addPagesTo s it.sess it.seq (kvLen x + 1) 64
    | .verify k => draft (addPagesTo s it.sess it.seq (kvLen x + k + 1) 64) (x.blk.draftPos - x.blk.draftBase + k)
    | .draftPrefill p ts _ => draft s (p + ts.length)
    | _ => s

/-! ### Charges and entries (R111, R126, R142) -/

/-- The currencies of an entry and the bytes or tile cycles it is charged. -/
def entryCharges (n : Nat) (g : Segment) (len hbm fabric restore clear : Nat) : List (Nat × Nat) :=
  [(0, n * (len + restore + clear)), (1, hbm + (if restore = 0 then 0 else n * g.liveSram)), (2, if len = g.length then g.flash else 0),
   (3, fabric)]

/-- Whether a balance lets work of the cycle being sealed start: charges already made for the coming cycle count (R126). -/
def hasRoom (s : State) (sl act cur : Nat) : Bool :=
  if s.mash.sealAhead then
    match budgetCur (budgetOf s sl act) cur with
    | none => true
    | some m => decide (min (m : Int) ((balOf s sl act cur).bal + m) > ((tdef s.mash.ahead (balKey sl act cur) 0 : Nat) : Int))
  else hasBal s sl act cur

/-- The first currency that holds work back (R127). -/
def heldBy (s : State) (sl act : Nat) (cs : List (Nat × Nat)) : Option Nat :=
  (cs.find? fun c => c.2 != 0 && !hasRoom s sl act c.1).map (·.1)

/-- The charges of a seal: to the cycle of the rest it is for (R126). Flash bytes are charged when their reads issue. -/
def chargeAll (s : State) (sl act : Nat) (cs : List (Nat × Nat)) : State :=
  cs.foldl (fun s c =>
    if c.1 = 2 ∨ c.2 = 0 then s
    else if s.mash.sealAhead then
      let k := balKey sl act c.1
      { s with mash.ahead := tput s.mash.ahead k (tdef s.mash.ahead k 0 + c.2) }
    else charge s sl act c.1 c.2) s

def amount (cs : List (Nat × Nat)) (c : Nat) : Nat := (cs.find? fun x => x.1 == c).map (·.2) |>.getD 0

/-- What the items of a batch add to their classes (R132, R142): only work of sessions counts, and waits once for the entries of
a speculative step (`main`). -/
def classShare (s : State) (items : List Item) (g : Segment) (n start sw : Nat) (main : Bool) : State :=
  items.foldl (fun s it =>
    if it.sess = 0 then s
    else
      let w := if main then start - it.eligAt else 0
      let b := max 1 g.batch
      let sh := (n * g.length / b, g.hbm / b, g.fabric / b)
      let s := modItem s it.id fun k => { k with
        causes := lmod (lmod k.causes 0 fun v => v + (w - lget k.causes 1 0)) 3 fun v => v + sw
        share := (k.share.1 + sh.1, k.share.2.1 + sh.2.1, k.share.2.2 + sh.2.2), solo := if main then g.length else k.solo }
      modClass s it.cls fun c => { c with
        waitCycles := c.waitCycles + w, tileCycles := ctrAdd c.tileCycles sh.1
        hbmBytes := ctrAdd c.hbmBytes sh.2.1, fabricBytes := ctrAdd c.fabricBytes sh.2.2 }) s

/-- An entry appended to the choice of group `i`. -/
def putSealed (s : State) (i : Nat) (e : Entry) : State :=
  { modGrp s i (fun x => { x with sealed := x.sealed ++ [{ e with id := s.mill.nextEntry }] }) with
    mill.nextEntry := s.mill.nextEntry + 1 }

/-- Switch work before an entry that follows work of `tenant` that left `carry` (R110, R111). -/
def clearFor (prev tenant : Nat) : Nat := if prev ≠ 0 ∧ prev ≠ tenant then Config.clearCycles else 0

/-- Cycles that zero the hot area of a group whose next entry follows ROWS (R387). -/
def hotClear (s : State) (i : Nat) : Nat :=
  let g := grpAt s i
  if g.chain = [] ∧ g.sealed = [] ∧ (g.lastAct = 11 ∨ actFor s.mash.table s.mash.govPhase s.mash.rest g = 11) then
    min s.rows.hotKib 16384 * 1024 / 2048
  else 0

/-- The clear before the next entry of a group: the full clear covers the hot area (R110, R387). -/
def clearOn (s : State) (i prev tenant : Nat) : Nat := max (clearFor prev tenant) (hotClear s i)

/-- The kept exit state that a START restores (R111): the newest of its tenant with the carry tag it expects and the same
sessions; none where the live state passes through, or where none was kept (DESIGN CHOICE, log 61). -/
def keptFor (s : State) (i : Nat) (g : Segment) (prev tenant carry : Nat) (items : List Item) : Option Entry :=
  if g.carryIn = 0 ∨ (g.carryIn = carry ∧ prev = tenant) then none
  else
    let mine := items.filterMap fun it => (sessAt s it.sess).map handleOf
    (grpAt s i).kept.find? fun k => k.tenant == tenant && (segAt s k.seg).carryOut == g.carryIn &&
      k.descs.all fun d => (d.kind != 2 && d.kind != 4) || d.present == false || mine.contains d.object

/-- Cycles of the restore before a START. -/
def restoreFor (s : State) (i : Nat) (g : Segment) (prev tenant carry : Nat) (items : List Item) : Nat :=
  if (keptFor s i g prev tenant carry items).isSome then moveCycles g.liveSram else 0

/-- Whether the Cellar asks for an entry's exit state to be kept: some loaded segment of the model and group size expects it
(DESIGN CHOICE, log 61). -/
def wantsKeep (s : State) (g : Segment) : Bool :=
  g.carryOut != 0 && s.mill.segs.any fun k => k.2.model == g.model && k.2.groupTiles == g.groupTiles && k.2.carryIn == g.carryOut &&
    !k.2.replaced

/-- One START entry for a batch, charged and appended; the items take its number. The pages its positions reach are allocated
(R156). A draft step of a speculative chain serves the pass's item too (`main` false). -/
def startEntry (s : State) (i act sl : Nat) (g : Segment) (items : List Item) (tenant prev carry : Nat) (at_ : Nat) (main : Bool) : State :=
  let s := items.foldl (fun s it => primeSample (openPages s it) it) s
  let q := grpAt s i
  let clear := clearOn s i prev tenant
  let kept := keptFor s i g prev tenant carry items
  let restore := restoreFor s i g prev tenant carry items
  let cs := entryCharges q.size g g.length g.hbm g.fabric restore clear
  let s := chargeAll s sl act cs
  let s := match kept with
    | some k => modGrp s i fun x => { x with kept := x.kept.erase k }
    | none => s
  let id := s.mill.nextEntry
  let s := classShare s items g q.size (at_ + restore + clear) (restore + clear) main
  let s := items.foldl (fun s it => modItem s it.id fun k => { k with
    entry := some id, samples := samplesNow s it
    kind := match k.kind with
      | .expert m e _ => .expert m e (min g.batch (tdef s.models.queues (4096 * m + e) []).length)
      | q => q }) s
  putSealed s i
    { id := id, seg := g.id, act := act, slice := sl, tenant := tenant, items := items.map (·.id),
      descs := (List.range g.descs.length).map (descOf s q g items), switchLeft := restore + clear, ran := 0, left := g.length,
      resumed := false, chargedTile := amount cs 0,
      chargedHbm := amount cs 1, chargedFabric := amount cs 3, flash := amount cs 2,
      ctx := (kept.map (·.ctx)).getD [], ctxRuns := (kept.map (·.ctxRuns)).getD [], copies := [], stall := 0, swBegun := false,
      keep := wantsKeep s g }

/-- The draft decode segment of a speculative step, once for each drafted token (R195). -/
def draftSegs (s : State) (h : Item) (n : Nat) : Option (List Segment) :=
  match h.kind with
  | .verify k =>
    (match (sessAt s h.sess).bind fun x => draftOf s x with
    | some (d, _) => (pickSeg s d.id 1 0 n h.lastPos fun _ => 0).map fun g => List.replicate k g
    | none => none)
  | _ => some []

/-- The tenant and carry tag a further entry of the choice would follow. -/
def leftBy (s : State) (i : Nat) : Nat × Nat :=
  let g := grpAt s i
  match (g.sealed.getLast?), (if g.preempt then none else g.chain.getLast?) with
  | some e, _ => (e.tenant, (segAt s e.seg).carryOut)
  | none, some e => (e.tenant, (segAt s e.seg).carryOut)
  | none, none => (g.lastTenant, if g.preempt then 0 else g.lastCarry)

/-- Held work: the hold is counted, and the items that wait on it count a rest of it among their causes (R129, R144). -/
def holdWork (s : State) (sl act cur : Nat) : State :=
  let s := holdOn s sl act cur
  { s with mash.items := s.mash.items.map fun k => if placeable s sl act k then
      { k with causes := lmod k.causes 1 fun v => v + Config.restLen } else k }

/-- The chain's entries in order with what each is charged, for a batch after its draft steps (R127, R195). -/
def chainCharges (s : State) (i : Nat) (prev carry : Nat) (tenant : Nat) (items : List Item) : List Segment → List (List (Nat × Nat))
  | [] => []
  | g :: l =>
    entryCharges (grpAt s i).size g g.length g.hbm g.fabric (restoreFor s i g prev tenant carry items) (clearOn s i prev tenant) ::
      chainCharges s i tenant g.carryOut tenant items l

/-- The first currency that holds an entry of a chain back, each checked after the charges of those before it. -/
def chainHeld (s : State) (sl act : Nat) : List (List (Nat × Nat)) → Option Nat
  | [] => none
  | cs :: l => match heldBy s sl act cs with
    | some c => some c
    | none => chainHeld (chargeAll s sl act cs) sl act l

/-- The classes of a resumed entry's items pay again for what remains (R126, R142). -/
def reshare (s : State) (e : Entry) (seg : Segment) (u : Nat × Nat) : State :=
  (s.mash.items.filter fun it => it.entry == some e.id && it.sess != 0).foldl (fun s it =>
    let b := max 1 seg.batch
    let sh := (seg.groupTiles * e.left / b, u.1 / b, u.2 / b)
    modClass (modItem s it.id fun k => { k with share := (k.share.1 + sh.1, k.share.2.1 + sh.2.1, k.share.2.2 + sh.2.2) }) it.cls
      fun c => { c with
        tileCycles := ctrAdd c.tileCycles sh.1, hbmBytes := ctrAdd c.hbmBytes sh.2.1, fabricBytes := ctrAdd c.fabricBytes sh.2.2 }) s

/-- Work appended to the choice of a group while it would start within the next rest, at most 8 entries (R107, R127).
`busy` is the cycle of that rest at which the chain so far ends; `rt` the class the rest is reserved for. -/
def fillChoice : Nat → State → Nat → Nat → Nat → Nat → Option Nat → State
  | 0, s, _, _, _, _, _ => s
  | n + 1, s, i, act, sl, busy, rt =>
    let g := grpAt s i
    if busy ≥ Config.restLen ∨ g.sealed.length ≥ 8 then s
    else
      let (prev, carry) := leftBy s i
      let at_ := s.mash.arith + Config.restLen + busy
      match (if rt.isSome then none else g.saved.find? fun e => e.act == act && e.slice == sl && tenantLive s e.tenant) with
      | some e =>
        let seg := segAt s e.seg
        let restore := moveCycles seg.liveSram
        let clear := clearOn s i prev e.tenant
        let u := unissued seg e.ran
        let cs := entryCharges g.size seg e.left u.1 u.2 restore clear
        (match heldBy s sl act cs with
        | some c => holdWork s sl act c
        | none =>
          let s := reshare (chargeAll s sl act cs) e seg u
          let s := modGrp s i fun x => { x with
            saved := x.saved.erase e
            sealed := x.sealed ++ [{ e with switchLeft := restore + clear, chargedTile := amount cs 0,
                                            chargedHbm := amount cs 1, chargedFabric := amount cs 3 }] }
          fillChoice n s i act sl (busy + restore + clear + e.left) none)
      | none =>
        match pickWork s act sl g.die g.size rt with
        | none => s
        | some (h, seg, items) =>
          match draftSegs s h g.size with
          | none => s
          | some ds =>
            if g.sealed.length + ds.length + 1 > 8 ∧ g.sealed ≠ [] then s
            else
              let free := rt.isSome || fallback s h.cls
              let all := chainCharges s i prev carry h.tenant items (ds ++ [seg])
              match (if free then none else chainHeld s sl act all) with
              | some c => holdWork s sl act c
              | none =>
                let s := if free then spendRt s h.cls else s
                let s := if act = 1 then { s with mash.vPrefill := tput s.mash.vPrefill sl (tagMax (vTime s sl 1) h.tag) }
                         else if act = 2 then { s with mash.vDecode := tput s.mash.vDecode sl (tagMax (vTime s sl 2) h.tag) } else s
                let s := ds.foldl (fun s d =>
                  let (p, c) := leftBy s i
                  startEntry s i act sl d items h.tenant p c at_ false) s
                let (p, c) := leftBy s i
                let s := startEntry s i act sl seg items h.tenant p c at_ true
                fillChoice n s i act sl (busy + sumBy (fun cs => amount cs 0 / max 1 g.size) all) none

/-- The choice of group `i` for rest `r` of table `t` (R22, R107, R116, R135, R388). An entry of the reserved class's own step, a
draft step among them, is no entry of another class. -/
def sealGroup (s : State) (t : MashTable) (phases : Tab Bool) (r i : Nat) : State :=
  let g := grpAt s i
  let act := actFor t phases r g
  let cls : Option Nat := (g.chain.head?.bind fun e => e.items.head?).bind fun id => (itemOf s id).map (·.cls)
  match groupSlice s g.die g.tile g.size with
  | none => modGrp s i fun x => { x with preempt := true }
  | some sl =>
    -- a group that waits for its tiles may be sealed for the first rest in which no old entry runs on them (R123)
    if cannotRun s { g with blocked := g.blocked && decide (g.drain > Config.restLen) } then modGrp s i fun x => { x with preempt := true }
    else
      let rt := (rtFor s t r g).filter fun c => (pickWork s act sl g.die g.size (some c)).isSome
      let foreign := g.chain.any fun e => e.act != act || e.slice != sl || !tenantLive s e.tenant
      let pre := foreign || (rt.isSome && decide (g.chain ≠ []) && cls != rt)
      let s := modGrp s i fun x => { x with preempt := pre }
      let s := match rt with
        | some c => spendRt s c
        | none => s
      if act = 0 ∨ act = 11 ∨ act = 12 then s
      else
        let busy := g.drain + (if pre then 0 else sumBy (fun e => e.switchLeft + e.left) g.chain) - Config.restLen
        fillChoice 8 s i act sl busy rt

/-- The reads that stage an entry's bytes issue as its choice comes into force, for its items in equal parts
(R100, R126, R142). -/
def stageFlash (s : State) (e : Entry) : State :=
  if e.flash = 0 then s
  else
    let l := s.mash.items.filter fun it => e.items.contains it.id && it.sess != 0
    l.foldl (fun s it => noteClass s it.cls 2 (e.flash / max 1 e.items.length)) (charge s e.slice e.act 2 e.flash)

/-- Applies the choice of a group for the rest that begins with activity `act` (R107, R116). Entries sealed for another
activity, under a table or phase that did not come into force, are withdrawn. -/
def applyChoice (s : State) (i act : Nat) : State :=
  let g := grpAt s i
  let keep := g.sealed.filter fun e => e.act == act
  let s := (g.sealed.filter fun e => e.act != act).foldl (withdraw i) s
  let s := modGrp s i fun x => { x with sealed := [], preempt := false }
  let pre := g.preempt || g.chain.any fun e => e.act != act
  let s := if pre then suspendChain s i else s
  let s := keep.foldl stageFlash s
  modGrp s i fun x => { x with chain := x.chain ++ keep.map fun e => { e with flash := 0 } }

/-! ### Composition (R86, R93, R97, R108) -/

/-- The physical lane of a group's relative lane (R93). -/
def physLane (g : Group) (l : Nat) : Nat := if l < g.size then g.tile + l else 16 + g.tile / 2 + (l - g.size)

/-- The physical slot of an op of a group. -/
def physSlot (g : Group) (seg : Segment) (o : Op) : Nat :=
  if o.slot < 16 then g.tile + o.slot
  else if o.slot < 22 then 16 + physLane g (lget seg.copies o.w0 default).lane / 4
  else o.slot

/-- The ops a group's chain places in the rest that begins: rest cycle, duration, op with its physical slot. What late copies have
cost lies in what each entry still has to run (R98, R108). -/
def groupOps (s : State) (g : Group) : List (Nat × Nat × Op) :=
  (g.chain.foldl (fun (acc : Nat × List (Nat × Nat × Op)) e =>
    let seg := segAt s e.seg
    let t := acc.1 + e.switchLeft
    let ops := seg.bundles.flatMap fun b =>
      if e.ran ≤ b.cycle ∧ t + (b.cycle - e.ran) < Config.restLen then
        b.ops.map fun o => (t + (b.cycle - e.ran), opDur seg (segVocab s seg) o, { o with slot := physSlot g seg o }) else []
    (t + e.left, acc.2 ++ ops)) (g.drain + lateCycles g, [])).2

/-- Ops on one shared slot in the same cycle issue one per cycle, in order (R97). -/
def skewOps : List (Nat × Op) → List (Nat × Nat) → List (Nat × Op)
  | [], _ => []
  | (c, o) :: l, last =>
    if o.slot < 16 then (c, o) :: skewOps l last
    else
      let c' := match last.find? fun x => x.1 == o.slot with
        | some x => max c (x.2 + 1)
        | none => c
      (c', o) :: skewOps l ((o.slot, c') :: last)

/-- The stream of a die for the rest that begins, and each group's cycles of it that run no op (R108). -/
def composeDie (s : State) (d : Nat) : State :=
  let gs := sortBy (fun (a b : Group) => decide (a.tile < b.tile)) (s.mill.groups.filter fun g => g.die == d)
  let ops := sortBy (fun (a b : Nat × Op) => decide (a.1 < b.1)) (gs.flatMap fun g => (groupOps s g).map fun p => (p.1, p.2.2))
  let s := { s with mill.groups := s.mill.groups.map fun g => if g.die = d then
      { g with idle := idleIn ((groupOps s g).map fun p => (p.1, p.1 + p.2.1)) 0 Config.restLen } else g }
  modDie s d fun x => { x with stream := skewOps ops [] }

end Sys2Proof.Machine
end

