-- ==== Sys2Proof/Machine/Rest.lean ====
section
/-! DEFINITION. What a rest boundary does beside running and sealing: holds, refills, wear allowance, windows, shapers, the
governor, the change of mash table, and work that waited for the boundary (R115, R122 to R125, R129, R134, R137, R138, R144,
R169, R182, R315, R333, R403). -/
namespace Sys2Proof.Machine

/-! ### Holds (R403) -/

/-- Whether a hold follows rest `n` at throttle level `h`. -/
def holdFollows (h n : Nat) : Bool := decide ((n + 1) * h / 16 > n * h / 16)

/-- The hold after the rest that ends, counted. -/
def stepHold (s : State) : State :=
  let hold := holdFollows s.dev.thr.level s.dev.thr.restsSince
  let n := s.dev.thr.restsSince + 1
  let start := s.mash.restStart + Config.restLen * (if hold then 2 else 1)
  { s with
    dev.thr.restsSince := n
    dev.throttleHolds := if hold then ctrAdd s.dev.throttleHolds 1 else s.dev.throttleHolds
    dev.localCtr := max s.dev.localCtr start
    mash.restStart := max s.dev.localCtr start
    mash.holdNext := holdFollows s.dev.thr.level n
    mash.arith := ctrAdd s.mash.arith Config.restLen }

/-- The local time of the next boundary. -/
def nextBoundary (s : State) : Nat := s.mash.restStart + Config.restLen * (if s.mash.holdNext then 2 else 1)

/-! ### Refill (R125, R129, R315) -/

/-- The (slice, activity, currency) triples. -/
def balTriples : List (Nat × Nat × Nat) :=
  (List.range 16).flatMap fun sl => (List.range 12).flatMap fun a => (List.range 4).map fun c => (sl, a + 1, c)

/-- Every balance becomes min(budget, balance + budget). -/
def refillBal (s : State) : State :=
  balTriples.foldl (fun s k =>
    match budgetCur (budgetOf s k.1 k.2.1) k.2.2 with
    | none => s
    | some m =>
      if m = 0 ∧ thas s.mash.balances (balKey k.1 k.2.1 k.2.2) = false then s
      else
        let b := balOf s k.1 k.2.1 k.2.2
        setBal s k.1 k.2.1 k.2.2 { b with bal := min (m : Int) (b.bal + m) }) s

/-- The charges of the seals made for the cycle that begins fall to it, after its refill (R126). -/
def payAhead (s : State) : State :=
  if s.mash.ahead = [] then s
  else
    let l := s.mash.ahead
    balTriples.foldl (fun s k => charge s k.1 k.2.1 k.2.2 (tdef l (balKey k.1 k.2.1 k.2.2) 0)) { s with mash.ahead := [] }

/-- The marks of R129 are per mash cycle. -/
def clearHeld (s : State) : State :=
  { s with mash.balances := s.mash.balances.map fun p => (p.1, { p.2 with heldNow := false }),
           mash.wearHold := s.mash.wearHold.map fun p => (p.1, { p.2 with heldNow := false }) }

/-- The wear allowance of the cycle that begins: A × t_c + K − W_o. -/
def setAllowance (s : State) : State :=
  let a := s.oast.allowRate
  let k : Int := min s.oast.allowance ((s.oast.bankS * a : Nat) : Int)
  { s with
    oast.allowance := ((a * s.mash.table.restCount * Config.restLen / 3000000000 : Nat) : Int) + k - (s.oast.otherWrites : Int)
    oast.allowBank := 0, oast.otherWrites := 0 }

/-! ### Windows and slowdown (R137, R144) -/

/-- The cause with the most cycles; the lowest number wins a tie. -/
def largestCause (l : List Nat) : Nat :=
  (List.range 4).foldl (fun m i => if lget l m 0 < lget l i 0 then i else m) 0

def raiseSlow (s : State) (c : Nat) (k : ShareClass) (reason slow : Nat) (causes : List Nat) : State :=
  raise s 0x50 k.tenant 0
    ([(2, c), (1, reason), (1, largestCause causes), (4, slow)] ++ (List.range 4).map fun i => (8, lget causes i 0))

/-- At the end of a mash cycle, a class with a late real-time item is reported; at the end of a window, a class whose
slowdown rose to the threshold. -/
def endWindows (s : State) : State :=
  let last := decide ((s.mash.cycleCnt + 1) % 64 = 0)
  s.mash.classes.foldl (fun s p =>
    let k := classOf s p.1
    let now := if k.winSolo = 0 then k.slowdown else min (k.winObs * 256 / k.winSolo) 0xFFFFFFFF
    let s := if k.rtMissNow then raiseSlow s p.1 k 1 now k.winCause else s
    let s := modClass s p.1 fun k => { k with rtMissNow := false }
    if last = false then s
    else
      let s := modClass s p.1 fun k => { k with winObs := 0, winSolo := 0, winCause := [0, 0, 0, 0], winItems := 0, rtBoundMax := 0 }
      if k.winItems = 0 then s
      else
        let s := modClass s p.1 fun k => { k with slowdown := now, hadWindow := true }
        if s.mash.slowThr ≠ 0 ∧ s.mash.slowThr ≤ now ∧ (k.hadWindow = false ∨ k.slowdown < s.mash.slowThr) then raiseSlow s p.1 k 0 now k.winCause else s) s

/-! ### Items no group can take (R182) -/

/-- Whether some usable group of the table has the size of a loaded segment of the item's phase and its activity. -/
def anyGroup (s : State) (it : Item) : Bool :=
  (segsOf s it.model it.phase).any fun g =>
    s.mill.groups.any fun q => q.size == g.groupTiles && (grpTiles q).all (fun t => (tileAt s t).inService) &&
      groupSlice s q.die q.tile q.size == some it.slice &&
      s.mash.table.rests.any fun r =>
        let a := lget r.act (16 * q.die + q.tile) 0
        a == it.act || (a == 0xF && (it.act == 1 || it.act == 2))

def countNoGroup (s : State) : State :=
  { s with mash.items := s.mash.items.map fun it =>
      if it.entry.isSome then it else { it with noGroup := if anyGroup s it then 0 else it.noGroup + 1 } }

/-- A running generate whose next step lies beyond every loaded bucket ends for reason 6. -/
def beyondBuckets (s : State) : State :=
  s.mash.items.foldl (fun s it =>
    let gen : Bool := match it.kind with
      | .decode => true
      | .head => true
      | .resume => true
      | .tail => true
      | .verify _ => true
      | _ => false
    let l := segsOf s it.model it.phase
    if gen ∧ it.entry.isNone ∧ l ≠ [] ∧ l.all (fun g => decide (2 ^ g.bucket < it.lastPos)) ∧
        ((sessAt s it.sess).bind (·.run)).isSome then
      pump (endGenerate s it.sess 6) it.sess
    else s) s

/-! ### Shapers (R138) -/

def refillShapers (s : State) : State :=
  { s with mash.shapers := s.mash.shapers.filterMap fun p =>
      if p.2.removing then none
      else
        let t := p.2.rate * Config.restLen + p.2.frac
        some (p.1, { p.2 with tokens := min p.2.burst (p.2.tokens + t / 3000000000), frac := t % 3000000000 }) }

/-! ### The governor (R134) -/

/-- Cost of the slice's items of an activity that have not started, in units of 2^-32 tile-rests. -/
def queued (s : State) (sl act : Nat) : Nat :=
  sumBy (·.cost) (s.mash.items.filter fun i => i.act == act && i.slice == sl && i.entry.isNone)

/-- Tile-rests a cycle gives an activity in a slice, governed groups at the phases given. -/
def supplied (s : State) (phases : Tab Bool) (sl act : Nat) : Nat :=
  sumBy (fun r => sumBy (fun (g : Group) =>
    if groupSlice s g.die g.tile g.size = some sl ∧ actFor s.mash.table phases r g = act then g.size else 0) s.mill.groups)
    (List.range s.mash.table.rests.length)

/-- P_a > ratio × P_b, with Q in units of 2^-32 tile-rests. -/
def pressureOver (qa sa qb sb ratio : Nat) : Bool :=
  if sa = 0 then decide (qa > 0) && !(decide (sb = 0) && decide (qb > 0))
  else if sb = 0 then decide (qb = 0) && decide (qa > 0)
  else decide (qa * 256 * sb > ratio * qb * sa)

def govCfg (s : State) (sl : Nat) : Option GovCfg :=
  if s.mash.table.builtin then (if sliceDefined s sl then some { pfMin := 0, pfMax := 4, pfInit := 2, ratio := 0x140 } else none)
  else tget s.mash.table.gov sl

/-- The governor looks at one slice and moves at most one group. -/
def govSlice (s : State) (sl : Nat) : State :=
  match govCfg s sl with
  | none => s
  | some c =>
    let gs := governedOf s s.mash.table sl
    let key (g : Nat × Nat) : Nat := 16 * g.1 + g.2
    let ph := s.mash.govPhase
    let pf := gs.filter fun g => tdef ph (key g) false
    let de := gs.filter fun g => !tdef ph (key g) false
    let qp := queued s sl 1
    let qd := queued s sl 2
    let beyond (ph : Tab Bool) (pd : Bool) : Bool :=
      let sp := supplied s ph sl 1
      let sd := supplied s ph sl 2
      if pd then pressureOver qd sd qp sp c.ratio else pressureOver qp sp qd sd c.ratio
    let move (g : Nat × Nat) (toPf : Bool) : State :=
      let ph' := tput ph (key g) toPf
      if beyond ph' toPf then s else { s with mash.govPhase := ph', mash.govMoves := ctrAdd s.mash.govMoves 1 }
    if beyond ph true ∧ pf.length > c.pfMin then
      (match pf.getLast? with
        | some g => move g false
        | none => s)
    else if beyond ph false ∧ pf.length < c.pfMax then
      (match de.head? with
        | some g => move g true
        | none => s)
    else s

/-! ### A new mash table (R122, R123) -/

/-- The phases governed groups take when a table becomes active. -/
def initPhases (s : State) (t : MashTable) : Tab Bool :=
  t.gov.foldl (fun (ph : Tab Bool) p =>
    let gs := governedOf s t p.1
    (List.range gs.length).foldl (fun ph i =>
      match gs[i]? with
      | some g => tput ph (16 * g.1 + g.2) (decide (i < p.2.pfInit))
      | none => ph) ph) []

/-- Balances at activation: the new budget, plus the old balance if that was negative. -/
def activateBal (s : State) : State :=
  let old := s.mash.balances
  let s := { s with mash.balances := old.map fun p => (p.1, { p.2 with bal := min 0 p.2.bal }) }
  balTriples.foldl (fun s k =>
    match budgetCur (budgetOf s k.1 k.2.1) k.2.2 with
    | none => s
    | some m =>
      if m = 0 ∧ thas s.mash.balances (balKey k.1 k.2.1 k.2.2) = false then s
      else
        let b := balOf s k.1 k.2.1 k.2.2
        setBal s k.1 k.2.1 k.2.2 { b with bal := b.bal + m }) s

/-- Whether a group has the place and size of a group of a layout. -/
def inLayout (lay : List (Nat × Nat × Nat × Bool)) (g : Group) : Bool :=
  lay.any fun n => n.1 == g.die && n.2.1 == g.tile && n.2.2.1 == g.size

/-- A group of the old layout ends: its choice is withdrawn and its chain suspended. -/
def endGroup (s : State) (i : Nat) : State :=
  suspendChain (modGrp ((grpAt s i).sealed.foldl (withdraw i) s) i fun x => { x with sealed := [] }) i

/-- An entry whose next switch point is its exit runs out. -/
def runOut (s : State) (i : Nat) : State :=
  match (grpAt s i).chain with
  | e :: _ => modGrp (runChain 8 s i e.left).1 i fun x => { x with drain := x.drain + e.left }
  | [] => s

/-- Whether two groups have the same place and size. -/
def sameShape (a b : Group) : Bool := a.die == b.die && a.tile == b.tile && a.size == b.size

/-- Whether two groups share a tile. -/
def overlaps (a b : Group) : Bool := a.die == b.die && decide (a.tile < b.tile + b.size) && decide (b.tile < a.tile + a.size)

/-- The groups of a layout that `groups` lacks, each with the longest of what `busy` gives for the old groups on its tiles
(R123). -/
def freshGroups (groups : List Group) (busy : Group → Nat) (lay : List (Nat × Nat × Nat × Bool)) : List Group :=
  (lay.map fun n => { Group.zero with die := n.1, tile := n.2.1, size := n.2.2.1 }).filterMap fun (n : Group) =>
    if groups.any (sameShape n) then none
    else
      let beyond := groups.filter (overlaps n)
      let drain := beyond.foldl (fun m g => max m (busy g)) 0
      some { n with drain := drain, blocked := decide (drain > 0), lastTenant := (beyond.map (·.lastTenant)).foldl max 0 }

def sortGroups (l : List Group) : List Group := sortBy (fun (a b : Group) => decide (16 * a.die + a.tile < 16 * b.die + b.tile)) l

/-- The groups of the new layout: those that keep their shape, and new ones, which take up the choices sealed for them or wait
for the tiles they take over (R122, R123). -/
def newGroups (groups coming : List Group) (lay : List (Nat × Nat × Nat × Bool)) : List Group :=
  let fresh := (freshGroups groups (·.drain) lay).map fun n =>
    match coming.find? (sameShape n) with
    | some c => if n.blocked then n else { n with sealed := c.sealed }
    | none => n
  sortGroups (groups.filter (inLayout lay) ++ fresh)

/-- Choices sealed for a group that did not come about are withdrawn: their items wait again, their charges return. -/
def dropSealed (s : State) (g : Group) : State :=
  g.sealed.foldl (fun s e => freeCtx (redoEntry (unshareAll (uncharge s e) e) e) g.die e) s

/-- A saved context of a group that ended goes to a group of its die and size, or its work begins again. -/
def rehome (s : State) (o : Nat × Nat × Entry) : State :=
  match (List.range s.mill.groups.length).find? fun i => (grpAt s i).die == o.1 && (grpAt s i).size == o.2.1 with
  | some i => modGrp s i fun x => { x with saved := x.saved ++ [o.2.2] }
  | none => freeCtx (redoEntry s o.2.2) o.1 o.2.2

/-- A kept exit state of a group that ended goes the same way, or is dropped (R111). -/
def rehomeKept (s : State) (o : Nat × Nat × Entry) : State :=
  match (List.range s.mill.groups.length).find? fun i => (grpAt s i).die == o.1 && (grpAt s i).size == o.2.1 with
  | some i =>
    let l := (grpAt s i).kept ++ [o.2.2]
    (l.drop 8).foldl (fun s k => freeCtx s o.1 k) (modGrp s i fun x => { x with kept := l.take 8 })
  | none => freeCtx s o.1 o.2.2

/-- The groups of the new layout: those of the same place and size go on; for the others the old entries are suspended,
their contexts pass to the first new group of the size on the die, and the tiles stay idle until they are free. -/
def relayout (s : State) (t : MashTable) : State :=
  let lay := layoutGroups t.layout
  let gone := (List.range s.mill.groups.length).filter fun i => !inLayout lay (grpAt s i)
  let s := gone.foldl runOut (gone.foldl endGroup s)
  let old := gone.map (grpAt s)
  let coming := s.mill.coming
  let s := { s with mill.groups := newGroups s.mill.groups coming lay, mill.coming := [] }
  let s := (coming.filter fun c => !(s.mill.groups.any fun g => sameShape g c && g.sealed != [])).foldl dropSealed s
  let s := if gone = [] then s else { s with rows.tables := s.rows.tables.map fun p => (p.1, { p.2 with hot := [] }) }
  let s := (old.flatMap fun g => g.saved.map fun e => (g.die, g.size, e)).foldl rehome s
  (old.flatMap fun g => g.kept.map fun e => (g.die, g.size, e)).foldl rehomeKept s

/-- The pending table becomes active: the rest that begins is its rest 0, and its MASH_LOAD completes. -/
def activateTable (s : State) (t : MashTable) (seq : Nat) : State :=
  let ph := initPhases s t
  let s := relayout s t
  let s := payAhead (activateBal { s with mash.table := t, mash.pendingTab := none, mash.govPhase := ph, mash.rest := 0 })
  complete s seq (ansB (beBytes 32 t.digest))

/-! ### Work that waited for a boundary -/

/-- A rack record answered busy is sent again (R333). -/
def resendBusy (s : State) (x : Sess) : State :=
  match x.deltas.find? fun d => decide (d.rackSeq > x.rackAcked) with
  | none => modSess s x.idx fun y => { y with rackBusy := false }
  | some d =>
    let img := imageOf s x
    let r : RackRec := { session := handleOf x, epoch := x.epoch, rackSeq := d.rackSeq, rkind := d.rkind,
                         rflags := if img.incoming then 1 else 0, slice := sliceOfSess s x, tenant := x.tenant,
                         kvBytes := kvBytesOf s x, descBytes := descBytes s x d.rkind, position := d.position, image := img }
    sendMsg { s with fab.cnt.rackBusy := ctrAdd s.fab.cnt.rackBusy 1 } (buddyOf s x) 1 (sliceOfSess s x) 7 x.tenant false (.rack r)

/-- A park that waits is tried again, one without mapped space once in a mash cycle (R130, R169). -/
def retryPark (s : State) (idx : Nat) : State :=
  match sessAt s idx with
  | none => s
  | some x =>
    if x.parkWait = false ∨ x.state ≠ stWARM ∨ (x.parkFull ∧ s.mash.rest ≠ 0) then s else tryPark s x.idx x.parkSeq

/-- A revive that waits: an extract's model is warmed, or the revive ends NO_MEMORY; its reads issue (R127, R130, R202). -/
def resumeRevive (s : State) (idx : Nat) : State :=
  match sessAt s idx with
  | none => s
  | some x =>
    if x.reviving = false then s
    else if x.state = stEXTRACT ∧ ((modelOf s x.model).map (·.st)) = some 0 then
      (match beginWarm s x.model with
        | some s => s
        | none => pump (failRevive s idx stNoMemory) idx)
    else if x.reviveSrc = 2 then reviveReads s idx else s

/-- A command whose flash work waits: a registration, a warm, a revive, a park, an append that reads a node. Commands go on in
the order of their acceptance (R127). -/
def resumeJob (s : State) (j : Job) : State :=
  match j.kind with
  | .register .. => if j.stage = 2 then registerWrite s j.seq else s
  | .warm m => warmReads s m
  | .park => retryPark s (idxOf j.session)
  | .append .. =>
    let idx := idxOf j.session
    if j.stage = 2 ∧ s.oast.reads.any (fun r => match r.what with
        | .node k _ => k == idx
        | _ => false) = false then pump (runAppend s j) idx
    else resumeRevive s idx
  | _ => if j.session = 0 then s else resumeRevive s (idxOf j.session)

/-- A session that moves in and waits for flash. -/
def resumeIncoming (s : State) (m : MigIn) : State := if m.stage = 5 then migWrite s m.img.handle else s

/-- What waits for a session without a command of its own: its park, its revive, the copy of its cask, and a record that its
buddy answered "busy". -/
def resumeSess (s : State) (p : Nat × Sess) : State :=
  let s := resumeRevive (retryPark s p.1) p.1
  let s := if p.2.caskPeer ≠ 0 then adoptWrite s p.1 else s
  match sessAt s p.1 with
  | some x => if x.rackBusy then resendBusy s x else s
  | none => s

/-- Everything that goes on at a boundary because a balance, a shaper, a clear or a gate may now let it. -/
def resumeWork (s : State) : State :=
  let s := (List.range 8).foldl gateRelease (flushHeld (reapSegs s))
  let s := s.gl.jobs.foldl resumeJob s
  let s := s.models.models.foldl (fun s p => warmReads s p.1) s
  let s := s.rack.inn.foldl resumeIncoming s
  let s := s.rack.copies.foldl (fun s c => parkCopy s c.img.handle) s
  lauterRest (rowsRest (s.cellar.sess.foldl resumeSess s))

/-! ### The boundary itself -/

/-- The rest that ends has run on every group. -/
def endRest (s : State) : State :=
  (List.range s.mill.groups.length).foldl (fun s i =>
    runGroup s i (actFor s.mash.table s.mash.govPhase s.mash.rest (grpAt s i))) s

/-- What the boundary that begins rest 0 does. -/
def beginCycle (s : State) : State :=
  let s := endWindows (countNoGroup s)
  let s := { s with mash.cycleCnt := ctrAdd s.mash.cycleCnt 1,
                    mash.classes := s.mash.classes.map fun p => (p.1, { p.2 with rtUsed := p.2.rtAhead, rtAhead := 0 }) }
  setAllowance (clearHeld s)

/-- Whether the tile-quad domain Cd.TQq is ungated in this rest: some tile of the quad belongs to a group with work (R409). -/
def quadOn (s : State) (d q : Nat) : Bool :=
  s.mill.groups.any fun g => g.die == d && (decide (g.chain ≠ []) || decide (g.drain > 0)) &&
    decide (g.tile < 4 * q + 4) && decide (4 * q < g.tile + g.size)

/-- The clock domains the rest timer runs from: H.REST and the tile, spare, MILL and CE domains stop in a hold, and every other
domain runs from its start-up step to the reset (R403, R409). `gated` domains are Cd.TQ0 to Cd.TQ3 and Cd.TSP, in die order. -/
def gatedDomains (s : State) : List Bool :=
  (List.range 4).flatMap fun d => ((List.range 4).map fun q => quadOn s d q) ++
    [(List.range 16).any fun t => let x := lget s.mill.tiles (16 * d + t) default; x.spared || x.selfTest]

/-- The rest that begins: the next of the table, rest 0 of a new cycle, or rest 0 of the table that becomes active. -/
def nextRest (s : State) : State :=
  let swap := match s.mash.pendingTab with
    | some (t, at_, seq) => if at_ ≤ s.dev.localCtr then some (t, seq) else none
    | none => none
  match swap with
  | some (t, seq) => activateTable (beginCycle s) t seq
  | none =>
    if s.mash.rest + 1 ≥ s.mash.table.restCount then payAhead (refillBal { beginCycle s with mash.rest := 0 })
    else { s with mash.rest := s.mash.rest + 1 }

/-- The table whose rest 0 this boundary seals: the pending one if it is active by the next boundary (R122). -/
def sealPending (s : State) : Option MashTable :=
  match s.mash.pendingTab with
  | some (t, at_, _) => if at_ ≤ nextBoundary s then some t else none
  | none => none

/-- Whether the current rest is the last of its cycle by the table alone. -/
def lastRest (s : State) : Bool := decide (s.mash.rest + 1 ≥ s.mash.table.restCount)

/-- The bounds of the items that became eligible, then the choice of every group for rest `r` of the table in force
(R22, R136). `ahead` says that the rest begins a cycle. -/
def sealGroups (s : State) (ph : Tab Bool) (r : Nat) (ahead : Bool) : State :=
  let s := setBounds { s with mash.sealAhead := ahead } s.mash.table ph r
  let s := (List.range s.mill.groups.length).foldl (fun s i => sealGroup s s.mash.table ph r i) s
  { s with mash.sealAhead := false }

/-- Cycles from the start of the rest for which a group's running chain holds its tiles. -/
def busyFor (g : Group) : Nat := g.drain + sumBy (fun e => e.switchLeft + e.left) g.chain

/-- The choices of a pending table's rest 0, on the groups it keeps and on those it brings: a group that it brings is sealed
only if the old entries on its tiles end in the rest before (R122, R123). -/
def sealComing (s : State) (t : MashTable) : State :=
  let lay := layoutGroups t.layout
  let old := s.mill.groups
  let was := s.mash.table
  let fresh := freshGroups old busyFor lay
  let s := sealGroups { s with mill.groups := sortGroups (old.filter (inLayout lay) ++ fresh), mash.table := t } (initPhases s t) 0 true
  let now := s.mill.groups
  { s with
    mash.table := was
    mill.groups := old.map fun g => (now.find? (sameShape g)).getD g
    mill.coming := now.filter fun g => fresh.any (sameShape g) }

/-- The choices of the rest that begins come into force, the governor acts in the last rest, the choices of the next rest
are sealed, and the dies' streams are composed. -/
def sealRest (s : State) : State :=
  let s := (List.range s.mill.groups.length).foldl (fun s i =>
    let s := modGrp s i fun x => { x with blocked := x.blocked && decide (x.drain > 0) }
    applyChoice s i (actFor s.mash.table s.mash.govPhase s.mash.rest (grpAt s i))) s
  let s := (List.range 4).foldl composeDie s
  let s := if lastRest s then (List.range 16).foldl govSlice s else s
  let coming := s.mill.coming
  let s := coming.foldl dropSealed { s with
    mill.coming := [], mash.classes := s.mash.classes.map fun p => (p.1, { p.2 with rtNow := false }) }
  let s := beyondBuckets s
  match sealPending s with
  | some t => sealComing s t
  | none => sealGroups s s.mash.govPhase (if lastRest s then 0 else s.mash.rest + 1) (lastRest s)

end Sys2Proof.Machine
end

