-- ==== Sys2Proof/Machine/Shards.lean ====
section
/-! DEFINITION. What a stored shard holds. The spec gives no byte layout of a shard's payload, so the reading of its bytes
is a free value (log entry 49). -/
namespace Sys2Proof

/-- The contents of one shard by kind (R352). -/
structure ShardData where
  classes : List (Nat × Machine.ServiceClass)
  /-- class, tenant, weight, rt_rests -/
  shares : List (Nat × Nat × Nat × Nat)
  /-- 2 × tenant + shaper, rate, burst -/
  shapers : List (Nat × Nat × Nat)
  /-- id, tenant, kind, slice, object -/
  models : List (Nat × Nat × Nat × Nat × ObjRef)
  /-- tenant, model, phase, group tiles, batch, object -/
  segments : List (Nat × Nat × Nat × Nat × Nat × ObjRef)
  vocabs : List (Nat × ObjRef)
  /-- tenant, grammar, vocabulary, object -/
  grammars : List (Nat × Nat × Nat × ObjRef)
  /-- model, draft, k_max -/
  drafts : List (Nat × Nat × Nat)
  corpora : List Machine.Corpus
  /-- corpus, shard, node storage -/
  shards : List (Nat × Nat × Machine.Shard)
  tables : List (Nat × Machine.RowTable)
  /-- table, row, record -/
  rows : List (Nat × Nat × Machine.RowRec)
  sessions : List SessImage
  /-- removal items of a delta: session indexes, (corpus, shard) pairs, tables -/
  goneSess : List Nat
  goneShards : List (Nat × Nat)
  goneTables : List Nat
deriving Inhabited

/-- What the plaintext of a shard of a kind spells, given its stored bytes. -/
opaque Config.shardData : Nat → List Byte → ShardData

end Sys2Proof
end

