-- ==== Sys2Proof/Machine/Ckpt.lean ====
section
/-! DEFINITION. Checkpoints and restores (R352 to R368). -/
namespace Sys2Proof.Machine

/-! ### Phases and ends (R360, R361) -/

/-- The phase of a generation, remembered for the last 16. -/
def setPhase (s : State) (gen p shards bytes : Nat) : State :=
  { s with ckpt.phases := ((gen, p, shards, bytes) :: s.ckpt.phases.filter fun x => x.1 != gen).take 16 }

/-- Whether the checkpoint has read every cask, node copy and corpus item of its set. -/
def flashDone (r : CkptRun) : Bool := r.shards.all fun d => d.sent || !([4, 7].contains d.kind)

/-- Flash space whose free waited for the checkpoint (R356). -/
def freeDeferred (s : State) : State :=
  { s.ckpt.deferred.foldl dropExtent s with ckpt.deferred := [] }

/-- Pool frames of staged objects whose shards are sent go back, oldest first (R356); with `all_` those of every staged object. -/
def unstage (s : State) (all_ : Bool) : State :=
  match s.ckpt.run with
  | none => s
  | some r => r.staged.foldl (fun s o =>
      match s.ckpt.run with
      | none => s
      | some k =>
        if o.sent ∨ (all_ = false ∧ shardsSent r [o.kind] o.tenant o.slice = false) then s
        else { freeRuns s o.die o.runs with
          ckpt.run := some { k with stagedBytes := k.stagedBytes - o.bytes
                                    staged := k.staged.map fun (p : StagedObj) => if p = o then { p with runs := [], sent := true } else p } }) s

/-- The run of a checkpoint is over: what waited for it goes. -/
def endRun (s : State) : State :=
  let s := unstage s true
  freeDeferred { s with ckpt.run := none }

/-- The marks of KV pages a failed checkpoint took come back (R355). -/
def remark (s : State) (m : Nat × Nat × Nat) : State :=
  modSess s m.1 fun x => { x with pages := x.pages.map fun (p : Page) =>
    if p.first = m.2.1 ∧ p.summary = false then { p with dirty := some (min m.2.2 (p.dirty.getD m.2.2)) } else p }

/-- A checkpoint fails: no manifest, its marks come back, its command completes RETRY (R355, R360). -/
def ckptFail (s : State) : State :=
  match s.ckpt.run with
  | none => s
  | some r =>
    let s := setPhase (endRun s) r.generation 4 (countBy (·.done) r.shards) (sumBy (·.bytes) (r.shards.filter (·.done)))
    let s := r.rowMarks.foldl (fun s m => { s with rows.tables := tmod s.rows.tables m.1 fun x =>
      { x with dirty := if x.dirty.contains m.2 then x.dirty else x.dirty ++ [m.2] } }) s
    let s := r.pageMarks.foldl remark s
    complete { s with ckpt.failed := ctrAdd s.ckpt.failed 1 } r.seq (ans stRetry)

/-! ### CKPT_START and CKPT_STATUS (R353, R361) -/

def execCkptStart (h : Hdr) (generation gateways : Nat) (peers : List Nat) (s : State) : Out :=
  .next (asyncCmd s h { code := 0x0701, isAsync := true, tenantRule := 0, sessRule := 0 } (32 + 2 * gateways)
    (fun s => [(decide (generation = 0 ∨ generation ≤ s.ckpt.lastStarted ∨ generation ≤ s.ckpt.lastDone), 24),
      (decide (gateways = 0 ∨ 16 < gateways) || hasDup peers || peers.any (fun p => (routeOf s p).isNone), 28)])
    (fun s => [(s.ckpt.run.isSome || s.ckpt.restore.isSome || s.mill.dies.any (·.lost), (stWrongState, 0))])
    (fun _ => .ckpt generation)
    (fun s =>
      let full := !s.ckpt.fullDone || s.ckpt.forceFull || decide (max 1 s.ckpt.chainMax ≤ s.ckpt.chain)
      let r : CkptRun :=
        { generation := generation, seq := h.seq, gateways := peers, full := full,
          base := if full then 0 else s.ckpt.lastDone, phase := 0, point := 0, cellarSec := 0, shards := [], recSess := [],
          recNodes := [], nodesAt := [], recShards := [], rowMarks := [], pageMarks := [], recTables := [], forced := s.ckpt.forceFull,
          staged := [], stagedBytes := 0, manifest := [] }
      let near := decide (s.ckpt.lastStarted < 0xFFFF0000) && decide (0xFFFF0000 ≤ generation)
      let s := { s with ckpt.run := some r, ckpt.lastStarted := generation, oast.cfg.lastGenStarted := generation }
      let s := if near then counterNear s 3 0 generation 0xFFFFFFFF else s
      setPhase (setStage s h.seq 3) generation 1 0 0))

def execCkptStatus (h : Hdr) (generation : Nat) (s : State) : Out :=
  .next (syncCmd s h { code := 0x0702, isAsync := false, tenantRule := 0, sessRule := 0 } 32 (fun _ => [(generation == 0, 24)])
    (fun s =>
      let (p, n, b) := match s.ckpt.phases.find? fun x => x.1 == generation with
        | some x => x.2
        | none => (0, 0, 0)
      (s, ansB (lay [(1, p), (3, 0), (4, n), (8, b)]))))

/-! ### The point (R354, R355) -/

/-- A session as of its last released step (R354). -/
def recordSess (s : State) (x : Sess) : SessImage :=
  let i := imageOf s x
  let cut := x.position - x.released
  let n := kvPos x x.released
  { i with
    position := x.released, ring := i.ring.take (i.ring.length - cut)
    ringHead := (i.ringHead + 2048 - min cut i.ring.length) % 2048, tail := [],
    lastToken := if cut = 0 then i.lastToken else none
    pages := i.pages.map fun p => if p.summary then p else { p with filled := min p.filled (n - p.first) } }

def recordable (x : Sess) : Bool :=
  x.state != stABSENT && x.state != stEXPIRED && !x.incoming && !x.lostMark

/-- Whether a recorded session's KV lies in HBM as pages. -/
def imgInHbm (i : SessImage) : Bool :=
  let st := if i.state = stOFFERED then i.offeredFrom else i.state
  st == stACTIVE || st == stWARM

def imgExtract (i : SessImage) : Bool := (if i.state = stOFFERED then i.offeredFrom else i.state) == stEXTRACT

/-- KV positions a checkpoint writes for a session: those of each page from its mark to its recorded fill (R355). -/
def newPositions (r : CkptRun) (i : SessImage) : Nat :=
  sumBy (fun m => match i.pages.find? fun p => p.first == m.2.1 && !p.summary with
    | some p => p.first + p.filled - m.2.2
    | none => 0) (r.pageMarks.filter fun m => m.1 == idxOf i.handle)

/-- 64 KiB chunks of a shard's node storage in which two recordings of it differ (R355). -/
def chunksDiff (c : CorpusCfg) (a b : Shard) : List Nat :=
  let nb := nodeBytes c
  let ids := ((a.nodes ++ b.nodes).map (·.1)).filter fun n => tget a.nodes n != tget b.nodes n
  (ids.flatMap fun n => (List.range (((n + 1) * nb - 1) / 65536 + 1 - n * nb / 65536)).map (n * nb / 65536 + ·)).eraseDups

/-- Chunks of a shard that the checkpoint's set holds: all, or those changed since the base. -/
def shardSet (s : State) (r : CkptRun) (c : CorpusCfg) (key : Nat) (sh : Shard) : List Nat :=
  match r.full, tget s.ckpt.baseShards key with
  | false, some b => chunksDiff c b sh
  | _, _ => chunksDiff c { sh with nodes := [] } sh

/-- Bytes of a shard in the checkpoint: whole, or its changed chunks and the items of its new nodes. -/
def shardBytes (s : State) (r : CkptRun) (c : CorpusCfg) (key : Nat) (sh : Shard) : Nat :=
  match r.full, tget s.ckpt.baseShards key with
  | false, some b => 65536 * (chunksDiff c b sh).length +
      sumBy (fun n => if ((tget b.nodes n.1).map (·.oast)) = some n.2.oast then 0 else itemBytes c n.2) sh.nodes
  | _, _ => sumBy (fun n => nodeBytes c + itemBytes c n.2) sh.nodes

/-- Bytes of one kind of a tenant in a slice (R352): the named contents of its objects. -/
def kindBytes (s : State) (r : CkptRun) (kind tenant sl : Nat) : Nat :=
  let old (i : SessImage) : Option SessImage := if r.full then none else tget s.ckpt.baseSess (idxOf i.handle)
  let imgs := (r.recSess.map (·.2)).filter fun i => i.tenant == tenant && imgSlice s i == sl && old i != some i
  let per (i : SessImage) : Nat := posBytes (imgHdr s i) * layerGroups (imgHdr s i)
  match kind with
  | 2 => 128 * imgs.length
  | 3 => sumBy (fun i => 16384 + 64 + 10 * i.pages.length + newPositions r i * per i) (imgs.filter imgInHbm)
  | 4 => sumBy (·.caskBytes) (imgs.filter fun i => i.caskBytes != 0)
  | 5 => sumBy (fun i => sumBy (·.filled) i.pages * per i) (imgs.filter imgExtract)
  | 6 => sumBy (fun n => match tget s.cellar.nodes n with
      | some k => if k.tenant = tenant ∧ ((modelOf s k.model).map (·.slice)).getD 0 = sl ∧
          (r.full || !s.ckpt.baseNodes.contains n) then framesOf k.runs * 4096 else 0
      | none => 0) r.recNodes
  | 7 => sumBy (fun p => match corpusOf s (p.1 / 65536) with
      | some c => if c.tenant = tenant ∧ c.cfg.slice = sl ∧ (r.full || tget s.ckpt.baseShards p.1 != some p.2) then
          shardBytes s r c.cfg p.1 p.2 else 0
      | none => 0) r.recShards
  | _ => sumBy (fun t => if t.2.tenant = tenant ∧ t.2.slice = sl then
      (if r.full then t.2.rows * strideOf t.2.format t.2.dim t.2.opt
       else 65536 * countBy (fun m => m.1 == t.1) r.rowMarks) else 0) s.rows.tables

/-- Shards of at most 1 GiB. -/
def splitShards (kind tenant sl : Nat) : Nat → Nat → List Shd
  | 0, _ => []
  | n + 1, b =>
    if b = 0 then []
    else { (default : Shd) with kind := kind, tenant := tenant, slice := sl, bytes := min b 1073741824 } ::
      splitShards kind tenant sl n (b - min b 1073741824)

/-- The shards of a checkpoint, numbered from 0, spread over the gateways in turn (R357, R358). The size of the
configuration shard is a free value. -/
def planShards (s : State) (r : CkptRun) : List Shd :=
  let tenants := s.sec.tenants.map (·.1)
  let cfg := splitShards 1 0 0 4096 (max 1 (Config.count s.free))
  let rest := tenants.flatMap fun t => (List.range 16).flatMap fun sl => (List.range 7).flatMap fun k =>
    splitShards (k + 2) t sl 4096 (kindBytes s r (k + 2) t sl)
  let l := cfg ++ rest
  (List.range l.length).map fun i => { lget l i default with idx := i, gw := lget r.gateways (i % max 1 r.gateways.length) 0 }

/-- The currencies a shard's reads are charged in: flash for casks, HBM for the rest. -/
def shardCur (k : Nat) : Nat := if k = 4 then 2 else 1

/-- Shards are read and sent in order as the CHECKPOINT budget allows (R127, R358). -/
def ckptPump (s : State) : State :=
  match s.ckpt.run with
  | none => s
  | some r =>
    if r.phase ≠ 1 then s
    else
      let s := (r.shards.foldl (fun (acc : State × Bool) d =>
        let (s, go) := acc
        if go = false ∨ d.sent then (s, go)
        else if hasBal s d.slice 8 (shardCur d.kind) = false then (holdOn s d.slice 8 (shardCur d.kind), false)
        else
          let s := charge s d.slice 8 (shardCur d.kind) d.bytes
          let s := { s with ckpt.run := s.ckpt.run.map fun r => { r with shards := r.shards.map fun k =>
            if k.idx = d.idx then { k with sent := true } else k } }
          (sendMsg s d.gw 5 d.slice 8 0 false (.put d.idx d.bytes), true)) (s, true)).1
      let s := unstage s false
      if (s.ckpt.run.map flashDone).getD false then freeDeferred s else s

/-- Pages of a recorded session that the checkpoint takes: those the session owns, from their marks, or whole where it is full. -/
def pageSet (full : Bool) (idx : Nat) (x : Sess) : List (Nat × Nat × Nat) :=
  (x.pages.filter fun (p : Page) => !p.isShared && !p.summary && (full || p.dirty.isSome)).map fun (p : Page) =>
    (idx, p.first, if full then p.first else p.dirty.getD p.first)

/-- The marks the point leaves on a recorded session's pages: where committed positions reach beyond the recorded one (R355). -/
def leftMarks (x : Sess) : Sess :=
  let n := kvPos x x.released
  { x with pages := x.pages.map fun (p : Page) =>
      { p with dirty := if p.summary = false ∧ n < p.first + p.filled then some (max n p.first) else none } }

/-- The checkpoint point: recorded state fixed, marks moved into the checkpoint's set (R354, R355). -/
def ckptPoint (s : State) : State :=
  match s.ckpt.run with
  | none => s
  | some r =>
    if r.phase ≠ 0 then s
    else
      let live := s.cellar.sess.filter fun (p : Nat × Sess) => recordable p.2
      let recs := live.map fun (p : Nat × Sess) => (p.1, recordSess s p.2)
      let nodes := (live.flatMap fun (p : Nat × Sess) => ((p.2.pages.filter fun (g : Page) => g.isShared).map fun (g : Page) => g.node)).eraseDups
      let r := { r with
        phase := 1, point := s.dev.localCtr, cellarSec := s.cellar.sec, recSess := recs
        recNodes := nodes
        nodesAt := nodes.filterMap fun (n : Nat) => (tget s.cellar.nodes n).bind fun (k : Node) =>
          if k.inHbm then some (n, k.tenant, ((modelOf s k.model).map fun (m : Model) => m.slice).getD 0, framesOf k.runs * 4096, k.die) else none
        recShards := s.lauter.corpora.flatMap fun (c : Nat × Corpus) =>
          c.2.shards.map fun (h : Nat × Shard) => (c.1 * 65536 + h.1, h.2)
        pageMarks := live.flatMap fun (p : Nat × Sess) => pageSet r.full p.1 p.2
        recTables := s.rows.tables.map fun (t : Nat × RowTable) => (t.1, { t.2 with recs := [], hot := [], shadow := none, commit := none })
        rowMarks := s.rows.tables.flatMap fun (t : Nat × RowTable) => t.2.dirty.map fun (k : Nat) => (t.1, k) }
      let marked := s.cellar.sess.map fun (p : Nat × Sess) => (p.1, if recordable p.2 then leftMarks p.2 else p.2)
      let cleaned := s.rows.tables.map fun (t : Nat × RowTable) => (t.1, { t.2 with dirty := [] })
      let s := { tick s with rows.tables := cleaned, cellar.sess := marked }
      ckptPump { s with ckpt.run := some { r with shards := planShards s r } }

/-- The three objects of a session that writes change (R355): its entry, its page list, its state block. -/
def entryPart (i : SessImage) : List Nat :=
  [i.state, i.serviceClass, i.shareClass, i.grammar, i.epoch, i.position, i.released, i.lastSeq, i.kvShift, i.homeDie, i.rng,
   i.expirySec, i.caskBytes, i.offeredFrom]

def listPart (i : SessImage) : List (Nat × Nat × List (H16 × H16 × H16 × H16)) := i.pages.map fun p => (p.k, p.first, p.pairs)

def blockPart (i : SessImage) : List Nat × List (List Nat) × Option GenParams × List (List Byte) :=
  ([i.ringHead, i.lastToken.getD two32, i.genSeq, i.genTokens, i.outBytes, i.carryPolicy, i.sgState, i.cgState, i.spec.1,
    i.spec.2.1, i.spec.2.2], [i.ring, i.sgStack, i.cgStack], i.gen, [i.carry, i.held, i.outTail])

/-- Objects of a recorded session changed or freed since the point. -/
def sessChanges (s : State) (idx : Nat) (i : SessImage) : List StagedObj :=
  let now : Option SessImage := match sessAt s idx with
    | some x => if recordable x then some (recordSess s x) else none
    | none => none
  let differs {α : Type} [BEq α] (f : SessImage → α) : Bool := !((now.map f) == some (f i))
  let obj (kind sub bytes : Nat) : StagedObj :=
    { kind := kind, id := idx, sub := sub, tenant := i.tenant, slice := imgSlice s i, share := i.shareClass, bytes := bytes,
      die := i.homeDie % 4, runs := [], sent := false }
  (if differs entryPart then [obj 2 0 128] else []) ++
  (if imgInHbm i = false then
    (if imgExtract i && !((now.map imgExtract).getD false) then [obj 5 0 i.hbmBytes] else [])
   else (if differs listPart then [obj 3 0 (64 + 10 * i.pages.length)] else []) ++
     (if differs blockPart then [obj 3 1 16384] else []) ++
     (if (now.map imgInHbm).getD false then [] else [obj 3 2 i.hbmBytes]))

/-- Recorded prefix nodes whose HBM frames have been freed since the point, chunks of node storage and of row records of the set that
have been written or freed. -/
def storeChanges (s : State) (r : CkptRun) : List StagedObj :=
  let obj (kind id sub tenant sl bytes die : Nat) : StagedObj :=
    { kind := kind, id := id, sub := sub, tenant := tenant, slice := sl, share := 65536, bytes := bytes, die := die, runs := [],
      sent := false }
  (r.nodesAt.filterMap fun n =>
    if ((tget s.cellar.nodes n.1).map (·.inHbm)).getD false then none
    else some (obj 6 n.1 0 n.2.1 n.2.2.1 n.2.2.2.1 n.2.2.2.2)) ++
  (r.recShards.flatMap fun p => match corpusOf s (p.1 / 65536) with
    | none => []
    | some c =>
      let now := (shardOf s (p.1 / 65536) (p.1 % 65536)).getD { p.2 with nodes := [] }
      let set := shardSet s r c.cfg p.1 p.2
      ((chunksDiff c.cfg p.2 now).filter set.contains).map fun k => obj 7 p.1 k c.tenant c.cfg.slice 65536 0) ++
  (r.recTables.flatMap fun t =>
    let all_ := List.range (ceilDiv (t.2.rows * strideOf t.2.format t.2.dim t.2.opt) 65536)
    let set := if r.full then all_ else (r.rowMarks.filter fun m => m.1 == t.1).map (·.2)
    let hit := match tableOf s t.1 with
      | some x => x.dirty
      | none => all_
    (hit.filter set.contains).map fun k => obj 8 t.1 k t.2.tenant t.2.slice 65536 t.2.die)

/-- One object copied into pool frames of staging; past the limit, or with no frames, its writer waits for a time the spec does not
give (R356). The copy is charged to CHECKPOINT and never held (R127). -/
def stageOne (s : State) (o : StagedObj) : State :=
  match s.ckpt.run with
  | none => s
  | some r =>
    if (r.staged.any fun k => k.kind == o.kind && k.id == o.id && k.sub == o.sub) || shardsSent r [o.kind] o.tenant o.slice then s
    else
      let s := charge s o.slice 8 1 o.bytes
      let s := if o.share < 65536 then noteClass s o.share 1 o.bytes else s
      let got := takeRuns s o.die o.tenant o.slice (weightOrders o.bytes)
      let waits := decide (max 1 s.ckpt.stageGib * 1073741824 < r.stagedBytes + o.bytes) || got.isNone
      let (runs, s) := got.getD ([], s)
      let s := { s with
        ckpt.run := some { r with staged := r.staged ++ [{ o with runs := runs }], stagedBytes := r.stagedBytes + o.bytes }
        ckpt.cowCopies := ctrAdd s.ckpt.cowCopies 1 }
      if waits then { tick s with ckpt.cowWait := ctrAdd s.ckpt.cowWait (Config.count s.free) } else s

/-- Objects of the set that changed since the point and have not been copied are copied into staging; steps whose copy would overflow
it wait, and the wait is counted (R356). -/
def ckptStage (s : State) : State :=
  match s.ckpt.run with
  | none => s
  | some r =>
    if r.phase ≠ 1 then s
    else
      let s := (r.recSess.flatMap (fun p => sessChanges s p.1 p.2) ++ storeChanges s r).foldl stageOne s
      let held := countBy (fun (it : Item) => it.entry.isNone && it.sess != 0 && cowBlocked s it.sess) s.mash.items
      if held = 0 then s else { s with ckpt.cowWait := ctrAdd s.ckpt.cowWait (held * Config.restLen) }

/-! ### Stores and failures (R358 to R360) -/

/-- The slice definitions in SLICE_SET form (R359). -/
def slicesBytes (s : State) : List Byte :=
  (List.range 16).flatMap fun i =>
    let x := lget s.fab.slices i default
    leBytes 8 i ++ leBytes 8 x.tiles ++ leBytes 8 x.lanes ++ leBytes 192 x.pcs

/-- The `obj_id` of a shard object of this device (R357). -/
def shardObjId (s : State) (gen idx kind : Nat) : List Byte :=
  lay [(2, s.fab.self), (2, 0), (4, gen), (4, idx), (1, kind), (3, 0)]

/-- Mapped flash bytes that the recorded casks, the recorded shards' items and the models need (R359). -/
def oastNeeded (s : State) (r : CkptRun) : Nat :=
  sumBy (fun p => roundUp p.2.caskBytes 4096) r.recSess +
  sumBy (fun p => match corpusOf s (p.1 / 65536) with
    | some c => sumBy (fun n => itemBytes c.cfg n.2) p.2.nodes
    | none => 0) r.recShards +
  sumBy (fun m => m.2.bytes) s.models.models

/-- The manifest of R359: the 192-byte header, then one entry of 64 bytes for each shard. -/
def manifestBytes (s : State) (r : CkptRun) : List Byte :=
  let l := r.shards.filter fun d => d.idx != 0xFFFFFFFF
  lay [(4, 0x4B43584A), (2, 1), (2, s.fab.self), (4, r.generation), (4, r.base)] ++
  (if r.full then List.replicate 48 0 else fitTo 16 s.ckpt.baseObj ++ beBytes 32 s.ckpt.baseDigest) ++
  lay [(8, r.point), (8, r.cellarSec), (4, l.length), (4, 0)] ++ beBytes 32 (sha256Nat (slicesBytes s)) ++
  ((List.range 4).flatMap fun d => leBytes 4 (framesOf (alloc s d).used)) ++ leBytes 8 (oastNeeded s r) ++ List.replicate 48 0 ++
  l.flatMap fun d => lay [(1, d.kind), (1, 0), (2, d.tenant), (4, d.idx), (8, d.bytes)] ++
    shardObjId s r.generation d.idx d.kind ++ beBytes 32 (Config.shardDigest r.generation d.idx)

/-- The manifest goes to the first listed gateway that is reachable and has not failed it. -/
def sendManifest (s : State) (tried : List Nat) : State :=
  match s.ckpt.run with
  | none => s
  | some r =>
    match r.gateways.find? fun g => reachable s g && !tried.contains g with
    | none => ckptFail s
    | some g =>
      let m := manifestBytes s r
      let n := m.length
      let d : Shd := { idx := 0xFFFFFFFF, kind := 0, tenant := 0, slice := 0, bytes := n, gw := g, tried := tried, sent := true, done := false }
      let s := { s with ckpt.run := some { r with phase := 2, manifest := m, shards := r.shards.filter (fun k => k.idx != 0xFFFFFFFF) ++ [d] } }
      sendMsg (setPhase s r.generation 2 (countBy (·.done) r.shards) (sumBy (·.bytes) (r.shards.filter (·.done))))
        g 5 0 8 0 false (.put 0xFFFFFFFF n)

/-- The manifest is stored: the generation is complete (R360). -/
def ckptComplete (s : State) (r : CkptRun) : State :=
  let n := countBy (fun (d : Shd) => d.idx != 0xFFFFFFFF) r.shards
  let b := sumBy (·.bytes) r.shards
  let s := setPhase (endRun s) r.generation 3 n b
  let s := { s with
    ckpt.lastDone := r.generation, oast.cfg.lastGenDone := r.generation
    ckpt.chain := if r.full then 0 else s.ckpt.chain + 1
    ckpt.fullDone := true, ckpt.forceFull := s.ckpt.forceFull && !r.forced
    ckpt.baseObj := shardObjId s r.generation 0xFFFFFFFF 0, ckpt.baseDigest := sha256Nat r.manifest
    ckpt.baseSess := r.recSess, ckpt.baseNodes := r.recNodes, ckpt.baseShards := r.recShards
    ckpt.done := ctrAdd s.ckpt.done 1, ckpt.bytes := ctrAdd s.ckpt.bytes b }
  complete s r.seq (ansB (lay [(4, n), (8, b)]))

/-- With every shard stored the manifest follows. -/
def ckptAdvance (s : State) : State :=
  match s.ckpt.run with
  | none => s
  | some r => if r.phase = 1 ∧ r.shards.all (·.done) then sendManifest s [] else s

def execPutDone (shardIndex : Nat) (s : State) : Out :=
  .next (match s.ckpt.run with
    | none => s
    | some r =>
      match r.shards.find? fun d => d.idx == shardIndex && d.sent && !d.done with
      | none => s
      | some _ =>
        let r := { r with shards := r.shards.map fun k => if k.idx = shardIndex then { k with done := true } else k }
        let s := { s with ckpt.run := some r }
        if shardIndex = 0xFFFFFFFF then ckptComplete s r
        else
          let s := setPhase s r.generation 1 (countBy (·.done) r.shards) (sumBy (·.bytes) (r.shards.filter (·.done)))
          ckptAdvance (ckptPump s))

/-- A gateway has failed a shard: the next listed one that has not takes it; with none left the checkpoint fails
(R358). -/
def putAgain (s : State) (shardIndex : Nat) : State :=
  match s.ckpt.run with
  | none => s
  | some r =>
    match r.shards.find? fun d => d.idx == shardIndex && d.sent && !d.done with
    | none => s
    | some d =>
      let tried := d.gw :: d.tried
      if shardIndex = 0xFFFFFFFF then sendManifest { s with ckpt.putRetry := ctrAdd s.ckpt.putRetry 1 } tried
      else
        let at_ := (r.gateways.takeWhile (· != d.gw)).length
        let order := r.gateways.drop (at_ + 1) ++ r.gateways.take at_
        match order.find? fun g => !tried.contains g with
        | none => ckptFail s
        | some g =>
          let s := { s with
            ckpt.putRetry := ctrAdd s.ckpt.putRetry 1
            ckpt.run := some { r with shards := r.shards.map fun k => if k.idx = shardIndex then { k with gw := g, tried := tried } else k } }
          sendMsg s g 5 d.slice 8 0 false (.put d.idx d.bytes)

def execPutFail (shardIndex : Nat) (s : State) : Out := .next (putAgain s shardIndex)

/-- A gateway is lost: its open shards go to the next one. -/
def ckptPeerLost (s : State) (peer : Nat) : State :=
  match s.ckpt.run with
  | none => s
  | some r => (r.shards.filter fun d => d.sent && !d.done && d.gw == peer).foldl (fun s d => putAgain s d.idx) s

/-- A tenant removed during a checkpoint is left out of it (R366). -/
def ckptDropTenant (s : State) (t : Nat) : State :=
  ckptAdvance { s with ckpt.run := s.ckpt.run.map fun r => { r with
    shards := r.shards.filter (fun d => d.tenant != t || d.idx == 0xFFFFFFFF)
    recSess := r.recSess.filter fun p => p.2.tenant != t } }

/-! ### Restore (R362 to R365) -/

def execRestoreStart (h : Hdr) (manifest : ObjRef) (s : State) : Out :=
  .next (asyncCmd s h { code := 0x0703, isAsync := true, tenantRule := 0, sessRule := 0 } 88
    (fun s => gatewayBad s manifest 24)
    (fun s => [(s.ckpt.run.isSome || s.ckpt.restore.isSome, (stWrongState, 0))])
    (fun _ => .restore manifest)
    (fun s =>
      if reachable s manifest.gateway = false then complete s h.seq (ans stRetry)
      else
        let r : RestoreRun :=
          { generation := 0, seq := h.seq, queue := [.manifest manifest], tried := [], chain := [], applied := 0, bytes := 0,
            cellarSec := 0, imgs := [], madeShards := [], madeTables := [] }
        sendMsg { setStage s h.seq 1 with ckpt.restore := some r } manifest.gateway 5 0 8 0 false (.fetch manifest)))

/-- A restore fails: what it created goes, its configuration stays (R363). -/
def restoreFail (s : State) (a : Ans) : State :=
  match s.ckpt.restore with
  | none => s
  | some r =>
    let s := r.imgs.foldl (fun s p => match sessAt s p.1 with
      | some _ => freeIndex (releaseAll s p.1) p.1
      | none => s) s
    let s := r.madeShards.foldl (fun s p => dropShard s p.1 p.2) s
    let s := r.madeTables.foldl dropTable s
    let s := if r.generation = 0 then s else setPhase s r.generation 4 r.applied r.bytes
    complete { s with ckpt.restore := none } r.seq a

def refOf : RFetch → ObjRef
  | .manifest o => o
  | .shard _ _ o => o
  | .model _ _ _ _ o => o
  | .segment _ _ _ _ _ o => o
  | .vocab _ o => o
  | .grammar _ _ _ o => o

/-- Whether further gateways may serve a fetch: base manifests and shards (R362). -/
def anyGateway : RFetch → Bool
  | .manifest _ => true
  | .shard _ _ _ => true
  | _ => false

/-- The fetch at the head of the queue goes to a gateway. -/
def restoreAsk (s : State) (g : Nat) : State :=
  match s.ckpt.restore with
  | some r =>
    (match r.queue with
    | f :: _ => sendMsg { s with ckpt.restore := some { r with tried := g :: r.tried } } g 5 0 8 0 false (.fetch { refOf f with gateway := g })
    | [] => s)
  | none => s

/-- The shard entries of a manifest: kind, tenant, object. -/
def manifestShards (gw : Nat) (m : List Byte) : List (Nat × Nat × ObjRef) :=
  (records m 192 64 (fld m 80 4)).map fun r =>
    (fld r 0 1, fld r 2 2, { gateway := gw, len := fld r 8 8, id := fld r 16 16, digest := beNat (cut r 32 32) })

/-- R362's checks of the first manifest: the failing status. -/
def manifestFault (s : State) (m : List Byte) : Option Ans :=
  let ok := decide (192 ≤ m.length) && fld m 0 4 == 0x4B43584A && fld m 4 2 == 1 && zeros m 84 4 && zeros m 144 48 &&
    within m 192 (64 * fld m 80 4) && (records m 192 64 (fld m 80 4)).all fun r => zeros r 1 1
  let busy := s.cellar.sess ≠ [] ∨ s.lauter.corpora.any (fun c => c.2.shards ≠ []) ∨ s.rows.tables ≠ []
  let live := (manifestShards 0 m).all fun e => e.2.1 == 0 ||
    (match tenantOf s e.2.1 with
      | some t => !t.removing && decide (t.flash ≠ []) && t.ckpt.isSome
      | none => false)
  let shape := sha256Nat (slicesBytes s) == beNat (cut m 88 32) &&
    (List.range 4).all (fun d => decide (fld m (120 + 4 * d) 4 ≤ (alloc s d).total)) && decide (fld m 136 8 ≤ freeMapped s)
  firstHit [(!ok, ansD stBadParam 0xFFFE), (decide busy, ans stWrongState), (!live, ans stNoTenant),
    (!shape, ansD stWrongState 0xFFFD)]

/-! ### What a shard adds (R363) -/

/-- A flash write of the restore, done at its step. -/
def writeNow (s : State) (sl tenant n : Nat) (o : Owner) : Option (Nat × State) :=
  match flashWrite s sl 8 tenant n true .image o with
  | some (a, s) => (s.oast.writes.find? fun w => w.addr == a).map fun w => (a, writeDone s w)
  | none => none

/-- Configuration applied as the commands would; the objects it names are fetched next. -/
def applyConfig (s : State) (d : ShardData) : State × List RFetch :=
  let s := d.classes.foldl (fun s c => { s with cellar.classes := tput s.cellar.classes c.1 c.2 }) s
  let s := d.shares.foldl (fun s c => modClass s c.1 fun k => { k with tenant := c.2.1, weight := c.2.2.1, rtRests := c.2.2.2 }) s
  let s := d.shapers.foldl (fun s c =>
    let b : Shaper := { rate := c.2.1, burst := c.2.2, tokens := c.2.2, frac := 0, removing := false }
    { s with mash.shapers := tput s.mash.shapers c.1 b }) s
  let s := d.drafts.foldl (fun s c => { s with models.drafts := tput s.models.drafts c.1 c.2 }) s
  let s := d.corpora.foldl (fun s c =>
    if (corpusOf s c.id).isSome then s else { s with lauter.corpora := tput s.lauter.corpora c.id { c with shards := [] } }) s
  (s, d.models.map (fun m => RFetch.model m.1 m.2.1 m.2.2.1 m.2.2.2.1 m.2.2.2.2) ++
      d.segments.map (fun g => RFetch.segment g.1 g.2.1 g.2.2.1 g.2.2.2.1 g.2.2.2.2.1 g.2.2.2.2.2) ++
      d.vocabs.map (fun v => RFetch.vocab v.1 v.2) ++ d.grammars.map fun g => RFetch.grammar g.1 g.2.1 g.2.2.1 g.2.2.2)

def modRestore (s : State) (f : RestoreRun → RestoreRun) : State := { s with ckpt.restore := s.ckpt.restore.map f }

/-- One table of a shard object, with frames of its own. -/
def restoreTable (s : State) (t : Nat) (x : RowTable) : Option State :=
  if (tableOf s t).isSome then some s
  else match takeRuns s x.die x.tenant x.slice (tableOrders x.rows (strideOf x.format x.dim x.opt)) with
    | none => none
    | some (rs, s) =>
      some (modRestore { s with rows.tables := tput s.rows.tables t { x with runs := rs, hot := [], shadow := none, commit := none } }
        fun r => { r with madeTables := r.madeTables ++ [t] })

def restoreTables (s : State) : List (Nat × RowTable) → Option State
  | [] => some s
  | t :: l => match restoreTable s t.1 t.2 with
    | none => none
    | some s => restoreTables s l

/-- The tables of a shard object, then its rows. -/
def applyTables (s : State) (d : ShardData) : Option State :=
  match restoreTables s d.tables with
  | none => none
  | some s => some (d.rows.foldl (fun s x => modTable s x.1 fun t => { t with recs := tput t.recs x.2.1 x.2.2 }) s)

/-- The nodes of a restored shard written to flash, and their new addresses. -/
def restoreNodes (s : State) (cid h : Nat) (c : Corpus) : List (Nat × LNode) → Except Nat (State × Tab LNode)
  | [] => .ok (s, [])
  | n :: l =>
    match writeNow s c.cfg.slice c.tenant (itemBytes c.cfg n.2) (.item cid h n.1) with
    | none => .error stFlashFull
    | some (a, s) => match restoreNodes s cid h c l with
      | .error e => .error e
      | .ok (s, t) => .ok (s, tput t n.1 { n.2 with oast := a })

/-- One shard of a shard object, in place of the shard of that number. -/
def restoreShard (s : State) (cid h : Nat) (x : Shard) : Except Nat State :=
  match corpusOf s cid with
  | none => .ok s
  | some c =>
    match shardRuns (dropShard s cid h) c.tenant c.cfg.slice (x.maxItems * nodeBytes c.cfg) with
    | none => .error stNoMemory
    | some (rs, s) =>
      match restoreNodes s cid h c x.nodes with
      | .error e => .error e
      | .ok (s, nodes) =>
        let sh := { x with runs := rs, nodes := nodes, log := [], leaving := [], lost := false }
        .ok (modRestore (modCorpus s cid fun k => { k with shards := tput k.shards h sh }) fun r =>
          { r with madeShards := r.madeShards.filter (fun p => p != (cid, h)) ++ [(cid, h)] })

/-- The shards of a shard object. -/
def applyShards (s : State) : List (Nat × Nat × Shard) → Except Nat State
  | [] => .ok s
  | h :: l => match restoreShard s h.1 h.2.1 h.2.2 with
    | .error e => .error e
    | .ok s => applyShards s l

/-- One shard applied, in code order within its checkpoint; sessions are gathered and installed at the end. -/
def applyShard (s : State) (kind : Nat) (bs : List Byte) : Except Nat (State × List RFetch) :=
  let d := Config.shardData kind bs
  let s := d.goneShards.foldl (fun s p => dropShard s p.1 p.2) s
  let s := d.goneTables.foldl dropTable s
  let s := modRestore s fun r => { r with
    imgs := (d.sessions.foldl (fun t i => tput t (idxOf i.handle) i) (r.imgs.filter fun p => !d.goneSess.contains p.1))
    applied := r.applied + 1, bytes := r.bytes + bs.length }
  let (s, more) := if kind = 1 then applyConfig s d else (s, [])
  match applyTables s d with
  | none => .error stNoMemory
  | some s => match applyShards s d.shards with
    | .error e => .error e
    | .ok s => .ok (s, more)

/-! ### Sessions of a restore (R364) -/

/-- The cask of a restored session written to flash. -/
def restoreCask (s : State) (idx : Nat) (i : SessImage) : Except Nat State :=
  if i.caskBytes = 0 then .ok s
  else match writeNow s (imgSlice s i) i.tenant i.caskBytes (.cask idx) with
    | none => .error stFlashFull
    | some (a, s) => .ok (modSess s idx fun y => { y with cask := a, caskSeq := 1, caskBytes := i.caskBytes })

/-- A restored session that can be warm gets its tail step (R364). -/
def restoredTail (s : State) (i : SessImage) (st idx : Nat) : State :=
  if i.lastToken.isSome ∧ st = stWARM ∧ i.state ≠ stOFFERED ∧
      (segsOf s i.model 1).any (fun g => decide (i.position ≤ 2 ^ g.bucket)) then
    addItem s idx noSeq i.tenant (imgSlice s i) i.shareClass 1 i.model i.position s.gl.acceptNo .tail 2
  else s

/-- What a restored session takes beside its frames: its charge, its clocks, its tail step and its record (R364). -/
def restored (s : State) (i : SessImage) (st idx : Nat) : State :=
  let s := noteClass (charge s (imgSlice s i) 8 1 i.hbmBytes) i.shareClass 1 i.hbmBytes
  let s := dwellStart (if st = stEXTRACT then takeExtract s idx else s) idx
  rack (restoredTail s i st idx) idx 13 i.hbmBytes plainDelta

/-- One restored session: its frames on its recorded home die, its cask, its dwell clock, its tail step, and its image to the buddy. -/
def restoreSess (s : State) (i : SessImage) : Except Nat State :=
  let st := if i.state = stACTIVE then stWARM else if i.state = stOFFERED then i.offeredFrom else i.state
  match modelOf s i.model with
  | none => .error stWrongState
  | some _ =>
    let die := i.homeDie % 4
    if st = stEXTRACT ∧ extractFree s = false then .error stTableFull
    else match takeRuns s die i.tenant (imgSlice s i) (imageOrders s i st) with
    | none => .error stNoMemory
    | some (runs, s) =>
      let x := sessOfImage s i die st runs
      let x := { x with released := i.position, reserved := i.position, offeredFrom := st, linked := false,
                        state := if i.state = stOFFERED then stOFFERED else st }
      match restoreCask (putArrived s x) x.idx i with
      | .error e => .error e
      | .ok s => .ok (restored s i st x.idx)

/-- Sessions restored one after the other. -/
def restoreAll (s : State) : List SessImage → Except Nat State
  | [] => .ok s
  | i :: l => match restoreSess s i with
    | .error e => .error e
    | .ok s => restoreAll s l

/-- The models of the restored sessions are warmed, and their sessions follow them to their home die (R18, log entry 113). -/
def restoreWarms (s : State) : State :=
  s.models.models.foldl (fun s p =>
    if p.2.st = 0 ∧ s.cellar.sess.any (fun x => x.2.model == p.1 && x.2.state != stPARKED) then (beginWarm s p.1).getD s else s) s

/-- All shards are applied: the sessions are installed and the restore completes (R363, R364). -/
def restoreEnd (s : State) : State :=
  match s.ckpt.restore with
  | none => s
  | some r =>
    match restoreAll s (r.imgs.map (·.2)) with
    | .error e => restoreFail s (ans e)
    | .ok s =>
      let s := setPhase (restoreWarms s) r.generation 6 r.applied r.bytes
      let s := { s with
        ckpt.restore := none, ckpt.lastDone := r.generation, oast.cfg.lastGenDone := r.generation, ckpt.fullDone := false,
        ckpt.restores := ctrAdd s.ckpt.restores 1, cellar.sec := max s.cellar.sec r.cellarSec }
      complete s r.seq (ansB (lay [(4, r.generation), (4, r.imgs.length)]))

/-- The next fetch of the queue, or the end. Each fetch starts at the gateway that served the manifest. -/
def restoreNext : Nat → State → State
  | 0, s => s
  | n + 1, s =>
    match s.ckpt.restore with
    | none => s
    | some r =>
      match r.queue with
      | [] => restoreEnd s
      | f :: rest =>
        let held := match f with
          | .model id _ _ _ o => (modelOf s id).map fun m => m.digest == o.digest
          | _ => none
        match held with
        | some true => restoreNext n (modRestore s fun r => { r with queue := rest })
        | some false => restoreFail s (ans stWrongState)
        | none => restoreAsk (modRestore s fun r => { r with tried := [] }) (refOf f).gateway

/-- A restored model: its object on flash, the model REGISTERED (R363). -/
def restoreModel (s : State) (id tenant kind sl : Nat) (o : ObjRef) (bs : List Byte) : Except Ans State :=
  match parseModel kind bs with
  | none => .error (ansD stBadParam 0xFFFE)
  | some hd =>
    match writeNow s sl tenant (roundUp o.len 4096) (.model id) with
    | none => .error (ans stFlashFull)
    | some (a, s) =>
      let m : Model := { id := id, tenant := tenant, slice := sl, digest := o.digest, hdr := hd, st := 0, homeDie := 0, runs := [],
                         oast := a, bytes := roundUp o.len 4096, weights := weightsOf hd bs, warmSince := 0, asked := false, obj := o }
      .ok { s with models.models := tput s.models.models id m }

/-- An object of the configuration is registered or loaded (R363); false where it could not be. -/
def restoreObject (s : State) (f : RFetch) (bs : List Byte) : Except Ans State :=
  match f with
  | .model id tenant kind sl o => restoreModel s id tenant kind sl o bs
  | .segment tenant model phase tiles batch o =>
    let s := loadSegment s noSeq tenant model phase tiles batch o bs
    if s.mill.segs.any (fun g => g.2.digest == o.digest) then .ok s else .error (ans stNoMemory)
  | .vocab v o =>
    let s := loadVocab s noSeq v o bs
    if ((vocabOf s v).map (·.digest)) = some o.digest then .ok s else .error (ans stNoMemory)
  | .grammar tenant g v o =>
    let s := loadGrammar s noSeq tenant g v o bs
    if ((grammarOf s g).map (·.digest)) = some o.digest then .ok s else .error (ans stNoMemory)
  | _ => .ok s

/-- The base manifest a delta names; its length is not recorded. -/
def baseRef (gw : Nat) (m : List Byte) : ObjRef :=
  { gateway := gw, len := 0, id := fld m 16 16, digest := beNat (cut m 32 32) }

/-- The shards of a chain, the full checkpoint first, in kind order within each (R363). -/
def chainShards (gw : Nat) (chain : List (List Byte)) : List RFetch :=
  chain.reverse.flatMap fun m =>
    (sortBy (fun a b => decide (a.1 < b.1)) (manifestShards gw m)).map fun e => RFetch.shard e.1 e.2.1 e.2.2

/-- A manifest of the chain has arrived. -/
def gotManifest (s : State) (r : RestoreRun) (o : ObjRef) (bs : List Byte) : State :=
  let r := { r with queue := r.queue.drop 1, chain := r.chain ++ [bs], tried := [] }
  let more (r : RestoreRun) : State :=
    if fld bs 12 4 = 0 then restoreNext 4096 { s with ckpt.restore := some { r with queue := chainShards o.gateway r.chain } }
    else restoreAsk { s with ckpt.restore := some { r with queue := [.manifest (baseRef o.gateway bs)] } } o.gateway
  if r.chain.length = 1 then
    match manifestFault s bs with
    | some a => restoreFail s a
    | none =>
      let r := { r with generation := fld bs 8 4, cellarSec := fld bs 72 8 }
      let s := setPhase s r.generation 5 0 0
      if fld bs 12 4 = 0 then restoreNext 4096 { s with ckpt.restore := some { r with queue := chainShards o.gateway r.chain } }
      else restoreAsk { s with ckpt.restore := some { r with queue := [.manifest (baseRef o.gateway bs)] } } o.gateway
  else if fld bs 0 4 ≠ 0x4B43584A ∨ fld bs 4 2 ≠ 1 then restoreFail s (ansD stBadParam 0xFFFF)
  else more r

/-- A shard of the chain has arrived: it is applied, and its further objects are fetched next. -/
def gotShard (s : State) (kind : Nat) (bs : List Byte) : State :=
  match applyShard s kind bs with
  | .error e => restoreFail s (ans e)
  | .ok p =>
    let s := match p.1.ckpt.restore with
      | some k => setPhase p.1 k.generation 5 k.applied k.bytes
      | none => p.1
    restoreNext 4096 (modRestore s fun k => { k with queue := p.2 ++ k.queue })

/-- An object of the configuration has arrived. -/
def gotObject (s : State) (f : RFetch) (bs : List Byte) (rest : List RFetch) : State :=
  match restoreObject s f bs with
  | .error a => restoreFail s a
  | .ok s => restoreNext 4096 (modRestore s fun k => { k with queue := rest })

/-- The slice a fetched object is charged to (R468): that of its model, or of what the shard holds; slice 0 for the configuration
shard and for what lies in no slice. -/
def fetchedSlice (s : State) (f : RFetch) (bs : List Byte) : Nat :=
  match f with
  | .model _ _ _ sl _ => sl
  | .segment _ m _ _ _ _ => ((modelOf s m).map (·.slice)).getD 0
  | .shard 1 _ _ => 0
  | .shard kind _ _ =>
    let d := Config.shardData kind bs
    match d.sessions, d.shards, d.tables, d.rows with
    | i :: _, _, _, _ => imgSlice s i
    | [], p :: _, _, _ => ((corpusOf s p.1).map (·.cfg.slice)).getD 0
    | [], [], t :: _, _ => t.2.slice
    | [], [], [], r :: _ => ((tableOf s r.1).map (·.slice)).getD 0
    | [], [], [], [] => 0
  | _ => 0

/-- A fetch of the restore has ended: served, or not held by its gateway (R362). -/
def restoreFetched (s : State) (result : Option (List Byte)) : State :=
  match s.ckpt.restore with
  | none => s
  | some r =>
    match r.queue with
    | [] => s
    | f :: rest =>
      match result with
      | none =>
        let next := (s.fab.routes.map (·.1)).find? fun p => reachable s p && p != s.fab.self && !r.tried.contains p
        if anyGateway f = false ∨ (r.chain = []) then restoreFail s (ans stRetry)
        else (match next with
          | some g => restoreAsk s g
          | none => restoreFail s (ans stRetry))
      | some bs =>
        let o := refOf f
        let good := sha256Nat bs == o.digest && (bs.length == o.len || (r.chain ≠ [] && (match f with
          | .manifest _ => true
          | _ => false)))
        let s := chargeRx s (fetchedSlice s f bs) 8 bs.length
        if good = false then restoreFail s (ansD stBadParam 0xFFFF)
        else match f with
          | .manifest o => gotManifest s r o bs
          | .shard kind _ _ =>
            gotShard (modRestore s fun r => { r with queue := rest }) kind bs
          | f => gotObject s f bs rest

end Sys2Proof.Machine
end

