-- ==== Sys2Proof/Machine/Grants.lean ====
section
/-! DEFINITION. RESERVATION_GRANTED and FRAME_CLEAR_DONE: what frames let go on (R161, R386). -/
namespace Sys2Proof.Machine

/-- The runs of a reservation taken, if it is the first waiting one of its die and they are free. -/
def grantRuns (s : State) (r : Resv) : Option State :=
  if r.granted ∨ firstWaiting s r = false ∨ dieUp s r.die = false then none
  else match takeRuns s r.die r.tenant r.slice r.orders with
    | some (rs, s) => some (modResv s r.id fun k => { k with runs := rs, granted := true })
    | none => none

/-- A revive's frames are there: its model is warmed if that is still to do, and its reads go out; frames on a die that is not
its model's home are asked for again on that (R18, R174, R202). -/
def reviveGranted (s : State) (idx : Nat) : State :=
  match sessAt s idx with
  | none => s
  | some x =>
    let go (s : State) : State :=
      if ((modelOf s x.model).map (·.homeDie)).getD x.homeDie = x.homeDie then reviveReads s idx else askRevive s idx
    match modelOf s x.model with
    | some m =>
      if m.st = 0 then (match beginWarm s x.model with
        | some s => go s
        | none => pump (failRevive s idx stNoMemory) idx)
      else go s
    | none => reviveReads s idx

/-- An explicit condense's frames are there: its item becomes eligible (R172, R173). -/
def condenseGranted (s : State) (x : Sess) (j : Job) : State :=
  condenseItem (setStage s j.seq 3) x j.seq j.no x.condSlots

/-- The command of a granted reservation proceeds. -/
def afterGrant (s : State) (r : Resv) : State :=
  match s.rack.inn.find? fun m => m.resv == r.id with
  | some m =>
    sendMsg { s with rack.inn := s.rack.inn.map fun k => if k.resv = r.id then { k with stage := 2 } else k }
      m.src 0 0 0 0 false (.offerOk m.img.handle)
  | none =>
    match jobOf s r.seq, sessAt s r.sess with
    | some j, some x =>
      (match j.kind with
        | .condense _ => if x.condensing then condenseGranted s x j else granted s r.seq r.sess
        | _ => granted s r.seq r.sess)
    | none, some x => if x.reviving then reviveGranted s r.sess else s
    | _, none => s

def execReservationGranted (rid : Nat) (s : State) : Out :=
  .next (match resvOf s rid with
    | some r => (match grantRuns s r with
      | some s => pump (afterGrant s r) r.sess
      | none => s)
    | none => s)

/-- A freed run has been zeroed and rejoins the free pool, merged with its free partner (R160, R386). -/
def runCleared (s : State) (die start : Nat) : State :=
  modAlloc s die fun a =>
    match tget (sortBy (fun (x y : Nat × Nat) => decide (x.1 < y.1)) a.clearing) start with
    | some o => { a with clearing := a.clearing.erase (start, o), free := addFree (badFrames s die) a.free start o }
    | none => a

end Sys2Proof.Machine
end

