-- ==== Sys2Proof/Machine/Power.lean ====
section
/-! DEFINITION. Supplies, clocks, throttling, resets, start-up, mount and clean shutdown (R372, R382, R383, R390, R394,
R395, R399 to R419, R427 to R432). -/
namespace Sys2Proof.Machine

/-! ### What a reset keeps (R416, R417) -/

/-- Only the counters of a Grenlink port. -/
def portCounters (g : GlPort) : GlPort := { (default : GlPort) with authFail := g.authFail }

/-- Only the accounting record of a share class (R142). -/
def classCounters (c : ShareClass) : ShareClass :=
  { (default : ShareClass) with
    weight := 1, tileCycles := c.tileCycles, hbmBytes := c.hbmBytes, flashBytes := c.flashBytes, fabricBytes := c.fabricBytes,
    itemsDone := c.itemsDone, copyLate := c.copyLate, rtMiss := c.rtMiss, slowdown := c.slowdown,
    rtBoundMax := c.rtBoundMax, waitCycles := c.waitCycles, hadWindow := c.hadWindow }

def holdCounters (t : Tab Balance) : Tab Balance := t.map fun b => (b.1, { (default : Balance) with holdCnt := b.2.holdCnt })

/-- The MASH block after a warm reset: the counters, which only a cold reset clears (R443). -/
def warmMash (m : Mash) : Mash :=
  { Mash.reset with
    cycleCnt := m.cycleCnt, arith := m.arith, balances := holdCounters m.balances, wearHold := holdCounters m.wearHold,
    classes := m.classes.map fun c => (c.1, classCounters c.2), shaperHolds := m.shaperHolds,
    gates := m.gates.map fun g => { (default : Gate) with holdCnt := g.holdCnt }, govMoves := m.govMoves, jobsDone := m.jobsDone }

/-- Tiles and dies after a warm reset: their counters, and what has been spared, removed or lost since the cold reset. -/
def warmMill (m : Mill) : Mill :=
  { Mill.reset with
    dies := m.dies.map fun d => { d with stream := [] }
    pcSpared := m.pcSpared, pcLost := m.pcLost, pcWait := m.pcWait, onMirror := m.onMirror, bridge := m.bridge
    tiles := m.tiles.map fun t => { t with sram := [], accs := [], accSel := 0, selfTest := false, dirty := false } }

/-- The Cellar: indexes issued since the cold reset stay issued (R146); the sessions are gone. `CELLAR_SEC` comes from
the configuration region (R171). -/
def warmCellar (s : State) : Cellar :=
  { Cellar.reset with
    gens := s.cellar.gens, freed := s.cellar.freed ++ s.cellar.sess.map (·.1), cnt := s.cellar.cnt,
    sec := s.oast.cfg.cellarSec }

def warmCopper (c : Copper) : Copper :=
  { c with vocabs := [], grammars := [], engines := [], waiting := [] }

def warmRows (r : Rows) : Rows :=
  { Rows.reset with
    lookups := r.lookups, hotHits := r.hotHits, hbmReads := r.hbmReads, updates := r.updates, superseded := r.superseded,
    replaced := r.replaced, refreshRows := r.refreshRows, interlockWait := r.interlockWait }

/-- The Oast after any reset: the array and its metadata as the scan or the map load finds them; programs in progress are
cut off (R291, R311). -/
def resetOast (s : State) (warm : Bool) : Oast :=
  { Oast.reset with
    luns := s.oast.luns.map fun l =>
      { l with gcActive := false, lowRaised := if warm then l.lowRaised else 100,
               blocks := l.blocks.map fun b => if b.st = 1 then { b with st := 2, closeSeq := s.oast.seq } else b }
    exts := s.oast.exts, nextIo := s.oast.nextIo, nextAddr := s.oast.nextAddr, seq := s.oast.seq,
    powerSec := s.oast.cfg.powerSec, warned := if warm then s.oast.warned else 0, rootLuns := s.oast.rootLuns,
    cnt := if warm then s.oast.cnt else default, cfg := s.oast.cfg }

/-- The fabric: no port trained, no route, no key; the counters stay through a warm reset. -/
def warmFab (f : Fab) : Fab :=
  { Fab.reset with ports := f.ports.map (fun p => { p with state := 0 }), cnt := f.cnt }

/-- The checkpoint block after a reset. A running checkpoint or restore fails (R360); what a completed one left as a base and the
remembered phases last until a cold reset (R353, R361). -/
def resetCkpt (s : State) (warm : Bool) : Ckpt :=
  let k := s.ckpt
  let c := { Ckpt.reset with lastStarted := s.oast.cfg.lastGenStarted, lastDone := s.oast.cfg.lastGenDone }
  let ended := match k.run, k.restore with
    | some r, _ => r.generation
    | none, some r => r.generation
    | none, none => 0
  if warm then
    { c with done := k.done, failed := ctrAdd k.failed (if k.run.isSome then 1 else 0), bytes := k.bytes, putRetry := k.putRetry,
             cowCopies := k.cowCopies, cowWait := k.cowWait, restores := k.restores, fullDone := k.fullDone, chain := k.chain,
             baseSess := k.baseSess, baseNodes := k.baseNodes, baseShards := k.baseShards, baseObj := k.baseObj,
             baseDigest := k.baseDigest
             phases := k.phases.map fun p => if p.1 = ended then (p.1, 4, p.2.2) else p }
  else c

/-- The security engine: fuses, the key store and the firmware slots stay through every reset; a cold reset clears the
counters but for the glitch count (R398). -/
def resetSec (s : State) (warm : Bool) : Sec :=
  let c := { s.sec with bootState := 0, storePending := [] }
  if warm then c
  else { c with hsOk := 0, hsFail := 0, keysInstalled := 0, cryptoErase := 0, reports := 0, revokeSent := 0 }

/-- The pins while a reset is in progress (R431). -/
def resetPins (s : State) : Pins :=
  { s.dev.pins with nmiOut := false, devReady := false, nfWpN := false, thermtripN := true }

def warmClocks (c : Clocks) : Clocks :=
  { c with
    arithNow := c.arithDiv, ctrlNow := c.ctrlDiv, fabricNow := c.fabricDiv, monTol := 0x0A, monDebounce := 2,
    clockNmi := false, failRun := 0 }

/-- The device part after a warm reset. -/
def warmDev (d : Dev) (pins : Pins) (cause : Nat) : Dev :=
  { Dev.reset with
    vinMain := d.vinMain, vinBackup := d.vinBackup, onBackup := d.onBackup, powered := true, pinW := d.pinW, energy := d.energy,
    resetCause := cause, clean := d.shutDone, startStep := 4, localCtr := d.localCtr, clk := warmClocks d.clk,
    thr := { Dev.reset.thr with temps := d.thr.temps, tjMax := d.thr.tjMax, tjSensor := d.thr.tjSensor, imminent := d.thr.imminent },
    pins := pins, tilesOk := d.tilesOk, stackCnt := d.stackCnt, spareLeft := d.spareLeft, dieOk := d.dieOk,
    throttleHolds := d.throttleHolds, supplySwitchCnt := d.supplySwitchCnt, clockMonFail := d.clockMonFail,
    calClampCnt := d.calClampCnt, pwrShutSkip := d.pwrShutSkip, calUser := d.calUser }

/-- The device part after a cold reset or a loss of power; a completed shutdown is remembered until the device starts
again. -/
def coldDev (d : Dev) (pins : Pins) (cause : Nat) (powered : Bool) : Dev :=
  { Dev.reset with
    vinMain := d.vinMain, vinBackup := d.vinBackup, onBackup := d.onBackup, powered := powered, resetCause := cause,
    clean := powered && d.shutDone, shutDone := !powered && d.shutDone, startStep := if powered then 2 else 1,
    thr := { Dev.reset.thr with temps := d.thr.temps, imminent := d.thr.imminent }, pins := pins, calUser := d.calUser }

/-- The state at the start of a warm reset (R417). -/
def warmState (s : State) (cause : Nat) : State :=
  { State.reset with
    dev := warmDev s.dev (resetPins s) cause, sb := s.sb,
    gl := { (default : Gl) with g0 := portCounters s.gl.g0, g1 := portCounters s.gl.g1 },
    mash := warmMash s.mash, mill := warmMill s.mill, cellar := warmCellar s, copper := warmCopper s.copper,
    lauter := { Lauter.reset with cnt := s.lauter.cnt }, rows := warmRows s.rows, oast := resetOast s true,
    fab := warmFab s.fab, ckpt := resetCkpt s true, sec := resetSec s true, free := s.free + 1, pending := s.pending }

/-- The state at the start of a cold reset, and what is left while the load is off (R417, R431). -/
def coldState (s : State) (cause : Nat) (powered : Bool) : State :=
  { State.reset with
    dev := coldDev s.dev (resetPins s) cause powered, sb := { Sideband.reset with jtag := s.sb.jtag },
    cellar := { Cellar.reset with sec := s.oast.cfg.cellarSec }, oast := resetOast s false, ckpt := resetCkpt s false,
    sec := resetSec s false, free := s.free + 1, pending := s.pending }

/-! ### Calibration (R420, R421) -/

/-- How many of an item's trims a user value drives beyond the hardware range. -/
def clampCount (item : Nat) (v : Int) : Nat :=
  if 0x0200 ≤ item ∧ item < 0x0400 then Config.calClamps item v
  else if Config.calFuse item + v < Config.calLow item ∨ Config.calHigh item < Config.calFuse item + v then 1 else 0

/-- Factory and user trims applied at step 4. -/
def applyTrims (s : State) : State :=
  { s with dev.calClampCnt := ctrAdd s.dev.calClampCnt (sumBy (fun c => clampCount c.1 c.2) s.dev.calUser) }

/-! ### Start-up (R382, R383, R390, R394, R415) -/

/-- The image of a slot: svn, version, digest; slot A holds the image the part is shipped with until it is replaced. -/
def slotImage (s : State) (i : Nat) : Nat × Nat × Nat :=
  let x := lget s.sec.slots i (0, 0, 0)
  if i = 0 ∧ x.2.2 = 0 then (Config.fwSvn, Config.fwVersion, Config.fwDigest) else x

/-- Whether the ROM boots a slot: it holds an image whose `svn` is at least the anti-rollback count (R382). -/
def bootable (s : State) (i : Nat) : Bool := decide ((slotImage s i).2.2 ≠ 0) && decide (s.sec.arb ≤ (slotImage s i).1)

/-- ROM verification: the active slot, then the other one (R382). -/
def romBoot (s : State) : State :=
  let a := s.sec.activeSlot
  let run (i : Nat) : State :=
    let x := slotImage s i
    { s with sec.bootState := i + 1, sec.svn := x.1, sec.fwVersion := x.2.1, sec.fwDigest := x.2.2 }
  if bootable s a then run a else if bootable s (1 - a) then run (1 - a) else { s with sec.bootState := 3 }

/-- The blocks of a LUN at the first mount: 2 % of the good blocks are spares (R308). -/
def firstLun (l : Nat × Nat × Nat × Nat) : Lun :=
  let sp := l.2.2.1 / 50
  { channel := l.1, lun := l.2.1, blockBytes := l.2.2.2,
    blocks := List.replicate (l.2.2.1 - sp) { (default : Block) with st := 0 } ++
      List.replicate sp { (default : Block) with st := 4 },
    spare0 := sp, spares := sp, lowRaised := 100, gcActive := false, failed := false }

/-- The first two and the next two good blocks of a root LUN are root and key blocks (R309, R379). -/
def markRoot (s : State) (l : Nat) : State :=
  (List.range 4).foldl (fun s b => modBlock s l b fun k => if k.st = 0 then { k with st := 5 } else k) s

/-- The array as the Oast finds it at its first start (R289, R293, R308, R309). -/
def findArray (s : State) : State :=
  if s.oast.cfg.firstMounted then { s with oast.cnt.lunUnused := Config.lunsUnused }
  else
    let s := { s with oast.luns := Config.luns.map firstLun, oast.cfg.firstMounted := true, oast.cnt.lunUnused := Config.lunsUnused }
    let s := { s with oast.rootLuns := rootLunsOf s }
    s.oast.rootLuns.foldl markRoot s

/-- Removals found at start-up end before READY: no reply is sent (R390). -/
def finishRemovals (s : State) : State :=
  let gone := s.sec.tenants.filter fun t => t.2.removing
  let s := gone.foldl (fun s t => freeExtentsIf s fun e => e.tenant == t.1) s
  { s with
    sec.tenants := s.sec.tenants.filter fun t => !t.2.removing
    sec.storeSeq := s.sec.storeSeq + gone.length
    sec.cryptoErase := ctrAdd s.sec.cryptoErase
      (countBy (fun t => t.2.flash != [] || t.2.link != [] || t.2.ckpt.isSome) gone) }

/-- Signing resumes at the next block not reserved, or at the fused window count (R394). -/
def resumeSigning (s : State) : State :=
  let w := s.sec.sigWindow
  let ok := decide (0 < w) && decide ((w - 1) * 4194304 < s.sec.sigReserved) && decide (s.sec.sigReserved ≤ w * 4194304)
  let n := if ok then s.sec.sigReserved else w * 4194304
  let near := decide (s.sec.sigNext < 1056964608 ∧ 1056964608 ≤ n)
  let s := { s with sec.sigNext := n, sec.sigReserved := n }
  if near then counterNear s 2 0 n 1073741824 else s

/-- The anti-rollback count is fused up to the running image's `svn` (R383). -/
def fuseArb (s : State) : State :=
  if s.sec.arb < s.sec.svn then
    let s1 := { s with sec.arb := min 64 s.sec.svn }
    if s.sec.arb < 60 ∧ 60 ≤ s1.sec.arb then counterNear s1 1 0 s1.sec.arb 64 else s1
  else s

/-- HBM cleared and its pools built, Grenlink up, the mount begun where some LUN is usable (R415). -/
def readyParts (s : State) : State :=
  { s with
    cellar.allocs := (List.range 4).map (buildAlloc s), mill.hbm := []
    mash.restStart := s.dev.localCtr, dev.startStep := 8, dev.pins.devReady := true
    oast.mountState := if (List.range s.oast.luns.length).any (fun l => lunUsable s l) then 1 else 0 }

/-- Fresh keys of a cold start, and the signing position (R373, R394). -/
def coldKeys (s : State) : State := resumeSigning { s with sec.kemPair := Config.random s.free, free := s.free + 1 }

/-- Start-up steps 4 to 8: fuses, ROM, HBM cleared and its pools built, Grenlink up, READY and the mount begun. Where no
image qualifies the device stays in reset for Grenlink (R382, R415, R416). -/
def startUp (s : State) (cold : Bool) : State :=
  let s := romBoot (applyTrims { s with dev.startStep := 5 })
  if s.sec.bootState = 3 then s
  else fuseArb (setDevState (readyParts (findArray (finishRemovals (if cold then coldKeys s else s)))) 3)

/-- The PLL locks: the local counter starts at 0 and start-up goes on (R414, R415). RESET_N is high again, and EXTEST or
SAMPLE/PRELOAD gives way to BYPASS (R432, log entry 85). -/
def lockPll (s : State) : State := startUp { s with dev.clk.pllLocked := true, dev.localCtr := 0, dev.startStep := 3, dev.pins.resetN := true, sb.jtag := if 2 ≤ s.sb.jtag then 0 else s.sb.jtag } true

/-- The lock, once both the internal oscillator and the root's source are stable. -/
def tryLock (s : State) : State :=
  let c := s.dev.clk
  if c.pllLocked = false ∧ c.intStable ∧ (c.refStable ∨ c.rootSrc = 1) then lockPll s else s

/-! ### Resets (R395, R417, R445) -/

def coldReset (s : State) (cause : Nat) : State := coldState s cause true

def warmReset (s : State) (cause : Nat) : State := startUp (warmState s cause) false

/-- The dividers that a warm reset brings into force keep the limits of R408. -/
def clockLimitsOk (c : Clocks) : Bool := decide (c.fabricDiv ≤ 2 * c.arithDiv) && decide (c.ctrlDiv ≤ 2 * c.arithDiv)

/-- The reset of a cause: cold, or warm with dividers within the limits of R408. -/
def resetFor (s : State) (cause : Nat) : Out :=
  if cause = 2 then .next (coldReset s 2)
  else if clockLimitsOk s.dev.clk then .next (warmReset s cause)
  else .fault .clockLimits

def execDeferredReset (s : State) : Out :=
  match s.dev.deferred with
  | none => .next s
  | some k => resetFor (advanceUs s 1000) k

/-- Sensors all below 100 °C. -/
def allCool (s : State) : Bool := s.dev.thr.temps.all fun t => decide (t < 1600)

def bothQualified (s : State) : Bool := s.dev.vinMain.qualified && s.dev.vinBackup.qualified

/-- Whether some input still qualifies. -/
def anyQualified (s : State) : Bool := s.dev.vinMain.qualified || s.dev.vinBackup.qualified

/-- RESET_N stands low until the PLL locks (log entry 85). -/
def resetLow (s : State) : State := { s with dev.pins.resetN := false }

/-- RESET_N low: a cold reset; ignored in the hold-up; after THERMTRIP only with every sensor below 100 °C (R404, R417,
R440). -/
def execResetPin (s : State) : Out :=
  .next (
    if s.dev.supplyIsLost then s
    else if s.dev.thr.tripped then (if allCool s ∧ anyQualified s then resetLow (coldReset s 6) else s)
    else if s.dev.powered then resetLow (coldReset s 1) else s)

/-- Keys zeroised, a cold reset, and one count (R395). -/
def execGlitchReset (s : State) : Out :=
  .next (
    if s.dev.powered = false then s
    else
      let s := coldReset { s with dev.shutDone := false } 5
      { s with sec.glitchCnt := ctrAdd s.sec.glitchCnt 1 })

/-! ### Supplies (R399 to R401, R427) -/

/-- An input that feeds nothing: below 52 V, or disconnected (R401). -/
def inputDown (x : Supply) : Bool := decide (x.volt < 5200) || x.disconnected

def supplyOf (s : State) (input : Nat) : Supply := if input = 0 then s.dev.vinMain else s.dev.vinBackup

def modSupply (s : State) (input : Nat) (f : Supply → Supply) : State :=
  if input = 0 then { s with dev.vinMain := f s.dev.vinMain } else { s with dev.vinBackup := f s.dev.vinBackup }

/-- SUPPLY_SWITCHED with its kind; kinds 0 and 1 move the load (R400, R425). -/
def supplySwitched (s : State) (kind : Nat) : State :=
  if s.dev.powered = false then s
  else
    let s := if kind ≤ 1 then
        { s with dev.onBackup := decide (kind = 0), dev.supplySwitchCnt := ctrAdd s.dev.supplySwitchCnt 1 } else s
    raise (alertSet s 2) 0x10 0 0 [(1, kind), (1, 0), (2, s.dev.vinMain.volt), (2, s.dev.vinBackup.volt)]

/-- A voltage crosses a threshold: above 70 V the input is disconnected, below 52 V it is lost, and the OR-ing switches
act. Both inputs down is SUPPLY_LOST's, and cycles a tripped part (R399, R400, R404). -/
def execSupplyInputChange (input volt : Nat) (s : State) : Out :=
  .next (
    if 2 ≤ input then s
    else
      let was := supplyOf s input
      let s := modSupply s input fun x =>
        { volt := volt, disconnected := decide (7000 < volt) || (x.disconnected && !x.qualified),
          qualified := x.qualified && decide (5200 ≤ volt) && decide (volt ≤ 7000) }
      let main := s.dev.vinMain
      let back := s.dev.vinBackup
      if inputDown main ∧ inputDown back then
        (if s.dev.thr.tripped then { s with dev.thr.tripped := false, dev.pins.thermtripN := true, dev.pins.pwrFailN := false } else s)
      else if s.dev.onBackup = false then
        if inputDown main ∧ back.qualified then supplySwitched s 0
        else if input = 1 ∧ was.qualified ∧ back.qualified = false then supplySwitched s 2 else s
      else if inputDown back then supplySwitched s 1
      else s)

/-- The load is switched on from MAIN (R399, R415). -/
def powerUp (s : State) : State :=
  let t := coldState s s.dev.resetCause true
  { t with dev.onBackup := false, dev.pins.pwrFailN := true }

/-- In range for 20 ms: the input is qualified. With both qualified a device that is off starts; on BACKUP the load
returns to a MAIN at 56 V or more (R399, R400, R415). -/
def execSupplyQualified (input : Nat) (s : State) : Out :=
  .next (
    let was := supplyOf s input
    if 2 ≤ input ∨ was.volt < 5400 ∨ 6800 < was.volt then s
    else
      let s := modSupply s input fun x => { x with qualified := true, disconnected := false }
      if s.dev.supplyIsLost ∨ s.dev.thr.tripped then s
      else if s.dev.powered = false then
        (if bothQualified s then powerUp s else s)
      else if input = 1 ∧ was.qualified = false then supplySwitched s 3
      else if input = 0 ∧ s.dev.onBackup ∧ 5600 ≤ s.dev.vinMain.volt then supplySwitched s 1
      else s)

/-- Both inputs lost: the event, PWR_FAIL_N and NMI_OUT asserted, the array write-protected, hold-up begins (R401,
R432). -/
def execSupplyLost (s : State) : Out :=
  .next (
    if s.dev.powered = false ∨ s.dev.supplyIsLost ∨ inputDown s.dev.vinMain = false ∨ inputDown s.dev.vinBackup = false then s
    else
      let s := { s with
        dev.supplyIsLost := true, dev.supplyNmi := true, dev.pins.pwrFailN := false, dev.pins.nmiOut := true,
        dev.pins.nfWpN := false }
      raise (alertSet s 3) 2 0 0 [(2, s.dev.vinMain.volt), (2, s.dev.vinBackup.volt), (2, s.dev.pinW)])

/-- The hold-up is over: everything volatile is gone; an end without a completed shutdown is unclean (R401, R416). -/
def execHoldupEnd (s : State) : Out :=
  .next (if s.dev.supplyIsLost then coldState s 7 false else s)

/-! ### Sensors and throttling (R402 to R405, R420, R448) -/

/-- The sum of a factory and a user trim, clamped to the trim's hardware range (R420). -/
def trimOf (s : State) (item : Nat) : Int :=
  max (Config.calLow item) (min (Config.calHigh item) (Config.calFuse item + (tget s.dev.calUser item).getD 0))

/-- A measured voltage in mV, corrected and shown in units of 10 mV. -/
def shownVolt (s : State) (input mv : Nat) : Nat := ((mv + trimOf s (0x10 + input)) / 10).toNat % 65536

/-- The standby domain is powered: some input at 36 V or more (R427). -/
def standby (s : State) : Bool := decide (3600 ≤ s.dev.vinMain.volt) || decide (3600 ≤ s.dev.vinBackup.volt)

/-- The hottest sensor: its number and reading; the lowest number on a tie. -/
def hottest : List Int → Nat × Int
  | [] => (0, 0)
  | t :: l => if l.all fun u => decide (u ≤ t) then (0, t) else let h := hottest l; (h.1 + 1, h.2)

/-- Sensors that newly read 115 °C or more; a sensor is armed again below 110 °C (R404). -/
def imminentNow (flags : List Bool) (temps : List Int) : List Bool :=
  (flags.zip temps).map fun p => if p.2 < 1760 then false else p.1 || decide (1840 ≤ p.2)

def raiseImminent (s : State) (old new : List Bool) : State :=
  (List.range 24).foldl (fun s n =>
    if lget new n false && !lget old n false && serving s then
      raise (alertSet s 1) 0x12 0 0 [(1, n), (1, 0), (2, twos 16 (lget s.dev.thr.temps n 0))]
    else s) s

/-- The samples of every 100 µs, with the calibration of R420 applied. -/
def execSensorSample (vinMain vinBackup pinW : Nat) (temps : List Int) (s : State) : Out :=
  .next (
    if standby s = false then s
    else
      let ts := (List.range 24).map fun n => lget temps n 0 + trimOf s (0x100 + n)
      let w := ((pinW * (10000 + trimOf s 0x12)) / 10000).toNat
      let hot := hottest ts
      let old := s.dev.thr.imminent
      let new := imminentNow old ts
      let s := modSupply (modSupply s 0 fun x => { x with volt := shownVolt s 0 vinMain }) 1 fun x =>
        { x with volt := shownVolt s 1 vinBackup }
      let s := { s with
        dev.pinW := w, dev.energy := s.dev.energy + w, dev.thr.temps := ts, dev.thr.tjMax := twos 8 (hot.2 / 16),
        dev.thr.tjSensor := hot.1, dev.thr.pinHist := (w :: s.dev.thr.pinHist).take 100, dev.thr.imminent := new }
      raiseImminent s old new)

/-- A throttle level after one update (R404). -/
def levelNext (h : Nat) (up down : Bool) : Nat := if up then min 12 (h + 1) else if down then h - 1 else h

/-- `pwr_limit` as it acts (R424). -/
def pwrLimit (s : State) : Nat := min 2600 (max 1000 s.dev.pwrLimit)

/-- The two throttle levels, updated every 1 ms; THERMAL_THROTTLE when h leaves 0 and when it returns (R404). -/
def execThrottleUpdate (s : State) : Out :=
  .next (
    if running s = false then s
    else
      let t := s.dev.thr
      let hot := hottest t.temps
      let sum := t.pinHist.foldl (· + ·) 0
      let n := t.pinHist.length
      let ht := levelNext t.hThermal (decide (1600 ≤ hot.2)) (decide (hot.2 ≤ 1552))
      let hp := levelNext t.hPower (decide (pwrLimit s * n < sum)) (decide (sum * 100 < 95 * pwrLimit s * n))
      let h := max ht hp
      let s := { s with
        dev.thr.hThermal := ht, dev.thr.hPower := hp, dev.thr.level := h,
        dev.thr.restsSince := if h = t.level then t.restsSince else 0 }
      let ev (s : State) (cause entered : Nat) : State :=
        raise s 0x11 0 0 [(1, cause), (1, entered), (1, hot.1), (1, h), (2, twos 16 hot.2), (2, s.dev.pinW)]
      if t.level = 0 ∧ h ≠ 0 then ev (alertSet s 0) (if ht ≠ 0 then 0 else 1) 1
      else if t.level ≠ 0 ∧ h = 0 then ev s (if t.hThermal ≠ 0 then 0 else 1) 0
      else s)

/-- The comparators switch off the rails; SB_ALERT and its enables stay (R404, R450). -/
def execThermtrip (s : State) : Out :=
  .next (
    if s.dev.powered = false then s
    else
      let t := coldState s 6 false
      let sb := s.sb
      { t with sb := sb, dev.thr.tripped := true, dev.pins.thermtripN := false })

/-! ### Clocks (R410 to R413) -/

/-- CLOCK_FAIL: non-maskable, asserts NMI_OUT (R413). -/
def clockFail (s : State) (cause : Nat) : State :=
  let s := { s with dev.clk.clockNmi := true, dev.pins.nmiOut := true }
  raise (alertSet s 4) 1 0 0 [(1, cause), (3, 0), (4, s.dev.clk.lastCount)]

def execOscillatorStable (osc : Nat) (s : State) : Out :=
  .next (
    if s.dev.powered = false then s
    else if osc = 0 then tryLock { s with dev.clk.intStable := true }
    else if osc = 1 then tryLock { s with dev.clk.refStable := true }
    else if osc = 2 then
      (if s.dev.clk.monclkAbsent then { s with dev.clk.monStable := true }
       else { s with dev.clk.monStable := true, dev.clk.monActive := true })
    else s)

/-- REFCLK not stable within 10 ms: the PLL locks to the internal oscillator, and CLOCK_FAIL cause 2 is logged (R410). -/
def execRefclkStartTimeout (s : State) : Out :=
  .next (
    if s.dev.powered = false ∨ s.dev.clk.pllLocked ∨ s.dev.clk.refStable then s
    else clockFail (tryLock { s with dev.clk.rootSrc := 1 }) 2)

/-- How far a window's count may lie from 4,096 (R411). -/
def monBound (s : State) : Nat := 4096 * max 1 s.dev.clk.monTol / 2000

/-- A window's count, and the failed windows in a row (R411). -/
def countWindow (s : State) (count : Nat) : State :=
  let bad := decide (monBound s < (count - 4096) + (4096 - count))
  { s with
    dev.clk.lastCount := count, dev.clk.failRun := if bad then s.dev.clk.failRun + 1 else 0
    dev.clockMonFail := if bad then ctrAdd s.dev.clockMonFail 1 else s.dev.clockMonFail }

/-- A run of failed windows as long as the debounce on REFCLK: the root switches to the internal oscillator (R412). -/
def windowEnd (s : State) : State :=
  if max 1 s.dev.clk.monDebounce ≤ s.dev.clk.failRun ∧ s.dev.clk.rootSrc = 0 then
    clockFail { s with dev.clk.rootSrc := 1 } 0
  else s

/-- A window of the clock monitor ends (R411, R412). -/
def execClockMonWindow (count : Nat) (s : State) : Out :=
  .next (if s.dev.powered = false ∨ s.dev.clk.monActive = false then s else windowEnd (countWindow s count))

/-- No window within 81.92 µs: MONCLK is absent and monitoring stops (R413). -/
def execMonclkAbsent (s : State) : Out :=
  .next (
    if s.dev.powered = false ∨ s.dev.clk.monActive = false then s
    else clockFail { s with dev.clk.monActive := false, dev.clk.monclkAbsent := true } 1)

/-! ### Clean shutdown (R418, R419) -/

/-- The preconditions of R418: no session ACTIVE or OFFERED, and no other command running. -/
def mayShut (s : State) : Bool :=
  s.gl.jobs == [] && !s.cellar.sess.any fun p => p.2.state == stACTIVE || p.2.state == stOFFERED

/-- The parks of a shutdown: budgets, shapers and the wear allowance are not checked; a session whose park fails is
counted and left out (R418). -/
def shutParks (s : State) : State :=
  (s.cellar.sess.filter fun p => p.2.state == stWARM && !p.2.parking && !p.2.condensing).foldl (fun s p =>
    let s' := if parkBlock s p.2 = 0 ∨ parkBlock s p.2 = 2 then beginPark s p.1 noSeq else s
    match sessAt s' p.1 with
    | some y => if y.parking then s' else { s with dev.pwrShutSkip := ctrAdd s.dev.pwrShutSkip 1 }
    | none => s') s

/-- Parks and condenses have ended and every rack record is acknowledged. -/
def shutSettled (s : State) : Bool :=
  s.cellar.sess.all fun p => !p.2.parking && !p.2.condensing && !p.2.reviving && (!racks s p.2 || allAcked p.2)

/-- The shutdown image (R416, R418). -/
def writeImage (s : State) : State :=
  { s with
    oast.cfg.imgSess := s.cellar.sess.filter fun p => p.2.state == stPARKED || p.2.state == stEXTRACT
    oast.cfg.imgNodes := (s.cellar.nodes.filter fun n => n.2.casks != 0 && n.2.flash != 0).map fun n =>
      (n.1, { n.2 with inHbm := false, runs := [], links := 0 })
    oast.cfg.imgModels := s.models.models.map fun m => (m.1, { m.2 with st := 0, runs := [] })
    oast.cfg.imgClasses := s.cellar.classes
    oast.cfg.cellarSec := s.cellar.sec
    oast.cfg.imgShares := s.mash.classes.map fun c =>
      (c.1, { (default : ShareClass) with tenant := c.2.tenant, weight := c.2.weight, rtRests := c.2.rtRests })
    oast.cfg.imgVocabs := s.copper.vocabs, oast.cfg.imgGrammars := s.copper.grammars }

/-- The quiesced end of a shutdown: off-ready; FIRMWARE_ACTIVATE gets its reply and its warm reset (R418, R419). -/
def shutEnd (s : State) : State :=
  let s := setDevState { s with dev.shutDone := true } 6
  match s.dev.shutActivate with
  | some q => { finishFinal s q (ans stOk) with dev.deferred := some 4, dev.shutActivate := none }
  | none => s

/-- A shutdown goes on: parks, acknowledgements, image, quiesce, off-ready (R418). -/
def shutStep (s : State) : State :=
  let s := if s.dev.shutPhase = 1 ∧ s.oast.mountState = 2 then shutParks { s with dev.shutPhase := 2 } else s
  let s := if s.dev.shutPhase = 2 ∧ shutSettled s then { writeImage s with dev.shutPhase := 3 } else s
  let s := if s.dev.shutPhase = 3 ∧ s.oast.quiescing = false then startQuiesce s else s
  if s.dev.shutPhase = 3 ∧ s.oast.mountState = 3 ∧ s.dev.shutDone = false then shutEnd s else s

def startShutdown (s : State) : State := shutStep (setDevState { s with dev.shutPhase := 1 } 5)

/-! ### OAST_MOUNT_DONE (R310, R416) -/

/-- A run of a reloaded extract, in the new pool. -/
def reRun (s : State) (die : Nat) (l : List Run) : List Run × State :=
  l.foldl (fun acc r => match takeRun acc.2 die r.order r.tenant r.slice with
    | some (k, s) => (acc.1 ++ [k], s)
    | none => acc) ([], s)

/-- One session of the image reloaded: a PARKED entry, or an EXTRACT with its extract back in HBM. -/
def reloadSess (s : State) (x : Sess) : State :=
  let x := { x with outstanding := 0, deltas := [], rackAcked := x.rackSeq, linked := false,
                    blk := { noDraft x.blk with slots := [], slotRuns := [] } }
  if x.state = stEXTRACT then
    let die := if dieUp s x.homeDie then x.homeDie else (bestDie s (sliceOfSess s x)).getD x.homeDie
    let (lst, s) := reRun s die x.pageList
    let (blk, s) := reRun s die x.stateBlock
    let (pages, s) := x.pages.foldl (fun (acc : List Page × State) p =>
      let r := reRun acc.2 die p.runs
      (acc.1 ++ [{ p with runs := r.1 }], r.2)) ([], s)
    takeExtract (putArrived s { x with homeDie := die, pageList := lst, stateBlock := blk, pages := pages }) x.idx
  else putArrived s x

/-- Tables of the Copper back in the pools under their references. -/
def reloadTables (s : State) : State :=
  let s := s.oast.cfg.imgVocabs.foldl (fun s v => match takeTable s 0 v.2.size with
    | some (r, s) => { s with copper.vocabs := tput s.copper.vocabs v.1 { v.2 with runs := r } }
    | none => s) s
  s.oast.cfg.imgGrammars.foldl (fun s g => match takeTable s g.2.tenant g.2.size with
    | some (r, s) => { s with copper.grammars := tput s.copper.grammars g.1 { g.2 with runs := r } }
    | none => s) s

/-- Step 9: the configuration and the session table from the shutdown image (R416). -/
def reload (s : State) : State :=
  let c := s.oast.cfg
  let maxId := c.imgNodes.foldl (fun m n => max m (n.1 + 1)) s.cellar.nextNode
  let s := { s with
    models.models := c.imgModels, cellar.classes := c.imgClasses, cellar.nodes := c.imgNodes, cellar.nextNode := maxId,
    mash.classes := c.imgShares.foldl (fun t k =>
      tput t k.1 { tdef t k.1 default with tenant := k.2.tenant, weight := k.2.weight, rtRests := k.2.rtRests }) s.mash.classes }
  c.imgSess.foldl (fun s p => reloadSess s p.2) (reloadTables s)

/-- After an unclean end the casks and corpus items of the earlier life are released (R416). -/
def releaseEarlier (s : State) : State :=
  freeExtentsIf s fun e => match e.owner with
    | .cask _ => true
    | .page _ => true
    | .node _ => true
    | .item _ _ _ => true
    | .rackCask _ => true
    | _ => false

/-- The mount is complete. The start-up mount goes on to the reload or the release; a remount needs neither. -/
def execOastMountDone (s : State) : Out :=
  .next (
    if serving s = false ∨ s.oast.mountState ≠ 1 then s
    else
      let trusted := s.oast.cfg.commit && !s.oast.cfg.marker
      let s := { s with
        oast.mountState := 2, oast.quiescing := false, oast.lastClean := trusted, dev.pins.nfWpN := true,
        oast.pslcBytes := pslcB s }
      if s.dev.startStep ≥ 10 then s
      else
        let s := if s.dev.clean ∧ trusted then reload s else releaseEarlier s
        let s := { s with dev.startStep := 10 }
        if s.dev.devState = 3 then setDevState s 4 else s)

end Sys2Proof.Machine
end

