-- ==== Sys2Proof/Machine/Faults.lean ====
section
/-! DEFINITION. Faults inside the device: SRAM and HBM errors, tile self-tests, a lost compute die (R63, R346 to R348). -/
namespace Sys2Proof.Machine

/-! ### Tiles (R63, R346) -/

/-- The running entry of the tile's group is abandoned; its steps run again from committed state. -/
def abandonTile (s : State) (t : Nat) : State := match grpOfTile s t with
  | some i => abandonChain s i
  | none => s

def execSramEccError (tile : Nat) (double : Bool) (s : State) : Out :=
  .next (
    if running s = false ∨ 64 ≤ tile ∨ (tileAt s tile).inService = false then s
    else if double then
      askSelfTest (abandonTile { s with fab.cnt.eccUe := ctrAdd s.fab.cnt.eccUe 1 } tile) tile
    else modTile s tile fun x => { x with eccCe := ctrAdd x.eccCe 1 })

/-- DIE_DEGRADED (R464). -/
def dieDegraded (s : State) (die cause tile sessions : Nat) : State :=
  raise s 0x32 0 0 [(1, die), (1, cause), (1, tile), (1, 0), (4, sessions)]

/-- The die's spare takes the logical number (R2, R346). -/
def spareTile (s : State) (t : Nat) : State :=
  let d := t / 16
  let s := modTile s t fun x => { x with selfTest := false, spared := true, sram := [], accs := [] }
  raise { s with dev.spareLeft := s.dev.spareLeft &&& (15 ^^^ 2 ^ d) } 0x31 0 0 [(1, d), (1, t), (1, 16)]

/-- No spare is left: the logical tile is removed (R346, R447). -/
def removeTile (s : State) (t : Nat) : State :=
  let s := modTile s t fun x => { x with selfTest := false, inService := false }
  dieDegraded { s with dev.tilesOk := s.dev.tilesOk - 1 } (t / 16) 1 t 0

/-- Whether the rest that runs gives a group of the die to MAINT (R346). -/
def maintRest (s : State) (d : Nat) : Bool :=
  (List.range 16).any fun i => lget (lget s.mash.table.rests s.mash.rest default).act (16 * d + i) 0 == 12

/-- A tile's self-test ends. It runs in a MAINT rest of its die and is charged to MAINT: while that balance is spent there is none
(R127, R130, R346). What it takes in tile cycles is a free value. -/
def execTileSelfTestDone (tile : Nat) (pass : Bool) (s : State) : Out :=
  .next (
    let x := tileAt s tile
    let sl := (groupSlice s (tile / 16) (tile % 16) 1).getD 0
    if running s = false ∨ 64 ≤ tile ∨ x.inService = false ∨ x.selfTest = false ∨ maintRest s (tile / 16) = false then s
    else if hasBal s sl 12 0 = false then holdOn s sl 12 0
    else
      let s := tick (charge s sl 12 0 (Config.count s.free))
      if pass then modTile s tile fun x => { x with selfTest := false }
      else
        let s := abandonTile s tile
        if bit s.dev.spareLeft (tile / 16) then spareTile s tile else removeTile s tile)

/-! ### What an uncorrectable frame holds (R20, R347) -/

def runHas (f : Nat) (r : Run) : Bool := decide (r.start ≤ f) && decide (f < r.start + 2 ^ r.order)

def dieRunHas (d f : Nat) (r : Nat × Run) : Bool := r.1 == d && runHas f r.2

/-- A session of the die that holds the frame itself. -/
def sessHas (d f : Nat) (x : Sess) : Bool :=
  x.homeDie == d && (x.state == stACTIVE || x.state == stWARM || x.state == stEXTRACT || x.state == stOFFERED) &&
    (x.pages.any (fun p => !p.isShared && p.runs.any (runHas f)) || x.pageList.any (runHas f) || x.stateBlock.any (runHas f))

/-- A KV page of a session: committed positions come again from the buddy under MOVE, or an opted-out session is lost and
its entry closed. -/
def recoverSess (s : State) (idx f : Nat) : State :=
  match sessAt s idx with
  | none => s
  | some x =>
    if racks s x then
      let n := sumBy (pageBytes s x) (x.pages.filter fun p => p.runs.any (runHas f))
      { chargeRx s (sliceOfSess s x) 6 n with fab.cnt.recovered := ctrAdd s.fab.cnt.recovered 1 }
    else closeSession s idx stLost 4

/-- A shared page: every session that links it. -/
def recoverNode (s : State) (id f : Nat) : State :=
  (s.cellar.sess.filter fun p => p.2.pages.any fun g => g.isShared && g.node == id).foldl (fun s p => recoverSess s p.1 f) s

/-- Weights: the run is read again from the model's Oast copy. -/
def recoverModel (s : State) (m : Model) (f d : Nat) : State :=
  let n := sumBy (fun r => if dieRunHas d f r then 2 ^ r.2.order * 4096 else 0) m.runs
  poolRead s m.slice 6 n m.oast .patrol

/-- Shards of a corpus with node storage in the frame answer "not held". -/
def loseShards (s : State) (hit : List (Nat × Run) → Bool) : State :=
  { s with lauter.corpora := s.lauter.corpora.map fun c =>
      (c.1, { c.2 with shards := c.2.shards.map fun h => (h.1, if hit h.2.runs then { h.2 with lost := true } else h.2) }) }

def loseTables (s : State) (hit : RowTable → Bool) : State :=
  { s with rows.tables := s.rows.tables.map fun t => (t.1, if hit t.2 then { t.2 with lost := true } else t.2) }

/-- A frame of a die's pool. -/
def recoverPool (s : State) (d f : Nat) : State :=
  let ns := s.cellar.nodes.filter fun n => n.2.inHbm && n.2.die == d && n.2.runs.any (runHas f)
  let ms := s.models.models.filter fun m => m.2.runs.any (dieRunHas d f)
  let s := (s.cellar.sess.filter fun p => sessHas d f p.2).foldl (fun s p => recoverSess s p.1 f) s
  let s := ns.foldl (fun s n => recoverNode s n.1 f) s
  let s := ms.foldl (fun s m => recoverModel s m.2 f d) s
  let s := loseShards s fun l => l.any (dieRunHas d f)
  loseTables s fun t => t.die == d && (t.runs.any (runHas f) || t.shadowRuns.any (runHas f))

/-- A segment fetched again from its object reference. -/
def refetch (s : State) (g : Segment) : State :=
  if reachable s g.obj.gateway then
    sendMsg s g.obj.gateway 6 (((modelOf s g.model).map (·.slice)).getD 0) 12 g.tenant false (.fetch g.obj)
  else s

/-- The Oast remounts with a full scan (R311, R347). -/
def remount (s : State) : State := if s.oast.mountState < 2 then s else { s with oast.mountState := 1 }

/-- Which of `n` objects of a region the frame holds, or none: the spec does not place them (free). -/
def drawOf (s : State) (n : Nat) : Nat := Config.draw s.free % (n + 1)

/-- A retained result is freed (R347). -/
def freeResult (s : State) (q : Nat) : State :=
  { s with gl.results := s.gl.results.filter (fun r => r.seq != q),
           gl.cmds := s.gl.cmds.filter fun c => !(c.seq == q && c.phase == 2) }

/-- Every stream ends, and all sessions are left to adoption (R348). -/
def stopDevice (s : State) (d : Nat) : State :=
  let live := s.cellar.sess.filter fun p => p.2.state != stABSENT && p.2.state != stEXPIRED
  let s := live.foldl (fun s p => fenceSession s p.1) (ckptFail s)
  { dieDegraded s d 2 0 live.length with dev.stopped := true, dev.pins.devReady := false }

/-- A frame of a mirrored structure: the mirror is read and becomes the primary copy (R21, R347). Where the mirror's die is lost no
copy is left, and the device stops as on a second die loss (log entry 114). -/
def readMirror (s : State) (d : Nat) : State :=
  if (lget s.mill.dies (mirrorDie d) default).lost then stopDevice s d
  else { s with mill.onMirror := lmod s.mill.onMirror d fun _ => true }

/-- The region of a die that an offset past its pool lies in: its place in R20's order, and the offset within it. -/
def regionAt : Nat → Nat → List (Nat × Bool) → Option Nat
  | _, _, [] => none
  | i, off, r :: l => if off < r.1 then some i else regionAt (i + 1) (off - r.1) l

/-- A frame of the fixed regions, a quarter of each on every die in the order of R20: device tables and session table, which are
mirrored, the Oast map, the segment store, the result store. -/
def recoverFixed (s : State) (d off : Nat) : State :=
  let s1 := { s with free := s.free + 1 }
  match regionAt 0 off (fixedRegions Config.rawFlash) with
  | some 0 => readMirror s d
  | some 1 => readMirror s d
  | some 2 => remount s
  | some 3 =>
    match s.mill.segs[drawOf s s.mill.segs.length]? with
    | some g => refetch s1 g.2
    | none => s1
  | _ =>
    match s.gl.results[drawOf s s.gl.results.length]? with
    | some r => freeResult s1 r.seq
    | none => s1

/-- The recovery of a frame by what it holds (R347). -/
def recoverFrame (s : State) (d f : Nat) : State :=
  if (lget s.mill.dies d default).lost then s
  else if f < poolFrames Config.rawFlash then recoverPool s d f
  else recoverFixed s d (f - poolFrames Config.rawFlash)

/-! ### HBM errors (R346, R347) -/

def hbmRepair (s : State) (kind stack pc row lost : Nat) : State :=
  raise s 0x30 0 0 [(1, kind), (1, stack), (1, pc), (1, 0), (4, row), (4, lost)]

/-- The slice that owns a pseudo-channel, 0 where none does. -/
def slicePc (s : State) (stack pc : Nat) : Nat :=
  ((List.range 16).find? fun sl => bit (lget s.fab.slices sl default).pcs (64 * stack + pc)).getD 0

/-- A pseudo-channel's bytes: a stack's 64 GiB over its 64 pseudo-channels, read and written by the copy to a spare. -/
def pcCopyBytes : Nat := 2 * 1073741824

/-- The contents of a failed pseudo-channel copied to a spare of its stack, once MAINT has a balance (R127, R130, R346). -/
def spareChannel (s : State) (stack pc : Nat) : State :=
  let sl := slicePc s stack pc
  if hasBal s sl 12 1 then
    let s := { s with mill.pcSpared := lmod s.mill.pcSpared stack (· + 1), mill.pcWait := s.mill.pcWait.erase (stack, pc) }
    hbmRepair (charge s sl 12 1 pcCopyBytes) 2 stack pc 0 0
  else
    { holdOn s sl 12 1 with
      mill.pcWait := if s.mill.pcWait.contains (stack, pc) then s.mill.pcWait else s.mill.pcWait ++ [(stack, pc)] }

/-- Copies to spares that waited for MAINT. -/
def channelRest (s : State) : State := s.mill.pcWait.foldl (fun s p => spareChannel s p.1 p.2) s

/-- A pseudo-channel fails: its contents go to one of the stack's 2 spares, or its frames are uncorrectable and those of the pool
leave it. -/
def pcFailure (s : State) (stack pc : Nat) : State :=
  if s.mill.pcLost.contains (stack, pc) ∨ s.mill.pcWait.contains (stack, pc) then s
  else if lget s.mill.pcSpared stack 0 + countBy (fun p => p.1 == stack) s.mill.pcWait < 2 then spareChannel s stack pc
  else
    let d := stack / 6
    let all := pcFrames stack pc
    let bad := all.filter fun f => decide (f < poolFrames Config.rawFlash)
    let s := all.foldl (fun s f => recoverFrame s d f) { s with mill.pcLost := s.mill.pcLost ++ [(stack, pc)] }
    let s := modAlloc s d fun a =>
      { a with total := a.total - bad.length, free := a.free.foldl (fun f r => addFree bad f r.1 r.2) [] }
    hbmRepair s 3 stack pc 0 bad.length

def execHbmError (kind stack pc row frame : Nat) (s : State) : Out :=
  .next (
    if running s = false ∨ 24 ≤ stack ∨ 64 ≤ pc ∨ (lget s.mill.dies (stack / 6) default).lost then s
    else
      let ce (s : State) : State := { s with fab.cnt.hbmCe := ctrAdd s.fab.cnt.hbmCe 1 }
      match kind with
      | 0 => ce s
      | 1 => hbmRepair (ce s) 0 stack pc row 0
      | 2 => pcFailure s stack pc
      | 3 => recoverFrame { s with fab.cnt.hbmUe := ctrAdd s.fab.cnt.hbmUe 1 } (stack / 6) frame
      | _ => s)

/-! ### DIE_LOST (R348, R360, R447) -/

/-- The die's groups run nothing more: their entries' steps run again elsewhere. -/
def stopGroups (s : State) (d : Nat) : State :=
  (List.range s.mill.groups.length).foldl (fun s i =>
    if (grpAt s i).die = d then
      let s := (grpAt s i).saved.foldl redoEntry (abandonChain s i)
      modGrp s i fun x => { x with saved := [], kept := [] }
    else s) s

/-- The sessions of a die that are handed over. -/
def homed (s : State) (d : Nat) : Tab Sess :=
  s.cellar.sess.filter fun p => p.2.homeDie == d && !p.2.lostMark &&
    (p.2.state == stACTIVE || p.2.state == stWARM || p.2.state == stEXTRACT || p.2.state == stOFFERED)

/-- A HANDOVER to each affected slice's buddy. -/
def handOver (s : State) (l : Tab Sess) : State :=
  (List.range 16).foldl (fun s sl =>
    let mine := (l.filter fun p => sliceOfSess s p.2 == sl && racks s p.2).map fun p => handleOf p.2
    if mine = [] then s else sendMsg s (lget s.fab.buddies sl 0) 0 sl 7 0 false (.handover mine)) s

/-- A PARKED session whose revive was reading into the die starts it again; `x` the session before. -/
def restartRevive (s : State) (idx d : Nat) : State :=
  match sessAt s idx with
  | some x =>
    if x.state = stPARKED ∧ x.reviving ∧ x.homeDie = d then
      beginRevive (dropResvOf (modSess { s with oast.reads := s.oast.reads.filter fun r => r.what != .revive idx } idx
        fun y => { y with reviving := false, reviveRead := false }) noSeq idx) idx
    else s
  | none => s

/-- Models homed on the die, with an expert homed there too, become REGISTERED; a warm that was reading into it ends. -/
def dropModels (s : State) (d : Nat) : State :=
  (s.models.models.filter fun m => m.2.st != 0 && (m.2.homeDie == d || m.2.runs.any fun r => r.1 == d)).foldl (fun s m => warmBad s m.1) s

/-- Shared pages on the die lose their HBM copy; a node with no copy on flash leaves its tree. -/
def dropNodes (s : State) (d : Nat) : State :=
  let s := { s with cellar.nodes := s.cellar.nodes.map fun (n : Nat × Node) =>
    (n.1, if n.2.inHbm ∧ n.2.die = d then { n.2 with inHbm := false, runs := [] } else n.2) }
  { s with cellar.nodes := s.cellar.nodes.filter fun (n : Nat × Node) => n.2.inHbm || n.2.flash != 0 }

/-- The die's pool is gone. -/
def dropPool (s : State) (d : Nat) : State :=
  { modAlloc s d (fun _ => freshAlloc 0) with cellar.resvs := s.cellar.resvs.filter fun r => !(r.die == d) }

/-- What DEV_CAP shows once the die is out (R447). -/
def dropCap (s : State) (d : Nat) : State :=
  let n := countBy (fun t => (tileAt s t).inService) ((List.range 16).map fun i => 16 * d + i)
  let s := (List.range 16).foldl (fun s i => modTile s (16 * d + i) fun x => { x with inService := false, selfTest := false }) s
  { s with dev.tilesOk := s.dev.tilesOk - n, dev.stackCnt := s.dev.stackCnt - 6, dev.dieOk := s.dev.dieOk &&& (15 ^^^ 2 ^ d) }

/-- The first loss: mirrors read for the primary copies the die held (R21), sessions handed over, models REGISTERED, segments fetched again, a remount with a full scan, shards
and tables of the die out. -/
def firstDie (s : State) (d : Nat) : State :=
  let l := homed s d
  let s := { s with mill.onMirror := (lmod s.mill.onMirror d fun _ => true).mapIdx fun i b => b && i != mirrorDie d }
  let s := handOver (ckptFail (stopGroups s d)) l
  let s := l.foldl (fun s p => fenceSession s p.1) s
  let s := dropPool (dropNodes (dropModels s d) d) d
  let s := loseTables (loseShards s fun r => r.any fun k => k.1 == d) fun t => t.die == d
  let s := remount (s.mill.segs.foldl (fun s g => refetch s g.2) s)
  let s := s.cellar.sess.foldl (fun s p => restartRevive s p.1 d) s
  dieDegraded (dropCap s d) d 0 0 l.length

/-- The second loss stops the device: every stream ends, and all its sessions are left to adoption. -/
def secondDie (s : State) (d : Nat) : State := stopDevice (dropCap (stopGroups s d) d) d

def execDieLost (die : Nat) (s : State) : Out :=
  .next (
    if running s = false ∨ 4 ≤ die ∨ (lget s.mill.dies die default).lost then s
    else
      let again := s.mill.dies.any fun d => d.lost
      let s := modDie s die fun d => { d with lost := true, stream := [] }
      if again then secondDie s die else firstDie s die)

end Sys2Proof.Machine
end

