-- ==== Sys2Proof/Machine/Peers.lean ====
section
/-! DEFINITION. Peers of the fabric: the route table, arriving frames, resends, keepalives, handshakes, ports, and the
loss of a peer (R319 to R327, R375, R389). -/
namespace Sys2Proof.Machine

/-! ### Loss of a peer (R322) -/

/-- The reference a running command is fetching. -/
def fetchRef (s : State) (j : Job) : Option ObjRef :=
  if j.stage ≠ 1 then none
  else match j.kind with
    | .register _ _ _ o => some o
    | .segment _ _ _ _ o => some o
    | .vocab _ o => some o
    | .grammar _ _ o => some o
    | .mash _ o => some o
    | .fwStage o => some o
    | .corpusCfg _ _ o _ => some o
    | .restore _ => (match s.ckpt.restore with
      | some r => (r.queue.head?).map fun f => { refOf f with gateway := (r.tried.head?).getD (refOf f).gateway }
      | none => none)
    | _ => none

/-- A fetch its gateway cannot serve, or whose object's digest differs, ends its command (R37). -/
def failFetch (s : State) (j : Job) (a : Ans) : State :=
  match j.kind with
  | .register model _ _ _ => endRegister s j.seq model a
  | .corpusCfg _ _ _ _ => finishFinal s j.seq a
  | .restore _ => if a.status = stRetry then restoreFetched s none else restoreFail s a
  | _ => complete s j.seq a

/-- A peer is lost: the event, its streams gone, and what each subsystem does about it (R37, R263, R358, R362). -/
def losePeer (s : State) (peer reason : Nat) : State :=
  let s := markLost s peer reason
  let s := (s.rack.adoptions.filter fun a => a.buddy == peer).foldl (fun s a => endAdoption (tick s) a default) s
  let s := (s.gl.jobs.filter fun j => ((fetchRef s j).map (·.gateway)) == some peer).foldl
    (fun s j => failFetch s j (ans stRetry)) s
  lauterPeerLost (ckptPeerLost s peer) peer

/-- A peer with a route entry one port of which is up. -/
def hasPath (s : State) (peer : Nat) : Bool :=
  match routeOf s peer with
  | some m => decide (upPorts s m ≠ [])
  | none => false

/-- Every peer the device may be in touch with. -/
def knownPeers (s : State) : List Nat :=
  ((s.fab.routes.map (·.1)) ++ s.fab.buddies ++ s.fab.owners ++ s.fab.peers.map (·.1)).eraseDups.filter fun p =>
    p != 0 && p != s.fab.self

/-- Watched peers without a path are lost at once with reason 1 (R322, R326, R327). -/
def losePathless (s : State) : State :=
  (knownPeers s).foldl (fun s p =>
    if watched s p ∧ hasPath s p = false ∧ (peerOf s p).lost = false then losePeer s p 1 else s) s

def execPeerLost (peer : Nat) (s : State) : Out :=
  .next (
    if running s = false ∨ watched s peer = false ∨ (peerOf s peer).lost ∨ peer = 0 ∨ peer = s.fab.self then s
    else if hasPath s peer = false then losePeer s peer 1
    else losePeer (advanceTo s ((peerOf s peer).lastRx + max 100 s.fab.peerTimeoutUs * Config.usCycles)) peer 0)

/-! ### ROUTE_SET (R326) -/

/-- The first entry that offends, and whether an own entry was met. -/
def routeScan : Nat → List Nat → Bool → List (Nat × Nat) → Option Nat × Bool
  | _, _, own, [] => (none, own)
  | i, seen, own, (p, m) :: l =>
    if p = 0 ∨ p = 0xFFFF ∨ seen.contains p ∨ (m = 0 ∧ own) then (some i, own)
    else routeScan (i + 1) (p :: seen) (own || m == 0) l

def routeFaults (entries : List (Nat × Nat)) : List (Bool × Nat) :=
  match routeScan 0 [] false entries with
  | (some i, _) => [(true, 32 + 4 * i)]
  | (none, own) => [(!own, 24)]

/-- The own peer id of a table. -/
def ownPeer (entries : List (Nat × Nat)) : Nat := ((entries.find? fun e => e.2 == 0).map (·.1)).getD 0

/-- The table replaced: peers whose entry is gone or has no port up are lost (R322, R326). -/
def setRoutes (s : State) (entries : List (Nat × Nat)) : State :=
  losePathless { s with fab.routes := entries, fab.self := ownPeer entries }

def execRouteSet (h : Hdr) (count : Nat) (entries : List (Nat × Nat)) (s : State) : Out :=
  .next (syncCmd s h { code := 0x0602, isAsync := false, tenantRule := 0, sessRule := 0 } (32 + 4 * count)
    (fun _ => (count == 0 || decide (count > Config.routeMax), 24) :: routeFaults entries)
    (fun s =>
      if ownPeer entries ≠ s.fab.self ∧ (s.cellar.sess ≠ [] ∨ s.fab.buddies.any (· != 0)) then (s, ans stWrongState)
      else (setRoutes s entries, ans stOk)))

/-! ### Arriving frames (R320, R321, R376, R389) -/

/-- Whether a tenant has a link secret of an epoch; tenant 0 uses the node link secret (R376). -/
def linkInstalled (s : State) (t e : Nat) : Bool :=
  t == 0 || (match tenantOf s t with
    | some r => r.link.any fun k => k.1 == e
    | none => false)

/-- Whether a frame can be authenticated here: the pair's handshake is complete for class 1 to 6, the tenant's secret of
its epoch is installed, and its pair keys were not deleted by a REVOKE (R375, R376, R389). -/
def frameKeyed (s : State) (f : FabFrame) : Bool :=
  f.dst == s.fab.self && (f.tclass == 0 || (peerOf s f.src).salt.isSome) && linkInstalled s f.tenant f.keyEpoch &&
  !(peerOf s f.src).revoked.contains f.tenant

/-- A frame that fails authentication is discarded and counted, also in `frames_dropped` of a tenant whose keys a removal
has deleted (R321, R389). -/
def frameBad (s : State) (tenant : Nat) : State :=
  { s with
    fab.cnt.authFail := ctrAdd s.fab.cnt.authFail 1
    sec.tenants := tmod s.sec.tenants tenant fun t => if 3 ≤ t.step then { t with dropped := ctrAdd t.dropped 1 } else t }

/-- How many of a stream's messages an `ack_seq` acknowledges whole: those in flight up to it (R321). -/
def ackedCount (l : List StreamMsg) (ack : Nat) : Nat :=
  let sent := inFlight Config.fabWindow l
  match sent with
  | [] => 0
  | m :: _ =>
    let base := m.seq + two32 - framesFor (msgBytes m.msg)
    let past (q : Nat) : Nat := (q + 2 * two32 - base) % two32
    if past ack ≤ sumBy (fun m => framesFor (msgBytes m.msg)) sent then countBy (fun m => decide (past m.seq ≤ past ack)) sent else 0

/-- An acknowledgement: the messages leave the stream, and those that come into the window are sent (R321). -/
def takeAck (s : State) (peer c ack : Nat) : State :=
  let l := (streamOf s peer c).unacked
  let n := ackedCount l ack
  if n = 0 then s
  else
    let s := modStream s peer c fun t => { t with unacked := t.unacked.drop n, oldestAt := s.dev.localCtr }
    putAll s peer c ((inFlight Config.fabWindow (l.drop n)).drop ((inFlight Config.fabWindow l).length - n))

/-- An acknowledgement or keepalive frame: no payload, no place in a stream (R321, R322). -/
def putBare (s : State) (peer c : Nat) : State :=
  if mayTransmit s peer c then putFrame s peer c 0 0 0 else s

/-- A data frame: only the next of its stream is accepted; the acknowledgement goes back at once (R321). A "busy" answer
is noted for the session whose record it answers (R333). -/
def takeData (s : State) (f : FabFrame) : State :=
  let next := decide (f.streamSeq = ((streamOf s f.src f.tclass).rxSeq + 1) % two32)
  let s := if next then modStream s f.src f.tclass fun t => { t with rxSeq := f.streamSeq } else s
  let s := match f.busy with
    | some h => if next then (match sessByHandle s h with
        | some x => if buddyOf s x = f.src then modSess s x.idx fun y => { y with rackBusy := true } else s
        | none => s) else s
    | none => s
  putBare s f.src 0

def execFabFrameReceive (f : FabFrame) (authOk : Bool) (s : State) : Out :=
  .next (
    if running s = false ∨ fabPortUp s f.port = false ∨ f.fkind = 0 ∨ 3 < f.fkind ∨ 6 < f.tclass then s
    else if authOk = false ∨ frameKeyed s f = false then frameBad s f.tenant
    else
      let old := (peerOf s f.src).rxGen
      let s := { s with fab.ports := lmod s.fab.ports f.port fun x => { x with rx := ctrAdd x.rx (56 + f.payloadLen) } }
      let s := modPeer s f.src fun p =>
        { p with lastRx := s.dev.localCtr, rxCtr := f.ctr, rxGen := f.ctr / 281474976710656 }
      let s := rekey s f.src f.tenant 1 f.ctr old
      let s := takeAck s f.src f.tclass f.ackSeq
      if f.fkind = 1 then takeData s f else s)

/-! ### Timers of the fabric (R321, R322) -/

def execFabResendTimeout (peer tclass : Nat) (s : State) : Out :=
  .next (
    if running s = false ∨ (streamOf s peer tclass).unacked = [] ∨ reachable s peer = false then s
    else resendStream (advanceTo s ((streamOf s peer tclass).oldestAt + 20 * Config.usCycles)) peer tclass)

def execFabKeepalive (peer : Nat) (s : State) : Out :=
  .next (
    if running s = false ∨ watched s peer = false ∨ reachable s peer = false then s
    else putBare (advanceTo s ((peerOf s peer).lastTx + 100 * Config.usCycles)) peer 0)

/-! ### Handshakes (R375) -/

/-- What waits for the handshake goes out. -/
def flushStreams (s : State) (peer : Nat) : State :=
  (peerOf s peer).streams.foldl (fun s c => putAll s peer c.1 (inFlight Config.fabWindow c.2.unacked)) s

/-- The pair's salt set from both random values, the lower peer id's first; the counters restart at 0. -/
def setSalt (s : State) (peer : Nat) (r : List Byte) : State :=
  let mine := leBytes 32 ((peerOf s peer).myR.getD 0)
  let salt := sha256 (if s.fab.self < peer then mine ++ r else r ++ mine)
  modPeer s peer fun p =>
    { p with salt := some salt, txCtr := 0, rxCtr := 0, txGen := 0, rxGen := 0, lost := false, revoked := [],
             lastRx := s.dev.localCtr }

def execFabHandshake (peer : Nat) (r : List Byte) (macOk : Bool) (s : State) : Out :=
  .next (
    if running s = false ∨ hasPath s peer = false ∨ peer = s.fab.self then s
    else if macOk = false then { s with fab.cnt.authFail := ctrAdd s.fab.cnt.authFail 1 }
    else
      -- the device answers with a value of its own unless one is already out
      let p := peerOf s peer
      let s := if p.myR.isNone ∨ p.salt.isSome then sayHello s peer else s
      flushStreams (setSalt s peer r) peer)

/-! ### Ports (R319, R327) -/

/-- The streams a port carried move to another, and their unacknowledged frames are sent again there (R327). -/
def moveStreams (s : State) (port : Nat) : State :=
  s.fab.peers.foldl (fun s p => p.2.streams.foldl (fun s c =>
    if c.2.port = some port then
      let s := modStream s p.1 c.1 fun t => { t with port := none }
      if hasPath s p.1 then resendStream s p.1 c.1 else s
    else s) s) s

def execFabPortDown (port : Nat) (s : State) : Out :=
  .next (
    if running s = false ∨ 8 ≤ port then s
    else
      let s := { s with
        fab.ports := lmod s.fab.ports port fun x => { x with state := 0 }
        mash.gates := lmod s.mash.gates port fun g => { g with waiting := [] } }
      losePathless (moveStreams s port))

/-- A port is up with all 8 lanes, or it is down (R319). -/
def execFabPortUp (port lanes : Nat) (s : State) : Out :=
  .next (
    if running s = false ∨ 8 ≤ port ∨ lanes ≠ 8 then s
    else { s with fab.ports := lmod s.fab.ports port fun x => { x with state := 2 } })

/-! ### REVOKE notices (R389) -/

def execRevokeNotice (src tenant : Nat) (s : State) : Out :=
  .next (
    if running s = false then s
    else modPeer s src fun p =>
      { p with revoked := if p.revoked.contains tenant then p.revoked else p.revoked ++ [tenant] })

end Sys2Proof.Machine
end

