-- ==== Sys2Proof/Machine/Fetch.lean ====
section
/-! DEFINITION. OBJECT_FETCH_DONE: a fetched object checked against its digest and handed to its command (R37), and
FIRMWARE_STAGE (R383). -/
namespace Sys2Proof.Machine

/-! ### FIRMWARE_STAGE (R382, R383) -/

def execFirmwareStage (h : Hdr) (image : ObjRef) (s : State) : Out :=
  .next (asyncCmd s h { code := 0x0908, isAsync := true, tenantRule := 0, sessRule := 0 } 88
    (fun s => gatewayBad s image 24) (fun _ => []) (fun _ => .fwStage image) (fun s => fetchObj s h.seq 0 0 image))

/-- The write of a verified image to the inactive slot, under MAINT in slice 0; it waits for the mount and its budget. -/
def imageWrite (s : State) (seq : Nat) : State :=
  match jobOf s seq with
  | some j =>
    match j.kind with
    | .fwWrite _ _ _ n =>
      if mounted s = false ∨ mayWrite s 0 12 0 n none = false then setStage (noteWriteHold s 0 12 0 n none) seq 2
      else match flashWrite s 0 12 0 n false (.config seq) (.config (1 - s.sec.activeSlot)) with
        | some (_, s) => setStage s seq 3
        | none => complete s seq (ans stFlashFull)
    | _ => s
  | none => s

/-- A fetched image verified against the firmware key and the anti-rollback count. -/
def stageImage (s : State) (seq : Nat) (bs : List Byte) : State :=
  if Config.imageVerifies bs = false then complete s seq (ansD stBadParam 0xFFFE)
  else
    let i := Config.imageHeader bs
    if i.1 < s.sec.arb then complete s seq (ans stDenied)
    else imageWrite (modJob s seq fun j => { j with kind := .fwWrite i.1 i.2.1 i.2.2 (roundUp bs.length 4096) }) seq

/-- Staged images that waited are written (R127, R310). -/
def imageRest (s : State) : State :=
  (s.gl.jobs.filter fun j => match j.kind with
    | .fwWrite _ _ _ _ => j.stage == 2
    | _ => false).foldl (fun s j => imageWrite s j.seq) s

/-! ### OBJECT_FETCH_DONE (R37) -/

/-- The slice a fetch is charged to (R468). -/
def fetchSlice (s : State) (j : Job) : Nat :=
  match j.kind with
  | .register _ _ sl _ => sl
  | .segment m _ _ _ _ => ((modelOf s m).map (·.slice)).getD 0
  | .corpusCfg _ _ _ r => (cfgOf r).slice
  | _ => 0

/-- The object in the hands of its command. -/
def useObject (s : State) (j : Job) (bs : List Byte) : State :=
  match j.kind with
  | .register model kind _ _ =>
    (match parseModel kind bs with
      | none => endRegister s j.seq model (ansD stBadParam 0xFFFE)
      | some hd => registerWrite { s with models.registering := tput s.models.registering j.seq (hd, weightsOf hd bs) } j.seq)
  | .segment model phase tiles batch o => loadSegment s j.seq j.tenant model phase tiles batch o bs
  | .vocab v o => loadVocab s j.seq v o bs
  | .grammar g v o => loadGrammar s j.seq j.tenant g v o bs
  | .mash at_ o => loadMash s j.seq at_ o bs
  | .fwStage _ => stageImage s j.seq bs
  | .corpusCfg _ _ _ _ => finishConfig s j.seq bs
  | _ => s

def execObjectFetchDone (seq : Nat) (result : Option (List Byte)) (s : State) : Out :=
  .next (
    if serving s = false then s
    else match jobOf s seq with
    | none => s
    | some j =>
      match fetchRef s j with
      | none => s
      | some o =>
        match j.kind with
        | .restore _ => restoreFetched s result
        | _ =>
          match result with
          | none => failFetch s j (ans stRetry)
          | some bs =>
            let s := chargeRx s (fetchSlice s j) 12 bs.length
            if digestOk o bs then useObject s j bs else failFetch s j (ansD stBadParam 0xFFFF))

end Sys2Proof.Machine
end

