-- ==== Sys2Proof/Machine/Flags.lean ====
section
/-! DEFINITION. The status, flag, counter and configuration words of the register map as they are read (R441 to R455, and
the field tables of R144, R178, R234, R266, R267, R287, R288, R317, R318, R350, R351, R367, R368, R397, R398, R424,
R425). -/
namespace Sys2Proof.Machine

/-! ### Words -/

/-- A word from its fields: lowest bit, width, value. -/
def packWord (fs : List (Nat × Nat × Nat)) : Nat := sumBy (fun f => f.2.2 % 2 ^ f.2.1 * 2 ^ f.1) fs

def b2n (b : Bool) : Nat := if b then 1 else 0

/-- The word at byte offset `off` of a 64-bit register that starts at a multiple of 8: bits [31:0] lower (R443). -/
def half (v off : Nat) : Nat := if off % 8 = 0 then v % two32 else v / two32 % two32

/-- A block of R442: 32-bit registers from offset 0, 64-bit levels and counters from 0x100. -/
def placed (l32 l64 : List Nat) (off : Nat) : Nat :=
  if off < 0x100 then lget l32 (off / 4) 0 else half (lget l64 ((off - 0x100) / 8) 0) off

/-! ### Blocks (R441) -/

/-- The last byte of each block, by its base. -/
def blocks : List (Nat × Nat) :=
  [(0x00000000, 0x0000FFFF), (0x00010000, 0x00013FFF), (0x00020000, 0x0002FFFF), (0x00100000, 0x002FFFFF),
   (0x00300000, 0x00310FFF), (0x00400000, 0x0040FFFF), (0x00410000, 0x0041FFFF), (0x00420000, 0x0042FFFF),
   (0x00430000, 0x0043FFFF), (0x00440000, 0x0044FFFF), (0x00450000, 0x0045FFFF), (0x00460000, 0x0046FFFF),
   (0x00470000, 0x0047FFFF), (0xF0000000, 0xFFFFFFFF)]

/-- The last byte of the block that holds an address; none for an unmapped address. -/
def blockEnd (a : Nat) : Option Nat := (blocks.find? fun b => decide (b.1 ≤ a) && decide (a ≤ b.2)).map (·.2)

/-- The DEBUG block, closed in production parts (R384). -/
def inDebug (a : Nat) : Bool := decide (0xF0000000 ≤ a)

/-! ### DEV (R424, R425, R446 to R448) -/

/-- Whether the fuses have been read: start-up step 4 (R447). -/
def fusesRead (s : State) : Bool := decide (4 ≤ s.dev.startStep)

def devIdWord (s : State) : Nat :=
  packWord [(0, 16, 0x6400), (16, 4, if fusesRead s then Config.stepMinor else 0),
            (20, 4, if fusesRead s then Config.stepMajor else 0)]

/-- `version` of the running image, 0 until step 5 has verified one. -/
def devFwWord (s : State) : Nat := if s.sec.bootState = 1 ∨ s.sec.bootState = 2 then s.sec.fwVersion % two32 else 0

def devCapWord (d : Dev) : Nat := packWord [(0, 7, d.tilesOk), (7, 5, d.stackCnt), (12, 4, d.spareLeft), (16, 4, d.dieOk)]

def devStatusWord (d : Dev) : Nat := packWord [(0, 4, d.devState), (4, 3, d.resetCause), (7, 1, b2n d.clean)]

def pwrStatusWord (d : Dev) : Nat :=
  packWord [(0, 1, b2n d.onBackup), (1, 1, b2n d.vinMain.qualified), (2, 1, b2n d.vinBackup.qualified),
            (3, 1, b2n d.supplyNmi), (16, 16, d.pinW)]

/-- `shutdown`, `warm` and `cold` read as zero. -/
def pwrCtlWord (d : Dev) : Nat := packWord [(16, 12, d.pwrLimit)]

def clkDivWord (c : Clocks) : Nat :=
  packWord [(0, 4, c.arithDiv), (4, 4, c.ctrlDiv), (8, 4, c.fabricDiv), (16, 4, c.arithNow), (20, 4, c.ctrlNow), (24, 4, c.fabricNow)]

def clkMonWord (c : Clocks) : Nat := packWord [(0, 7, c.monTol), (8, 4, c.monDebounce)]

def clkStatusWord (c : Clocks) : Nat :=
  packWord [(0, 1, c.rootSrc), (1, 1, b2n c.monActive), (2, 1, b2n c.monclkAbsent), (3, 1, b2n c.clockNmi), (16, 16, c.lastCount)]

def throttleWord (t : Throttle) : Nat :=
  packWord [(0, 4, t.level), (4, 1, b2n (decide (0 < t.hThermal))), (5, 1, b2n (decide (0 < t.hPower))), (8, 8, t.tjMax),
            (16, 5, t.tjSensor)]

def tempWord (t : Int) : Nat := twos 12 t

def devWord (s : State) (off : Nat) : Nat :=
  let d := s.dev
  if 0x100 ≤ off then (if off < 0x160 then tempWord (lget d.thr.temps ((off - 0x100) / 4) 0) else 0)
  else if 0x40 ≤ off then
    (if off < 0x70 then
      half (lget [d.localCtr % two64, d.throttleHolds, d.supplySwitchCnt, d.clockMonFail, d.calClampCnt, d.pwrShutSkip]
        ((off - 0x40) / 8) 0) off
     else 0)
  else
    lget [devIdWord s, devFwWord s, half (if fusesRead s then Config.serial else 0) 0, half (if fusesRead s then Config.serial else 0) 4,
      devCapWord d, devStatusWord d, pwrStatusWord d, pwrCtlWord d, d.vinMain.volt % 65536, d.vinBackup.volt % 65536,
      half (d.energy / 10) 0, half (d.energy / 10) 4, clkDivWord d.clk, clkMonWord d.clk, clkStatusWord d.clk, throttleWord d.thr]
      (off / 4) 0

/-! ### CAL (R420, R441) -/

/-- The items of R420. -/
def calListed (i : Nat) : Bool :=
  i == 1 || (decide (0x10 ≤ i) && decide (i ≤ 0x12)) || (decide (0x100 ≤ i) && decide (i ≤ 0x117)) ||
  (decide (0x200 ≤ i) && decide (i ≤ 0x23F)) || (decide (0x300 ≤ i) && decide (i ≤ 0x317)) || i == 0x400 || i == 0x401

/-- `CAL_FUSE` at 0, `CAL_USER` at 0x2000. -/
def calWord (s : State) (off : Nat) : Nat :=
  let i := off % 0x2000 / 4
  if calListed i = false then 0
  else if off < 0x2000 then (if fusesRead s then twos 32 (Config.calFuse i) else 0)
  else twos 32 ((tget s.dev.calUser i).getD 0)

/-! ### EV (R449, R450) -/

/-- `event_seq` of the oldest record of the log; the next one where the log is empty. -/
def logOldest (s : State) : Nat := match s.gl.log with
  | [] => s.gl.nextSeq
  | e :: _ => e.seq

def glStatusWord (s : State) (p : Nat) : Nat :=
  packWord [(0, 2, (glPort s p).state), (2, 1, b2n ((s.gl.backlog ++ s.gl.stalled).any fun c => c.1 == p))]

def evWord (s : State) (off : Nat) : Nat :=
  match off / 4 with
  | 0 => s.gl.evMask
  | 2 => logOldest s % two32
  | 3 => s.gl.nextSeq % two32
  | 4 => s.gl.eventPort
  | 5 => glStatusWord s 0
  | 6 => glStatusWord s 1
  | 8 => half s.gl.g0.authFail 0
  | 9 => half s.gl.g0.authFail 4
  | 10 => half s.gl.g1.authFail 0
  | 11 => half s.gl.g1.authFail 4
  | 12 => s.sb.alert
  | 13 => s.sb.alertEn
  | 16 => half s.sb.refused 0
  | 17 => half s.sb.refused 4
  | _ => 0

/-! ### MASH (R142, R143, R451 to R453) -/

def mashStatusWord (m : Mash) : Nat :=
  packWord [(0, 1, b2n m.pendingTab.isSome), (1, 1, b2n m.table.builtin), (16, 11, m.table.restCount)]

/-- A load diagnostic: offset and check (R452). -/
def diagValue (d : Nat × Nat) : Nat := packWord [(0, 40, d.1), (40, 8, d.2)]

def gateStatusWord (g : Gate) : Nat :=
  packWord [(0, 8, g.entry), (8, 1, b2n g.active.isSome), (9, 1, b2n g.pending.isSome)]

/-- The accounting record of a share class (R142). -/
def acctBytes (c : ShareClass) : List Byte :=
  leBytes 8 c.tileCycles ++ leBytes 8 c.hbmBytes ++ leBytes 8 c.flashBytes ++ leBytes 8 c.fabricBytes ++ leBytes 8 c.itemsDone ++
  leBytes 4 c.copyLate ++ leBytes 4 c.rtMiss ++ leBytes 4 c.slowdown ++ leBytes 4 c.rtBoundMax ++ leBytes 8 c.waitCycles

/-- The word at `off` of a byte string. -/
def wordAt (bs : List Byte) (off : Nat) : Nat := leNat ((bs.drop (off / 4 * 4)).take 4)

/-- Whether an entry number of a balance window is a position of the wear allowance: MOVE or RACK, currency 4 (R453). -/
def wearPosition (k : Nat) : Bool := k % 5 == 4 && (k / 5 % 12 == 5 || k / 5 % 12 == 6)

/-- A balance as the window shows it (R125, R315, R453). -/
def balValue (s : State) (k : Nat) : Nat :=
  if k % 5 = 4 then (if wearPosition k then twos 64 s.oast.allowance else 0)
  else twos 64 (tdef s.mash.balances k default).bal

/-- The holds of a balance (R129, R453). -/
def holdValue (s : State) (k : Nat) : Nat :=
  if k % 5 = 4 then (if wearPosition k then (tdef s.mash.wearHold k default).holdCnt else 0)
  else (tdef s.mash.balances k default).holdCnt

def mashWord (s : State) (off : Nat) : Nat :=
  let m := s.mash
  if off < 0x40 then
    lget [packWord [(0, 10, m.rest)], mashStatusWord m, half m.cycleCnt 0, half m.cycleCnt 4, m.slowThr, 0,
      half (diagValue m.loadDiag) 0, half (diagValue m.loadDiag) 4, half (diagValue m.segDiag) 0, half (diagValue m.segDiag) 4,
      half m.govMoves 0, half m.govMoves 4] (off / 4) 0
  else if off < 0x60 then gateStatusWord (lget m.gates ((off - 0x40) / 4) default)
  else if off < 0x80 then 0
  else if off < 0xC0 then half (lget m.gates ((off - 0x80) / 8) default).holdCnt off
  else if off < 0x1000 then 0
  else if off < 0x1000 + 7680 then half (balValue s ((off - 0x1000) / 8)) off
  else if off < 0x3000 then 0
  else if off < 0x3000 + 7680 then half (holdValue s ((off - 0x3000) / 8)) off
  else if off < 0x40000 then 0
  else if off < 0x80000 then wordAt (acctBytes (classOf s ((off - 0x40000) / 64))) (off % 64)
  else if off < 0x100000 then half (tdef m.jobsDone ((off - 0x80000) / 8) 0) off
  else if off < 0x200000 then half (tdef m.shaperHolds ((off - 0x100000) / 8) 0) off
  else 0

/-! ### MILL (R454) -/

def millWord (s : State) (off : Nat) : Nat :=
  if off < 0x4000 then
    let d := lget s.mill.dies (off / 0x1000) default
    half (lget [d.copyLate, d.copyStall, d.descFault, d.idleRests, d.switchCnt, d.switchCyc] (off % 0x1000 / 8) 0) off
  else if off < 0x10000 then 0
  else
    let t := lget s.mill.tiles ((off - 0x10000) / 64) default
    half (lget [t.eccCe, t.iovf, t.sat, t.nan] (off % 64 / 8) 0) off

/-! ### The blocks placed by rule (R455) -/

def cellarWord (s : State) (off : Nat) : Nat :=
  let c := s.cellar
  let n := c.cnt
  placed
    [packWord [(0, 1, b2n c.prefixEn), (1, 1, b2n c.pressureEn), (16, 8, c.reserveWait)], c.indexBase, c.indexLimit,
     packWord [(0, 10, c.wmLow), (16, 10, c.wmHigh)], packWord [(0, 16, c.absentHold), (16, 16, c.expiredHold)]]
    ([poolFree s 0, poolFree s 1, poolFree s 2, poolFree s 3, c.sec, n.parks, n.parkCancel, n.pressure, n.fallback] ++
     (List.range 4).map (fun i => lget n.revive i 0) ++ [n.noMem, n.link, n.full, n.expired]) off

def copperWord (s : State) (off : Nat) : Nat :=
  let c := s.copper
  placed [] [c.tokBytes, c.tokensIn, c.replaced, c.rejected, c.tokensOut, c.stopHits, c.withheld, c.masksStaged, c.gramDead,
    c.gramFault] off

def lauterWord (s : State) (off : Nat) : Nat :=
  let l := s.lauter
  let n := l.cnt
  placed
    [packWord [(0, 20, l.deadlineDef), (20, 1, b2n l.repairEn), (21, 1, b2n l.logEn)], packWord [(0, 11, l.linkBeam), (16, 8, l.alpha)]]
    [n.queries, n.partials, n.shorts, n.widen, n.replica, n.lateReply, n.abandoned, n.snapOld, n.waves, n.inserts, n.delMiss,
     n.removed] off

def rowsWord (s : State) (off : Nat) : Nat :=
  let r := s.rows
  placed [packWord [(0, 15, r.hotKib), (16, 4, r.rowsSlice)], r.beta1.toNat, r.beta2.toNat, r.eps.toNat]
    [r.lookups, r.hotHits, r.hbmReads, r.updates, r.superseded, r.replaced, r.refreshRows, r.interlockWait] off

/-- `OAST_ALLOW_RATE` and `OAST_ALLOW_BANK` are A and K (R315). -/
def oastWord (s : State) (off : Nat) : Nat :=
  let o := s.oast
  let n := o.cnt
  placed
    [packWord [(0, 8, o.gcStart), (8, 8, o.gcUrgent), (16, 12, o.wlGap), (28, 1, b2n o.readSuspend)],
     packWord [(0, 16, o.ratedCycles), (16, 8, o.targetYears)], packWord [(0, 16, o.waInit), (16, 16, o.bankS)], 0,
     packWord [(0, 2, o.mountState), (2, 1, b2n o.lastClean)]]
    [lifeUsed s, o.allowRate, twos 64 o.allowBank, o.waEst, fillLevel s, o.pslcBytes, freeMapped s, spareMin s, o.powerSec,
     o.seq, n.hostWrite, n.eraseBytes, n.readBytes, n.gcReloc, n.retired, n.progFail, n.eraseFail, n.readRetry, n.uncorrectable,
     n.writeStall, n.lunUnused] off

/-- A port serves a route when some route's mask names it. -/
def portRouted (f : Fab) (p : Nat) : Bool := f.routes.any fun r => bit r.2 p

def fabPortWord (f : Fab) (p : Nat) : Nat :=
  packWord [(0, 2, (lget f.ports p default).state), (2, 1, b2n (portRouted f p))]

def fabWord (s : State) (off : Nat) : Nat :=
  let f := s.fab
  let n := f.cnt
  placed
    ([f.self, packWord [(0, 12, f.peerTimeoutUs), (16, 8, f.rackHbmMax)]] ++ (List.range 8).map (fabPortWord f))
    ((List.range 8).map (fun p => (lget f.ports p default).tx) ++ (List.range 8).map (fun p => (lget f.ports p default).rx) ++
     [n.retx, n.authFail, n.epochStale, n.rackRecords, n.rackBusy, n.rackRedo, n.migrations, n.abortMarks, n.adopted, n.adoptSkip,
      n.adoptSeq, n.recovered, n.eccUe, n.hbmCe, n.hbmUe]) off

def ckptWord (s : State) (off : Nat) : Nat :=
  let c := s.ckpt
  if off = 0x80 then c.lastDone % two32
  else placed [packWord [(0, 8, c.chainMax), (8, 1, b2n c.forceFull), (16, 8, c.stageGib)]]
    [c.done, c.failed, c.bytes, c.putRetry, c.cowCopies, c.cowWait, c.restores] off

def secWord (s : State) (off : Nat) : Nat :=
  let c := s.sec
  let f (n : Nat) : Nat := if fusesRead s then n else 0
  placed
    [packWord [(0, 2, f c.lifecycle), (2, 3, f c.ownerSlots.length), (5, 2, f c.fwKeySlot), (7, 2, c.bootState), (9, 1, b2n c.debugFused)],
     packWord [(0, 7, f c.arb), (16, 9, f c.sigWindow)]]
    [c.sigNext, clearPending s, countBy (fun t => !t.2.removing) c.tenants, c.glitchCnt, c.hsOk, c.hsFail, c.keysInstalled,
     c.cryptoErase, c.reports, c.revokeSent] off

/-! ### The whole map -/

/-- The word at an address that is a multiple of 4; 0 where no register lies (R443). -/
def regWord (s : State) (a : Nat) : Nat :=
  if a < 0x10000 then devWord s a
  else if a < 0x14000 then calWord s (a - 0x10000)
  else if a < 0x20000 then 0
  else if a < 0x30000 then evWord s (a - 0x20000)
  else if a < 0x100000 then 0
  else if a < 0x300000 then mashWord s (a - 0x100000)
  else if a < 0x311000 then millWord s (a - 0x300000)
  else if a < 0x400000 then 0
  else if a < 0x410000 then cellarWord s (a - 0x400000)
  else if a < 0x420000 then copperWord s (a - 0x410000)
  else if a < 0x430000 then lauterWord s (a - 0x420000)
  else if a < 0x440000 then rowsWord s (a - 0x430000)
  else if a < 0x450000 then oastWord s (a - 0x440000)
  else if a < 0x460000 then fabWord s (a - 0x450000)
  else if a < 0x470000 then ckptWord s (a - 0x460000)
  else if a < 0x480000 then secWord s (a - 0x470000)
  else 0

end Sys2Proof.Machine
end

