-- ==== Sys2Proof/Machine/Grenlink.lean ====
section
/-! DEFINITION. Grenlink: handshakes, arriving frames, link timers, port failover, and the commands on results and events
(R27 to R34, R41, R42, R49, R59, R60, R371 to R374). -/
namespace Sys2Proof.Machine

/-! ### Key derivation (R370) -/

def asciiBytes (t : String) : List Byte := t.toList.map fun c => BitVec.ofNat 8 c.toNat

/-- KDF(k, label, context): SP 800-108 in counter mode with HMAC-SHA-256, `blocks` outputs of 32 bytes. -/
def kdf (k : List Byte) (label : String) (context : List Byte) (blocks : Nat) : List Byte :=
  (List.range blocks).flatMap fun i =>
    hmac k (beBytes 4 (i + 1) ++ asciiBytes label ++ [0] ++ context ++ beBytes 4 (256 * blocks))

def serialBytes : List Byte := leBytes 8 Config.serial

/-- The current owner key: the last slot programmed (R371, R373). -/
def ownerKey (s : State) : Option (List Byte) := s.sec.ownerSlots.getLast?

/-! ### Handshakes (R372, R373) -/

/-- A handshake message: its number, seven zero bytes, its body. -/
def hsMsg (n : Nat) (body : List Byte) : List Byte := BitVec.ofNat 8 n :: (List.replicate 7 0 ++ body)

/-- HS_KEY: the device's nonce, serial, lifecycle, owner slots programmed, and this boot's encapsulation key. -/
def hsKey (s : State) (nonceD : Nat) : List Byte :=
  hsMsg 2 (leBytes 32 nonceD ++ serialBytes ++ leBytes 1 s.sec.lifecycle ++ leBytes 1 s.sec.ownerSlots.length ++
    List.replicate 6 0 ++ Config.kemEk s.sec.kemPair)

/-- HS_HELLO draws HS_KEY; a handshake already in progress on the port is replaced. -/
def execHsHello (port hsFlags : Nat) (nonceC : List Byte) (s : State) : Out :=
  .next (
    if serving s = false ∨ 2 ≤ port then s
    else
      let n := Config.random s.free
      let m1 := hsMsg 1 (leBytes 1 hsFlags ++ List.replicate 7 0 ++ nonceC)
      let m2 := hsKey s n
      modPort (tick s) port fun g =>
        { g with
          hs := some { nonceD := n, transcript := m1 ++ m2, startedAt := s.dev.localCtr, enrol := bit hsFlags 0 }
          hsOut := m2, state := if g.keyed then 2 else 1 })

/-- HS_FAIL with a reason (R372). -/
def hsFailed (s : State) (port reason : Nat) : State :=
  let s := { s with sec.hsFail := ctrAdd s.sec.hsFail 1 }
  modPort s port fun g =>
    { g with hs := none, hsOut := hsMsg 5 (leBytes 1 reason ++ List.replicate 7 0), state := if g.keyed then 2 else 0 }

/-- The contents a port still owes the control node, in order: frames not acknowledged, then contents not yet sent. -/
def portOwes (g : GlPort) : List (Bool × Content) :=
  ((g.unacked.filter fun f => f.content != .link).map fun f => (true, f.content)) ++ g.unsent

/-- Replies and streams still to come move with the traffic of their port. -/
def moveReplies (s : State) (p : Nat) : State :=
  { s with
    gl.cmds := s.gl.cmds.map fun c => if c.port = p then { c with port := 1 - p } else c
    gl.jobs := s.gl.jobs.map fun j => if j.port = p then { j with port := 1 - p } else j
    cellar.sess := s.cellar.sess.map fun x => (x.1, { x.2 with
      run := x.2.run.map fun r => if r.port = p then { r with port := 1 - p } else r }) }

/-- All that is still to come on a port moves to the other, events too where it was the event port (R33). -/
def movePort (s : State) (p : Nat) : State :=
  { moveReplies s p with gl.eventPort := if s.gl.eventPort = p then 1 - p else s.gl.eventPort }

/-- A handshake completes: the port has new keys, counters at 0 and its first credits; what it owed goes out again, then the
backlog with `resent` set, then completions that had waited for room; traffic of a port that is down moves here (R31, R33,
R34, R373). -/
def hsDone (s : State) (port : Nat) (out tag : List Byte) : State :=
  let owes := portOwes (glPort s port)
  let back := if portUp s (1 - port) then [] else s.gl.backlog.map fun c => (true, c.2)
  let late := if portUp s (1 - port) then [] else s.gl.stalled.map fun c => (false, c.2)
  let all := owes ++ back ++ late
  let s := if portUp s (1 - port) then s else moveReplies { s with gl.backlog := [], gl.stalled := [] } (1 - port)
  let s := modPort s port fun g =>
    { (default : GlPort) with
      state := 2, keyed := true, authFail := g.authFail, credits := Config.glCredits, lastRx := s.dev.localCtr,
      lastTx := s.dev.localCtr, keyTag := tag, hsOut := out, unsent := all }
  drainPort all.length { s with sec.hsOk := ctrAdd s.sec.hsOk 1 } port

/-- The end of a handshake whose MAC has been checked: the owner key `o` proves itself and the traffic keys follow. -/
def hsFinish (s : State) (port : Nat) (o ss t : List Byte) : State :=
  let t3 := sha256 t
  let out := hsMsg 4 (hmac (kdf o "gl-device" (ss ++ t3) 1) t3)
  let ctx := sha256 (t ++ out) ++ leBytes 1 port
  hsDone s port out (kdf ss "gl-c2d" ctx 1 ++ kdf ss "gl-d2c" ctx 1)

/-- HS_CT: decapsulation, the MAC, and with enrol the new owner key fused into the next slot (R373). -/
def execHsCt (port : Nat) (ct macC : List Byte) (newOwner : Option (List Byte)) (s : State) : Out :=
  .next (
    match (glPort s port).hs with
    | none => s
    | some p =>
      if serving s = false ∨ 2 ≤ port ∨ p.startedAt + 1000 * Config.usCycles < s.dev.localCtr then s
      else
        let t2 := sha256 p.transcript
        let t := p.transcript ++ hsMsg 3 (ct ++ macC ++ newOwner.getD [])
        match Config.kemDecap s.sec.kemPair ct with
        | none => hsFailed s port 4
        | some ss =>
          let owner := ownerKey s
          let macOk := match owner with
            | none => p.enrol && macC.all (· == 0)
            | some o => macC == hmac (kdf o "gl-client" (ss ++ t2) 1) t2
          if s.sec.lifecycle = 2 then hsFailed s port 1
          else if macOk = false then hsFailed s port (if owner.isNone then 3 else 1)
          else if p.enrol = false then hsFinish s port (owner.getD []) ss t
          else if 4 ≤ s.sec.ownerSlots.length then hsFailed s port 2
          else match newOwner.bind (Config.kwUnwrap (kdf ss "gl-enrol" t2 1)) with
            | none => hsFailed s port 1
            | some k =>
              hsFinish { s with sec.ownerSlots := s.sec.ownerSlots ++ [k], sec.lifecycle := 1 } port k ss t)

def execHandshakeTimeout (port : Nat) (s : State) : Out :=
  .next (
    match (glPort s port).hs with
    | none => s
    | some p =>
      if serving s = false ∨ 2 ≤ port then s
      else modPort (advanceTo s (p.startedAt + 1000 * Config.usCycles)) port fun g =>
        { g with hs := none, state := if g.keyed then 2 else 0 })

/-! ### Arriving frames (R27 to R31) -/

/-- The opcodes of R46, each with what its row asks of `tenant_id` and of `session` (see `Cmd`) and its kind. -/
def opRows : List Cmd :=
  let row (a : Bool) (t k : Nat) (cs : List Nat) : List Cmd :=
    cs.map fun c => { code := c, isAsync := a, tenantRule := t, sessRule := k }
  row true 1 1 [0x0102, 0x0103, 0x0104, 0x0105, 0x0106, 0x0109] ++ row false 1 1 [0x0107, 0x0108] ++
  row true 1 3 [0x010A] ++ row false 1 1 [0x010B] ++ row true 1 2 [0x0301] ++
  row false 1 0 [0x0101, 0x0204, 0x0302, 0x0303, 0x0304, 0x0305, 0x0401, 0x0402, 0x0403, 0x0404, 0x0405, 0x0407, 0x0804] ++
  row true 1 0 [0x0201, 0x0202, 0x0203, 0x0205, 0x0207, 0x0306, 0x0406] ++
  row false 0 0 [0x0502, 0x0503, 0x0504, 0x0505, 0x0601, 0x0602, 0x0603, 0x0702, 0x0802, 0x0901, 0x0902, 0x0903, 0x0904,
    0x0907, 0x0909] ++
  row true 0 0 [0x0206, 0x0501, 0x0604, 0x0701, 0x0703, 0x0801, 0x0803, 0x0908] ++
  row false 2 0 [0x0000, 0x0905, 0x0906]

def opRow (code : Nat) : Option Cmd := opRows.find? fun c => c.code == code

/-- The frame counter a port accepts next: the one above the last accepted, 0 after a handshake (R29, R373). -/
def nextRx (g : GlPort) : Nat := if g.rxAny then g.rxCtr + 1 else 0

/-- Frames up to `ack` leave the unacknowledged list (R29). -/
def dropAcked (l : List Frame) (ack : Nat) : List Frame :=
  match l.findIdx? fun f => f.ctr % two32 == ack with
  | some i => l.drop (i + 1)
  | none => l

/-- The header of a command packet, as far as its payload reaches; `badAt` is the first reserved byte of 18 to 23 that is
not zero. -/
def packetHdr (port : Nat) (bs : List Byte) : Hdr :=
  { port := port, tenant := fld bs 2 2, seq := fld bs 4 4, session := fld bs 8 4, length := fld bs 12 4, flags := fld bs 16 2,
    badAt := [18, 19, 20, 21, 22, 23].find? fun o => fld bs o 1 != 0 }

/-- A COMMAND frame's packet: it takes its credits and waits in the receive buffer for its own command. Without enough
credit it is answered RETRY in R55's place, after what its header alone shows to be wrong; a packet that no command has is
answered here (R31, R35, R54, R55). -/
def takePacket (s : State) (port : Nat) (bs : List Byte) : State :=
  let h := packetHdr port bs
  let code := fld bs 0 2
  let n := ceilDiv bs.length 256
  let short := decide ((glPort s port).credits < n)
  let paid (s : State) : State := modPort s port fun g =>
    if short then g else { g with credits := g.credits - n, creditOwed := g.creditOwed + n }
  match opRow code with
  | none => refuse (paid s) h code 0x0010 0
  | some c =>
    if bs.length < 24 ∨ h.length ≠ bs.length then refuse (paid s) h code stBadParam (min 12 ((headerFault h c bs.length).getD 12))
    else if short then
      match earlyFault s h c bs.length with
      | some (st, d) => refuse s h code st d
      | none => refuse s h code stRetry 0
    else modPort s port fun g => { g with credits := g.credits - n, rxBuf := g.rxBuf ++ [(h.seq, n)] }

/-- A frame arrives: discarded where its tag fails (R28). Any frame whose tag verifies is a valid one for R30; only the next
in order is accepted (R29). The device takes COMMAND and LINK frames: an authentic frame of another type is discarded and
not accepted, so its sequence does not advance (DESIGN CHOICE, log 102). -/
def execGlFrameReceive (port : Nat) (f : GlFrame) (tagOk : Bool) (s : State) : Out :=
  .next (
    if portUp s port = false then s
    else if tagOk = false then modPort s port fun g => { g with authFail := ctrAdd g.authFail 1 }
    else
      let s := modPort s port fun g => { g with lastRx := s.dev.localCtr }
      let g := glPort s port
      if (f.ftype ≠ 1 ∧ f.ftype ≠ 5) ∨ f.seq ≠ nextRx g % two32 then s
      else
        let s := modPort s port fun g =>
          { g with rxCtr := nextRx g, rxAny := true, rxGen := nextRx g / 281474976710656,
                   unacked := dropAcked g.unacked f.ack }
        let s := drainPort (glPort s port).unsent.length s port
        if f.ftype = 1 then takePacket s port f.payload else s)

/-! ### Link timers (R29, R30) -/

/-- The oldest frame has waited 50 µs: it and every later one go out again with the acknowledgement of now (R29). Whether
`resent` is set on them R27 leaves open: each keeps the bit it was first sent with (DESIGN CHOICE, log 103). -/
def execGlResendTimeout (port : Nat) (s : State) : Out :=
  .next (
    if portUp s port = false then s
    else match (glPort s port).unacked with
      | [] => s
      | f :: _ =>
        let s := advanceTo s (f.sentAt + 50 * Config.usCycles)
        modPort s port fun g =>
          { g with unacked := g.unacked.map fun k => { k with sentAt := s.dev.localCtr, ack := g.rxCtr }, lastTx := s.dev.localCtr })

/-- No other frame was due for 10 µs: a LINK frame (R30). With 4,096 frames unacknowledged R29 lets no frame go out and
R30 asks for one; none is sent (DESIGN CHOICE, log 103). -/
def execGlKeepalive (port : Nat) (s : State) : Out :=
  .next (
    if portUp s port = false ∨ Config.glWindow ≤ (glPort s port).unacked.length then s
    else sendOn (advanceTo s ((glPort s port).lastTx + 10 * Config.usCycles)) port false .link)

/-! ### A port goes down (R30, R33, R34) -/

/-- The port's traffic moves to the other port, what was unacknowledged first and marked `resent`; with that port down too
it goes to the backlog. -/
def portDown (s : State) (p : Nat) : State :=
  let g := glPort s p
  let moved := (g.unacked.filter fun f => f.content != .link).map fun f => (true, f.content)
  let s := movePort (modPort s p fun g => { (default : GlPort) with authFail := g.authFail }) p
  if portUp s (1 - p) then
    let s := modPort s (1 - p) fun o => { o with unsent := moved ++ o.unsent ++ g.unsent.filter fun c => c.2 != .link }
    drainPort (glPort s (1 - p)).unsent.length s (1 - p)
  else (portOwes g).foldl (fun s c => emit s p c.1 c.2) s

def execGlPortDown (port : Nat) (s : State) : Out :=
  .next (
    if portUp s port = false then s
    else portDown (advanceTo s ((glPort s port).lastRx + 100 * Config.usCycles)) port)

/-! ### Reply hold (R42) -/

def execReplyHoldExpiry (seq : Nat) (s : State) : Out :=
  .next (
    match cmdRec s seq with
    | some c =>
      if c.phase = 1 then
        let s := advanceTo s (c.repliedAt + 250000 * Config.usCycles)
        { s with gl.cmds := s.gl.cmds.filter fun k => k.seq != seq }
      else s
    | none => s)

/-! ### NOP, RESULT_READ, RESULT_RELEASE, EVENT_READ (R41, R49, R59, R60) -/

def execNop (h : Hdr) (s : State) : Out :=
  .next (syncCmd s h { code := 0, isAsync := false, tenantRule := 2, sessRule := 0 } 24 (fun _ => [])
    (fun s => (s, ansB (leBytes 8 s.dev.localCtr))))

def resultOf (s : State) (seq : Nat) : Option Result := s.gl.results.find? fun r => r.seq == seq

/-- Whether `target` is a command of this tenant that runs or whose result is retained. -/
def targetBad (s : State) (h : Hdr) (target : Nat) : Bool :=
  match cmdRec s target with
  | some c => c.phase % 2 == 1 || c.tenant != h.tenant || (c.phase == 2 && (resultOf s target).isNone)
  | none => true

def targetRuns (s : State) (target : Nat) : Bool :=
  match cmdRec s target with
  | some c => c.phase == 0
  | none => false

def execResultRead (h : Hdr) (target offset readLen : Nat) (s : State) : Out :=
  .next (syncCmd s h { code := 0x0905, isAsync := false, tenantRule := 2, sessRule := 0 } 40
    (fun s => [(targetBad s h target, 24),
      (match resultOf s target with
        | some r => decide (r.body.length < offset)
        | none => false, 28),
      (decide (65512 < readLen + 32), 32)])
    (fun s =>
      match resultOf s target with
      | none => (s, ans stNotReady)
      | some r =>
        let n := (r.reads + 1) % two32
        let s := { s with gl.results := s.gl.results.map fun k => if k.seq = target then { k with reads := n } else k }
        (s, ansB (lay [(4, n), (4, r.body.length)] ++ (r.body.drop offset).take readLen))))

def execResultRelease (h : Hdr) (target : Nat) (s : State) : Out :=
  .next (syncCmd s h { code := 0x0906, isAsync := false, tenantRule := 2, sessRule := 0 } 32
    (fun s => [(targetBad s h target, 24)])
    (fun s =>
      if targetRuns s target then (s, ans stWrongState)
      else ({ s with
        gl.results := s.gl.results.filter fun r => r.seq != target
        gl.cmds := s.gl.cmds.filter fun c => c.seq != target }, ans stOk)))

/-- An event record as 64 bytes (R57). -/
def eventBytes (e : EventRec) : List Byte :=
  leBytes 2 e.code ++ leBytes 1 ((if e.nonMaskable then 1 else 0) + (if e.gap then 2 else 0)) ++ [0] ++ leBytes 4 e.seq ++
  leBytes 8 e.time ++ leBytes 2 e.tenant ++ [0, 0] ++ leBytes 4 e.session ++ e.payload

def oldestSeq (s : State) : Nat := (s.gl.log.head?.map (·.seq)).getD s.gl.nextSeq

/-- The records from `from` on: a start older than the log begins at its oldest record, with `gap` set where records were
overwritten (R59). -/
def eventsFrom (s : State) (start max : Nat) : List EventRec :=
  let d := (start + two32 - oldestSeq s) % two32
  if d < 2147483648 then (s.gl.log.drop d).take max
  else match s.gl.log.take max with
    | [] => []
    | e :: l => { e with gap := decide (Config.eventLogLen ≤ s.gl.log.length) } :: l

def execEventRead (h : Hdr) (fromSeq max : Nat) (s : State) : Out :=
  .next (syncCmd s h { code := 0x0907, isAsync := false, tenantRule := 0, sessRule := 0 } 32
    (fun _ => [(max == 0 || decide (1000 < max), 28)])
    (fun s =>
      let l := eventsFrom s fromSeq max
      (s, ansB (lay [(4, oldestSeq s), (4, s.gl.nextSeq), (2, l.length), (6, 0)] ++ l.flatMap eventBytes))))

end Sys2Proof.Machine
end

