-- ==== Sys2Proof/Machine/Security.lean ====
section
/-! DEFINITION. Tenants and their keys, tenant removal, attestation and firmware activation (R377 to R394, R419). -/
namespace Sys2Proof.Machine

/-! ### The key store (R378, R379) -/

def modTenant (s : State) (t : Nat) (f : Tenant → Tenant) : State := { s with sec.tenants := tmod s.sec.tenants t f }

/-- A change of the key store written; `seq` names the command that waits for its completion. -/
def storeWrite (s : State) (seq : Nat) : State :=
  { s with sec.storeSeq := s.sec.storeSeq + 1, sec.storePending := s.sec.storePending ++ [seq] }

/-- A key left the key store (R398). -/
def countErase (s : State) : State := { s with sec.cryptoErase := ctrAdd s.sec.cryptoErase 1 }

/-- Whether the Oast holds a valid page of a tenant at an epoch. -/
def epochInUse (s : State) (t e : Nat) : Bool := s.oast.exts.any fun x => x.2.tenant == t && x.2.keyEpoch == e

/-- Flash epochs below the highest with no valid page left are retired (R378). -/
def retireTenant (s : State) (t : Tenant) : State :=
  let top := t.flash.foldl (fun m k => max m k.1) 0
  let keep := t.flash.filter fun k => k.1 == top || epochInUse s t.id k.1
  if keep.length = t.flash.length then s
  else countErase { modTenant s t.id (fun u => { u with flash := keep }) with sec.storeSeq := s.sec.storeSeq + 1 }

def retireFlashEpochs (s : State) : State := s.sec.tenants.foldl (fun s t => retireTenant s t.2) s

/-! ### TENANT_CREATE (R385) -/

def execTenantCreate (h : Hdr) (tenant : Nat) (s : State) : Out :=
  .next (syncCmd s h { code := 0x0802, isAsync := false, tenantRule := 0, sessRule := 0 } 32
    (fun _ => [(tenant == 0, 24)])
    (fun s =>
      match tenantOf s tenant with
      | some t => (s, if t.removing then ans stWrongState else ans stOk)
      | none =>
        if Config.tenantMax ≤ s.sec.tenants.length then (s, ans stTableFull)
        else
          ({ s with
            sec.tenants := tput s.sec.tenants tenant { (default : Tenant) with id := tenant }
            sec.storeSeq := s.sec.storeSeq + 1
            mash.jobsDone := tput s.mash.jobsDone tenant 0 }, ans stOk)))

/-! ### KEY_INSTALL (R377, R378, R381) -/

/-- The key a blob carries: unwrapped under the key-wrap key, which derives from the owner key and the serial. -/
def blobKey (s : State) (blob : List Byte) : Option (List Byte) :=
  (ownerKey s).bind fun o => Config.kwUnwrap (kdf o "kwrap" serialBytes 1) (blob.drop 8)

def topEpoch (l : List (Nat × List Byte)) : Option Nat := (l.map (·.1)).foldl (fun (m : Option Nat) e => some (max e (m.getD 0))) none

/-- The epochs of the key's kind that a tenant holds. -/
def epochsOf (t : Tenant) (kind : Nat) : List (Nat × List Byte) := if kind = 1 then t.flash else if kind = 3 then t.link else []

def blobLenOf (kind : Nat) : Nat := if kind = 1 then 80 else 48

/-- What of the blob's fields does not fit. -/
def blobFaults (s : State) (h : Hdr) (kind : Nat) (blob : List Byte) : List (Bool × Nat) :=
  let e := fld blob 0 2
  let t := (tenantOf s h.tenant).getD default
  [((kind == 2 && e != 0) || (match topEpoch (epochsOf t kind) with
      | some m => decide (e < m)
      | none => false), 32),
   (!zeros blob 2 6, 34), ((blobKey s blob).isNone, 32)]

/-- Whether the blob's key is the one already installed at its epoch; `some false` is another key at that epoch. -/
def sameKey (s : State) (h : Hdr) (kind : Nat) (blob : List Byte) : Option Bool :=
  let t := (tenantOf s h.tenant).getD default
  let k := blobKey s blob
  if kind = 2 then (if t.ckpt = k ∧ k.isSome then some true else none)
  else ((epochsOf t kind).find? fun x => x.1 == fld blob 0 2).map fun x => some x.2 == k

/-- The key installed: a third link epoch deletes the lowest, a new checkpoint key replaces the old one. -/
def installKey (s : State) (t kind e : Nat) (k : List Byte) : State :=
  let old := (tenantOf s t).getD default
  if kind = 1 then modTenant s t fun u => { u with flash := u.flash ++ [(e, k)] }
  else if kind = 2 then
    let s := modTenant s t fun u => { u with ckpt := some k }
    if old.ckpt.isSome then countErase s else s
  else
    let l := old.link ++ [(e, k)]
    let s := modTenant s t fun u => { u with link := l.drop (l.length - 2) }
    if l.length > 2 then countErase s else s

def countInstall (s : State) : State := { s with sec.keysInstalled := ctrAdd s.sec.keysInstalled 1 }

def execKeyInstall (h : Hdr) (keyKind blobLen : Nat) (blob : List Byte) (s : State) : Out :=
  .next (lateSync s h { code := 0x0804, isAsync := false, tenantRule := 1, sessRule := 0 } (32 + blobLen)
    (fun s =>
      if keyKind = 0 ∨ 3 < keyKind then [(true, 24)]
      else if blobLen ≠ blobLenOf keyKind then [(true, 28)]
      else blobFaults (retireFlashEpochs s) h keyKind blob)
    (fun s =>
      let s := retireFlashEpochs s
      match sameKey s h keyKind blob with
      | some true => none
      | some false => some (ans stWrongState)
      | none =>
        if keyKind = 1 ∧ 4 ≤ ((tenantOf s h.tenant).getD default).flash.length then some (ans stTableFull) else none)
    (fun _ => .keyWrite)
    (fun s =>
      let s := retireFlashEpochs s
      if sameKey s h keyKind blob = some true then finishFinal (countInstall s) h.seq (ans stOk)
      else setStage (storeWrite (installKey s h.tenant keyKind (fld blob 0 2) ((blobKey s blob).getD [])) h.seq) h.seq 4))

/-! ### Removal: steps 1 to 3 (R56, R388, R391) -/

/-- A tenant's own command that is still running ends with NO_TENANT (R56). -/
def endTenantJob (s : State) (j : Job) : State :=
  let a := ans stNoTenant
  if (jobOf s j.seq).isNone then s
  else match j.kind with
    | .register model _ _ _ => endRegister s j.seq model a
    | .query => endQuery s j.seq a
    | _ =>
      let s := leaveEngines s j.seq
      if ((cmdRec s j.seq).bind (·.reply)).isSome then complete s j.seq a else finishFinal s j.seq a

/-- Sessions of a tenant. -/
def tenantSess (s : State) (t : Nat) : List Nat := (s.cellar.sess.filter fun p => p.2.tenant == t).map (·.1)

/-- Running commands end (R56). The choices just sealed preempt the tenant's entries in the rest that follows. -/
def stopTenant (s : State) (t : Nat) : State :=
  let s := (tenantSess s t).foldl (fun s i => endJobs s i stNoTenant 5) s
  let s := (s.gl.jobs.filter fun j => j.tenant == t).foldl endTenantJob s
  { s with mash.items := s.mash.items.filter fun i => i.tenant != t }

/-- Whether a group still runs an entry of the tenant, or has one sealed. -/
def tenantRuns (t : Nat) (g : Group) : Bool :=
  (g.chain ++ g.sealed).any (fun e => e.tenant == t) || (g.lastTenant == t && decide (g.drain > 0))

/-- The tenant's saved contexts and kept exit states are discarded, with their frames. -/
def dropContexts (s : State) (t : Nat) : State :=
  let s := s.mill.groups.foldl (fun s g =>
    ((g.saved ++ g.kept).filter fun e => e.tenant == t).foldl (fun s e => freeCtx s g.die e) s) s
  { s with mill.groups := s.mill.groups.map fun g =>
      { g with saved := g.saved.filter fun e => e.tenant != t, kept := g.kept.filter fun e => e.tenant != t } }

/-- A stream without the tenant's frames that have not started; those behind them take their sequence numbers. -/
def dropFrames (st : Stream) (t : Nat) : Stream × Nat :=
  let sent := inFlight Config.fabWindow st.unacked
  let wait := st.unacked.drop sent.length
  let keep := wait.filter fun m => m.tenant != t
  let n (m : StreamMsg) : Nat := framesFor (msgBytes m.msg)
  let last := match sent.getLast? with
    | some m => m.seq
    | none => st.txSeq
  let (keep', last') := keep.foldl (fun (acc : List StreamMsg × Nat) m =>
    (acc.1 ++ [{ m with seq := (acc.2 + n m) % two32 }], (acc.2 + n m) % two32)) ([], last)
  ({ st with unacked := sent ++ keep', txSeq := if wait = [] then st.txSeq else last' }, sumBy n wait - sumBy n keep)

/-- Whether a content is a stream record of one of these sessions. -/
def streamOfAny (handles : List Nat) (c : Content) : Bool :=
  match c with
  | .stream r => handles.contains r.session
  | _ => false

/-- Queued fabric frames and stream records of the tenant are discarded and counted (step 2). -/
def drainTenant (s : State) (t : Nat) : State :=
  let handles := (s.cellar.sess.filter fun p => p.2.tenant == t).map fun p => handleOf p.2
  let mine (c : Content) : Bool := streamOfAny handles c
  let fabN := sumBy (fun p => sumBy (fun c => (dropFrames c.2 t).2) p.2.streams) s.fab.peers
  let n := sumBy (fun h => framesFor (msgBytes h.msg)) (s.fab.held.filter fun h => h.tenant == t) + fabN + countBy (fun c => mine c.2) s.gl.g0.unsent +
    countBy (fun c => mine c.2) s.gl.g1.unsent + countBy (fun c => mine c.2) s.gl.backlog +
    countBy (fun c => mine c.2) s.gl.stalled
  let s := { s with
    fab.held := s.fab.held.filter fun h => h.tenant != t
    fab.peers := s.fab.peers.map fun p => (p.1, { p.2 with streams := p.2.streams.map fun c => (c.1, (dropFrames c.2 t).1) })
    gl.g0.unsent := s.gl.g0.unsent.filter fun c => !mine c.2
    gl.g1.unsent := s.gl.g1.unsent.filter fun c => !mine c.2
    gl.backlog := s.gl.backlog.filter fun c => !mine c.2
    gl.stalled := s.gl.stalled.filter fun c => !mine c.2 }
  modTenant s t fun u => { u with dropped := ctrAdd u.dropped n }

/-- Link secrets deleted, REVOKE to every routed peer (step 3). -/
def revokeTenant (s : State) (t : Nat) : State :=
  let s := modTenant s t fun u => { u with link := [], step := 3 }
  let peers := ((s.fab.routes.filter fun r => r.2 != 0).map (·.1))
  peers.foldl (fun s p =>
    { sendMsg s p 0 0 0 0 false (.revoke t) with sec.revokeSent := ctrAdd s.sec.revokeSent 1 }) s

/-- The TENANT_REMOVE commands of a tenant, the first one first. -/
def removeJobs (s : State) (t : Nat) : List Job := s.gl.jobs.filter fun j => j.kind == .removeTenant t

/-- A removal at a rest boundary: its commands end at the first; once no group runs its entries, what is queued is
discarded, the links are revoked and the key store is rewritten. -/
def removalRest (s : State) (t : Tenant) : State :=
  if t.step = 1 then stopTenant (modTenant s t.id fun u => { u with step := 2 }) t.id
  else if t.step = 2 ∧ (s.mill.groups ++ s.mill.coming).any (tenantRuns t.id) = false then
    let s := revokeTenant (drainTenant (ckptDropTenant (dropContexts s t.id) t.id) t.id) t.id
    storeWrite (modTenant s t.id fun u => { u with step := 4 }) (((removeJobs s t.id).head?.map (·.seq)).getD noSeq)
  else s

def tenantRest (s : State) : State :=
  (s.sec.tenants.filter fun t => t.2.removing).foldl (fun s t => removalRest s t.2) (retireFlashEpochs s)

def execTenantRemove (h : Hdr) (tenant : Nat) (s : State) : Out :=
  .next (asyncCmd s h { code := 0x0803, isAsync := true, tenantRule := 0, sessRule := 0 } 32 (fun _ => [(tenant == 0, 24)])
    (fun s => [((tenantOf s tenant).isNone, (stNoTenant, 0))]) (fun _ => .removeTenant tenant)
    (fun s =>
      if tenantLive s tenant then
        let s := modTenant s tenant fun u => { u with removing := true, step := 1 }
        setStage { s with sec.storeSeq := s.sec.storeSeq + 1 } h.seq 3
      else setStage s h.seq 0))

/-! ### Removal: steps 4 to 6 (R388) -/

/-- The sessions, held copies and tree nodes of a tenant leave HBM. -/
def freeTenantSess (s : State) (t : Nat) : State :=
  let s := (s.rack.inn.filter fun m => m.img.tenant == t).foldl (fun s m => discardIncoming s m.img.handle) s
  let s := (tenantSess s t).foldl (fun s i => freeIndex (releaseAll (dropOut s (((sessAt s i).map handleOf).getD 0)) i) i) s
  let s := (s.rack.copies.filter fun c => c.img.tenant == t).foldl (fun s c => dropCopy s c.img.handle) s
  (s.cellar.nodes.filter fun n => n.2.tenant == t).foldl (fun s n =>
    { freeRuns s n.2.die n.2.runs with cellar.nodes := tdel s.cellar.nodes n.1 }) s

/-- The models, segments and grammars of a tenant. -/
def freeTenantModels (s : State) (t : Nat) : State :=
  let mine := (s.models.models.filter fun m => m.2.tenant == t).map (·.1)
  let s := (s.models.models.filter fun m => m.2.tenant == t).foldl (fun s m =>
    { freeTable s m.2.runs with models.models := tdel s.models.models m.1 }) s
  let s := { s with
    models.drafts := s.models.drafts.filter fun d => !mine.contains d.1 && !mine.contains d.2.1
    models.queues := s.models.queues.filter fun q => !mine.contains (q.1 / 4096)
    mill.segs := s.mill.segs.filter fun g => g.2.tenant != t }
  (s.copper.grammars.filter fun g => g.2.tenant == t).foldl (fun s g =>
    { freeTable s g.2.runs with copper.grammars := tdel s.copper.grammars g.1 }) s

/-- A corpus with its shards. -/
def freeCorpus (s : State) (c : Nat × Corpus) : State :=
  let s := c.2.shards.foldl (fun s h => dropShard s c.1 h.1) s
  { s with lauter.corpora := tdel s.lauter.corpora c.1 }

/-- The corpora and row tables of a tenant. -/
def freeTenantTables (s : State) (t : Nat) : State :=
  let s := (s.lauter.corpora.filter fun c => c.2.tenant == t).foldl freeCorpus s
  (s.rows.tables.filter fun x => x.2.tenant == t).foldl (fun s x => dropTable s x.1) s

/-- Every object of the tenant leaves HBM and flash: sessions, copies held for peers, models, segments, grammars, corpora,
tables, retained results and its prefix trees. -/
def freeTenant (s : State) (t : Nat) : State :=
  let s := freeTenantTables (freeTenantModels (freeTenantSess (freeExtentsIf s fun e => e.tenant == t) t) t) t
  { s with
    lauter.reqs := s.lauter.reqs.filter fun r => r.tenant != t
    lauter.textReqs := s.lauter.textReqs.filter fun r => r.tenant != t
    gl.results := s.gl.results.filter fun r => r.tenant != t
    gl.cmds := s.gl.cmds.filter fun c => !(c.tenant == t && c.phase == 2)
    mash.shapers := tdel (tdel s.mash.shapers (2 * t)) (2 * t + 1) }

/-- Tile groups last used by the tenant are cleared (step 5). -/
def clearGroups (s : State) (t : Nat) : State :=
  (List.range s.mill.groups.length).foldl (fun s i =>
    let g := grpAt s i
    if g.lastTenant = t ∧ g.chain = [] then
      (grpTiles g).foldl (fun s k => modTile s k fun x => { x with sram := [], accs := [] }) (modGrp s i fun x => { x with lastTenant := 0 })
    else s) s

/-- The removal is complete: its mark is cleared and its commands are answered (step 6, R391). -/
def endRemoval (s : State) (t : Nat) : State :=
  let n := ((tenantOf s t).map (·.dropped)).getD 0
  let js := removeJobs s t
  let s := { s with sec.tenants := tdel s.sec.tenants t, sec.storeSeq := s.sec.storeSeq + 1 }
  match js with
  | [] => s
  | j :: rest => completeAll (complete s j.seq (ansB (leBytes 8 n))) (rest.map (·.seq)) (ansB (leBytes 8 0))

/-- Runs awaiting their clear, as (die, first frame). -/
def clearingRuns (s : State) : List (Nat × Nat) :=
  (List.range 4).flatMap fun d => (alloc s d).clearing.map fun r => (d, r.1)

/-- The key store no longer holds the tenant's keys: its logical ranges and its frames are freed (steps 4 and 5). -/
def eraseTenant (s : State) (t : Nat) : State :=
  let had := match tenantOf s t with
    | some u => u.flash != [] || u.ckpt.isSome || u.link != []
    | none => false
  let s := modTenant s t fun u => { u with flash := [], ckpt := none, step := 5 }
  let s := if had then countErase s else s
  let before := clearingRuns s
  let s := clearGroups (freeTenant s t) t
  let new := (clearingRuns s).filter fun r => !before.contains r
  if new = [] then endRemoval s t else modTenant s t fun u => { u with clearRuns := new }

/-- The oldest change of the key store completes (R379, R381, R388). -/
def execKeyStoreWriteDone (s : State) : Out :=
  .next (
    match s.sec.storePending with
    | [] => s
    | q :: rest =>
      if s.dev.powered = false then s
      else
        let s := { s with sec.storePending := rest }
        match s.sec.tenants.find? fun t => t.2.step == 4 && (((removeJobs s t.1).head?.map (·.seq)).getD noSeq) == q with
        | some t => eraseTenant s t.1
        | none => if (jobOf s q).isSome then finishFinal (countInstall s) q (ans stOk) else s)

/-- A freed run has been zeroed; the last of a removed tenant's ends its removal (R386, R388). -/
def execFrameClearDone (die start : Nat) (s : State) : Out :=
  let s := runCleared s die start
  .next ((s.sec.tenants.filter fun t => t.2.step == 5 && t.2.clearRuns.contains (die, start)).foldl (fun s t =>
    let left := t.2.clearRuns.erase (die, start)
    let s := modTenant s t.1 fun u => { u with clearRuns := left }
    if left = [] then endRemoval s t.1 else s) s)

/-! ### ATTEST (R392 to R394) -/

/-- A digest as the 32 bytes of a report. -/
def digestBytes (d : Nat) : List Byte := beBytes 32 d

/-- The index of the next report, reserved and its window fused before use (R394). -/
def takeIndex (s : State) : State :=
  let i := s.sec.sigNext
  let s := if s.sec.sigReserved ≤ i then
      { s with sec.sigReserved := i + 65536, sec.storeSeq := s.sec.storeSeq + 1 } else s
  let s := { s with sec.sigWindow := max s.sec.sigWindow (i / 4194304 + 1), sec.sigNext := i + 1, sec.reports := ctrAdd s.sec.reports 1 }
  if i + 1 = 1073741824 - 16777216 then counterNear s 2 0 (i + 1) 1073741824 else s

/-- The report's header and lists. -/
def reportBody (s : State) (nonce : List Byte) (idx : Nat) : List Byte :=
  let models := s.models.models.flatMap fun m =>
    leBytes 4 m.1 ++ leBytes 2 m.2.tenant ++ leBytes 1 m.2.st ++ [0] ++ digestBytes m.2.digest
  let segs := s.mill.segs.flatMap fun g => leBytes 4 g.1 ++ leBytes 4 g.2.model ++ digestBytes g.2.digest
  let vocabs := s.copper.vocabs.flatMap fun v => leBytes 1 v.1 ++ List.replicate 7 0 ++ digestBytes v.2.digest
  let grams := s.copper.grammars.flatMap fun g =>
    leBytes 2 g.1 ++ leBytes 2 g.2.tenant ++ leBytes 1 g.2.vocab ++ List.replicate 3 0 ++ digestBytes g.2.digest
  let tenants := padTo 8 (s.sec.tenants.flatMap fun t => leBytes 2 t.1 ++ leBytes 2 (if t.2.removing then 1 else 0))
  let mash := if s.mash.table.builtin then Config.builtinMashDigest else s.mash.table.digest
  leBytes 4 0x5454414A ++ leBytes 2 1 ++ leBytes 1 s.sec.lifecycle ++ leBytes 1 s.sec.arb ++ serialBytes ++ nonce ++
  leBytes 8 s.dev.localCtr ++ leBytes 4 idx ++ leBytes 1 s.sec.svn ++ List.replicate 3 0 ++ digestBytes Config.romDigest ++
  digestBytes s.sec.fwDigest ++ digestBytes mash ++ sha256 (Config.kemEk s.sec.kemPair) ++
  leBytes 4 s.sec.tenants.length ++ leBytes 4 s.models.models.length ++ leBytes 4 s.mill.segs.length ++
  leBytes 2 s.copper.vocabs.length ++ leBytes 2 s.copper.grammars.length ++ sha256 Config.identityKey ++
  List.replicate 16 0 ++ tenants ++ models ++ segs ++ vocabs ++ grams

/-- The signed report: the trailer follows the lists. -/
def report (s : State) (nonce : List Byte) (idx : Nat) : List Byte :=
  let body := reportBody s nonce idx ++ Config.identityKey ++ leBytes 4 Config.endorsement.length ++ Config.endorsement
  let sig := Config.hssSign idx body
  body ++ leBytes 4 sig.length ++ sig

def execAttest (h : Hdr) (nonce : List Byte) (s : State) : Out :=
  .next (asyncCmd s h { code := 0x0801, isAsync := true, tenantRule := 0, sessRule := 0 } 56 (fun _ => []) (fun _ => [])
    (fun _ => .attest)
    (fun s =>
      if Config.hssMax ≤ s.sec.sigNext then complete s h.seq (ans stSig)
      else
        let body := report s nonce s.sec.sigNext
        complete (takeIndex s) h.seq (ansB body)))

/-! ### FIRMWARE_ACTIVATE (R419) -/

/-- The staged image. -/
def stagedImage (s : State) : Option (Nat × Nat × Nat) := s.sec.staged.map fun i => slotImage s i

def execFirmwareActivate (h : Hdr) (version : Nat) (s : State) : Out :=
  .next (lateSync s h { code := 0x0909, isAsync := false, tenantRule := 0, sessRule := 0 } 32
    (fun s => [((stagedImage s).map (·.2.1) != some version, 24)])
    (fun s =>
      if ((stagedImage s).map (·.1)).getD 0 < s.sec.arb then some (ans stDenied)
      else if mayShut s = false then some (ans stWrongState) else none)
    (fun _ => .activate)
    (fun s => startShutdown { s with
      sec.activeSlot := (s.sec.staged).getD s.sec.activeSlot, sec.staged := none, dev.shutActivate := some h.seq }))

end Sys2Proof.Machine
end

