-- ==== Sys2Proof/Machine/Registers.lean ====
section
/-! DEFINITION. The register commands: CSR_READ, CSR_WRITE and the writes that have a row of their own, CAL_SET,
CLOCK_SET, the sideband and the boundary scan (R309, R413, R418, R420 to R422, R430 to R432, R441 to R458). -/
namespace Sys2Proof.Machine

/-! ### Effects of a write (R443, R445, R449, R450) -/

/-- A write to PWR_CTL but for `shutdown`: the limit, and a reset 1 ms after the reply; a cold reset takes the place of
a warm one (R417, R424, R445). -/
def writePwrCtl (s : State) (v : Nat) : State :=
  { s with
    dev.pwrLimit := bits v 27 16
    dev.deferred := if bit v 2 then some 2 else if bit v 1 ∧ s.dev.deferred = none then some 3 else s.dev.deferred }

/-- NMI_OUT released when a set bit is cleared (R413). -/
def releaseNmi (s : State) : State := { s with dev.pins.nmiOut := false }

def clearSupplyNmi (s : State) : State := if s.dev.supplyNmi then releaseNmi { s with dev.supplyNmi := false } else s

def clearClockNmi (s : State) : State := if s.dev.clk.clockNmi then releaseNmi { s with dev.clk.clockNmi := false } else s

/-- Alert bits cleared; SMB_ALERT_N is high again when none is left (R430, R450). -/
def clearAlerts (s : State) (v : Nat) : State :=
  let a := s.sb.alert &&& (127 ^^^ (v % 128))
  { s with sb.alert := a, dev.pins.smbAlertN := decide (a = 0) }

def writeClkMon (s : State) (v : Nat) : State := { s with dev.clk.monTol := bits v 6 0, dev.clk.monDebounce := bits v 11 8 }

/-- The word written at a DEV offset. -/
def writeDev (s : State) (off v : Nat) : State :=
  match off with
  | 0x018 => if bit v 3 then clearSupplyNmi s else s
  | 0x01C => writePwrCtl s v
  | 0x034 => writeClkMon s v
  | 0x038 => if bit v 3 then clearClockNmi s else s
  | _ => s

def writeEv (s : State) (off v : Nat) : State :=
  match off with
  | 0x000 => { s with gl.evMask := bits v 16 0 }
  | 0x010 => { s with gl.eventPort := v % 2 }
  | 0x030 => clearAlerts s v
  | 0x034 => { s with sb.alertEn := v % 128 }
  | _ => s

def writeCellar (s : State) (off v : Nat) : State :=
  match off with
  | 0x00 => { s with cellar.prefixEn := bit v 0, cellar.pressureEn := bit v 1, cellar.reserveWait := bits v 23 16 }
  | 0x04 => { s with cellar.indexBase := bits v 23 0 }
  | 0x08 => { s with cellar.indexLimit := bits v 23 0 }
  | 0x0C => { s with cellar.wmLow := bits v 9 0, cellar.wmHigh := bits v 25 16 }
  | 0x10 => { s with cellar.absentHold := bits v 15 0, cellar.expiredHold := bits v 31 16 }
  | _ => s

def writeLauter (s : State) (off v : Nat) : State :=
  match off with
  | 0x00 => { s with lauter.deadlineDef := bits v 19 0, lauter.repairEn := bit v 20, lauter.logEn := bit v 21 }
  | 0x04 => { s with lauter.linkBeam := bits v 10 0, lauter.alpha := bits v 23 16 }
  | _ => s

def writeRows (s : State) (off v : Nat) : State :=
  match off with
  | 0x00 => { s with rows.hotKib := bits v 14 0, rows.rowsSlice := bits v 19 16 }
  | 0x04 => { s with rows.beta1 := BitVec.ofNat 32 v }
  | 0x08 => { s with rows.beta2 := BitVec.ofNat 32 v }
  | 0x0C => { s with rows.eps := BitVec.ofNat 32 v }
  | _ => s

def writeOast (s : State) (off v : Nat) : State :=
  match off with
  | 0x00 => { s with oast.gcStart := bits v 7 0, oast.gcUrgent := bits v 15 8, oast.wlGap := bits v 27 16,
                     oast.readSuspend := bit v 28 }
  | 0x04 => { s with oast.ratedCycles := bits v 15 0, oast.targetYears := bits v 23 16 }
  | 0x08 => { s with oast.waInit := bits v 15 0, oast.bankS := bits v 31 16 }
  | 0x0C => if bit v 0 then startQuiesce s else s
  | _ => s

/-- One word written at a mapped address; a read-only register, a reserved field and an address with no register ignore
it (R443). -/
def regWrite (s : State) (a v : Nat) : State :=
  if a < 0x10000 then writeDev s a v
  else if a / 0x10000 = 2 then writeEv s (a - 0x20000) v
  else if a = 0x100010 then { s with mash.slowThr := bits v 15 0 }
  else if a / 0x10000 = 0x40 then writeCellar s (a - 0x400000) v
  else if a / 0x10000 = 0x42 then writeLauter s (a - 0x420000) v
  else if a / 0x10000 = 0x43 then writeRows s (a - 0x430000) v
  else if a / 0x10000 = 0x44 then writeOast s (a - 0x440000) v
  else if a = 0x450004 then { s with fab.peerTimeoutUs := bits v 11 0, fab.rackHbmMax := bits v 23 16 }
  else if a = 0x460000 then { s with ckpt.chainMax := bits v 7 0, ckpt.forceFull := bit v 8, ckpt.stageGib := bits v 23 16 }
  else s

/-- Words written at rising addresses (R444). -/
def regWrites (s : State) (a : Nat) : List Nat → State
  | [] => s
  | v :: vs => regWrites (regWrite s a v) (a + 4) vs

/-- Words read at rising addresses (R444). -/
def regReads (s : State) (a n : Nat) : List Nat := (List.range n).map fun i => regWord s (a + 4 * i)

/-! ### CSR_READ and CSR_WRITE (R443, R49) -/

/-- The address and range checks of both commands (R443, R49). -/
def csrFaults (address count : Nat) : List (Bool × Nat) :=
  [(decide (address % 4 ≠ 0) || (blockEnd address).isNone, 24),
   (count == 0 || decide (16000 < count) || decide ((blockEnd address).getD 0 + 1 < address + 4 * count), 28)]

/-- Whether a write of these words sets `shutdown` in PWR_CTL. -/
def setsShutdown (address : Nat) (values : List Nat) : Bool :=
  decide (address ≤ 0x01C) && bit (lget values ((0x01C - address) / 4) 0) 0

def csrReadCmd : Cmd := { code := 0x0901, isAsync := false, tenantRule := 0, sessRule := 0 }

def csrWriteCmd : Cmd := { code := 0x0902, isAsync := false, tenantRule := 0, sessRule := 0 }

/-- The effect of an accepted CSR_WRITE, and its answer; `shutdown` needs the state of R418 and starts after the words
are written. -/
def csrApply (address : Nat) (values : List Nat) (s : State) : State × Ans :=
  if inDebug address then (s, ans stDenied)
  else if setsShutdown address values then
    (if mayShut s then (startShutdown (regWrites s address values), ans stOk) else (s, ans stWrongState))
  else (regWrites s address values, ans stOk)

def csrWrites (h : Hdr) (address count : Nat) (values : List Nat) (s : State) : State :=
  syncCmd s h csrWriteCmd (32 + 4 * count) (fun _ => csrFaults address count) (csrApply address (values.take count))

def execCsrRead (h : Hdr) (address count : Nat) (s : State) : Out :=
  .next (syncCmd s h csrReadCmd 32 (fun _ => csrFaults address count) fun s =>
    if inDebug address then (s, ans stDenied) else (s, ansB ((regReads s address count).flatMap (leBytes 4))))

def execCsrWrite (h : Hdr) (address count : Nat) (values : List Nat) (s : State) : Out :=
  .next (csrWrites h address count values s)

/-- `shutdown` written with the power limit in force kept (R418). -/
def execShutdown (h : Hdr) (s : State) : Out := .next (csrWrites h 0x01C 1 [pwrCtlWord s.dev + 1] s)

/-- `warm` written with the power limit in force kept (R417, R445). -/
def execWarmReset (h : Hdr) (s : State) : Out := .next (csrWrites h 0x01C 1 [pwrCtlWord s.dev + 2] s)

/-- `cold` written with the power limit in force kept (R417, R445). -/
def execColdReset (h : Hdr) (s : State) : Out := .next (csrWrites h 0x01C 1 [pwrCtlWord s.dev + 4] s)

/-- `quiesce` written to OAST_CTL (R309). -/
def execQuiesce (h : Hdr) (s : State) : Out := .next (csrWrites h 0x44000C 1 [1] s)

/-- `clock_nmi` or `supply_nmi` cleared (R413). -/
def execClearNmi (h : Hdr) (clock : Bool) (s : State) : Out :=
  .next (csrWrites h (if clock then 0x038 else 0x018) 1 [8] s)

/-! ### CAL_SET and CLOCK_SET (R406, R420 to R422) -/

/-- A byte field read as a signed number. -/
def signedByte (v lo : Nat) : Int :=
  let b := bits v (lo + 7) lo
  if b < 128 then b else (b : Int) - 256

/-- A 32-bit field read as a signed number. -/
def signedWord (v : Nat) : Int :=
  let b := v % two32
  if b < 2147483648 then b else (b : Int) - 4294967296

def inRange (x : Int) (n : Nat) : Bool := decide (-(n : Int) ≤ x) && decide (x ≤ (n : Int))

/-- Whether an item takes a value (R420). -/
def calInRange (item v : Nat) : Bool :=
  if item = 1 then inRange (signedWord v) 100
  else if item ≤ 0x12 then inRange (signedWord v) 500
  else if item < 0x200 then inRange (signedWord v) 128
  else if item < 0x300 then
    decide (v < 0x1000000) && inRange (signedByte v 0) 15 && inRange (signedByte v 8) 15 && inRange (signedByte v 16) 15
  else if item < 0x400 then decide (v < 0x10000) && inRange (signedByte v 0) 31 && inRange (signedByte v 8) 31
  else inRange (signedWord v) 20

/-- The user value: a packed item keeps its word, another its signed number. -/
def calValue (item v : Nat) : Int := if 0x200 ≤ item ∧ item < 0x400 then (v : Int) else signedWord v

/-- A user value written to the configuration region; 0 removes it; a clamped sum is counted (R420, R421). -/
def calApply (item v : Nat) (s : State) : State :=
  if v = 0 then { s with dev.calUser := tdel s.dev.calUser item }
  else
    { s with
      dev.calUser := tput s.dev.calUser item (calValue item v)
      dev.calClampCnt := ctrAdd s.dev.calClampCnt (clampCount item (calValue item v)) }

def execCalSet (h : Hdr) (item value : Nat) (s : State) : Out :=
  .next (syncCmd s h { code := 0x0903, isAsync := false, tenantRule := 0, sessRule := 0 } 32
    (fun _ => [(!calListed item, 24), (calListed item && !calInRange item value, 28)])
    (fun s => (calApply item value s, ans stOk)))

/-- The values an item of CLOCK_SET takes; none for an unlisted item (R406, R422). -/
def clockValues (item : Nat) : Option (List Nat) :=
  match item with
  | 0x0001 => some [2, 3, 4]
  | 0x0002 => some [3, 4, 6]
  | 0x0003 => some [4, 6, 8]
  | 0x0010 => some ((List.range 100).map (· + 1))
  | 0x0011 => some ((List.range 15).map (· + 1))
  | _ => none

def clockApply (item v : Nat) (s : State) : State :=
  match item with
  | 0x0001 => { s with dev.clk.arithDiv := v }
  | 0x0002 => { s with dev.clk.ctrlDiv := v }
  | 0x0003 => { s with dev.clk.fabricDiv := v }
  | 0x0010 => { s with dev.clk.monTol := v }
  | 0x0011 => { s with dev.clk.monDebounce := v }
  | _ => s

def execClockSet (h : Hdr) (item value : Nat) (s : State) : Out :=
  .next (syncCmd s h { code := 0x0904, isAsync := false, tenantRule := 0, sessRule := 0 } 32
    (fun _ => [((clockValues item).isNone, 24), (!((clockValues item).getD [value]).contains value, 28)])
    (fun s => (clockApply item value s, ans stOk)))

/-! ### The sideband (R430, R431, R456, R457) -/

/-- Whether the SMBus target answers: the standby domain is powered, and start-up has passed step 1 or THERMTRIP is
latched (R427, R431). -/
def sbAnswers (s : State) : Bool :=
  standby s && ((s.dev.powered && decide (2 ≤ s.dev.startStep)) || s.dev.thr.tripped)

/-- The sideband-visible words (R457). -/
def sbVisible (a : Nat) : Bool :=
  decide (a < 0x070) || (decide (0x100 ≤ a) && decide (a < 0x160)) || (decide (0x10000 ≤ a) && decide (a < 0x14000)) ||
  [0x20014, 0x20018, 0x20030, 0x20034, 0x20040, 0x20044, 0x440010, 0x440100, 0x440104, 0x440138, 0x44013C, 0x450000, 0x470000,
   0x470004].contains a || (decide (0x450008 ≤ a) && decide (a < 0x450028))

/-- The identity, supply and temperature registers of R447, R424 and R448, which alone are answered after THERMTRIP (R431). -/
def sbTripVisible (a : Nat) : Bool :=
  decide (a < 0x014) || (decide (0x018 ≤ a) && decide (a < 0x01C)) || (decide (0x020 ≤ a) && decide (a < 0x030)) ||
  (decide (0x100 ≤ a) && decide (a < 0x160))

def sbWords (s : State) : List Nat := (List.range (s.sb.len / 4)).map fun i => s.sb.addr + 4 * i

def sbAdvance (s : State) : State := { s with sb.addr := (s.sb.addr + s.sb.len) % two32 }

/-- The 7-bit address the target answers at (R430). -/
def smbTarget : Nat := 0x48 + Config.smbStrap.val

/-- SB_SET_ADDR: malformed where the address is not a multiple of 4 or the length is not 4 to 32 by 4 (R456). -/
def execSbSetAddr (address len : Nat) (s : State) : Out :=
  .next (
    if sbAnswers s = false then s
    else { s with
      sb.addr := address % two32, sb.len := len
      sb.badAddr := decide (address % 4 ≠ 0) || decide (len % 4 ≠ 0) || decide (len < 4) || decide (32 < len) })

/-- The status byte of a read (R456). -/
def sbStatus (s : State) : Nat :=
  if s.sb.badAddr then 3 else if s.sb.lastRefused then 2 else if (sbWords s).all sbVisible then 0 else 1

/-- The body of a read: the status, then the words; a word that is not visible reads as zero (R456). -/
def sbBody (s : State) : List Byte :=
  leBytes 1 (sbStatus s) ++
    (if s.sb.badAddr then [] else (sbWords s).flatMap fun a => leBytes 4 (if sbVisible a then regWord s a else 0))

def execSbRead (s : State) : Out :=
  .next (
    if sbAnswers s = false then s
    else if s.dev.thr.tripped ∧ (s.sb.badAddr ∨ (sbWords s).all sbTripVisible = false) then s
    else
      let t := { s with sb.lastRead := sbBody s }
      if s.sb.badAddr then t else sbAdvance t)

/-- What the sideband can write: `pwr_limit`, SB_ALERT and SB_ALERT_EN (R457). -/
def sbMayWrite (a v : Nat) : Bool := (a == 0x01C && v % 8 == 0) || a == 0x20030 || a == 0x20034

/-- The words of a write's data. -/
def sbData (s : State) (data : List Byte) : List Nat := (List.range (s.sb.len / 4)).map fun i => wordAt data (4 * i)

/-- Whether a write is taken as a whole (R456, R457). -/
def sbTakes (s : State) (data : List Byte) : Bool :=
  !s.sb.badAddr && data.length == s.sb.len && ((sbWords s).zip (sbData s data)).all fun w => sbMayWrite w.1 w.2

def execSbWrite (data : List Byte) (s : State) : Out :=
  .next (
    if sbAnswers s = false ∨ s.dev.thr.tripped then s
    else if sbTakes s data then sbAdvance (regWrites { s with sb.lastRefused := false } s.sb.addr (sbData s data))
    else { s with sb.lastRefused := true, sb.refused := ctrAdd s.sb.refused 1 })

/-- SB_ALERT bits cleared by W1C, from either side (R450). -/
def execSbAlertClear (mask : Nat) (s : State) : Out :=
  .next (if sbAnswers s = false ∨ s.dev.thr.tripped then s else clearAlerts s mask)

/-! ### Interfaces in reset and when unpowered (R431) -/

/-- A column of R431's table; `running` is none of them. A warm reset passes in one step of the model (log entry 70). -/
inductive IfaceCond where
  | running | unpowered | held | tripped
deriving DecidableEq, Repr

def ifaceCond (s : State) : IfaceCond :=
  if standby s = false then .unpowered
  else if s.dev.thr.tripped then .tripped
  else if s.dev.powered = false ∨ s.dev.startStep < 7 then .held else .running

/-- Fabric TX drives electrical idle while held, nothing when unpowered or tripped, and trains or runs from step 7. -/
def fabTxIdle (s : State) : Bool := ifaceCond s == .held
def fabTxOn (s : State) : Bool := ifaceCond s == .running

/-- Grenlink optics show light from step 7. -/
def glLight (s : State) : Bool := ifaceCond s == .running

/-- The ONFI outputs are driven (CE_N high, CLE, ALE and WE_N low) from step 3; before it, unpowered and tripped they are high
impedance. -/
def onfiDriven (s : State) : Bool := ifaceCond s == .running || (ifaceCond s == .held && decide (3 ≤ s.dev.startStep))

/-- The boundary-scan port operates from step 2; unpowered and tripped it is high impedance. -/
def scanOperates (s : State) : Bool := ifaceCond s == .running || (ifaceCond s == .held && decide (2 ≤ s.dev.startStep))

/-! ### Boundary scan (R432) -/

/-- What the selected instruction shifts out first: IDCODE its word; BYPASS and the boundary register a bit of their own. -/
def scanWord (s : State) : Option Nat := if s.sb.jtag = 1 then some Config.scanIdcode else none

/-- 0 BYPASS, 1 IDCODE, 2 SAMPLE/PRELOAD, 3 EXTEST; every other instruction acts as BYPASS, and 2 and 3 do so unless
RESET_N is low. -/
def execJtagInstruction (code : Nat) (s : State) : Out :=
  .next (
    if s.dev.powered = false ∨ s.dev.startStep < 2 then s
    else { s with sb.jtag := if code = 1 then 1 else if (code = 2 ∨ code = 3) ∧ s.dev.pins.resetN = false then code else 0 })

end Sys2Proof.Machine
end

