-- ==== Sys2Proof/Machine/Boundary.lean ====
section
/-! DEFINITION. The rest boundary: everything that happens as one rest ends and the next begins, in order (R115, R22, R122,
R125, R138, R403, R418). -/
namespace Sys2Proof.Machine

/-- The mash table's part: the rest that ends runs to its end, holds and the local counter advance, the rest that begins
is chosen, and the choices of the next one are sealed. -/
def mashBoundary (s : State) : State := sealRest (refillShapers (nextRest (stepHold (endRest s))))

/-- Work that waited for the boundary goes on: messages, parks, images, the checkpoint, removals, quiesce, shutdown. -/
def workBoundary (s : State) : State :=
  shutStep (quiesceCheck (tenantRest (ckptStage (ckptPump (ckptPoint (imageRest (channelRest (resumeWork s))))))))

def execRestBoundary (s : State) : Out :=
  .next (if serving s && running s then workBoundary (mashBoundary s) else s)

end Sys2Proof.Machine
end

