-- ==== Sys2Proof/Machine/CellarEvents.lean ====
section
/-! DEFINITION. The Cellar's own events: dwell, parks, revives and condenses as they end, expiry and holds, reservations
that fail, pressure (R55, R154, R161 to R176, R182, R466). -/
namespace Sys2Proof.Machine

/-! ### Dwell (R168) -/

/-- The dwell threshold of a session passes (R168): the local counter has reached `dwell_since` + `dwell_ms`. -/
def execDwellExpiry (session : Nat) (s : State) : Out :=
  .next (match sessByHandle s session with
    | some x =>
      let d := (serviceOf s x.cls).dwellMs
      if running s ∧ x.state = stWARM ∧ x.dwellOn ∧ x.outstanding = 0 ∧ d ≠ 0xFFFFFFFF ∧ x.parking = false ∧
          x.condensing = false ∧ x.parkWait = false then
        retireSession (advanceTo s (x.dwellSince + d * 1000 * Config.usCycles)) x.idx
      else s
    | none => s)

/-! ### Parks (R168) -/

def execParkComplete (session : Nat) (s : State) : Out :=
  .next (match sessByHandle s session with
    | some x =>
      if x.parking ∧ x.parkProgs ∧ x.parkAcked ∧ x.parkCancelled = false then pump (finishPark s x.idx) x.idx else s
    | none => s)

/-! ### Revives (R174 to R176) -/

/-- Whether everything a revive waits for has happened: the model resident, its frames granted, its data read. -/
def reviveReady (s : State) (x : Sess) : Bool :=
  x.reviving && (((modelOf s x.model).map (·.st)) == some 2) &&
  (x.reviveSrc == 1 ||
    ((match resvBySeq s noSeq x.idx with
      | some r => r.granted
      | none => false) &&
     (if x.reviveSrc = 2 then x.reviveRead
      else reachable s (if x.caskPeer ≠ 0 then x.caskPeer else buddyOf s x))))

def execReviveComplete (session : Nat) (s : State) : Out :=
  .next (match sessByHandle s session with
    | some x =>
      if reviveReady s x then
        let s := if x.reviveSrc = 3 then
            (let n := reviveBytes s x
             noteClass (noteClass (charge (chargeRx s (sliceOfSess s x) 6 n) (sliceOfSess s x) 6 1 n) x.share 3 n) x.share 1 n) else s
        pump (finishRevive s x.idx) x.idx
      else s
    | none => s)

/-- R175: with the buddy unreachable for `reserve_wait` mash cycles the revive ends NO_MEMORY. -/
def execReviveBuddyTimeout (session : Nat) (s : State) : Out :=
  .next (match sessByHandle s session with
    | some x =>
      let peer := if x.caskPeer ≠ 0 then x.caskPeer else buddyOf s x
      let due : Bool := match resvBySeq s noSeq x.idx with
        | some r => decide (r.sinceCycle + reserveWait s ≤ s.mash.cycleCnt)
        | none => true
      if x.reviving ∧ x.reviveSrc = 3 ∧ reachable s peer = false ∧ due then pump (failRevive s x.idx stNoMemory) x.idx else s
    | none => s)

/-! ### Condenses (R172, R173) -/

/-- The command of an explicit condense that runs, or `noSeq`. -/
def condenseSeq (s : State) (idx : Nat) : Nat :=
  match (sessJobs s idx).find? fun j => j.stage != 0 && (match j.kind with
    | .condense _ => true
    | _ => false) with
  | some j => j.seq
  | none => noSeq

/-- The session becomes an EXTRACT of `slots` slots: its summary page takes the frames reserved for it, and its other pages, its
links, its draft KV and its casks go (R172). -/
def finishCondense (s : State) (idx : Nat) : State :=
  match sessAt s idx with
  | none => s
  | some x =>
    let k := log2Ceil x.condSlots
    let seq := condenseSeq s idx
    match x.condPage, runsFor s seq idx x.homeDie x.tenant (sliceOfSess s x) (pageOrder (hdrOf s x) k) (groupsOf s x) with
    | some pg, some (rs, s) =>
      let nodes := (x.pages.filter (·.isShared)).map (·.node)
      let s := (x.pages.filter fun p => !p.isShared).foldl (fun s p => freeRuns s x.homeDie p.runs) s
      let s := nodes.foldl (fun s n => modNode s n fun n => { n with links := n.links - 1 }) s
      let s := freeDraft (releaseCask s idx) x
      let slot := freeExtractSlot s
      let s := { s with cellar.extractsUsed := s.cellar.extractsUsed ++ [slot] }
      let s := modSess s idx fun y =>
        { y with state := stEXTRACT, condensing := false, condDone := false, condPage := none, dwellOn := false, extract := some slot,
                 byPressure := false, pages := [{ pg with runs := rs }], linked := false }
      let s := nodes.foldl nodeReap s
      let s := dropResvOf s seq idx
      let bytes := 2 ^ k * posBytes (hdrOf s x) * groupsOf s x
      if seq = noSeq then s
      else complete (applied s idx seq) seq (ansB (lay [(2, x.condSlots), (2, 0), (4, bytes)]))
    | _, _ => s

def execCondenseCommit (session : Nat) (s : State) : Out :=
  .next (match sessByHandle s session with
    | some x => if x.condensing ∧ x.condDone ∧ allAcked x then pump (finishCondense s x.idx) x.idx else s
    | none => s)

/-! ### Seconds (R171, R466) -/

/-- The second of `CELLAR_SEC` ends: the expiries beyond 1,000 are raised as one summary. -/
def secondEnds (s : State) : State :=
  let s := if s.cellar.expiredExtra ≠ 0 then raise s 0x42 0 0 [(8, 0), (8, 0), (4, s.cellar.expiredExtra)] else s
  { s with cellar.sec := ctrAdd s.cellar.sec 1, cellar.expiredThisSec := 0, cellar.expiredExtra := 0 }

/-- A PARKED session expires; its commands complete EXPIRED (R55). -/
def expireSession (s : State) (idx : Nat) : State :=
  expire ((sessJobs s idx).foldl (fun s j => failJob s idx j.seq (ans stExpired)) s) idx

def execCaskExpiry (s : State) : Out :=
  .next (if running s then
      let s := secondEnds s
      s.cellar.sess.foldl (fun s p =>
        if p.2.state = stPARKED ∧ p.2.reviving = false ∧ p.2.expirySec ≤ s.cellar.sec then expireSession s p.1 else s) s
    else s)

def execCellarSecSave (s : State) : Out :=
  .next (if running s then { s with oast.cfg.cellarSec := s.cellar.sec } else s)

def execHoldExpiry (index : Nat) (s : State) : Out :=
  .next (match sessAt s index with
    | some x =>
      if (x.state = stABSENT ∨ x.state = stEXPIRED) ∧ x.incoming = false ∧ x.expirySec ≤ s.cellar.sec then
        freeIndex s index
      else s
    | none => s)

/-! ### Reservations and groups that never come (R162, R173, R182) -/

/-- An append that ends WRONG_STATE: its committed positions stay (R182). -/
def endAppendWrong (s : State) (idx : Nat) (j : Job) : State :=
  match j.kind, sessAt s idx with
  | .append _ mode tail _ added _, some x =>
    let n := if mode = 1 then added - tail.length else added
    failJob (rack s idx 4 0 plainDelta) idx j.seq
      { status := stWrongState, detail := 0, body := lay [(4, x.position), (4, n)], handle := none }
  | _, _ => s

/-- A condense given up: the session stays WARM (R173). -/
def dropCondense (s : State) (idx seq st : Nat) : State :=
  let s := modSess (dropResvOf s seq idx) idx fun y => { y with condensing := false, condDone := false, condPage := none, condSlots := 0, byPressure := false }
  let s := { s with mash.items := s.mash.items.filter fun i => !(i.sess == idx && i.phase == 5) }
  if seq = noSeq then settleWarm s idx else settleWarm (complete s seq (ans st)) idx

/-- The receiver's refusal of an offer whose frames never came (R337). -/
def refuseIncoming (s : State) (handle st : Nat) : State :=
  match s.rack.inn.find? fun m => m.img.handle == handle with
  | none => s
  | some m =>
    let s := { s with rack.inn := s.rack.inn.filter fun k => k.img.handle != handle }
    let s := match sessByHandle s handle with
      | some x => if x.incoming then freeIndex (releaseAll s x.idx) x.idx else s
      | none => s
    sendMsg s m.src 0 0 0 0 false (.offerRefused handle st)

def failReservation (s : State) (r : Resv) : State :=
  let s := { s with cellar.cnt.noMem := ctrAdd s.cellar.cnt.noMem 1 }
  match s.rack.inn.find? fun m => m.resv == r.id with
  | some m => refuseIncoming (dropResv s r.id) m.img.handle stNoMemory
  | none =>
    match jobOf s r.seq with
    | some j =>
      (match j.kind with
        | .condense _ => dropCondense s r.sess r.seq stNoMemory
        | _ => failJob (dropResv s r.id) r.sess r.seq (ans stNoMemory))
    | none =>
      match sessAt s r.sess with
      | some x =>
        if x.reviving then failRevive s r.sess stNoMemory
        else if x.condensing then dropCondense s r.sess noSeq stNoMemory
        else dropResv s r.id
      | none => dropResv s r.id

/-- A reservation not granted within `reserve_wait` mash cycles (R162). -/
def execReserveTimeout (rid : Nat) (s : State) : Out :=
  .next (match resvOf s rid with
    | some r =>
      if r.granted = false ∧ r.sinceCycle + reserveWait s ≤ s.mash.cycleCnt then pump (failReservation s r) r.sess else s
    | none => s)

/-- An item that no group could take for `reserve_wait` consecutive mash cycles ends its command (R182). -/
def execNoGroupTimeout (item : Nat) (s : State) : Out :=
  .next (match itemOf s item with
    | some it =>
      let isExpert : Bool := match it.kind with
        | .expert .. => true
        | _ => false
      if it.noGroup < reserveWait s ∨ it.entry.isSome ∨ isExpert then s
      else
        let s := dropItem s item
        match it.kind with
        | .condense 0 => s
        | .condense _ => pump (dropCondense s it.sess (condenseSeq s it.sess) stWrongState) it.sess
        | _ =>
          match jobOf s it.seq with
          | none => settleWarm s it.sess
          | some j =>
            match j.kind with
            | .append .. => pump (endAppendWrong s it.sess j) it.sess
            | .generate .. =>
              (match (sessAt s it.sess).bind (·.run) with
                | some r => if r.steps = 0 then pump (failJob s it.sess j.seq (ans stWrongState)) it.sess
                            else pump (endGenerate s it.sess 6) it.sess
                | none => pump (failJob s it.sess j.seq (ans stWrongState)) it.sess)
            | .query =>
              let s := { s with lauter.queries := s.lauter.queries.filter fun q => q.seq != j.seq }
              if j.session = 0 then complete s j.seq (ans stWrongState)
              else pump (failJob s (idxOf j.session) j.seq (ans stWrongState)) (idxOf j.session)
            | _ => s
    | none => s)

/-! ### Pressure (R163) -/

/-- Frames that clears, and the reclaims already started, will return to a die (R163): a park's pages, its list and its state
block; of a condense its pages only, since the extract keeps list and block. -/
def comingFrames (s : State) (d : Nat) : Nat :=
  runFrames (alloc s d).clearing +
  sumBy (fun p =>
    let x := p.2
    if x.homeDie ≠ d ∨ x.byPressure = false then 0
    else
      let own := framesOf ((x.pages.filter fun q => !q.isShared).flatMap (·.runs)) + framesOf (draftRuns x.blk)
      if (x.parking ∧ x.parkCancelled = false) ∨ (x.parkWait ∧ x.parkFull = false) then
        own + framesOf x.pageList + framesOf x.stateBlock
      else if x.condensing then own else 0) s.cellar.sess

def reclaimEnough (s : State) (d : Nat) : Bool :=
  decide (highMark s d + waitingFrames s d ≤ poolFree s d + comingFrames s d)

/-- One prefix-tree node's HBM pages freed; its record stays while casks refer to it. -/
def reclaimNode (s : State) (n : Node) : State :=
  let s := freeRuns s n.die n.runs
  nodeReap (modNode s n.id fun m => { m with inHbm := false, runs := [] }) n.id

/-- Nodes first, least recently linked; then WARM sessions with nothing outstanding, longest WARM first. -/
def reclaim (s : State) (d : Nat) : State :=
  let ns := sortBy (fun (a b : Node) => decide (a.lastLinked < b.lastLinked))
    ((s.cellar.nodes.map (·.2)).filter fun n => n.die == d && n.inHbm && n.links == 0)
  let s := ns.foldl (fun s n => if reclaimEnough s d then s else reclaimNode s n) s
  let xs := sortBy (fun (a b : Sess) => decide (a.warmSince < b.warmSince))
    ((s.cellar.sess.map (·.2)).filter fun x => x.homeDie == d && x.state == stWARM && x.outstanding == 0 && !x.parking &&
      !x.condensing && !x.parkWait)
  xs.foldl (fun s x =>
    if reclaimEnough s d then s
    else
      let s' := retireSession s x.idx
      match sessAt s' x.idx with
      | some y => if y.parking ∨ y.condensing ∨ (y.parkWait ∧ y.parkFull = false) then
          modSess { s' with cellar.cnt.pressure := ctrAdd s'.cellar.cnt.pressure 1 } x.idx fun z => { z with byPressure := true }
        else s'
      | none => s') s

def execPressureReclaim (die : Nat) (s : State) : Out :=
  .next (if running s ∧ s.cellar.pressureEn ∧ die < 4 ∧ underPressure s die then reclaim s die else s)

end Sys2Proof.Machine
end

