-- ==== Sys2Proof/Machine/SchedCmd.lean ====
section
/-! DEFINITION. Commands that set share classes, shapers, gate lists, service classes, slices and buddies, and the gate
lists' own events (R131, R138 to R141, R148, R149, R325, R328, R334). -/
namespace Sys2Proof.Machine

/-- SHARE_SET (R131). -/
def execShareSet (h : Hdr) (shareClass tenant weight rtRests : Nat) (s : State) : Out :=
  .next (syncCmd s h { code := 0x0502, isAsync := false, tenantRule := 0, sessRule := 0 } 40
    (fun _ => [(decide (shareClass ≥ 4096), 24), (decide (weight = 0 ∨ weight > 1048576), 28), (decide (rtRests > 1024), 32)])
    (fun s =>
      let old := (classOf s shareClass).tenant
      let used := s.cellar.sess.any fun p => p.2.share == shareClass && p.2.state != stEXPIRED && p.2.state != stABSENT &&
        (if old = 0 then p.2.tenant != tenant && tenant != 0 else p.2.tenant == old)
      if tenant ≠ old ∧ used then (s, ans stWrongState)
      else (modClass s shareClass fun c => { c with tenant := tenant, weight := weight, rtRests := rtRests }, ansB [])))

/-- SHAPER_SET (R138): a new bucket starts full, a changed one keeps its tokens, a removal applies at the next refill. -/
def execShaperSet (h : Hdr) (tenant shaper rate burst : Nat) (s : State) : Out :=
  .next (syncCmd s h { code := 0x0503, isAsync := false, tenantRule := 0, sessRule := 0 } 48
    (fun _ =>
      let off := rate = 0 ∧ burst = 0
      [(tenant == 0, 24), (decide (shaper > 1), 26), (decide (¬off ∧ (rate < 1000000 ∨ 2000000000000 < rate)), 32),
       (decide (¬off ∧ (burst < 65536 ∨ 2 ^ 40 < burst)), 40)])
    (fun s =>
      let k := 2 * tenant + shaper
      if rate = 0 then ({ s with mash.shapers := tmod s.mash.shapers k fun b => { b with removing := true } }, ansB [])
      else match tget s.mash.shapers k with
        | some b => ({ s with mash.shapers := tput s.mash.shapers k { b with rate := rate, burst := burst, removing := false } }, ansB [])
        | none =>
          let b : Shaper := { rate := rate, burst := burst, tokens := burst, frac := 0, removing := false }
          ({ s with mash.shapers := tput s.mash.shapers k b }, ansB [])))

/-! ### Gate lists -/

/-- Whether class `c` is open in some entry but has no contiguous window of 512 FABRIC cycles (R140). -/
def tooNarrow (l : List (Nat × Nat)) (c : Nat) : Bool :=
  l.any (fun e => bit e.2 c) && (List.range l.length).all fun i => decide (openRun l c l.length i < 512)

/-- GATE_LIST_LOAD (R48, R140, R141). -/
def execGateListLoad (h : Hdr) (port count activateAt : Nat) (entries : List (Nat × Nat)) (s : State) : Out :=
  .next (syncCmd s h { code := 0x0504, isAsync := false, tenantRule := 0, sessRule := 0 } (40 + 8 * count)
    (fun _ =>
      [(decide (port > 7), 24), (decide (count > 256), 26), ((List.range 7).any (tooNarrow entries), 40)] ++
      (List.range entries.length).map fun i => (decide ((lget entries i (1, 0)).1 = 0), 40 + 8 * i))
    (fun s =>
      if activateAt ≤ s.dev.localCtr then (s, ans stLate)
      else ({ s with mash.gates := lmod s.mash.gates port fun g =>
                { g with pending := some { entries := entries, activateAt := activateAt } } }, ansB [])))

/-- A pending gate list takes over at its time; the old one stops within its entry (R141). -/
def execGateListActivate (port : Nat) (s : State) : Out :=
  .next (match (lget s.mash.gates port default).pending with
    | none => s
    | some p =>
      if running s = false then s
      else
        let s := advanceTo s p.activateAt
        gateRelease { s with mash.gates := lmod s.mash.gates port fun g =>
          { g with active := if p.entries = [] then none else some p.entries, entry := 0, entrySince := p.activateAt,
                   pending := none } } port)

/-- Local cycles of `f` FABRIC cycles (R406). -/
def localOfFab (s : State) (f : Nat) : Nat := ceilDiv (f * s.dev.clk.fabricNow) (max 1 s.dev.clk.arithNow)

/-- The current entry of a port's list has run its duration (R140). -/
def execGateEntryAdvance (port : Nat) (s : State) : Out :=
  .next (match (lget s.mash.gates port default).active with
    | none => s
    | some l =>
      if running s = false then s
      else
        let g := lget s.mash.gates port default
        let due := g.entrySince + localOfFab s (lget l g.entry (0, 0)).1
        let s := advanceTo s due
        gateRelease { s with mash.gates := lmod s.mash.gates port fun g =>
          { g with entry := (g.entry + 1) % max 1 l.length, entrySince := due } } port)

/-! ### Service classes -/

/-- SERVICE_CLASS_SET (R148, R149). -/
def execServiceClassSet (h : Hdr) (cls scFlags pageMaxLog2 dwellMs ttlS condenseSlots : Nat) (s : State) : Out :=
  .next (syncCmd s h { code := 0x0505, isAsync := false, tenantRule := 0, sessRule := 0 } 40
    (fun _ => [(decide (scFlags ≥ 4), 25), (decide (pageMaxLog2 < 4 ∨ 11 < pageMaxLog2), 26),
      (decide ((dwellMs < 1 ∨ 3600000 < dwellMs) ∧ dwellMs ≠ 0xFFFFFFFF), 28), (decide (ttlS < 1 ∨ 2592000 < ttlS), 32),
      (!([0, 64, 128, 256, 512, 1024].contains condenseSlots), 36)])
    (fun s =>
      let c : ServiceClass :=
        { dwellMs := dwellMs, ttlS := ttlS, pageMaxLog2 := pageMaxLog2, flags := scFlags,
          condenseSlots := if condenseSlots = 0 then (serviceOf s cls).condenseSlots else condenseSlots }
      ({ s with cellar.classes := tput s.cellar.classes cls c }, ansB [])))

/-! ### Slices -/

/-- Whether a slice holds a model, a corpus, a table or a frame (R325). -/
def sliceBusy (s : State) (sl : Nat) : Bool :=
  s.models.models.any (fun m => m.2.slice == sl) || s.lauter.corpora.any (fun c => c.2.cfg.slice == sl) ||
  s.rows.tables.any (fun t => t.2.slice == sl) || (List.range 4).any fun d => decide (sliceHeld s sl d > 0)

/-- SLICE_SET (R325). -/
def execSliceSet (h : Hdr) (slice tiles lanes pcs : Nat) (s : State) : Out :=
  .next (syncCmd s h { code := 0x0601, isAsync := false, tenantRule := 0, sessRule := 0 } 240
    (fun s =>
      let others := (List.range 16).filter (· != slice)
      let clash (f : Slice → Nat) (m : Nat) : Bool := others.any fun o => (f (lget s.fab.slices o default)) &&& m != 0
      [(decide (slice > 15), 24), (clash (·.tiles) tiles, 32), (clash (·.lanes) lanes, 40), (clash (·.pcs) pcs, 48)])
    (fun s =>
      let s' := { s with fab.slices := lmod s.fab.slices slice fun _ => { tiles := tiles, lanes := lanes, pcs := pcs } }
      let low := (List.range 4).any fun d => decide (sliceQuota s' slice d < sliceHeld s slice d)
      if low ∨ (tiles = 0 ∧ lanes = 0 ∧ pcs = 0 ∧ sliceBusy s slice) then (s, ans stWrongState) else (s', ansB [])))

/-! ### Buddies (R328, R334) -/

/-- A CLOSE record for the copy an old buddy holds. -/
def closeAt (s : State) (peer : Nat) (x : Sess) : State :=
  let r : RackRec := { session := handleOf x, epoch := x.epoch, rackSeq := x.rackSeq, rkind := 11, rflags := 0,
                       slice := sliceOfSess s x, tenant := x.tenant, kvBytes := 0, descBytes := 0, position := x.position,
                       image := imageOf s x }
  sendMsg s peer 1 (sliceOfSess s x) 7 x.tenant false (.rack r)

/-- The sessions of a slice that are racked, ACTIVE ones first. -/
def rackedOf (s : State) (sl : Nat) : List Sess :=
  let l := (s.cellar.sess.map (·.2)).filter fun x =>
    sliceOfSess s x == sl && !optsOut s x && x.state != stABSENT && x.state != stEXPIRED && !x.lostMark
  l.filter (fun x => x.state == stACTIVE) ++ l.filter fun x => x.state != stACTIVE

/-- BUDDY_SET: the new buddy gets an IMAGE of every session of the slice, the old one a CLOSE; with no buddy every
unacknowledged record counts as acknowledged. -/
def execBuddySet (h : Hdr) (slice buddyPeer : Nat) (s : State) : Out :=
  .next (syncCmd s h { code := 0x0603, isAsync := false, tenantRule := 0, sessRule := 0 } 32
    (fun s => [(decide (slice > 15), 24),
      (buddyPeer != 0 && (buddyPeer == s.fab.self || (routeOf s buddyPeer).isNone), 26)])
    (fun s =>
      let old := lget s.fab.buddies slice 0
      let s := { s with fab.buddies := lmod s.fab.buddies slice fun _ => buddyPeer }
      let s := match routeOf s buddyPeer with
        | some m => if buddyPeer ≠ 0 ∧ upPorts s m ≠ [] then modPeer s buddyPeer fun p => { p with lost := false } else s
        | none => s
      if old = buddyPeer ∧ buddyPeer ≠ 0 ∧ (rackedOf s slice).all (fun x => x.rackAcked == x.rackSeq) then (s, ansB [])
      else
        let s := (rackedOf s slice).foldl (fun s x =>
          let s := if old ≠ 0 ∧ old ≠ buddyPeer then closeAt s old x else s
          if buddyPeer = 0 then afterAck (modSess s x.idx fun y => { y with rackAcked := y.rackSeq, rackBusy := false }) x.idx
          else rack s x.idx 13 (kvBytesOf s x) plainDelta) s
        (s, ansB [])))

end Sys2Proof.Machine
end

