-- ==== Sys2Proof/Machine/Dispatch.lean ====
section
/-! DEFINITION. The meaning of every command: one direct call per row of the command table. -/
namespace Sys2Proof.Machine

def exec (i : Instr) (s : State) : Host.Outcome State Fault Refusal :=
  match i with
  | .sessionOpen h model serviceClass vocab grammar shareClass seed => Sys2Proof.Machine.execSessionOpen h model serviceClass vocab grammar shareClass seed s
  | .sessionAppend h inPolicy inMode count tail => Sys2Proof.Machine.execSessionAppend h inPolicy inMode count tail s
  | .sessionGenerate h g => Sys2Proof.Machine.execSessionGenerate h g s
  | .sessionPark h => Sys2Proof.Machine.execSessionPark h s
  | .sessionRevive h => Sys2Proof.Machine.execSessionRevive h s
  | .sessionCondense h slots => Sys2Proof.Machine.execSessionCondense h slots s
  | .sessionClose h => Sys2Proof.Machine.execSessionClose h s
  | .sessionQuery h => Sys2Proof.Machine.execSessionQuery h s
  | .sessionMigrateOffer h destPeer => Sys2Proof.Machine.execSessionMigrateOffer h destPeer s
  | .sessionMigrateAccept h srcPeer epoch digest => Sys2Proof.Machine.execSessionMigrateAccept h srcPeer epoch digest s
  | .bungQuery h peer => Sys2Proof.Machine.execBungQuery h peer s
  | .modelRegister h model modelKind slice weights => Sys2Proof.Machine.execModelRegister h model modelKind slice weights s
  | .modelWarm h model => Sys2Proof.Machine.execModelWarm h model s
  | .modelEvict h model => Sys2Proof.Machine.execModelEvict h model s
  | .draftBind h model draft kMax => Sys2Proof.Machine.execDraftBind h model draft kMax s
  | .segmentLoad h model phase groupTiles batch segment => Sys2Proof.Machine.execSegmentLoad h model phase groupTiles batch segment s
  | .vocabLoad h vocab table => Sys2Proof.Machine.execVocabLoad h vocab table s
  | .grammarLoad h grammar vocab table => Sys2Proof.Machine.execGrammarLoad h grammar vocab table s
  | .lauterQuery h q => Sys2Proof.Machine.execLauterQuery h q s
  | .corpusInsert h corpus shard count pubSeq tail => Sys2Proof.Machine.execCorpusInsert h corpus shard count pubSeq tail s
  | .corpusDelete h corpus shard count pubSeq nodes => Sys2Proof.Machine.execCorpusDelete h corpus shard count pubSeq nodes s
  | .corpusPublish h corpus shard pubSeq => Sys2Proof.Machine.execCorpusPublish h corpus shard pubSeq s
  | .shardMapSet h corpus count entries => Sys2Proof.Machine.execShardMapSet h corpus count entries s
  | .recallProbe h corpus shard k beam sample => Sys2Proof.Machine.execRecallProbe h corpus shard k beam sample s
  | .tableCreate h table dim rows format optimiser => Sys2Proof.Machine.execTableCreate h table dim rows format optimiser s
  | .rowLookup h table pooling bags lens idx => Sys2Proof.Machine.execRowLookup h table pooling bags lens idx s
  | .rowUpdate h table count lr recs => Sys2Proof.Machine.execRowUpdate h table count lr recs s
  | .tableReplaceBegin h table => Sys2Proof.Machine.execTableReplaceBegin h table s
  | .tableReplaceRows h table count firstRow rows => Sys2Proof.Machine.execTableReplaceRows h table count firstRow rows s
  | .tableReplaceCommit h table => Sys2Proof.Machine.execTableReplaceCommit h table s
  | .hotsetSet h table refreshUs count rows => Sys2Proof.Machine.execHotsetSet h table refreshUs count rows s
  | .mashLoad h activateAt table => Sys2Proof.Machine.execMashLoad h activateAt table s
  | .shareSet h shareClass tenant weight rtRests => Sys2Proof.Machine.execShareSet h shareClass tenant weight rtRests s
  | .shaperSet h tenant shaper rate burst => Sys2Proof.Machine.execShaperSet h tenant shaper rate burst s
  | .gateListLoad h port count activateAt entries => Sys2Proof.Machine.execGateListLoad h port count activateAt entries s
  | .serviceClassSet h cls scFlags pageMaxLog2 dwellMs ttlS condenseSlots => Sys2Proof.Machine.execServiceClassSet h cls scFlags pageMaxLog2 dwellMs ttlS condenseSlots s
  | .sliceSet h slice tiles lanes pcs => Sys2Proof.Machine.execSliceSet h slice tiles lanes pcs s
  | .routeSet h count entries => Sys2Proof.Machine.execRouteSet h count entries s
  | .buddySet h slice buddyPeer => Sys2Proof.Machine.execBuddySet h slice buddyPeer s
  | .spareAdopt h failedPeer buddyPeer => Sys2Proof.Machine.execSpareAdopt h failedPeer buddyPeer s
  | .ckptStart h generation gateways peers => Sys2Proof.Machine.execCkptStart h generation gateways peers s
  | .ckptStatus h generation => Sys2Proof.Machine.execCkptStatus h generation s
  | .restoreStart h manifest => Sys2Proof.Machine.execRestoreStart h manifest s
  | .attest h nonce => Sys2Proof.Machine.execAttest h nonce s
  | .tenantCreate h tenant => Sys2Proof.Machine.execTenantCreate h tenant s
  | .tenantRemove h tenant => Sys2Proof.Machine.execTenantRemove h tenant s
  | .keyInstall h keyKind blobLen blob => Sys2Proof.Machine.execKeyInstall h keyKind blobLen blob s
  | .csrRead h address count => Sys2Proof.Machine.execCsrRead h address count s
  | .csrWrite h address count values => Sys2Proof.Machine.execCsrWrite h address count values s
  | .calSet h item value => Sys2Proof.Machine.execCalSet h item value s
  | .clockSet h item value => Sys2Proof.Machine.execClockSet h item value s
  | .resultRead h target offset readLen => Sys2Proof.Machine.execResultRead h target offset readLen s
  | .resultRelease h target => Sys2Proof.Machine.execResultRelease h target s
  | .eventRead h fromSeq max => Sys2Proof.Machine.execEventRead h fromSeq max s
  | .firmwareStage h image => Sys2Proof.Machine.execFirmwareStage h image s
  | .firmwareActivate h version => Sys2Proof.Machine.execFirmwareActivate h version s
  | .nop h => Sys2Proof.Machine.execNop h s
  | .shutdown h => Sys2Proof.Machine.execShutdown h s
  | .warmReset h => Sys2Proof.Machine.execWarmReset h s
  | .coldReset h => Sys2Proof.Machine.execColdReset h s
  | .deferredReset => Sys2Proof.Machine.execDeferredReset s
  | .quiesce h => Sys2Proof.Machine.execQuiesce h s
  | .clearNmi h clock => Sys2Proof.Machine.execClearNmi h clock s
  | .sbAlertClear mask => Sys2Proof.Machine.execSbAlertClear mask s
  | .sbSetAddr address len => Sys2Proof.Machine.execSbSetAddr address len s
  | .sbRead => Sys2Proof.Machine.execSbRead s
  | .sbWrite data => Sys2Proof.Machine.execSbWrite data s
  | .jtagInstruction code => Sys2Proof.Machine.execJtagInstruction code s
  | .hsHello port hsFlags nonceC => Sys2Proof.Machine.execHsHello port hsFlags nonceC s
  | .hsCt port ct macC newOwner => Sys2Proof.Machine.execHsCt port ct macC newOwner s
  | .handshakeTimeout port => Sys2Proof.Machine.execHandshakeTimeout port s
  | .glFrameReceive port f tagOk => Sys2Proof.Machine.execGlFrameReceive port f tagOk s
  | .glResendTimeout port => Sys2Proof.Machine.execGlResendTimeout port s
  | .glKeepalive port => Sys2Proof.Machine.execGlKeepalive port s
  | .glPortDown port => Sys2Proof.Machine.execGlPortDown port s
  | .fabFrameReceive f authOk => Sys2Proof.Machine.execFabFrameReceive f authOk s
  | .fabResendTimeout peer tclass => Sys2Proof.Machine.execFabResendTimeout peer tclass s
  | .fabKeepalive peer => Sys2Proof.Machine.execFabKeepalive peer s
  | .peerLost peer => Sys2Proof.Machine.execPeerLost peer s
  | .fabHandshake peer r macOk => Sys2Proof.Machine.execFabHandshake peer r macOk s
  | .fabPortDown port => Sys2Proof.Machine.execFabPortDown port s
  | .fabPortUp port lanes => Sys2Proof.Machine.execFabPortUp port lanes s
  | .gateListActivate port => Sys2Proof.Machine.execGateListActivate port s
  | .restBoundary => Sys2Proof.Machine.execRestBoundary s
  | .fenceCheck die tile copy => Sys2Proof.Machine.execFenceCheck die tile copy s
  | .copyComplete die tile copy cycle => Sys2Proof.Machine.execCopyComplete die tile copy cycle s
  | .copyAbandon die tile copy => Sys2Proof.Machine.execCopyAbandon die tile copy s
  | .postRecord die session entry r => Sys2Proof.Machine.execPostRecord die session entry r s
  | .stepCommit item => Sys2Proof.Machine.execStepCommit item s
  | .rackRecord src r => Sys2Proof.Machine.execRackRecord src r s
  | .rackAck peer session rackSeq => Sys2Proof.Machine.execRackAck peer session rackSeq s
  | .fencedReceived peer slice => Sys2Proof.Machine.execFencedReceived peer slice s
  | .adoptFreezeRequest spare failed => Sys2Proof.Machine.execAdoptFreezeRequest spare failed s
  | .handover src sessions => Sys2Proof.Machine.execHandover src sessions s
  | .adoptPullDone seq images => Sys2Proof.Machine.execAdoptPullDone seq images s
  | .migrateOfferMsg src image => Sys2Proof.Machine.execMigrateOfferMsg src image s
  | .offerReply src session status => Sys2Proof.Machine.execOfferReply src session status s
  | .migrateEnd src session digest image => Sys2Proof.Machine.execMigrateEnd src session digest image s
  | .migrateMatchReply src session digest isMatch => Sys2Proof.Machine.execMigrateMatchReply src session digest isMatch s
  | .migrateCommitMsg src session epoch => Sys2Proof.Machine.execMigrateCommitMsg src session epoch s
  | .migrateReleased src session => Sys2Proof.Machine.execMigrateReleased src session s
  | .migrateAbort src session epoch => Sys2Proof.Machine.execMigrateAbort src session epoch s
  | .bungAsk src session epoch => Sys2Proof.Machine.execBungAsk src session epoch s
  | .bungAnswer src session committed owner => Sys2Proof.Machine.execBungAnswer src session committed owner s
  | .bungAskTimeout session => Sys2Proof.Machine.execBungAskTimeout session s
  | .revokeNotice src tenant => Sys2Proof.Machine.execRevokeNotice src tenant s
  | .expertTokens src model expert payer tokens => Sys2Proof.Machine.execExpertTokens src model expert payer tokens s
  | .searchRequest r => Sys2Proof.Machine.execSearchRequest r s
  | .candidateReply src qid shard status cands => Sys2Proof.Machine.execCandidateReply src qid shard status cands s
  | .textFetchRequest src qid tenant corpus shard nodes => Sys2Proof.Machine.execTextFetchRequest src qid tenant corpus shard nodes s
  | .replicaDeadline qid shard => Sys2Proof.Machine.execReplicaDeadline qid shard s
  | .mergeDeadline qid => Sys2Proof.Machine.execMergeDeadline qid s
  | .textFetchDeadline qid => Sys2Proof.Machine.execTextFetchDeadline qid s
  | .peerRequestExpire rid => Sys2Proof.Machine.execPeerRequestExpire rid s
  | .repairSweep corpus shard => Sys2Proof.Machine.execRepairSweep corpus shard s
  | .objectFetchDone seq result => Sys2Proof.Machine.execObjectFetchDone seq result s
  | .putDone shardIndex => Sys2Proof.Machine.execPutDone shardIndex s
  | .putFail shardIndex => Sys2Proof.Machine.execPutFail shardIndex s
  | .dwellExpiry session => Sys2Proof.Machine.execDwellExpiry session s
  | .parkComplete session => Sys2Proof.Machine.execParkComplete session s
  | .reviveComplete session => Sys2Proof.Machine.execReviveComplete session s
  | .condenseCommit session => Sys2Proof.Machine.execCondenseCommit session s
  | .caskExpiry => Sys2Proof.Machine.execCaskExpiry s
  | .cellarSecSave => Sys2Proof.Machine.execCellarSecSave s
  | .holdExpiry index => Sys2Proof.Machine.execHoldExpiry index s
  | .reservationGranted rid => Sys2Proof.Machine.execReservationGranted rid s
  | .reserveTimeout rid => Sys2Proof.Machine.execReserveTimeout rid s
  | .reviveBuddyTimeout session => Sys2Proof.Machine.execReviveBuddyTimeout session s
  | .noGroupTimeout item => Sys2Proof.Machine.execNoGroupTimeout item s
  | .pressureReclaim die => Sys2Proof.Machine.execPressureReclaim die s
  | .tokeniseDone seq => Sys2Proof.Machine.execTokeniseDone seq s
  | .modelWarmDone model => Sys2Proof.Machine.execModelWarmDone model s
  | .modelEvictDone model => Sys2Proof.Machine.execModelEvictDone model s
  | .hotRefresh table => Sys2Proof.Machine.execHotRefresh table s
  | .flashProgramDone wid ok => Sys2Proof.Machine.execFlashProgramDone wid ok s
  | .flashEraseDone lun block ok => Sys2Proof.Machine.execFlashEraseDone lun block ok s
  | .flashReadDone rid outcome => Sys2Proof.Machine.execFlashReadDone rid outcome s
  | .gcStart lun => Sys2Proof.Machine.execGcStart lun s
  | .pslcRecompute => Sys2Proof.Machine.execPslcRecompute s
  | .wearGovernorTick => Sys2Proof.Machine.execWearGovernorTick s
  | .powerSecSave => Sys2Proof.Machine.execPowerSecSave s
  | .patrolRead lun block retried => Sys2Proof.Machine.execPatrolRead lun block retried s
  | .lunTimeout lun => Sys2Proof.Machine.execLunTimeout lun s
  | .oastMountDone => Sys2Proof.Machine.execOastMountDone s
  | .keyStoreWriteDone => Sys2Proof.Machine.execKeyStoreWriteDone s
  | .sramEccError tile double => Sys2Proof.Machine.execSramEccError tile double s
  | .tileSelfTestDone tile pass => Sys2Proof.Machine.execTileSelfTestDone tile pass s
  | .hbmError kind stack pc row frame => Sys2Proof.Machine.execHbmError kind stack pc row frame s
  | .dieLost die => Sys2Proof.Machine.execDieLost die s
  | .supplyInputChange input volt => Sys2Proof.Machine.execSupplyInputChange input volt s
  | .supplyQualified input => Sys2Proof.Machine.execSupplyQualified input s
  | .supplyLost => Sys2Proof.Machine.execSupplyLost s
  | .holdupEnd => Sys2Proof.Machine.execHoldupEnd s
  | .sensorSample vinMain vinBackup pinW temps => Sys2Proof.Machine.execSensorSample vinMain vinBackup pinW temps s
  | .throttleUpdate => Sys2Proof.Machine.execThrottleUpdate s
  | .thermtrip => Sys2Proof.Machine.execThermtrip s
  | .oscillatorStable osc => Sys2Proof.Machine.execOscillatorStable osc s
  | .refclkStartTimeout => Sys2Proof.Machine.execRefclkStartTimeout s
  | .clockMonWindow count => Sys2Proof.Machine.execClockMonWindow count s
  | .monclkAbsent => Sys2Proof.Machine.execMonclkAbsent s
  | .resetPin => Sys2Proof.Machine.execResetPin s
  | .glitchReset => Sys2Proof.Machine.execGlitchReset s
  | .replyHoldExpiry seq => Sys2Proof.Machine.execReplyHoldExpiry seq s
  | .gateEntryAdvance port => Sys2Proof.Machine.execGateEntryAdvance port s
  | .frameClearDone die start => Sys2Proof.Machine.execFrameClearDone die start s
  | .abortMarkExpiry session epoch => Sys2Proof.Machine.execAbortMarkExpiry session epoch s
  | .textFetchReply src qid texts => Sys2Proof.Machine.execTextFetchReply src qid texts s

end Sys2Proof.Machine
end

