-- ==== Sys2Proof/Machine/Idle.lean ====
section
/-! DEFINITION. What the block does on an empty queue: the local counter counts (R414; log entry 5). -/
namespace Sys2Proof.Machine

/-- One cycle of the ungated ARITH base clock, once the PLL is locked and while the load is powered. -/
def idle (s : State) : State :=
  if s.dev.powered && s.dev.clk.pllLocked then { s with dev.localCtr := ctrAdd s.dev.localCtr 1 } else s

end Sys2Proof.Machine
end

