-- ==== Sys2Proof/Safety.lean ====
section
/-! DEFINITION. What the statements speak of: a step that ends in a next state, the control part of a state, and the
invariant that its registers keep. -/
namespace Sys2Proof.Machine

/-- A step or a command that answers a next state. -/
def Completes (o : Host.Outcome State Fault Refusal) : Prop := ∃ t, o = .next t

/-- The control part of a state: the queue, HBM, the clock block, the throttle levels, and the registers that only a
register write, a calibration of the clock block or a reset changes. -/
structure Ctl where
  queue : List Instr
  hbm : Mem
  clk : Clocks
  hThermal : Nat
  hPower : Nat
  level : Nat
  pwrLimit : Nat
  jtag : Nat
  alertEn : Nat
  evMask : Nat
  slowThr : Nat
  reserveWait : Nat
  indexBase : Nat
  indexLimit : Nat
  wmLow : Nat
  wmHigh : Nat
  absentHold : Nat
  expiredHold : Nat
  deadlineDef : Nat
  linkBeam : Nat
  alpha : Nat
  hotKib : Nat
  rowsSlice : Nat
  gcStart : Nat
  gcUrgent : Nat
  wlGap : Nat
  ratedCycles : Nat
  targetYears : Nat
  waInit : Nat
  bankS : Nat
  peerTimeoutUs : Nat
  rackHbmMax : Nat
  chainMax : Nat
  stageGib : Nat
deriving DecidableEq, Repr

def State.ctl (s : State) : Ctl :=
  { queue := s.pending, hbm := s.mill.hbm, clk := s.dev.clk, hThermal := s.dev.thr.hThermal, hPower := s.dev.thr.hPower,
    level := s.dev.thr.level, pwrLimit := s.dev.pwrLimit, jtag := s.sb.jtag, alertEn := s.sb.alertEn, evMask := s.gl.evMask,
    slowThr := s.mash.slowThr, reserveWait := s.cellar.reserveWait, indexBase := s.cellar.indexBase,
    indexLimit := s.cellar.indexLimit, wmLow := s.cellar.wmLow, wmHigh := s.cellar.wmHigh, absentHold := s.cellar.absentHold,
    expiredHold := s.cellar.expiredHold, deadlineDef := s.lauter.deadlineDef, linkBeam := s.lauter.linkBeam,
    alpha := s.lauter.alpha, hotKib := s.rows.hotKib, rowsSlice := s.rows.rowsSlice, gcStart := s.oast.gcStart,
    gcUrgent := s.oast.gcUrgent, wlGap := s.oast.wlGap, ratedCycles := s.oast.ratedCycles, targetYears := s.oast.targetYears,
    waInit := s.oast.waInit, bankS := s.oast.bankS, peerTimeoutUs := s.fab.peerTimeoutUs, rackHbmMax := s.fab.rackHbmMax,
    chainMax := s.ckpt.chainMax, stageGib := s.ckpt.stageGib }

/-- The dividers R406 allows, and the fields of CLK_MON_CFG and CLK_STATUS within their widths (R424). -/
def Clocks.ok (c : Clocks) : Bool :=
  [2, 3, 4].contains c.arithDiv && [3, 4, 6].contains c.ctrlDiv && [4, 6, 8].contains c.fabricDiv &&
  [2, 3, 4].contains c.arithNow && [3, 4, 6].contains c.ctrlNow && [4, 6, 8].contains c.fabricNow &&
  decide (c.monTol < 128) && decide (c.monDebounce < 16) && decide (c.rootSrc ≤ 1)

/-- Every control register holds a value its field can hold, h is the larger of the two throttle levels, none above 12
(R403, R404), and HBM is in its canonical form. -/
def Ctl.ok (c : Ctl) : Bool :=
  Memory.wf c.hbm && c.clk.ok && decide (c.hThermal ≤ 12) && decide (c.hPower ≤ 12) &&
  decide (c.level = max c.hThermal c.hPower) && decide (c.pwrLimit < 4096) && decide (c.jtag ≤ 3) &&
  decide (c.alertEn < 128) && decide (c.evMask < 131072) && decide (c.slowThr < 65536) && decide (c.reserveWait < 256) &&
  decide (c.indexBase < 16777216) && decide (c.indexLimit < 16777216) && decide (c.wmLow < 1024) && decide (c.wmHigh < 1024) &&
  decide (c.absentHold < 65536) && decide (c.expiredHold < 65536) && decide (c.deadlineDef < 1048576) &&
  decide (c.linkBeam < 2048) && decide (c.alpha < 256) && decide (c.hotKib < 32768) && decide (c.rowsSlice < 16) &&
  decide (c.gcStart < 256) && decide (c.gcUrgent < 256) && decide (c.wlGap < 4096) && decide (c.ratedCycles < 65536) &&
  decide (c.targetYears < 256) && decide (c.waInit < 65536) && decide (c.bankS < 65536) && decide (c.peerTimeoutUs < 4096) &&
  decide (c.rackHbmMax < 256) && decide (c.chainMax < 256) && decide (c.stageGib < 256)

/-- The invariant of a state. -/
def State.Inv (s : State) : Prop := s.ctl.ok = true

/-! ### Packets (R35 to R46) -/

/-- A row of R46: the opcode, whether it is asynchronous, the tenant rule and the session rule. -/
abbrev row (code : Nat) (isAsync : Bool) (tenantRule sessRule : Nat) : Cmd :=
  { code := code, isAsync := isAsync, tenantRule := tenantRule, sessRule := sessRule }

/-- The header of a command packet, its row of R46, and the offset at which its last field or tail byte ends; none for
an event. The size of a row record is that of the table it names. -/
def envelope (s : State) : Instr → Option (Hdr × Cmd × Nat)
  | .sessionOpen h _ _ _ _ _ _ => some (h, row 0x0101 false 1 0, 56)
  | .sessionAppend h _ mode count _ => some (h, row 0x0102 true 1 1, 32 + (if mode = 1 then 4 * count else count))
  | .sessionGenerate h g => some (h, row 0x0103 true 1 1, 56 + sumBy (fun st => 1 + st.length) g.stops)
  | .sessionPark h => some (h, row 0x0104 true 1 1, 24)
  | .sessionRevive h => some (h, row 0x0105 true 1 1, 24)
  | .sessionCondense h _ => some (h, row 0x0106 true 1 1, 26)
  | .sessionClose h => some (h, row 0x0107 false 1 1, 24)
  | .sessionQuery h => some (h, row 0x0108 false 1 1, 24)
  | .sessionMigrateOffer h _ => some (h, row 0x0109 true 1 1, 28)
  | .sessionMigrateAccept h _ _ _ => some (h, row 0x010A true 1 3, 64)
  | .bungQuery h _ => some (h, row 0x010B false 1 1, 28)
  | .modelRegister h _ _ _ _ => some (h, row 0x0201 true 1 0, 96)
  | .modelWarm h _ => some (h, row 0x0202 true 1 0, 28)
  | .modelEvict h _ => some (h, row 0x0203 true 1 0, 28)
  | .draftBind h _ _ _ => some (h, row 0x0204 false 1 0, 40)
  | .segmentLoad h _ _ _ _ _ => some (h, row 0x0205 true 1 0, 96)
  | .vocabLoad h _ _ => some (h, row 0x0206 true 0 0, 96)
  | .grammarLoad h _ _ _ => some (h, row 0x0207 true 1 0, 96)
  | .lauterQuery h q => some (h, row 0x0301 true 1 2, roundUp (96 + q.postLen) 8 + q.queryLen)
  | .corpusInsert h _ _ count _ tail => some (h, row 0x0302 false 1 0, 40 + recsEnd tail count)
  | .corpusDelete h _ _ count _ _ => some (h, row 0x0303 false 1 0, 40 + 4 * count)
  | .corpusPublish h _ _ _ => some (h, row 0x0304 false 1 0, 40)
  | .shardMapSet h _ count _ => some (h, row 0x0305 false 1 0, 32 + 8 * count)
  | .recallProbe h _ _ _ _ _ => some (h, row 0x0306 true 1 0, 40)
  | .tableCreate h _ _ _ _ _ => some (h, row 0x0401 false 1 0, 40)
  | .rowLookup h _ _ _ lens idx => some (h, row 0x0402 false 1 0, roundUp (32 + 2 * lens.length) 4 + 4 * idx.length)
  | .rowUpdate h table count _ _ =>
    some (h, row 0x0403 false 1 0, 32 + count * roundUp (4 + 2 * ((tableOf s table).map (·.dim)).getD 0) 4)
  | .tableReplaceBegin h _ => some (h, row 0x0404 false 1 0, 32)
  | .tableReplaceRows h table count _ _ =>
    some (h, row 0x0405 false 1 0, 32 + count * ((tableOf s table).map fun x => rowBytes x.format x.dim).getD 0)
  | .tableReplaceCommit h _ => some (h, row 0x0406 true 1 0, 32)
  | .hotsetSet h _ _ count _ => some (h, row 0x0407 false 1 0, 40 + 4 * count)
  | .mashLoad h _ _ => some (h, row 0x0501 true 0 0, 96)
  | .shareSet h _ _ _ _ => some (h, row 0x0502 false 0 0, 40)
  | .shaperSet h _ _ _ _ => some (h, row 0x0503 false 0 0, 48)
  | .gateListLoad h _ count _ _ => some (h, row 0x0504 false 0 0, 40 + 8 * count)
  | .serviceClassSet h _ _ _ _ _ _ => some (h, row 0x0505 false 0 0, 40)
  | .sliceSet h _ _ _ _ => some (h, row 0x0601 false 0 0, 240)
  | .routeSet h count _ => some (h, row 0x0602 false 0 0, 32 + 4 * count)
  | .buddySet h _ _ => some (h, row 0x0603 false 0 0, 32)
  | .spareAdopt h _ _ => some (h, row 0x0604 true 0 0, 32)
  | .ckptStart h _ gateways _ => some (h, row 0x0701 true 0 0, 32 + 2 * gateways)
  | .ckptStatus h _ => some (h, row 0x0702 false 0 0, 32)
  | .restoreStart h _ => some (h, row 0x0703 true 0 0, 88)
  | .attest h _ => some (h, row 0x0801 true 0 0, 56)
  | .tenantCreate h _ => some (h, row 0x0802 false 0 0, 32)
  | .tenantRemove h _ => some (h, row 0x0803 true 0 0, 32)
  | .keyInstall h _ len _ => some (h, row 0x0804 false 1 0, 32 + len)
  | .csrRead h _ _ => some (h, row 0x0901 false 0 0, 32)
  | .csrWrite h _ count _ => some (h, row 0x0902 false 0 0, 32 + 4 * count)
  | .calSet h _ _ => some (h, row 0x0903 false 0 0, 32)
  | .clockSet h _ _ => some (h, row 0x0904 false 0 0, 32)
  | .resultRead h _ _ _ => some (h, row 0x0905 false 2 0, 40)
  | .resultRelease h _ => some (h, row 0x0906 false 2 0, 32)
  | .eventRead h _ _ => some (h, row 0x0907 false 0 0, 32)
  | .firmwareStage h _ => some (h, row 0x0908 true 0 0, 88)
  | .firmwareActivate h _ => some (h, row 0x0909 false 0 0, 32)
  | .nop h => some (h, row 0x0000 false 2 0, 24)
  | .shutdown h => some (h, row 0x0902 false 0 0, 36)
  | .warmReset h => some (h, row 0x0902 false 0 0, 36)
  | .coldReset h => some (h, row 0x0902 false 0 0, 36)
  | .quiesce h => some (h, row 0x0902 false 0 0, 36)
  | .clearNmi h _ => some (h, row 0x0902 false 0 0, 36)
  | _ => none

/-- A packet that acceptance does not refuse before its own parameters: its port is up, its sequence is not in use, no
fault of R55 stands before them, no reserved byte is set (R10), the lifecycle allows it (R371), and the result store is
below its mark (R41). -/
def Ready (s : State) (i : Instr) : Prop :=
  match envelope s i with
  | none => False
  | some (h, c, endOff) =>
    portUp s h.port = true ∧ cmdRec s h.seq = none ∧ earlyFault s h c endOff = none ∧ h.badAt = none ∧
    deniedByLifecycle s h = false ∧ resultBytes s ≤ Config.resultHigh

/-- What waits on a port: contents sent and not acknowledged, then contents not yet in a frame (R29). -/
def outbox (s : State) (p : Nat) : List Content := (glPort s p).unacked.map (·.content) ++ (glPort s p).unsent.map (·.2)

/-- The answer a reply carries: NO_MEMORY without a body where the answer is to be retained and the result store would
pass its 4 GiB (R40; log entry 101). -/
def fitAns (s : State) (h : Hdr) (code : Nat) (a : Ans) : Ans :=
  if neverRetains code = false ∧ (bit h.flags 0 = true ∨ Config.replyMax < 24 + a.body.length) ∧
      Config.resultMax < resultBytes s + a.body.length then { a with status := stNoMemory, detail := 0, body := [] }
  else a

/-- The reply `kind` (0 FINAL, 1 INTERIM, 2 COMPLETION) with an answer, to the packet `h` of opcode `code`. A retained
body is shown by its first 256 bytes and its length (R38 to R40). -/
def isReply (h : Hdr) (code kind : Nat) (a : Ans) (r : Reply) : Prop :=
  r.seq = h.seq ∧ r.opcode = code ∧ r.kind = kind ∧ r.status = a.status ∧ r.detail = a.detail ∧
  r.session = a.handle.getD h.session ∧
  (if r.retained then r.resultLen = a.body.length ∧ r.body = a.body.take 256 else r.resultLen = 0 ∧ r.body = a.body)

/-- The packet's command is listed, and the reply goes out on the packet's port: it is in a frame, and then the command is
listed with it as its latest reply, or it still waits for its frame, and then the command's last-sent reply is `old`
(R29, R42). -/
def Replied (t : State) (h : Hdr) (code kind : Nat) (a : Ans) (old : Option Reply) : Prop :=
  ∃ c r, cmdRec t h.seq = some c ∧ c.opcode = code ∧ c.tenant = h.tenant ∧ isReply h code kind a r ∧
    ((.reply r ∈ (glPort t h.port).unacked.map (·.content) ∧ c.reply = some r) ∨
     (.reply r ∈ (glPort t h.port).unsent.map (·.2) ∧ c.reply = old))

/-- `t` is the state `u` of a synchronous command's effect with its FINAL reply: beside the reply only the ports, the
command list, the result store, the acceptance number and the tenant's count of jobs may differ (R39, R40, R143). -/
structure Answered (u t : State) (h : Hdr) (code : Nat) (a : Ans) : Prop where
  reply : Replied t h code 0 (fitAns u h code a) none
  others : ∀ q, q ≠ h.seq → cmdRec t q = cmdRec u q
  kept : ∀ r ∈ u.gl.results, r ∈ t.gl.results
  jobs : h.tenant = 0 ∨ neverRetains code = true ∨ countsJob (fitAns u h code a).status = false → t.mash.jobsDone = u.mash.jobsDone
  frame : t = { u with
    gl := { u.gl with g0 := t.gl.g0, g1 := t.gl.g1, cmds := t.gl.cmds, acceptNo := u.gl.acceptNo + 1, results := t.gl.results }
    mash.jobsDone := t.mash.jobsDone }

/-- `u` is the state `s` in which the packet was accepted as a running command: the INTERIM reply was sent, the job is
listed last with its kind, and the session of a session command counts one more outstanding command and stops its
dwell clock; beside these only the ports, the command list and the acceptance number differ (R39, R40, R147). -/
structure Accepted (s u : State) (h : Hdr) (c : Cmd) (kind : JobKind) : Prop where
  reply : Replied u h c.code 1 (ans stAccepted) none
  others : ∀ q, q ≠ h.seq → cmdRec u q = cmdRec s q
  listed : ∃ j : Job, u.gl.jobs = s.gl.jobs ++ [j] ∧ j.seq = h.seq ∧ j.port = h.port ∧ j.tenant = h.tenant ∧
    j.session = h.session ∧ j.kind = kind ∧ j.acceptedAt = s.dev.localCtr ∧ j.stage = 0
  session : u.cellar = if counted c h then
    { s.cellar with sess := tmod s.cellar.sess (idxOf h.session) fun x => { x with outstanding := x.outstanding + 1, dwellOn := false } }
    else s.cellar
  frame : u = { s with
    gl := { s.gl with g0 := u.gl.g0, g1 := u.gl.g1, cmds := u.gl.cmds, jobs := u.gl.jobs, acceptNo := s.gl.acceptNo + 1 }
    cellar := u.cellar }

/-- `u` is the state `s` in which a synchronous command was taken whose FINAL reply waits for its work: the job is listed
last with its kind, and the command is listed with no reply yet (R39, R42). -/
structure Held (s u : State) (h : Hdr) (c : Cmd) (kind : JobKind) : Prop where
  record : ∃ k, cmdRec u h.seq = some k ∧ k.opcode = c.code ∧ k.tenant = h.tenant ∧ k.reply = none
  others : ∀ q, q ≠ h.seq → cmdRec u q = cmdRec s q
  listed : ∃ j : Job, u.gl.jobs = s.gl.jobs ++ [j] ∧ j.seq = h.seq ∧ j.port = h.port ∧ j.tenant = h.tenant ∧
    j.session = h.session ∧ j.kind = kind ∧ j.acceptedAt = s.dev.localCtr ∧ j.stage = 0
  frame : u = { s with
    gl := { s.gl with g0 := u.gl.g0, g1 := u.gl.g1, cmds := u.gl.cmds, jobs := u.gl.jobs, acceptNo := s.gl.acceptNo + 1 } }

/-- `t` is `s` with the packet refused: the FINAL reply was sent, with no body, its sequence does not come into use, and
beside the ports nothing differs (R39, R42). -/
structure Refused (s t : State) (h : Hdr) (code status detail : Nat) : Prop where
  reply : ∃ r, isReply h code 0 (ansD status detail) r ∧ .reply r ∈ outbox t h.port
  frame : t = { s with gl := { s.gl with g0 := t.gl.g0, g1 := t.gl.g1 } }

/-! ### What a command that is taken does first and last -/

/-- A synchronous command after its effect, which left `v`: its sequence comes into use and its FINAL reply is sent (R39,
R40, R42). -/
def finalOn (v : State) (h : Hdr) (code : Nat) (a : Ans) : State := answerSync v h code (bit h.flags 0) a

/-- The job of a command taken at `v` (R39). -/
def jobOn (v : State) (h : Hdr) (c : Cmd) (kind : JobKind) : Job :=
  { seq := h.seq, port := h.port, tenant := h.tenant, session := h.session,
    opcode := c.code + (if bit h.flags 0 then 65536 else 0), no := v.gl.acceptNo, acceptedAt := v.dev.localCtr,
    stage := 0, kind := kind, text := [], behind := [] }

/-- A synchronous command taken at `v` whose FINAL reply waits for its work (R39). -/
def heldOn (v : State) (h : Hdr) (c : Cmd) (kind : JobKind) : State :=
  { v with
    gl.cmds := v.gl.cmds ++ [newRec v h c.code]
    gl.jobs := v.gl.jobs ++ [jobOn v h c kind]
    gl.acceptNo := v.gl.acceptNo + 1 }

/-- An asynchronous command taken at `v`: its sequence comes into use, its job is listed, its session counts it, and its
INTERIM reply is sent (R39, R147). -/
def acceptOn (v : State) (h : Hdr) (c : Cmd) (kind : JobKind) : State :=
  emit (if counted c h then
      modSess (heldOn v h c kind) (idxOf h.session) fun x => { x with outstanding := x.outstanding + 1, dwellOn := false }
    else heldOn v h c kind) h.port false (.reply (replyOf h c.code 1 (ans stAccepted)))

/-- No condition of a list holds. -/
def Clear {α : Type} (l : List (Bool × α)) : Prop := ∀ p ∈ l, p.1 = false

/-- The rows that may change the control part of a state. -/
def changesControl : Instr → Bool
  | .restBoundary | .deferredReset | .resetPin | .glitchReset | .supplyQualified _ | .holdupEnd | .throttleUpdate | .thermtrip
  | .oscillatorStable _ | .refclkStartTimeout | .clockMonWindow _ | .monclkAbsent | .csrWrite _ _ _ _ | .shutdown _
  | .warmReset _ | .coldReset _ | .quiesce _ | .clearNmi _ _ | .clockSet _ _ _ | .sbWrite _ | .jtagInstruction _ => true
  | _ => false

end Sys2Proof.Machine
end

