-- ==== Sys2Proof/Certificates/Slice0/Obligations.lean ====
section
/-! DEFINITION. The statements for the provers: what reset leaves, what every step keeps, and for every command the
state it answers and what it leaves alone. -/
open Sys2Proof Sys2Proof.Machine

/-! ### The queue, reset, and every command -/

/-- With a command at the front of the queue, a step is that command on the state with the queue's rest. -/
def Obligations.StepRunsFrontCommand : Prop :=
  ∀ (c : Instr) (rest : List Instr) (s : State), step { s with pending := c :: rest } = exec c { s with pending := rest }

/-- On an empty queue the block idles: the local counter counts one cycle while the load is powered and the PLL locked
(R414), and nothing else changes. That an idle step is one cycle is the model's choice (log entry 5). -/
def Obligations.EmptyQueueCountsOneCycle : Prop :=
  ∀ s : State, s.pending = [] →
    step s = .next (if s.dev.powered = true ∧ s.dev.clk.pllLocked = true then
      { s with dev.localCtr := (s.dev.localCtr + 1) % 2 ^ 64 } else s)

/-- The registers whose reset values the spec states read as those values after reset (R178, R266, R287, R317, R350,
R367, R424, R448 to R450, R452). -/
def Obligations.ResetRegisterValues : Prop :=
  ∀ p ∈ [(0x018, 0), (0x01C, 0x0A280000), (0x020, 0), (0x024, 0), (0x030, 0x04320432), (0x034, 0x20A), (0x20000, 0),
         (0x20008, 0), (0x2000C, 0), (0x20010, 0), (0x20014, 0), (0x20018, 0), (0x20020, 0), (0x20028, 0), (0x20030, 0),
         (0x20034, 0x1F), (0x20040, 0), (0x100010, 0x400), (0x400000, 0x00400003), (0x400004, 1), (0x400008, 0xFFFFFF),
         (0x40000C, 0x0014000A), (0x400010, 0x003C05A0), (0x420000, 0x00302710), (0x420004, 0x00140040), (0x430000, 0x1000),
         (0x430004, 0x3F666666), (0x430008, 0x3F7D70A4), (0x43000C, 0x322BCC77), (0x440000, 0x10C80514), (0x440004, 0x00050000),
         (0x440008, 0x003C014D), (0x450004, 0x004003E8), (0x460000, 0x00080010)], regWord State.reset p.1 = p.2

/-- A field that a register write takes reads back as written (R443 and the register tables): address, high and low bit. -/
def Obligations.WrittenFieldReadsBack : Prop :=
  ∀ (s : State) (v : Nat),
    ∀ f ∈ [(0x01C, 27, 16), (0x034, 6, 0), (0x034, 11, 8), (0x20000, 16, 0), (0x20010, 0, 0), (0x20034, 6, 0),
           (0x100010, 15, 0), (0x400000, 0, 0), (0x400000, 1, 1), (0x400000, 23, 16), (0x400004, 23, 0), (0x400008, 23, 0),
           (0x40000C, 9, 0), (0x40000C, 25, 16), (0x400010, 15, 0), (0x400010, 31, 16), (0x420000, 19, 0), (0x420000, 20, 20),
           (0x420000, 21, 21), (0x420004, 10, 0), (0x420004, 23, 16), (0x430000, 14, 0), (0x430000, 19, 16), (0x430004, 31, 0),
           (0x430008, 31, 0), (0x43000C, 31, 0), (0x440000, 7, 0), (0x440000, 15, 8), (0x440000, 27, 16), (0x440000, 28, 28),
           (0x440004, 15, 0), (0x440004, 23, 16), (0x440008, 15, 0), (0x440008, 31, 16), (0x450004, 11, 0), (0x450004, 23, 16),
           (0x460000, 7, 0), (0x460000, 8, 8), (0x460000, 23, 16)],
      bits (regWord (regWrite s f.1 v) f.1) f.2.1 f.2.2 = bits v f.2.1 f.2.2

/-- The state after reset keeps the invariant: every control register holds a value its field can hold, the dividers are
ones R406 allows, h is the larger of the two throttle levels, and HBM is in its canonical form. -/
def Obligations.ResetKeepsInvariant : Prop := State.reset.Inv

/-- Every step that answers a next state keeps the invariant, from every state that has it. -/
def Obligations.StepKeepsInvariant : Prop :=
  ∀ s t : State, s.Inv → step s = .next t → t.Inv

/-- Every step that answers a next state takes the front command off the queue and changes nothing else of the queue. -/
def Obligations.StepTakesFrontCommand : Prop :=
  ∀ s t : State, step s = .next t → t.pending = s.pending.tail

/-- No command is refused, and the one fault is a deferred warm reset that would bring dividers outside R408 into force. -/
def Obligations.OnlyClockLimitsStop : Prop :=
  ∀ (i : Instr) (s : State), Completes (exec i s) ∨
    (exec i s = .fault .clockLimits ∧ i = .deferredReset ∧ (∃ k, s.dev.deferred = some k ∧ k ≠ 2) ∧
      (2 * s.dev.clk.arithDiv < s.dev.clk.fabricDiv ∨ 2 * s.dev.clk.arithDiv < s.dev.clk.ctrlDiv))

/-- Every command but those named leaves the control part alone: the queue, every byte of HBM, the clock block, the
throttle levels, and the registers that only a register write, CLOCK_SET or a reset changes. -/
def Obligations.ControlPartLeftAlone : Prop :=
  ∀ (i : Instr) (s t : State), changesControl i = false → exec i s = .next t → t.ctl = s.ctl

/-- A command packet on a port whose handshake is not complete has no effect (R28). A packet that acceptance refuses before its
parameters (header, tenant, handle, ownership, session state, window: R55) gets one FINAL reply with that status and no
body, and has no effect; where the status is none of those that fail acceptance and the command is synchronous, its sequence
comes into use with that reply (R39, R42). A packet in which a reserved byte is set is refused BAD_PARAM, at an offset not above that
byte's, and has no effect (R10, R38). A command leaves the receive buffer whether it is taken or refused, and its credits
are owed to the control node (R31): the port's buffer loses its entry, and nothing else changes. -/
def Obligations.RefusedPacketsHaveNoEffect : Prop :=
  (∀ (s : State) (i : Instr) (h : Hdr) (c : Cmd) (e : Nat), envelope s i = some (h, c, e) → portUp s h.port = false →
      exec i s = .next s) ∧
  (∀ (s : State) (i : Instr) (h : Hdr) (c : Cmd) (e st d : Nat), envelope s i = some (h, c, e) →
      portUp s h.port = true → cmdRec s h.seq = none → earlyFault s h c e = some (st, d) →
      ∃ t, exec i s = .next t ∧ (c.isAsync = true ∨ failsAcceptance st = true → Refused s t h c.code st d) ∧
        (c.isAsync = false → failsAcceptance st = false →
          Answered s t h c.code { status := st, detail := d, body := [], handle := none })) ∧
  (∀ (s : State) (i : Instr) (h : Hdr) (c : Cmd) (e o : Nat), envelope s i = some (h, c, e) →
      portUp s h.port = true → cmdRec s h.seq = none → h.badAt = some o →
      (∃ d, earlyFault s h c e = some (0x0011, d)) ∨ earlyFault s h c e = none →
      ∃ t d, d ≤ o ∧ exec i s = .next t ∧ Refused s t h c.code 0x0011 d) ∧
  (∀ (s : State) (h : Hdr) (n : Nat), (glPort s h.port).rxBuf.find? (fun c => c.1 == h.seq) = some (h.seq, n) → h.port < 2 →
      (glPort (takeFromBuffer s h) h.port).rxBuf = (glPort s h.port).rxBuf.erase (h.seq, n) ∧
      (glPort (takeFromBuffer s h) h.port).creditOwed = (glPort s h.port).creditOwed + n ∧
      (∀ p, p < 2 → p ≠ h.port → glPort (takeFromBuffer s h) p = glPort s p) ∧
      takeFromBuffer s h = { s with gl := { s.gl with g0 := (takeFromBuffer s h).gl.g0, g1 := (takeFromBuffer s h).gl.g1 } })

/-- A packet whose sequence is in use: with the same opcode and tenant the latest reply of the original is sent again and
the command does not run, and the original stays listed as it was; with another opcode or tenant it is refused BAD_PARAM
with detail 4, or the lower offset of another faulty header field (R42, R38). -/
def Obligations.SequenceInUse : Prop :=
  ∀ (s : State) (i : Instr) (h : Hdr) (c : Cmd) (e : Nat) (r : CmdRec), envelope s i = some (h, c, e) →
    portUp s h.port = true → cmdRec s h.seq = some r →
    ∃ t, exec i s = .next t ∧
      (r.opcode = c.code ∧ r.tenant = h.tenant →
        t = { s with gl := { s.gl with g0 := t.gl.g0, g1 := t.gl.g1, cmds := t.gl.cmds } } ∧
        (r.reply = none → t.gl.cmds = s.gl.cmds) ∧
        ∀ p, r.reply = some p → .reply p ∈ outbox t h.port ∧
          (p.seq = h.seq → p.kind = 1 ∨ r.phase ≠ 3 → cmdRec t h.seq = some r ∧ ∀ q, q ≠ h.seq → cmdRec t q = cmdRec s q)) ∧
      (¬(r.opcode = c.code ∧ r.tenant = h.tenant) → Refused s t h c.code 0x0011 (min 4 ((headerFault h c e).getD 4)))

/-! ### Replies and the receive buffer -/

/-- A synchronous command's FINAL reply goes out on its port, and the command is listed with it once it is in a frame; beside
the ports, the command list, the result store, the acceptance number and the tenant's count of jobs nothing changes (R38 to
R40, R143). An answer that would take the result store past its bound is NO_MEMORY (the model's choice: log entry 101). An
accepted asynchronous command has its job listed and its INTERIM reply goes out; its session counts one more outstanding
command and stops its dwell clock; nothing else changes but ports, lists and the acceptance number. A synchronous command
whose reply waits is listed with no reply yet (R39, R147). -/
def Obligations.RepliesSentAndJobsListed : Prop :=
  (∀ (v : State) (h : Hdr) (code : Nat) (a : Ans), portUp v h.port = true → cmdRec v h.seq = none →
      failsAcceptance a.status = false → Answered v (finalOn v h code a) h code a) ∧
  (∀ (s : State) (h : Hdr) (c : Cmd) (kind : JobKind), portUp s h.port = true → cmdRec s h.seq = none →
      Accepted s (acceptOn (takeFromBuffer s h) h c kind) h c kind ∧ Held s (heldOn (takeFromBuffer s h) h c kind) h c kind)

/-- A running command that completes: its COMPLETION reply goes out on its port, its job leaves the list and the other jobs
stay; the session of a session command counts one less outstanding, and its dwell clock starts when a WARM session has
none (R39, R40, R147, R24). -/
def Obligations.CompletionReplySent : Prop :=
  ∀ (s : State) (j : Job) (c : CmdRec) (h : Hdr) (a : Ans), jobOf s h.seq = some j → cmdRec s h.seq = some c →
    c.tenant = h.tenant → c.port = h.port → c.session = h.session → portUp s h.port = true → bit j.opcode 16 = bit h.flags 0 →
    ∃ t, t = complete s h.seq a ∧ Replied t h c.opcode 2 (fitAns s h c.opcode a) c.reply ∧ t.gl.jobs = s.gl.jobs.filter (fun k => k.seq != h.seq) ∧
      (∀ q, q ≠ h.seq → cmdRec t q = cmdRec s q) ∧
      t.cellar = (if jobIsSess j then (dwellStart (modSess s (idxOf j.session) fun x =>
        { x with outstanding := x.outstanding - 1 }) (idxOf j.session)).cellar else s.cellar)

/-- Every event is logged, in a ring of 65,536 records, whether or not it is masked. One not masked is also sent on the
event port; CLOCK_FAIL and SUPPLY_LOST cannot be masked and are sent on both ports. -/
def Obligations.EventsLogged : Prop :=
  ∀ (s : State) (code tenant session : Nat) (fields : List (Nat × Nat)), s.gl.log.length ≤ 65536 →
    portUp s 0 = true → portUp s 1 = true → s.gl.eventPort < 2 →
    ∃ t e, t = raise s code tenant session fields ∧ e.code = code ∧ e.tenant = tenant ∧ e.session = session ∧
      e.seq = s.gl.nextSeq ∧ e.time = s.dev.localCtr ∧ e.payload.length = 40 ∧
      t.gl.log = (s.gl.log ++ [e]).drop (s.gl.log.length + 1 - 65536) ∧ t.gl.log.length ≤ 65536 ∧
      (code = 1 ∨ code = 2 → .event e ∈ outbox t 0 ∧ .event e ∈ outbox t 1) ∧
      (2 < code ∧ evMasked s code = false → .event e ∈ outbox t s.gl.eventPort) ∧
      (2 < code ∧ evMasked s code = true → t.gl.g0 = s.gl.g0 ∧ t.gl.g1 = s.gl.g1)

/-! ### Sessions -/

/-- SESSION_OPEN of a RESIDENT model of the tenant with a loaded vocabulary of its size, a fitting grammar, a share class of
the tenant, a free index and room for two runs: the entry is WARM, linked, at epoch 1 and position 0, its seed is the
command's or a drawn one, its OPEN record is racked, and the reply carries its handle, epoch and home die (R4, R146, R211). -/
def Obligations.SessionOpenRuns : Prop :=
  ∀ (s v w : State) (h : Hdr) (model cls vocab grammar share seed idx gen : Nat) (m : Model) (x : Vocab) (sb pl : Run) (rest : List Run),
    Ready s (.sessionOpen h model cls vocab grammar share seed) → v = takeFromBuffer s h → model < 1048576 →
    modelOf v model = some m → m.hdr.kind < 2 → vocabOf v vocab = some x → x.toks.length = m.hdr.vocabSize →
    (grammar = 0 ∨ grammarFits v h.tenant vocab grammar = true) → share < 4096 →
    ((classOf v share).tenant = 0 ∨ (classOf v share).tenant = h.tenant) → m.tenant = h.tenant → m.st = 2 →
    issueIndex v = some (idx, gen) → takeRuns v m.homeDie h.tenant m.slice [2, 0] = some (sb :: pl :: rest, w) →
    let y : Sess := { Sess.zero with
      idx := idx, gen := gen, state := 1, cls := cls, vocab := vocab, tenant := h.tenant, share := share, model := model, epoch := 1
      homeDie := m.homeDie, linked := true, grammar := grammar, pageList := [pl], stateBlock := [sb]
      seed := if seed = 0 then Config.random w.free % 2 ^ 128 else seed
      dwellSince := w.dev.localCtr, dwellOn := true, warmSince := w.dev.localCtr }
    let w := if seed = 0 then tick w else w
    let w := { w with
      cellar.sess := tput w.cellar.sess idx y, cellar.gens := tput w.cellar.gens idx gen, cellar.freed := w.cellar.freed.erase idx }
    exec (.sessionOpen h model cls vocab grammar share seed) s =
      .next (finalOn (rack (if grammar ≠ 0 then gramStart w idx grammar false else w) idx 1 0 plainDelta) h 0x0101
        { status := 0, detail := 0, body := lay [(4, 1), (1, m.homeDie), (3, 0)], handle := some (gen * 16777216 + idx) })

/-- The asynchronous session commands are accepted and take their place in the session's order (R147, R151, R152): APPEND
hands its tokens over or joins the tokeniser engines, GENERATE reserves its positions, CONDENSE and the others wait for their
turn; REVIVE ends at once for a WARM or ACTIVE session and otherwise begins. -/
def Obligations.SessionCommandsTaken : Prop :=
  ∀ (s v : State) (h : Hdr), v = takeFromBuffer s h →
    (∀ (policy count : Nat) (tail : List Byte), Ready s (.sessionAppend h policy 0 count tail) → policy ≤ 1 →
      noGroupFor v h 0 = false → exec (.sessionAppend h policy 0 count tail) s =
        .next (enqueueInput (takePlace (acceptOn v h (row 0x0102 true 1 1) (.append policy 0 tail none 0 0)) (idxOf h.session) h.seq true) h.seq)) ∧
    (∀ (policy count : Nat) (tail : List Byte), Ready s (.sessionAppend h policy 1 count tail) → policy ≤ 1 →
      noGroupFor v h 0 = false →
      let u := takePlace (acceptOn v h (row 0x0102 true 1 1) (.append policy 1 tail none 0 0)) (idxOf h.session) h.seq true
      exec (.sessionAppend h policy 1 count tail) s = .next (((jobOf u h.seq).map (appendTokens u)).getD u)) ∧
    (∀ (g : GenParams) (x : Sess), Ready s (.sessionGenerate h g) → sessAt v (idxOf h.session) = some x →
      Clear (genParamsBad v h g) → noGroupFor v h 1 = false → jobOf v h.seq = none →
      let n := min g.maxTokens (pMax v x - x.reserved)
      exec (.sessionGenerate h g) s = .next (takePlace (modSess (acceptOn v h (row 0x0103 true 1 1) (.generate g n))
        (idxOf h.session) fun y => { y with reserved := y.reserved + n }) (idxOf h.session) h.seq true)) ∧
    (Ready s (.sessionPark h) → stateIs v h stEXTRACT = false → exec (.sessionPark h) s =
      .next (takePlace (acceptOn v h (row 0x0104 true 1 1) .park) (idxOf h.session) h.seq false)) ∧
    (∀ (slots : Nat) (x : Sess), Ready s (.sessionCondense h slots) → [0, 64, 128, 256, 512, 1024].contains slots = true →
      sessAt v (idxOf h.session) = some x → x.state ≠ stEXTRACT → condensable v x = true → exec (.sessionCondense h slots) s =
        .next (takePlace (acceptOn v h (row 0x0106 true 1 1) (.condense slots)) (idxOf h.session) h.seq true)) ∧
    (∀ dest : Nat, Ready s (.sessionMigrateOffer h dest) → peerOk dest = true → dest ≠ v.fab.self →
      exec (.sessionMigrateOffer h dest) s =
        .next (takePlace (acceptOn v h (row 0x0109 true 1 1) (.offer dest)) (idxOf h.session) h.seq false)) ∧
    (∀ (x : Sess) (j : Job), Ready s (.sessionRevive h) →
      let u := cancelParkCondense (acceptOn v h (row 0x0105 true 1 1) .revive) (idxOf h.session) h.seq
      sessAt u (idxOf h.session) = some x → jobOf u h.seq = some j → exec (.sessionRevive h) s =
        .next (pump (if x.state = 1 ∨ x.state = 0 then reviveNow u (idxOf h.session) j else beginRevive u (idxOf h.session))
          (idxOf h.session)))

/-- SESSION_CLOSE closes the session, whose other commands end with NO_SESSION and whose generate stops with reason 4 (R153),
and answers OK; SESSION_QUERY answers the fields of the entry and changes nothing but its reply. SESSION_MIGRATE_ACCEPT of a
session that is committed here at that epoch completes with the epoch; of an incoming session it goes on to the commit
(R337). BUNG_QUERY is held and asks in its turn (R349). -/
def Obligations.CloseQueryAndMigrationPackets : Prop :=
  (∀ (s v : State) (h : Hdr), v = takeFromBuffer s h →
      (Ready s (.sessionClose h) → exec (.sessionClose h) s =
        .next (finalOn (closeSession v (idxOf h.session) 0x0014 4) h 0x0107 (ansB []))) ∧
      (∀ x : Sess, Ready s (.sessionQuery h) → sessAt v (idxOf h.session) = some x → exec (.sessionQuery h) s =
        .next (finalOn v h 0x0108 (ansB (lay [(1, x.state), (1, x.cls), (1, x.vocab), (1, x.homeDie), (4, x.model), (4, x.epoch),
          (4, x.position), (4, x.released), (4, x.lastSeq), (4, if x.state = 2 then x.expirySec - v.cellar.sec else 0),
          (2, if x.state = 5 then x.ownerPeer else 0), (2, buddyOf v x)]))))) ∧
  (∀ (s v : State) (h : Hdr), v = takeFromBuffer s h →
      (∀ (src epoch digest : Nat), Ready s (.sessionMigrateAccept h src epoch digest) → acceptDone v h epoch = true →
        acceptEntry v h src epoch = none → exec (.sessionMigrateAccept h src epoch digest) s =
          .next (complete (acceptOn v h (row 0x010A true 1 3) (.accept src epoch digest)) h.seq (ansB (lay [(4, epoch)])))) ∧
      (∀ (src epoch digest : Nat) (m : MigIn) (j : Job), Ready s (.sessionMigrateAccept h src epoch digest) →
        acceptDone v h epoch = false → acceptEntry v h src epoch = some m → (digest = 0 ∨ digest = m.digest) →
        let u := acceptOn v h (row 0x010A true 1 3) (.accept src epoch digest)
        jobOf u h.seq = some j → exec (.sessionMigrateAccept h src epoch digest) s = .next (tryAccept u j)) ∧
      (∀ peer : Nat, Ready s (.bungQuery h peer) → peer < 65535 → exec (.bungQuery h peer) s =
        .next (nextBung 65536 (heldOn v h (row 0x010B false 1 1) (.bung peer)) h.session)))

/-! ### Models, vocabularies, grammars, objects -/

/-- MODEL_WARM of a RESIDENT model completes at once with its home die; of a REGISTERED one it begins the warm; of one that is
warming or evicting it waits (R201). MODEL_EVICT of a REGISTERED model completes at once; of a RESIDENT one it sets EVICTING
and drops the draft KV of its sessions (R203). DRAFT_BIND binds a draft model of kind 2 with the main model's vocabulary
size and end token, at most `k_max` 8, or with `k_max` 0 removes the binding, and changes nothing else (R194). -/
def Obligations.ModelCommands : Prop :=
  (∀ (s v : State) (h : Hdr) (model : Nat) (x : Model), v = takeFromBuffer s h → model < 1048576 → modelOf v model = some x →
      x.tenant = h.tenant →
      (Ready s (.modelWarm h model) →
        let u := acceptOn v h (row 0x0202 true 1 0) (.warm model)
        exec (.modelWarm h model) s = .next (
          if x.st = 2 then complete u h.seq (ansB (lay [(1, x.homeDie), (3, 0), (4, 0)]))
          else if x.st = 0 then tryWarm u h.seq model else setStage u h.seq 2)) ∧
      (Ready s (.modelEvict h model) → evictWrong v model = false →
        let u := acceptOn v h (row 0x0203 true 1 0) (.evict model)
        exec (.modelEvict h model) s = .next (
          if x.st = 0 then complete u h.seq (ansB [])
          else dropDraftKv (setStage { u with models.models := tmod u.models.models model fun y => { y with st := 3 } } h.seq 2) model))) ∧
  (∀ (s v : State) (h : Hdr) (model draft kMax : Nat) (x y : Model), Ready s (.draftBind h model draft kMax) →
      v = takeFromBuffer s h → model < 1048576 → draft < 1048576 → modelOf v model = some x → modelOf v draft = some y →
      x.tenant = h.tenant → y.tenant = h.tenant → y.hdr.kind = 2 → y.hdr.vocabSize = x.hdr.vocabSize → y.hdr.eos = x.hdr.eos →
      kMax ≤ 8 → exec (.draftBind h model draft kMax) s = .next (finalOn
        { v with models.drafts := if kMax = 0 then tdel v.models.drafts model else tput v.models.drafts model (draft, kMax) }
        h 0x0204 (ansB [])))

/-- Commands that load an object ask its gateway for it and wait for the fetch, or complete with RETRY where the gateway is out
of reach (R37, R199, R200, R210, R227): a model not yet registered (one whose first registration still runs waits for it), a
model registered with another digest that is neither warm nor used, a segment not yet loaded, a vocabulary, a grammar, a mash
table, a firmware image. -/
def Obligations.ObjectLoadsFetch : Prop :=
  (∀ (s v : State) (h : Hdr) (o : ObjRef), v = takeFromBuffer s h → gatewayOk v o = true →
    (∀ (model kind slice : Nat), Ready s (.modelRegister h model kind slice o) → 0 < model → model < 1048576 → kind ≤ 4 →
      slice ≤ 15 → regJob v model = none →
      let u := acceptOn v h (row 0x0201 true 1 0) (.register model kind slice o)
      (modelOf v model = none → v.models.models.length + (runningIds v).length < Config.modelMax →
        exec (.modelRegister h model kind slice o) s = .next (
          if (u.gl.jobs.filter fun j => match j.kind with
              | .register k _ _ _ => k == model && j.seq != h.seq
              | _ => false) ≠ [] then setStage u h.seq 5 else fetchObj u h.seq slice h.tenant o)) ∧
      (∀ m : Model, modelOf v model = some m → m.tenant = h.tenant → m.digest ≠ o.digest → m.st = 0 → modelHasSess v model = false →
        exec (.modelRegister h model kind slice o) s = .next (fetchObj u h.seq slice h.tenant o))) ∧
    (∀ (model phase tiles batch : Nat) (x : Model), Ready s (.segmentLoad h model phase tiles batch o) → model < 1048576 →
      modelOf v model = some x → x.tenant = h.tenant → phase ≤ 5 → [1, 2, 4, 8, 16].contains tiles = true → batch < 16384 →
      1 ≤ bits batch 8 0 → bits batch 8 0 ≤ 256 → 4 ≤ bits batch 13 9 → bits batch 13 9 ≤ 20 →
      (v.mill.segs.find? fun g => g.2.digest == o.digest && g.2.tenant == h.tenant && !g.2.replaced) = none →
      exec (.segmentLoad h model phase tiles batch o) s =
        .next (fetchObj (acceptOn v h (row 0x0205 true 1 0) (.segment model phase tiles batch o)) h.seq x.slice h.tenant o)) ∧
    (∀ vocab : Nat, Ready s (.vocabLoad h vocab o) → vocab ≤ 63 → ObjRefEmpty o = false → vocabWrong v vocab o = false →
      vocabSame v vocab o = false → exec (.vocabLoad h vocab o) s =
        .next (fetchObj (acceptOn v h (row 0x0206 true 0 0) (.vocab vocab o)) h.seq 0 0 o)) ∧
    (∀ (grammar vocab : Nat), Ready s (.grammarLoad h grammar vocab o) → 0 < grammar → vocab ≤ 63 → ObjRefEmpty o = false →
      (grammarOf v grammar = none → v.copper.grammars.length < Config.grammarMax → exec (.grammarLoad h grammar vocab o) s =
        .next (fetchObj (acceptOn v h (row 0x0207 true 1 0) (.grammar grammar vocab o)) h.seq 0 h.tenant o)) ∧
      (∀ x : Grammar, grammarOf v grammar = some x → x.tenant = h.tenant → grammarSame v grammar o = false → grammarInUse v grammar = false →
        exec (.grammarLoad h grammar vocab o) s =
          .next (fetchObj (acceptOn v h (row 0x0207 true 1 0) (.grammar grammar vocab o)) h.seq 0 h.tenant o))) ∧
    (∀ at_ : Nat, Ready s (.mashLoad h at_ o) → v.mash.pendingTab = none → exec (.mashLoad h at_ o) s =
      .next (fetchObj (acceptOn v h (row 0x0501 true 0 0) (.mash at_ o)) h.seq 0 0 o)) ∧
    (Ready s (.firmwareStage h o) → exec (.firmwareStage h o) s =
      .next (fetchObj (acceptOn v h (row 0x0908 true 0 0) (.fwStage o)) h.seq 0 0 o))) ∧
  (∀ (s : State) (seq sl tenant : Nat) (o : ObjRef),
    fetchObj s seq sl tenant o = if reachable s o.gateway = true then
      sendMsg (setStage s seq 1) o.gateway 6 sl 12 tenant false (.fetch o)
    else complete s seq { status := 0x0003, detail := 0, body := [], handle := none })

/-- A command whose object is already loaded completes at once (R45): a model registered with the same digest, a segment, a
vocabulary, a grammar. An empty reference unloads a vocabulary or a grammar that nothing uses and frees its frames (R210,
R227). -/
def Obligations.LoadedObjectsComplete : Prop :=
  ∀ (s v : State) (h : Hdr) (o : ObjRef), v = takeFromBuffer s h →
    (∀ (model kind slice : Nat) (m : Model), Ready s (.modelRegister h model kind slice o) → gatewayOk v o = true → 0 < model →
      model < 1048576 → kind ≤ 4 → slice ≤ 15 → modelOf v model = some m → m.tenant = h.tenant → m.digest = o.digest →
      regJob v model = none → exec (.modelRegister h model kind slice o) s =
        .next (complete (acceptOn v h (row 0x0201 true 1 0) (.register model kind slice o)) h.seq (ansB (lay [(8, m.bytes)])))) ∧
    (∀ (model phase tiles batch : Nat) (x : Model) (g : Nat × Segment), Ready s (.segmentLoad h model phase tiles batch o) →
      gatewayOk v o = true → model < 1048576 → modelOf v model = some x → x.tenant = h.tenant → phase ≤ 5 →
      [1, 2, 4, 8, 16].contains tiles = true → batch < 16384 → 1 ≤ bits batch 8 0 → bits batch 8 0 ≤ 256 → 4 ≤ bits batch 13 9 →
      bits batch 13 9 ≤ 20 → v.mill.segs.find? (fun g => g.2.digest == o.digest && g.2.tenant == h.tenant && !g.2.replaced) = some g →
      exec (.segmentLoad h model phase tiles batch o) s =
        .next (complete (acceptOn v h (row 0x0205 true 1 0) (.segment model phase tiles batch o)) h.seq (ansB (segBody g.2)))) ∧
    (∀ (vocab : Nat) (x : Vocab), Ready s (.vocabLoad h vocab o) → gatewayOk v o = true → vocab ≤ 63 → ObjRefEmpty o = false →
      vocabOf v vocab = some x → x.digest = o.digest → exec (.vocabLoad h vocab o) s =
        .next (complete (acceptOn v h (row 0x0206 true 0 0) (.vocab vocab o)) h.seq (ansB (lay [(4, x.toks.length)])))) ∧
    (∀ (grammar vocab : Nat) (x : Grammar), Ready s (.grammarLoad h grammar vocab o) → gatewayOk v o = true → 0 < grammar → vocab ≤ 63 →
      ObjRefEmpty o = false → grammarOf v grammar = some x → x.tenant = h.tenant → grammarSame v grammar o = true →
      exec (.grammarLoad h grammar vocab o) s = .next (complete (acceptOn v h (row 0x0207 true 1 0) (.grammar grammar vocab o)) h.seq
        (ansB (lay [(4, x.states.length)])))) ∧
    (∀ vocab : Nat, Ready s (.vocabLoad h vocab o) → vocab ≤ 63 → ObjRefEmpty o = true → vocabWrong v vocab o = false →
      let u := acceptOn v h (row 0x0206 true 0 0) (.vocab vocab o)
      let w := freeTable u (vocabRuns u vocab)
      exec (.vocabLoad h vocab o) s =
        .next (complete { w with copper.vocabs := tdel w.copper.vocabs vocab } h.seq (ansB (lay [(4, 0)])))) ∧
    (∀ (grammar vocab : Nat), Ready s (.grammarLoad h grammar vocab o) → 0 < grammar → vocab ≤ 63 → ObjRefEmpty o = true →
      (∀ x : Grammar, grammarOf v grammar = some x → x.tenant = h.tenant) → grammarWrong v grammar o = false →
      let u := acceptOn v h (row 0x0207 true 1 0) (.grammar grammar vocab o)
      let w := freeTable u (grammarRuns u grammar)
      exec (.grammarLoad h grammar vocab o) s =
        .next (complete { w with copper.grammars := tdel w.copper.grammars grammar } h.seq (ansB (lay [(4, 0)]))))

/-! ### Retrieval and row tables -/

/-- LAUTER_QUERY is taken: the query is listed with its snapshot, or the corpus's published sequence where it names none; a
query of a session reserves its token budget and takes its place; its text joins the tokeniser engines (R248 to R250).
CORPUS_INSERT of items that fit is held until its nodes are written; RECALL_PROBE is accepted and runs once SCAN and
RETRIEVE allow it (R239, R265). -/
def Obligations.QueriesInsertsAndProbes : Prop :=
  (∀ (s v : State) (h : Hdr) (q : QueryParams), Ready s (.lauterQuery h q) → v = takeFromBuffer s h → Clear (queryParams v h q) →
      queryWrong v q = false →
      let u := acceptOn v h (row 0x0301 true 1 2) .query
      let n := newQuery u h q
      let w := { u with lauter.queries := u.lauter.queries ++ [n] }
      n.snapshot = (if q.snapshot = 0 then ((corpusOf v q.corpus).getD default).pc else q.snapshot) ∧ n.stage = 0 ∧ n.seq = h.seq ∧
      exec (.lauterQuery h q) s = .next (enqueueInput (if h.session = 0 then w else
        takePlace (modSess w (idxOf h.session) fun y => { y with reserved := y.reserved + q.tokenBudget }) (idxOf h.session) h.seq true)
        h.seq)) ∧
  (∀ (s v : State) (h : Hdr) (corpus shard : Nat), v = takeFromBuffer s h →
      (∀ (count pub : Nat) (tail : List Byte), Ready s (.corpusInsert h corpus shard count pub tail) → pubLow v corpus shard pub = false →
        insertLate v h corpus shard count tail = none → fld tail 4 1 ≠ 1 → exec (.corpusInsert h corpus shard count pub tail) s =
          .next (insertStart (heldOn v h (row 0x0302 false 1 0) (.insert corpus shard pub 0 [])) h corpus shard count pub tail)) ∧
      (∀ (count pub : Nat) (tail : List Byte), Ready s (.corpusInsert h corpus shard count pub tail) → pubLow v corpus shard pub = false →
        fld tail 4 1 = 1 → exec (.corpusInsert h corpus shard count pub tail) s = .next (
            match insertLate v h corpus shard count tail with
            | some a => if failsAcceptance a.status then refuse v h 0x0302 a.status a.detail else finalOn v h 0x0302 a
            | none => insertStart (heldOn v h (row 0x0302 false 1 0) (.corpusCfg corpus shard (objRefAt tail 64) tail))
              h corpus shard count pub tail)) ∧
      (∀ (k beam sample : Nat) (c : Corpus) (sh : Shard), Ready s (.recallProbe h corpus shard k beam sample) →
        corpusOf v corpus = some c → c.tenant = h.tenant → tget c.shards shard = some sh → 1 ≤ k → k ≤ 1024 → k ≤ beam → 16 ≤ beam →
        beam ≤ 1024 → 1 ≤ sample → sample ≤ 256 → exec (.recallProbe h corpus shard k beam sample) s =
          .next (runProbe (acceptOn v h (row 0x0306 true 1 0) (.recall corpus shard k beam sample)) h.seq)))

/-- CORPUS_PUBLISH moves a shard's published sequence, and the corpus's up to it (R240); SHARD_MAP_SET replaces the corpus's
shard map (R254); CORPUS_DELETE marks each listed node removed at the command's sequence, or counts a miss, and then looks
at the shard's tombstones (R243, R245). Each answers OK and leaves everything else. What deleting one node does: a node of
the shard is removed at the least sequence named for it; any other id only counts a miss (R243). -/
def Obligations.CorpusCommandsAnswer : Prop :=
  (∀ (s v : State) (h : Hdr) (corpus : Nat) (c : Corpus), v = takeFromBuffer s h → corpusOf v corpus = some c → c.tenant = h.tenant →
      (∀ (shard pub : Nat) (sh : Shard), Ready s (.corpusPublish h corpus shard pub) → shard ≠ 65535 → tget c.shards shard = some sh →
        sh.ph ≤ pub → exec (.corpusPublish h corpus shard pub) s = .next (finalOn
          (modCorpus (modShard v corpus shard fun x => { x with ph := pub }) corpus fun x => { x with pc := max x.pc pub })
          h 0x0304 (ansB []))) ∧
      (∀ pub : Nat, Ready s (.corpusPublish h corpus 65535 pub) → c.pc ≤ pub → exec (.corpusPublish h corpus 65535 pub) s =
        .next (finalOn (modCorpus v corpus fun x => { x with pc := max x.pc pub }) h 0x0304 (ansB []))) ∧
      (∀ (count : Nat) (es : List ShardEntry), Ready s (.shardMapSet h corpus count es) → count ≤ 4096 →
        (∀ e ∈ es, e.shard < 65535 ∧ 0 < e.owner ∧ e.owner < 65535 ∧ e.replica ≠ 65535) → exec (.shardMapSet h corpus count es) s =
          .next (finalOn (modCorpus v corpus fun x => { x with map := some es }) h 0x0305 (ansB []))) ∧
      (∀ (shard count pub : Nat) (nodes : List Nat) (sh : Shard), Ready s (.corpusDelete h corpus shard count pub nodes) →
        tget c.shards shard = some sh → sh.ph < pub → (∀ n ∈ nodes, n < 0xFFFFFF00) → exec (.corpusDelete h corpus shard count pub nodes) s =
          .next (finalOn (degradeCheck (nodes.foldl (fun s y => deleteNode s corpus shard pub y) v) corpus shard) h 0x0303 (ansB [])))) ∧
  (∀ (s : State) (corpus shard pub y : Nat) (sh : Shard), shardOf s corpus shard = some sh →
      (∀ n : LNode, tget sh.nodes y = some n →
        (shardOf (deleteNode s corpus shard pub y) corpus shard).bind (fun x => tget x.nodes y) =
          some { n with del := some (min pub (n.del.getD pub)) } ∧
        (∀ z, z ≠ y → (shardOf (deleteNode s corpus shard pub y) corpus shard).bind (fun x => tget x.nodes z) = tget sh.nodes z)) ∧
      (tget sh.nodes y = none → deleteNode s corpus shard pub y =
        { s with lauter.cnt.delMiss := ctrAdd s.lauter.cnt.delMiss 1 }))

/-- TABLE_CREATE of a new table answers what creating it answers; for a table with the same fields it answers OK and does
nothing more; with every field zero it answers OK for a table that does not exist, and removes one that does, once no
command of the table runs (R269, R270). Creating a table (R269, R270): in the slice of ROWS_CFG, on its home die, with room
for its records, it is listed with the fields asked for and no rows written; without a ROWS group it is WRONG_STATE, without
room NO_MEMORY, and beyond 4,096 tables TABLE_FULL, with no effect. -/
def Obligations.TablesCreated : Prop :=
  (∀ (s v : State) (h : Hdr) (table dim rows format opt : Nat), Ready s (.tableCreate h table dim rows format opt) →
      v = takeFromBuffer s h → 1 ≤ table → table ≤ 65535 →
      (1 ≤ dim → dim ≤ 16384 → (format = 0x0C → dim % 2 = 0) → 1 ≤ rows → rows ≤ 2147483648 →
        [0x0D, 0x0C, 0x09, 0x0A].contains format = true → opt ≤ 2 →
        (tableOf v table = none → exec (.tableCreate h table dim rows format opt) s =
          .next (finalOn (createTable v h.tenant table dim rows format opt).1 h 0x0401 (createTable v h.tenant table dim rows format opt).2)) ∧
        (∀ x : RowTable, tableOf v table = some x → x.tenant = h.tenant → x.dim = dim → x.rows = rows → x.format = format → x.opt = opt →
          removing v table = false → exec (.tableCreate h table dim rows format opt) s = .next (finalOn v h 0x0401 (ansB [])))) ∧
      (dim = 0 → rows = 0 → format = 0 → opt = 0 →
        (tableOf v table = none → exec (.tableCreate h table dim rows format opt) s = .next (finalOn v h 0x0401 (ansB []))) ∧
        (∀ x : RowTable, tableOf v table = some x → x.tenant = h.tenant → exec (.tableCreate h table dim rows format opt) s =
          .next (tryRemoveTable (heldOn v h (row 0x0401 false 1 0) (.tableRemove table)) table)))) ∧
  (∀ (s : State) (tenant t dim rows format opt : Nat),
      (4096 ≤ s.rows.tables.length → createTable s tenant t dim rows format opt = (s, ans 0x0020)) ∧
      (s.rows.tables.length < 4096 → tableDie s s.rows.rowsSlice = none → createTable s tenant t dim rows format opt = (s, ans 0x0017)) ∧
      (∀ d : Nat, s.rows.tables.length < 4096 → tableDie s s.rows.rowsSlice = some d →
        (takeRuns s d tenant s.rows.rowsSlice (tableOrders rows (strideOf format dim opt)) = none →
          createTable s tenant t dim rows format opt = (s, ans 0x0021)) ∧
        (∀ (rs : List Run) (w : State), takeRuns s d tenant s.rows.rowsSlice (tableOrders rows (strideOf format dim opt)) = some (rs, w) →
          (createTable s tenant t dim rows format opt).2 = ansB [] ∧
          (∀ k, k ≠ t → tableOf (createTable s tenant t dim rows format opt).1 k = tableOf w k) ∧
          ∃ x : RowTable, tableOf (createTable s tenant t dim rows format opt).1 t = some x ∧ x.tenant = tenant ∧
            x.slice = s.rows.rowsSlice ∧ x.die = d ∧ x.dim = dim ∧ x.rows = rows ∧ x.format = format ∧ x.opt = opt ∧ x.runs = rs ∧
            x.shadow = none ∧ x.commit = none)))

/-- ROW_LOOKUP, ROW_UPDATE and HOTSET_SET of a table of the tenant are held, and run in acceptance order once ROWS allows it
(R275 to R280). -/
def Obligations.RowWorkTaken : Prop :=
  ∀ (s v : State) (h : Hdr) (table : Nat) (x : RowTable), v = takeFromBuffer s h → tableOf v table = some x →
    tableLate v h table true = none →
    (∀ (pooling bags : Nat) (lens idx : List Nat), Ready s (.rowLookup h table pooling bags lens idx) → pooling ≤ 2 → 1 ≤ bags →
      bags ≤ 4096 → (∀ n ∈ lens, n ≤ 1024) → sumOver 0 0 lens = none → (∀ r ∈ idx, r < x.rows) →
      exec (.rowLookup h table pooling bags lens idx) s =
        .next (startRows (heldOn v h (row 0x0402 false 1 0) (.rows table (.lookup pooling lens idx))) table)) ∧
    (∀ (count : Nat) (lr : F32) (recs : List (Nat × List H16)), Ready s (.rowUpdate h table count lr recs) → 1 ≤ count →
      bits lr.toNat 30 23 ≠ 255 → (∀ r ∈ recs, r.1 < x.rows) → exec (.rowUpdate h table count lr recs) s =
        .next (startRows (heldOn v h (row 0x0403 false 1 0) (.rows table (.update lr recs))) table)) ∧
    (∀ (us count : Nat) (rows : List Nat), Ready s (.hotsetSet h table us count rows) → 100 ≤ us → us ≤ 60000000 → count ≤ 1048576 →
      (∀ r ∈ rows, r < x.rows) →
      hotFits v table x (rows.foldl (fun acc r => if acc.contains r then acc else r :: acc) []).length = true →
      exec (.hotsetSet h table us count rows) s =
        .next (startRows (heldOn v h (row 0x0407 false 1 0) (.rows table (.hotset us rows))) table))

/-- A replacement of a table's rows (R283, R284): BEGIN makes an empty shadow with room of its own, ROWS writes the rows it
brings into the shadow and leaves the others, COMMIT begins the walk that moves the shadow's rows into the table. -/
def Obligations.TableReplacement : Prop :=
  ∀ (s v : State) (h : Hdr) (table : Nat) (x : RowTable), v = takeFromBuffer s h → tableOf v table = some x →
    (∀ (rs : List Run) (w : State), Ready s (.tableReplaceBegin h table) → tableLate v h table false = none → x.commit = none →
      x.shadow = none → takeRuns v x.die x.tenant x.slice
        (weightOrders (x.rows * roundUp (4 * ceilDiv (rowBytes x.format x.dim) 4) 64 + ceilDiv x.rows 8)) = some (rs, w) →
      exec (.tableReplaceBegin h table) s =
        .next (finalOn (modTable w table fun y => { y with shadow := some [], shadowRuns := rs }) h 0x0404 (ansB []))) ∧
    (∀ (count first : Nat) (rows : List (List Byte)) (sh : Tab (H16 × H16 × List Nat)), Ready s (.tableReplaceRows h table count first rows) →
      tableLate v h table false = none → 1 ≤ count → first + count ≤ x.rows → x.commit = none → x.shadow = some sh →
      exec (.tableReplaceRows h table count first rows) s = .next (finalOn (modTable v table fun y => { y with
        shadow := some ((List.range rows.length).foldl (fun m i => tput m (first + i) (readRow x (lget rows i []))) sh) })
        h 0x0405 (ansB []))) ∧
    (Ready s (.tableReplaceCommit h table) → tableLate v h table true = none → x.commit = none → x.shadow.isSome = true →
      exec (.tableReplaceCommit h table) s = .next (walkCommit (modTable (acceptOn v h (row 0x0406 true 1 0) (.replace table 0))
        table fun y => { y with commit := some 0 }) table))

/-! ### Scheduling, fabric and checkpoint commands -/

/-- SERVICE_CLASS_SET writes one class. A value outside its range returns BAD_PARAM with no effect. At cold reset all 256
classes hold the defaults. -/
def Obligations.ServiceClassWritten : Prop :=
  (∀ (s v : State) (h : Hdr) (cls flags page dwell ttl slots : Nat), Ready s (.serviceClassSet h cls flags page dwell ttl slots) →
    v = takeFromBuffer s h →
    let ok := flags < 4 ∧ 4 ≤ page ∧ page ≤ 11 ∧ ((1 ≤ dwell ∧ dwell ≤ 3600000) ∨ dwell = 0xFFFFFFFF) ∧ 1 ≤ ttl ∧ ttl ≤ 2592000 ∧
      slots ∈ [0, 64, 128, 256, 512, 1024]
    (ok → ∃ w : State,
      exec (.serviceClassSet h cls flags page dwell ttl slots) s = .next (finalOn w h 0x0505 (ansB [])) ∧
      w = { v with cellar.classes := w.cellar.classes } ∧ (∀ k, k ≠ cls → serviceOf w k = serviceOf v k) ∧
      serviceOf w cls = { dwellMs := dwell, ttlS := ttl, pageMaxLog2 := page, flags := flags,
                          condenseSlots := if slots = 0 then (serviceOf v cls).condenseSlots else slots }) ∧
    (¬ok → ∃ t d, exec (.serviceClassSet h cls flags page dwell ttl slots) s = .next t ∧ Refused s t h 0x0505 0x0011 d)) ∧
  (∀ (s : State) (cause : Nat) (k : Nat), serviceOf (coldReset s cause) k =
    { dwellMs := 2000, ttlS := 86400, pageMaxLog2 := 11, flags := 0, condenseSlots := 256 })

/-- SHARE_SET binds a class to its tenant and sets its weight and real-time reservation, unless a session of the former
tenant uses it, which returns WRONG_STATE (R131). SHAPER_SET makes a full bucket, changes one and keeps its tokens, or marks
one for removal (R138). GATE_LIST_LOAD makes the list the port's pending one, and returns LATE with no effect if its time is
not later than the local counter (R48, R141). -/
def Obligations.SchedulerTables : Prop :=
  ∀ (s v : State) (h : Hdr), v = takeFromBuffer s h →
    (∀ (c tenant weight rt : Nat), Ready s (.shareSet h c tenant weight rt) → c < 4096 → 1 ≤ weight → weight ≤ 1048576 → rt ≤ 1024 →
      let old := (classOf v c).tenant
      let used := v.cellar.sess.any fun p => p.2.share == c && p.2.state != 6 && p.2.state != 5 &&
        (if old = 0 then p.2.tenant != tenant && tenant != 0 else p.2.tenant == old)
      exec (.shareSet h c tenant weight rt) s = .next (
        if tenant ≠ old ∧ used = true then finalOn v h 0x0502 (ans 0x0017)
        else finalOn (modClass v c fun x => { x with tenant := tenant, weight := weight, rtRests := rt }) h 0x0502 (ansB []))) ∧
    (∀ (tenant k rate burst : Nat), Ready s (.shaperSet h tenant k rate burst) → tenant ≠ 0 → k ≤ 1 → 1000000 ≤ rate → rate ≤ 2000000000000 →
      65536 ≤ burst → burst ≤ 2 ^ 40 →
      (tget v.mash.shapers (2 * tenant + k) = none → exec (.shaperSet h tenant k rate burst) s = .next (finalOn { v with
        mash.shapers := tput v.mash.shapers (2 * tenant + k)
          { rate := rate, burst := burst, tokens := burst, frac := 0, removing := false } } h 0x0503 (ansB []))) ∧
      (∀ b : Shaper, tget v.mash.shapers (2 * tenant + k) = some b → exec (.shaperSet h tenant k rate burst) s = .next (finalOn
        { v with mash.shapers := tput v.mash.shapers (2 * tenant + k) { b with rate := rate, burst := burst, removing := false } }
        h 0x0503 (ansB [])))) ∧
    (∀ (tenant k : Nat), Ready s (.shaperSet h tenant k 0 0) → tenant ≠ 0 → k ≤ 1 → exec (.shaperSet h tenant k 0 0) s = .next (finalOn
      { v with mash.shapers := tmod v.mash.shapers (2 * tenant + k) fun b => { b with removing := true } } h 0x0503 (ansB []))) ∧
    (∀ (port count at_ : Nat) (es : List (Nat × Nat)), Ready s (.gateListLoad h port count at_ es) → port ≤ 7 → count ≤ 256 →
      (∀ c, c < 7 → tooNarrow es c = false) → (∀ e ∈ es, e.1 ≠ 0) → exec (.gateListLoad h port count at_ es) s = .next (
        if at_ ≤ v.dev.localCtr then finalOn v h 0x0504 (ans 0x0024)
        else finalOn { v with mash.gates := lmod v.mash.gates port fun g =>
          { g with pending := some { entries := es, activateAt := at_ } } } h 0x0504 (ansB [])))

/-- SLICE_SET sets a slice's masks, unless a quota would fall below what the slice holds or a slice that holds something would
be removed, which returns WRONG_STATE; masks that overlap another slice's return BAD_PARAM (R325). ROUTE_SET replaces the
table and the own peer id, and the watched peers it leaves without a path are lost; a new own peer id returns WRONG_STATE
while a session or a buddy exists, a table with a faulty entry BAD_PARAM (R326). BUDDY_SET sets the buddy: with 0 every
record of the slice's racked sessions counts as acknowledged, with a peer each of them is sent to it as an image; a former
buddy is sent their closes; naming the same buddy again with nothing unacknowledged sends nothing; a buddy with a path is no
longer lost; the device itself or a peer without a route returns BAD_PARAM (R328, R334). SPARE_ADOPT lists the adoption and
asks the buddy for the failed peer's copies (R344). -/
def Obligations.SlicesRoutesBuddies : Prop :=
  (∀ (s v : State) (h : Hdr), v = takeFromBuffer s h →
      (∀ (sl tiles lanes pcs : Nat), Ready s (.sliceSet h sl tiles lanes pcs) →
        let overlaps := fun o => (lget v.fab.slices o default).tiles &&& tiles ≠ 0 ∨
          (lget v.fab.slices o default).lanes &&& lanes ≠ 0 ∨ (lget v.fab.slices o default).pcs &&& pcs ≠ 0
        let w := { v with fab.slices := lmod v.fab.slices sl fun _ => { tiles := tiles, lanes := lanes, pcs := pcs } }
        let low := (List.range 4).any fun d => decide (sliceQuota w sl d < sliceHeld v sl d)
        (sl ≤ 15 → (∀ o, o < 16 → o ≠ sl → ¬overlaps o) → exec (.sliceSet h sl tiles lanes pcs) s = .next (
          if low = true ∨ (tiles = 0 ∧ lanes = 0 ∧ pcs = 0 ∧ sliceBusy v sl = true) then finalOn v h 0x0601 (ans 0x0017)
          else finalOn w h 0x0601 (ansB []))) ∧
        (15 < sl ∨ (∃ o, o < 16 ∧ o ≠ sl ∧ overlaps o) →
          ∃ t d, exec (.sliceSet h sl tiles lanes pcs) s = .next t ∧ Refused s t h 0x0601 0x0011 d)) ∧
      (∀ (count : Nat) (es : List (Nat × Nat)), Ready s (.routeSet h count es) →
        (1 ≤ count → count ≤ 16376 → routeScan 0 [] false es = (none, true) → exec (.routeSet h count es) s = .next (
          if ownPeer es ≠ v.fab.self ∧ (v.cellar.sess ≠ [] ∨ v.fab.buddies.any (· != 0)) then finalOn v h 0x0602 (ans 0x0017)
          else finalOn (losePathless { v with fab.routes := es, fab.self := ownPeer es }) h 0x0602 (ans 0))) ∧
        (count = 0 ∨ 16376 < count ∨ routeScan 0 [] false es ≠ (none, true) →
          ∃ t d, exec (.routeSet h count es) s = .next t ∧ Refused s t h 0x0602 0x0011 d))) ∧
  (∀ (s v : State) (h : Hdr), v = takeFromBuffer s h →
      (∀ (sl peer : Nat), Ready s (.buddySet h sl peer) →
        let old := lget v.fab.buddies sl 0
        let b := { v with fab.buddies := lmod v.fab.buddies sl fun _ => peer }
        let w := if peer ≠ 0 ∧ (routeOf v peer).any (fun m => upPorts v m != []) = true then modPeer b peer fun p => { p with lost := false }
          else b
        (sl ≤ 15 → (peer = 0 ∨ (peer ≠ v.fab.self ∧ (routeOf v peer).isSome = true)) → exec (.buddySet h sl peer) s = .next (finalOn (
          if old = peer ∧ peer ≠ 0 ∧ (rackedOf w sl).all (fun x => x.rackAcked == x.rackSeq) = true then w
          else (rackedOf w sl).foldl (fun s x =>
            let s := if old ≠ 0 ∧ old ≠ peer then closeAt s old x else s
            if peer = 0 then afterAck (modSess s x.idx fun y => { y with rackAcked := y.rackSeq, rackBusy := false }) x.idx
            else rack s x.idx 13 (kvBytesOf s x) plainDelta) w) h 0x0603 (ansB []))) ∧
        (15 < sl ∨ (peer ≠ 0 ∧ (peer = v.fab.self ∨ routeOf v peer = none)) →
          ∃ t d, exec (.buddySet h sl peer) s = .next t ∧ Refused s t h 0x0603 0x0011 d)) ∧
      (∀ (failed peer : Nat), Ready s (.spareAdopt h failed peer) → peerOk failed = true → peerOk peer = true →
        let u := acceptOn v h (row 0x0604 true 0 0) (.adopt failed peer)
        exec (.spareAdopt h failed peer) s = .next (sendMsg (setStage { u with
          rack.adoptions := u.rack.adoptions ++ [{ seq := h.seq, failed := failed, buddy := peer }] } h.seq 3) peer 0 0 0 0 false
          (.adoptAsk failed))))

/-- CKPT_START begins a checkpoint of a new generation over its gateways, full or on the last completed one, and raises
COUNTER_NEAR when its generation is the first at 0xFFFF_0000 or above (R354, R355); CKPT_STATUS answers a generation's
phase, shards and bytes, and of a generation the device has no phase of zeros; RESTORE_START asks the gateway for the
manifest, or completes with RETRY where the gateway is out of reach (R362). -/
def Obligations.CheckpointCommands : Prop :=
  ∀ (s v : State) (h : Hdr), v = takeFromBuffer s h →
    (∀ (g n : Nat) (peers : List Nat), Ready s (.ckptStart h g n peers) → v.ckpt.lastStarted < g → v.ckpt.lastDone < g → 1 ≤ n → n ≤ 16 →
      hasDup peers = false → (∀ p ∈ peers, (routeOf v p).isSome = true) → v.ckpt.run = none → v.ckpt.restore = none →
      (v.mill.dies.any (·.lost)) = false →
      let u := acceptOn v h (row 0x0701 true 0 0) (.ckpt g)
      let full := !v.ckpt.fullDone || v.ckpt.forceFull || decide (max 1 v.ckpt.chainMax ≤ v.ckpt.chain)
      let r : CkptRun := { generation := g, seq := h.seq, gateways := peers, full := full, base := if full then 0 else v.ckpt.lastDone,
                           phase := 0, point := 0, cellarSec := 0, shards := [], recSess := [], recNodes := [], nodesAt := [],
                           recShards := [], rowMarks := [], pageMarks := [], recTables := [], forced := v.ckpt.forceFull
                           staged := [], stagedBytes := 0, manifest := [] }
      let w := { u with ckpt.run := some r, ckpt.lastStarted := g, oast.cfg.lastGenStarted := g }
      exec (.ckptStart h g n peers) s = .next (setPhase (setStage
        (if v.ckpt.lastStarted < 0xFFFF0000 ∧ 0xFFFF0000 ≤ g then counterNear w 3 0 g 0xFFFFFFFF else w) h.seq 3) g 1 0 0)) ∧
    (∀ g : Nat, Ready s (.ckptStatus h g) → g ≠ 0 →
      let f := ((v.ckpt.phases.find? fun x => x.1 == g).map (·.2)).getD (0, 0, 0)
      exec (.ckptStatus h g) s = .next (finalOn v h 0x0702 (ansB (lay [(1, f.1), (3, 0), (4, f.2.1), (8, f.2.2)])))) ∧
    (∀ o : ObjRef, Ready s (.restoreStart h o) → gatewayOk v o = true → v.ckpt.run = none → v.ckpt.restore = none →
      let u := acceptOn v h (row 0x0703 true 0 0) (.restore o)
      let r : RestoreRun := { generation := 0, seq := h.seq, queue := [.manifest o], tried := [], chain := [], applied := 0, bytes := 0,
                              cellarSec := 0, imgs := [], madeShards := [], madeTables := [] }
      exec (.restoreStart h o) s = .next (
        if reachable v o.gateway = true then sendMsg { setStage u h.seq 1 with ckpt.restore := some r } o.gateway 5 0 8 0 false (.fetch o)
        else complete u h.seq { status := 0x0003, detail := 0, body := [], handle := none }))

/-! ### Security commands -/

/-- ATTEST signs a report with the next index of the one-time key and never uses it again (R393, R394); TENANT_CREATE makes
a tenant live with no keys, objects or jobs done (R385); TENANT_REMOVE marks the tenant as being removed, and its removal goes
on at rest boundaries (R388); KEY_INSTALL of a key already installed answers OK and counts, of a new one waits for the key
store (R379, R381). -/
def Obligations.SecurityCommands : Prop :=
  ∀ (s v : State) (h : Hdr), v = takeFromBuffer s h →
    (∀ nonce : List Byte, Ready s (.attest h nonce) → v.sec.sigNext < 1073741824 →
      let u := acceptOn v h (row 0x0801 true 0 0) .attest
      exec (.attest h nonce) s = .next (complete (takeIndex u) h.seq (ansB (report u nonce u.sec.sigNext))) ∧
        (takeIndex u).sec.sigNext = u.sec.sigNext + 1) ∧
    (∀ t : Nat, Ready s (.tenantCreate h t) → 1 ≤ t →
      (∀ x : Tenant, tenantOf v t = some x → exec (.tenantCreate h t) s =
        .next (finalOn v h 0x0802 (ans (if x.removing then 0x0017 else 0)))) ∧
      (tenantOf v t = none → 16384 ≤ v.sec.tenants.length → exec (.tenantCreate h t) s = .next (finalOn v h 0x0802 (ans 0x0020))) ∧
      (tenantOf v t = none → v.sec.tenants.length < 16384 → exec (.tenantCreate h t) s = .next (finalOn { v with
        sec.tenants := tput v.sec.tenants t { (default : Tenant) with id := t }
        sec.storeSeq := v.sec.storeSeq + 1
        mash.jobsDone := tput v.mash.jobsDone t 0 } h 0x0802 (ans 0)))) ∧
    (∀ (t : Nat) (x : Tenant), Ready s (.tenantRemove h t) → 1 ≤ t → tenantOf v t = some x → x.removing = false →
      let u := acceptOn v h (row 0x0803 true 0 0) (.removeTenant t)
      let w := modTenant u t fun y => { y with removing := true, step := 1 }
      exec (.tenantRemove h t) s = .next (setStage { w with sec.storeSeq := w.sec.storeSeq + 1 } h.seq 3)) ∧
    (∀ (kind len : Nat) (blob : List Byte), Ready s (.keyInstall h kind len blob) → 1 ≤ kind → kind ≤ 3 → len = blobLenOf kind →
      (∀ p ∈ (blobFaults (retireFlashEpochs v) h kind blob).take 2, p.1 = false) →
      let w := retireFlashEpochs (heldOn v h (row 0x0804 false 1 0) .keyWrite)
      let same := sameKey (retireFlashEpochs v) h kind blob
      ∃ t : State, exec (.keyInstall h kind len blob) s = .next t ∧
        (blobKey (retireFlashEpochs v) blob = none → Refused s t h 0x0804 0x0011 32) ∧
        ((blobKey (retireFlashEpochs v) blob).isSome = true → same = some true → t = finishFinal (countInstall w) h.seq (ans 0)) ∧
        (∀ key : List Byte, blobKey (retireFlashEpochs v) blob = some key → same = none →
          ¬(kind = 1 ∧ 4 ≤ ((tenantOf (retireFlashEpochs v) h.tenant).getD default).flash.length) →
          t = setStage (storeWrite (installKey w h.tenant kind (fld blob 0 2) key) h.seq) h.seq 4))

/-! ### Registers, results, platform -/

/-- CSR_READ of mapped words answers them in rising order and changes nothing; CSR_WRITE applies its words in rising order and
answers OK, or WRONG_STATE with no effect where it sets `shutdown` in a state R418 does not allow; both answer DENIED in the
debug block (R443, R444, R384). Words written from `a` up: each is written at its address, the lower one first (R444).
RESULT_READ answers the result's read count, its length and the bytes asked for, and counts the read; of a running command
NOT_READY. RESULT_RELEASE drops the result and takes the sequence out of use; of a running command WRONG_STATE. EVENT_READ
answers records of the log. NOP answers the local counter (R40, R59, R60). -/
def Obligations.RegistersResultsAndNop : Prop :=
  (∀ (s v : State) (h : Hdr) (a n e : Nat), v = takeFromBuffer s h → a % 4 = 0 → blockEnd a = some e → 1 ≤ n → n ≤ 16000 →
      a + 4 * n ≤ e + 1 →
      (Ready s (.csrRead h a n) → exec (.csrRead h a n) s = .next (
        if 0xF0000000 ≤ a then finalOn v h 0x0901 (ans 0x0012)
        else finalOn v h 0x0901 (ansB (((List.range n).map fun i => regWord v (a + 4 * i)).flatMap (leBytes 4))))) ∧
      (∀ ws : List Nat, Ready s (.csrWrite h a n ws) → exec (.csrWrite h a n ws) s = .next (
        if 0xF0000000 ≤ a then finalOn v h 0x0902 (ans 0x0012)
        else if setsShutdown a (ws.take n) = true then
          (if mayShut v = true then finalOn (startShutdown (regWrites v a (ws.take n))) h 0x0902 (ans 0)
           else finalOn v h 0x0902 (ans 0x0017))
        else finalOn (regWrites v a (ws.take n)) h 0x0902 (ans 0)))) ∧
  (∀ (s : State) (a : Nat) (ws us : List Nat),
      regWrites s a (ws ++ us) = regWrites (regWrites s a ws) (a + 4 * ws.length) us) ∧
  (∀ (s v : State) (h : Hdr), v = takeFromBuffer s h →
      (∀ (q off len : Nat) (r : Result), Ready s (.resultRead h q off len) → targetBad v h q = false → resultOf v q = some r →
        off ≤ r.body.length → len ≤ 65480 →
        let n := (r.reads + 1) % 4294967296
        exec (.resultRead h q off len) s = .next (finalOn
          { v with gl.results := v.gl.results.map fun k => if k.seq = q then { k with reads := n } else k }
          h 0x0905 (ansB (lay [(4, n), (4, r.body.length)] ++ (r.body.drop off).take len)))) ∧
      (∀ (q off len : Nat), Ready s (.resultRead h q off len) → targetBad v h q = false → resultOf v q = none → len ≤ 65480 →
        exec (.resultRead h q off len) s = .next (finalOn v h 0x0905 (ans 0x0002))) ∧
      (∀ (q : Nat) (c : CmdRec), Ready s (.resultRelease h q) → targetBad v h q = false → cmdRec v q = some c →
        exec (.resultRelease h q) s = .next (
          if c.phase = 0 then finalOn v h 0x0906 (ans 0x0017)
          else finalOn { v with gl.results := v.gl.results.filter fun r => r.seq != q, gl.cmds := v.gl.cmds.filter fun c => c.seq != q }
            h 0x0906 (ans 0))) ∧
      (∀ (start n : Nat), Ready s (.eventRead h start n) → 1 ≤ n → n ≤ 1000 →
        let l := eventsFrom v start n
        exec (.eventRead h start n) s = .next (finalOn v h 0x0907 (ansB (lay [(4, oldestSeq v), (4, v.gl.nextSeq), (2, l.length), (6, 0)] ++
          l.flatMap eventBytes)))) ∧
      (Ready s (.nop h) → exec (.nop h) s = .next (finalOn v h 0 (ansB (leBytes 8 v.dev.localCtr)))))

/-- CLOCK_SET accepts the dividers of R406 and the monitor's tolerance and debounce; the divider goes to its field of CLK_DIV,
and no clock in force changes. An unlisted item or a value outside its range returns BAD_PARAM (R422, R407). CAL_SET of a
listed item: 0 removes the user value, another value in range is written and a clamped sum is counted; an unlisted item or a
value outside its range returns BAD_PARAM (R420). -/
def Obligations.ClocksAndCalibrationSet : Prop :=
  (∀ (s v : State) (h : Hdr) (item val : Nat), Ready s (.clockSet h item val) → v = takeFromBuffer s h →
      (item = 1 → val ∈ [2, 3, 4] →
        exec (.clockSet h item val) s = .next (finalOn { v with dev.clk.arithDiv := val } h 0x0904 (ans 0))) ∧
      (item = 2 → val ∈ [3, 4, 6] →
        exec (.clockSet h item val) s = .next (finalOn { v with dev.clk.ctrlDiv := val } h 0x0904 (ans 0))) ∧
      (item = 3 → val ∈ [4, 6, 8] →
        exec (.clockSet h item val) s = .next (finalOn { v with dev.clk.fabricDiv := val } h 0x0904 (ans 0))) ∧
      (item = 0x10 → 1 ≤ val → val ≤ 100 →
        exec (.clockSet h item val) s = .next (finalOn { v with dev.clk.monTol := val } h 0x0904 (ans 0))) ∧
      (item = 0x11 → 1 ≤ val → val ≤ 15 →
        exec (.clockSet h item val) s = .next (finalOn { v with dev.clk.monDebounce := val } h 0x0904 (ans 0))) ∧
      (item ∉ [1, 2, 3, 0x10, 0x11] → ∃ t, exec (.clockSet h item val) s = .next t ∧ Refused s t h 0x0904 0x0011 24) ∧
      ((item = 1 ∧ val ∉ [2, 3, 4]) ∨ (item = 2 ∧ val ∉ [3, 4, 6]) ∨ (item = 3 ∧ val ∉ [4, 6, 8]) ∨
        (item = 0x10 ∧ ¬(1 ≤ val ∧ val ≤ 100)) ∨ (item = 0x11 ∧ ¬(1 ≤ val ∧ val ≤ 15)) →
        ∃ t, exec (.clockSet h item val) s = .next t ∧ Refused s t h 0x0904 0x0011 28)) ∧
  (∀ (s v : State) (h : Hdr) (item val : Nat), Ready s (.calSet h item val) → v = takeFromBuffer s h →
      (calListed item = true → calInRange item val = true → exec (.calSet h item val) s = .next (finalOn (
        if val = 0 then { v with dev.calUser := tdel v.dev.calUser item }
        else { v with
          dev.calUser := tput v.dev.calUser item (calValue item val)
          dev.calClampCnt := ctrAdd v.dev.calClampCnt (clampCount item (calValue item val)) }) h 0x0903 (ans 0))) ∧
      (calListed item = false → ∃ t, exec (.calSet h item val) s = .next t ∧ Refused s t h 0x0903 0x0011 24) ∧
      (calListed item = true → calInRange item val = false → ∃ t, exec (.calSet h item val) s = .next t ∧ Refused s t h 0x0903 0x0011 28))

/-- The rows that write one register word (R309, R413, R417, R418, R445): `warm` and `cold` answer OK and set the reset that
follows 1 ms later, cold before warm, and keep the power limit; `shutdown` starts the shutdown where R418 allows it and
answers WRONG_STATE otherwise; `quiesce` starts the quiesce of the Oast; a cleared NMI bit releases NMI_OUT. What a write of
PWR_CTL does: the limit is set, and `cold` before `warm` sets the reset that follows. FIRMWARE_ACTIVATE of a staged image of
that version whose svn is not too low, with no session ACTIVE or OFFERED and no other command running, is held: the image
becomes the active one, none is staged any more, and the shutdown starts (R419). With no such image it is refused BAD_PARAM at 24. -/
def Obligations.PlatformAndFirmware : Prop :=
  (∀ (s v : State) (h : Hdr), v = takeFromBuffer s h → v.dev.pwrLimit < 4096 →
      (Ready s (.warmReset h) → exec (.warmReset h) s =
        .next (finalOn (writePwrCtl v (65536 * v.dev.pwrLimit + 2)) h 0x0902 (ans 0))) ∧
      (Ready s (.coldReset h) → exec (.coldReset h) s =
        .next (finalOn (writePwrCtl v (65536 * v.dev.pwrLimit + 4)) h 0x0902 (ans 0))) ∧
      (Ready s (.shutdown h) → exec (.shutdown h) s = .next (
        if mayShut v = true then finalOn (startShutdown (writePwrCtl v (65536 * v.dev.pwrLimit + 1))) h 0x0902 (ans 0)
        else finalOn v h 0x0902 (ans 0x0017))) ∧
      (Ready s (.quiesce h) → exec (.quiesce h) s = .next (finalOn (startQuiesce v) h 0x0902 (ans 0))) ∧
      (Ready s (.clearNmi h true) → exec (.clearNmi h true) s = .next (finalOn (clearClockNmi v) h 0x0902 (ans 0))) ∧
      (Ready s (.clearNmi h false) → exec (.clearNmi h false) s = .next (finalOn (clearSupplyNmi v) h 0x0902 (ans 0)))) ∧
  (∀ (s : State) (w : Nat), (writePwrCtl s w).dev.pwrLimit = bits w 27 16 ∧
      (writePwrCtl s w).dev.deferred = (if bit w 2 then some 2 else if bit w 1 ∧ s.dev.deferred = none then some 3 else s.dev.deferred) ∧
      writePwrCtl s w = { s with dev.pwrLimit := (writePwrCtl s w).dev.pwrLimit, dev.deferred := (writePwrCtl s w).dev.deferred }) ∧
  (∀ (s v : State) (h : Hdr) (version : Nat), Ready s (.firmwareActivate h version) → v = takeFromBuffer s h →
      (∀ x, stagedImage v = some x → x.2.1 = version →
        exec (.firmwareActivate h version) s = .next (
          if x.1 < v.sec.arb then finalOn v h 0x0909 (ans 0x0012)
          else if mayShut v = false then finalOn v h 0x0909 (ans 0x0017)
          else
            let u := heldOn v h (row 0x0909 false 0 0) .activate
            startShutdown { u with
              sec.activeSlot := u.sec.staged.getD u.sec.activeSlot, sec.staged := none, dev.shutActivate := some h.seq })) ∧
      ((stagedImage v).map (·.2.1) ≠ some version → ∃ t, exec (.firmwareActivate h version) s = .next t ∧ Refused s t h 0x0909 0x0011 24))

/-! ### The sideband and the boundary-scan port -/

/-- The SMBus target, where it answers (R427, R431, R450, R456, R457): SB_SET_ADDR sets address and length and whether they are
malformed; a read answers the status and the words and moves on; a write is taken as a whole, or refused as a whole,
counted, and the address stays; SB_ALERT bits are cleared by writing 1. Where it does not answer nothing happens. The
boundary-scan port (R428): IDCODE selects the identity, SAMPLE/PRELOAD and EXTEST act only while RESET_N is low, and every
other instruction acts as BYPASS; nothing else changes. -/
def Obligations.SidebandAndBoundaryScan : Prop :=
  (∀ s : State,
      (sbAnswers s = false → (∀ m, exec (.sbAlertClear m) s = .next s) ∧ (∀ a n, exec (.sbSetAddr a n) s = .next s) ∧
        exec .sbRead s = .next s ∧ ∀ d, exec (.sbWrite d) s = .next s) ∧
      (sbAnswers s = true →
        (∀ a n, exec (.sbSetAddr a n) s = .next { s with
          sb.addr := a % 2 ^ 32, sb.len := n, sb.badAddr := decide (a % 4 ≠ 0 ∨ n % 4 ≠ 0 ∨ n < 4 ∨ 32 < n) }) ∧
        (s.dev.thr.tripped = false →
          (∀ m, exec (.sbAlertClear m) s = .next { s with
            sb.alert := s.sb.alert &&& (127 ^^^ (m % 128)), dev.pins.smbAlertN := decide (s.sb.alert &&& (127 ^^^ (m % 128)) = 0) }) ∧
          (s.sb.badAddr = false → exec .sbRead s =
            .next { s with sb.lastRead := sbBody s, sb.addr := (s.sb.addr + s.sb.len) % 2 ^ 32 }) ∧
          (s.sb.badAddr = true → exec .sbRead s = .next { s with sb.lastRead := leBytes 1 (sbStatus s) }) ∧
          (∀ d, sbTakes s d = true → ∃ u, u = regWrites { s with sb.lastRefused := false } s.sb.addr (sbData s d) ∧
            exec (.sbWrite d) s = .next { u with sb.addr := (u.sb.addr + u.sb.len) % 2 ^ 32 }) ∧
          (∀ d, sbTakes s d = false → exec (.sbWrite d) s =
            .next { s with sb.lastRefused := true, sb.refused := ctrAdd s.sb.refused 1 })))) ∧
  (∀ (s : State) (code : Nat), s.dev.powered = true → 2 ≤ s.dev.startStep →
      exec (.jtagInstruction code) s = .next { s with
        sb.jtag := if code = 1 then 1 else if (code = 2 ∨ code = 3) ∧ s.dev.pins.resetN = false then code else 0 })

/-! ### Grenlink events -/

/-- Frames of a port that is up (R28 to R31): one whose tag fails only counts; an authentic one restarts the port's 100 µs; one
out of order, or of a type a control node does not send (discarded without acceptance, the model's choice: log entry 102),
does nothing more; the next in order moves the receive counter and drops what it acknowledges, a frame of the
unsent list goes out for each place freed, and a COMMAND frame's packet is taken into the buffer. The link's timers (R29,
R30, R33, R42): 50 µs after the oldest unacknowledged frame was sent, every unacknowledged frame is sent again with the
current acknowledgement; 10 µs after its last frame a port with room sends a LINK frame, one without room nothing (the model's
choice: log entry 103); 100 µs after the last frame received the port is down and its traffic
moves; 250 ms after its last reply was sent a sequence whose result is not retained leaves use. -/
def Obligations.GrenlinkFramesAndTimers : Prop :=
  (∀ (s : State) (p : Nat) (f : GlFrame), portUp s p = true →
      exec (.glFrameReceive p f false) s = .next (modPort s p fun g => { g with authFail := ctrAdd g.authFail 1 }) ∧
      (f.ftype ≠ 1 ∧ f.ftype ≠ 5 ∨ f.seq ≠ nextRx (glPort s p) % 2 ^ 32 →
        exec (.glFrameReceive p f true) s = .next (modPort s p fun g => { g with lastRx := s.dev.localCtr })) ∧
      (f.ftype = 1 ∨ f.ftype = 5 → f.seq = nextRx (glPort s p) % 2 ^ 32 →
        let u := modPort s p fun g => { g with
          rxCtr := nextRx g, rxAny := true, lastRx := s.dev.localCtr, rxGen := nextRx g / 2 ^ 48, unacked := dropAcked g.unacked f.ack }
        let w := drainPort (glPort u p).unsent.length u p
        exec (.glFrameReceive p f true) s = .next (if f.ftype = 1 then takePacket w p f.payload else w))) ∧
  (∀ s : State,
      (∀ p, portUp s p = true →
        (∀ (f : Frame) (l : List Frame), (glPort s p).unacked = f :: l →
          let u := advanceTo s (f.sentAt + 150000)
          exec (.glResendTimeout p) s = .next (modPort u p fun g => { g with
            unacked := g.unacked.map fun k => { k with sentAt := u.dev.localCtr, ack := g.rxCtr }, lastTx := u.dev.localCtr })) ∧
        ((glPort s p).unacked = [] → exec (.glResendTimeout p) s = .next s) ∧
        ((glPort s p).unacked.length < 4096 →
          exec (.glKeepalive p) s = .next (sendOn (advanceTo s ((glPort s p).lastTx + 30000)) p false .link)) ∧
        (4096 ≤ (glPort s p).unacked.length → exec (.glKeepalive p) s = .next s) ∧
        exec (.glPortDown p) s = .next (portDown (advanceTo s ((glPort s p).lastRx + 300000)) p)) ∧
      (∀ p, portUp s p = false → exec (.glResendTimeout p) s = .next s ∧ exec (.glKeepalive p) s = .next s ∧
        exec (.glPortDown p) s = .next s) ∧
      (∀ (q : Nat) (c : CmdRec), cmdRec s q = some c →
        exec (.replyHoldExpiry q) s = .next (if c.phase = 1 then
          { advanceTo s (c.repliedAt + 750000000) with gl.cmds := s.gl.cmds.filter fun k => k.seq != q } else s)))

/-- The handshake of a port (R372, R373): HS_HELLO is answered with HS_KEY and starts a transcript; HS_CT within 1 ms whose MAC
is the owner key's ends it with traffic keys, one that fails is answered HS_FAIL and counted; with enrol and no owner yet the wrapped owner key is fused; after 1 ms the handshake is
dropped and a port that had keys keeps them. -/
def Obligations.HandshakeMessages : Prop :=
  ∀ (s : State) (p : Nat), serving s = true → p < 2 →
    (∀ (fl : Nat) (nonce : List Byte),
      let n := Config.random s.free
      exec (.hsHello p fl nonce) s = .next (modPort (tick s) p fun g => { g with
        hs := some { nonceD := n, transcript := hsMsg 1 (leBytes 1 fl ++ List.replicate 7 0 ++ nonce) ++ hsKey s n,
                     startedAt := s.dev.localCtr, enrol := bit fl 0 }
        hsOut := hsKey s n, state := if g.keyed then 2 else 1 })) ∧
    (∀ k : HsPhase, (glPort s p).hs = some k →
      exec (.handshakeTimeout p) s = .next (modPort (advanceTo s (k.startedAt + 3000000)) p fun g =>
        { g with hs := none, state := if g.keyed then 2 else 0 }) ∧
      (s.dev.localCtr ≤ k.startedAt + 3000000 → ∀ ct mac : List Byte,
        (∀ o : List Byte, ownerKey s = some o → s.sec.lifecycle ≠ 2 → k.enrol = false →
          exec (.hsCt p ct mac none) s = .next (match Config.kemDecap s.sec.kemPair ct with
            | none => hsFailed s p 4
            | some ss => if mac = hmac (kdf o "gl-client" (ss ++ sha256 k.transcript) 1) (sha256 k.transcript) then
                hsFinish s p o ss (k.transcript ++ hsMsg 3 (ct ++ mac)) else hsFailed s p 1)) ∧
        (∀ w : List Byte, k.enrol = true → ownerKey s = none → s.sec.lifecycle ≠ 2 → s.sec.ownerSlots.length < 4 →
          mac.all (· == 0) = true → exec (.hsCt p ct mac (some w)) s = .next (match Config.kemDecap s.sec.kemPair ct with
            | none => hsFailed s p 4
            | some ss => (match Config.kwUnwrap (kdf ss "gl-enrol" (sha256 k.transcript) 1) w with
              | none => hsFailed s p 1
              | some o => hsFinish { s with sec.ownerSlots := s.sec.ownerSlots ++ [o], sec.lifecycle := 1 } p o ss
                  (k.transcript ++ hsMsg 3 (ct ++ mac ++ w)))))))

/-! ### Fabric events -/

/-- A fabric frame on a port that is up (R320, R321): one that does not authenticate is dropped and counted; another counts its
bytes and moves the peer's receive counter; its acknowledgement drops the messages it covers from its stream; a data frame that
is the next of its stream moves the stream, and every data frame is acknowledged at once. The fabric link's timers and ports (R319, R321, R322, R327):
20 µs after the oldest unacknowledged frame of a stream its frames are sent again; a watched peer is sent a bare frame 100
µs after the last; a watched peer silent for the timeout is lost with reason 0, one without a path with reason 1; a port
that goes down moves its streams and loses the peers left without a path; a port comes up with all 8 lanes. -/
def Obligations.FabricFramesAndPorts : Prop :=
  (∀ (s : State) (f : FabFrame), running s = true → fabPortUp s f.port = true → 1 ≤ f.fkind → f.fkind ≤ 3 → f.tclass ≤ 6 →
      exec (.fabFrameReceive f false) s = .next (frameBad s f.tenant) ∧
      (frameKeyed s f = false → exec (.fabFrameReceive f true) s = .next (frameBad s f.tenant)) ∧
      (frameKeyed s f = true →
        let w := { s with fab.ports := lmod s.fab.ports f.port fun x => { x with rx := ctrAdd x.rx (56 + f.payloadLen) } }
        let u := modPeer w f.src fun q => { q with lastRx := s.dev.localCtr, rxCtr := f.ctr, rxGen := f.ctr / 2 ^ 48 }
        let t := takeAck (rekey u f.src f.tenant 1 f.ctr (peerOf s f.src).rxGen) f.src f.tclass f.ackSeq
        exec (.fabFrameReceive f true) s = .next (if f.fkind = 1 then takeData t f else t))) ∧
  (∀ (s : State) (peer c ack : Nat), (streamOf (takeAck s peer c ack) peer c).unacked =
      (streamOf s peer c).unacked.drop (ackedCount (streamOf s peer c).unacked ack)) ∧
  (∀ (s : State) (f : FabFrame), f.busy = none → takeData s f = putBare (
      if f.streamSeq = ((streamOf s f.src f.tclass).rxSeq + 1) % 2 ^ 32 then
        modStream s f.src f.tclass fun t => { t with rxSeq := f.streamSeq } else s) f.src 0) ∧
  (∀ s : State, running s = true →
      (∀ peer c, (streamOf s peer c).unacked ≠ [] → reachable s peer = true → exec (.fabResendTimeout peer c) s =
        .next (resendStream (advanceTo s ((streamOf s peer c).oldestAt + 60000)) peer c)) ∧
      (∀ peer, watched s peer = true → reachable s peer = true → exec (.fabKeepalive peer) s =
        .next (putBare (advanceTo s ((peerOf s peer).lastTx + 300000)) peer 0)) ∧
      (∀ peer, watched s peer = true → (peerOf s peer).lost = false → peer ≠ 0 → peer ≠ s.fab.self → exec (.peerLost peer) s =
        .next (if hasPath s peer = false then losePeer s peer 1
          else losePeer (advanceTo s ((peerOf s peer).lastRx + max 100 s.fab.peerTimeoutUs * 3000)) peer 0)) ∧
      (∀ p, p < 8 → exec (.fabPortDown p) s = .next (losePathless (moveStreams { s with
        fab.ports := lmod s.fab.ports p fun x => { x with state := 0 }
        mash.gates := lmod s.mash.gates p fun g => { g with waiting := [] } } p))) ∧
      (∀ p, p < 8 → exec (.fabPortUp p 8) s = .next { s with fab.ports := lmod s.fab.ports p fun x => { x with state := 2 } }) ∧
      (∀ p l, l ≠ 8 → exec (.fabPortUp p l) s = .next s))

/-- A fabric handshake value of a peer with a path (R375): one whose MAC fails only counts; otherwise the device sends its own
value unless one is out, the pair's salt is set from both, and what waited goes out. A REVOKE deletes the pair keys of its
tenant (R389). -/
def Obligations.FabricKeys : Prop :=
  ∀ (s : State) (peer : Nat), running s = true →
    (∀ r : List Byte, hasPath s peer = true → peer ≠ s.fab.self →
      exec (.fabHandshake peer r false) s = .next { s with fab.cnt.authFail := ctrAdd s.fab.cnt.authFail 1 } ∧
      exec (.fabHandshake peer r true) s = .next (flushStreams (setSalt
        (if (peerOf s peer).myR = none ∨ (peerOf s peer).salt ≠ none then sayHello s peer else s) peer r) peer)) ∧
    (∀ tenant, exec (.revokeNotice peer tenant) s = .next (modPeer s peer fun p =>
      { p with revoked := if p.revoked.contains tenant then p.revoked else p.revoked ++ [tenant] }))

/-! ### The mash, entries and records -/

/-- A rest boundary of a serving device (R115, R138, R140, R404): the rest that ends has run, the ARITH counter gains 16,384,
the rest of the table moves on, every shaper gains its rate's bytes up to its burst and a removed one goes, the next choices
are sealed, and waiting work goes on. Otherwise nothing happens. Gate lists (R140, R141): a pending list takes over at its
time with entry 0 and is no longer pending, an empty one removes the list; the current entry ends after its duration and the
next one, or entry 0 after the last, begins; frames whose class opens leave. -/
def Obligations.RestsAndGates : Prop :=
  (∀ s : State,
      ((serving s && running s) = false → exec .restBoundary s = .next s) ∧
      ((serving s && running s) = true →
        let u := stepHold (endRest s)
        let w := nextRest u
        exec .restBoundary s = .next (workBoundary (sealRest (refillShapers w))) ∧
        u.mash.arith = ctrAdd (endRest s).mash.arith 16384 ∧
        (u.mash.pendingTab = none → u.mash.rest + 1 < u.mash.table.restCount → w = { u with mash.rest := u.mash.rest + 1 }) ∧
        (∀ p ∈ w.mash.shapers, p.2.removing = false →
          let n := p.2.rate * 16384 + p.2.frac
          (p.1, { p.2 with tokens := min p.2.burst (p.2.tokens + n / 3000000000), frac := n % 3000000000 }) ∈
            (refillShapers w).mash.shapers) ∧
        (∀ p ∈ (refillShapers w).mash.shapers, ∃ q ∈ w.mash.shapers, q.1 = p.1 ∧ q.2.removing = false))) ∧
  (∀ (s : State) (p : Nat), running s = true →
      (∀ g : GateList, (lget s.mash.gates p default).pending = some g →
        let u := advanceTo s g.activateAt
        exec (.gateListActivate p) s = .next (gateRelease { u with
          mash.gates := lmod u.mash.gates p fun x => { x with active := if g.entries = [] then none else some g.entries, entry := 0, entrySince := g.activateAt, pending := none } } p)) ∧
      (∀ l : List (Nat × Nat), (lget s.mash.gates p default).active = some l →
        let g := lget s.mash.gates p default
        let due := g.entrySince + localOfFab s (lget l g.entry (0, 0)).1
        let u := advanceTo s due
        exec (.gateEntryAdvance p) s = .next (gateRelease { u with
          mash.gates := lmod u.mash.gates p fun x => { x with entry := (x.entry + 1) % max 1 l.length, entrySince := due } } p)) ∧
      ((lget s.mash.gates p default).pending = none → exec (.gateListActivate p) s = .next s) ∧
      ((lget s.mash.gates p default).active = none → exec (.gateEntryAdvance p) s = .next s))

/-- Copies of a group's running entry (R98, R99): one incomplete at its fence is late and counted at the die, and the cycle it
missed is noted; one that completes before its fence is noted, and its note goes at the fence; one that completes after its
fence ends its stall, and the cycles of the stall are added to the group's stall and counted at the die; one still incomplete
1,048,576 cycles after its fence abandons the chain and has the group's tiles self-tested, and not before. Where no entry
runs, or its run is past the fence, nothing happens. -/
def Obligations.CopiesAndFences : Prop :=
  (∀ (s : State) (die tile copy cycle : Nat), fenceAhead s die tile copy = none →
    exec (.copyComplete die tile copy cycle) s = .next s ∧ exec (.fenceCheck die tile copy) s = .next s) ∧
  (∀ (s : State) (die tile copy i : Nat) (e : Entry) (c : CopyEnt), fenceAhead s die tile copy = some (i, e, c) →
    (copyNoted s i copy = none →
      (∀ cycle, exec (.copyComplete die tile copy cycle) s = .next (modHead s i fun x => { x with
        copies := x.copies ++ [{ idx := copy, fence := c.fence, complete := true, missedAt := none }] })) ∧
      ∃ t : State, exec (.fenceCheck die tile copy) s = .next t ∧
        t.mill.groups = (modHead s i fun x => { x with
          copies := x.copies ++ [{ idx := copy, fence := c.fence, complete := false, missedAt := some (arithAt s (grpAt s i) e c.fence) }]
          }).mill.groups ∧
        t.mill.dies = lmod s.mill.dies die (fun d => { d with copyLate := ctrAdd d.copyLate 1 }) ∧
        t = { s with mill := { s.mill with groups := t.mill.groups, dies := t.mill.dies }, mash.classes := t.mash.classes }) ∧
    (∀ (k : OpenCopy), copyNoted s i copy = some k → k.complete = true →
      (∀ cycle, exec (.copyComplete die tile copy cycle) s = .next s) ∧
      exec (.fenceCheck die tile copy) s = .next (if k.missedAt = none then
        modHead s i fun x => { x with copies := x.copies.filter fun k => k.idx != copy } else s)) ∧
    (∀ (k : OpenCopy) (m cycle : Nat), copyNoted s i copy = some k → k.complete = false → k.missedAt = some m →
      exec (.fenceCheck die tile copy) s = .next s ∧
      ∃ t : State, exec (.copyComplete die tile copy cycle) s = .next t ∧
        t.mill.groups = (modHead (modGrp s i fun x => { x with stall := x.stall + (cycle - m) }) i fun x => { x with
          copies := x.copies.map fun q =>
            if q.idx = copy then { q with complete := true, missedAt := some (cycle - max m s.mash.arith) } else q }).mill.groups ∧
        t.mill.dies = lmod s.mill.dies die (fun d => { d with copyStall := ctrAdd d.copyStall (cycle - m) }) ∧
        t = { s with mill := { s.mill with groups := t.mill.groups, dies := t.mill.dies }, mash.items := t.mash.items })) ∧
  (∀ (s : State) (die tile copy i : Nat) (k : OpenCopy) (m : Nat), running s = true → grpIdx s die tile = some i →
    copyNoted s i copy = some k → k.complete = false → k.missedAt = some m →
    exec (.copyAbandon die tile copy) s = .next (if m + 1048576 < s.mash.arith + 16384 then
      (grpTiles (grpAt s i)).foldl askSelfTest (abandonChain s i) else s))

/-- POST records (R187, R90): a record that a tile of the die posted for that session and entry is taken, and the record given
stands for one the model did not compute. One of another kind counts as a descriptor fault; one whose kind answers the item
of its session and entry is held as the item's result; one that answers nothing changes nothing more. A step whose last rest
has ended, with its record where its kind has one, commits (R25, R331): an item of a session commits unless an earlier step
of the session is not yet acknowledged by the buddy, and then it is counted and runs again; an encoder, cross-encoder or
expert item leaves the list and hands on its result. Until then nothing happens. -/
def Obligations.RecordsAndCommits : Prop :=
  (∀ (s : State) (die session entry : Nat) (r0 : PostRec), running s = true →
      let p : PostRec × State := (takePosted s die session entry).getD (r0, s)
      (∀ k, p.1 = .other k → exec (.postRecord die session entry r0) s =
        .next (modDie p.2 die fun d => { d with descFault := ctrAdd d.descFault 1 })) ∧
      ((∀ k, p.1 ≠ .other k) →
        (recordItem p.2 die session entry = none → exec (.postRecord die session entry r0) s = .next p.2) ∧
        (∀ it : Item, recordItem p.2 die session entry = some it → exec (.postRecord die session entry r0) s =
          .next (if recordFits it p.1 = true then holdRecord p.2 it p.1 else p.2)))) ∧
  (∀ (s : State) (it : Item) (r : PostRec), (∀ k, it.kind ≠ .verify k) → (∀ t f g, r = .stepResult t f g → g = 0xFFFFFFFF) →
      holdRecord s it r = modItem s it.id fun k => { k with result := some r }) ∧
  (∀ (s : State) (item : Nat) (it : Item), running s = true → itemOf s item = some it →
      (it.ended = false ∨ (needsRecord it.kind = true ∧ it.result = none) → exec (.stepCommit item) s = .next s) ∧
      (it.ended = true → (needsRecord it.kind = true → it.result.isSome = true) →
        (∀ q, it.kind = .embed q → exec (.stepCommit item) s = .next (embedDone (dropItem s item) q)) ∧
        (∀ q, it.kind = .rerank q → exec (.stepCommit item) s = .next (rerankDone (dropItem s item) q)) ∧
        (∀ m e n, it.kind = .expert m e n → exec (.stepCommit item) s = .next (expertDone (dropItem s item) m e n it.act)) ∧
        ((∀ q, it.kind ≠ .embed q) → (∀ q, it.kind ≠ .rerank q) → (∀ m e n, it.kind ≠ .expert m e n) →
          let x := (sessAt s it.sess).getD Sess.zero
          exec (.stepCommit item) s = .next (
            if it.sess ≠ 0 ∧ (x.deltas.any fun d => d.isStep && decide (d.rackSeq > x.rackAcked) && d.ent != it.entry.getD 0) = true then
              { redoItem s item with fab.cnt.rackRedo := ctrAdd s.fab.cnt.rackRedo 1 }
            else commitItem s it))))

/-! ### Racking, adoption, migration -/

/-- Rack records (R329 to R333, R336, R342): one of a tenant that is not live counts as failed authentication; another is
charged to RACK and counted for the session's share class (R142; the class is the image's, the model's choice: log entry
112), and its owner is answered fenced where its copies are frozen; of an aborted migration it is ignored; it is counted
stale where this device is ahead, is acknowledged again if it is not new, and is otherwise written. An acknowledgement within the records sent moves the
session on. A fenced answer of the slice's buddy fences the slice's racked sessions and loses the peer. Adoption (R342,
R344, R348): asked for a failed peer's copies, the buddy freezes them for the spare, serves their images under MOVE, slice
by slice, and refuses the peer's later records, or serves only what that peer handed over; a hand-over freezes the copies
named; the spare makes each image into a session, ACTIVE ones first, and ends the adoption. -/
def Obligations.RacksAndAdoptions : Prop :=
  (∀ (s : State) (src : Nat),
      (∀ r : RackRec, running s = true →
        (tenantLive s r.tenant = false → exec (.rackRecord src r) s =
          .next { s with fab.cnt.authFail := ctrAdd s.fab.cnt.authFail 1 }) ∧
        (tenantLive s r.tenant = true →
          let w := noteClass (noteClass (charge (chargeRx s 0 7 (32 + r.kvBytes + r.descBytes)) 0 7 1 (r.kvBytes + r.descBytes))
            r.image.shareClass 3 (32 + r.kvBytes + r.descBytes)) r.image.shareClass 1 (r.kvBytes + r.descBytes)
          let u := { w with fab.owners := if w.fab.owners.contains src then w.fab.owners else w.fab.owners ++ [src] }
          (fencedFor u src r = true → exec (.rackRecord src r) s = .next (sendMsg u src 0 0 0 0 false (.rackFenced r.slice))) ∧
          (fencedFor u src r = false → abortMarked u r.session r.epoch = true → bit r.rflags 0 = true ∨ r.rkind = 9 →
            exec (.rackRecord src r) s = .next u) ∧
          (fencedFor u src r = false → abortMarked u r.session r.epoch = false ∨ (bit r.rflags 0 = false ∧ r.rkind ≠ 9) →
            (aheadOf u r.session r.epoch = true → exec (.rackRecord src r) s = .next (staleEpoch u)) ∧
            (aheadOf u r.session r.epoch = false → copyOf u r.session = none →
              exec (.rackRecord src r) s = .next (writeRecord u src r)) ∧
            (∀ c : RCopy, aheadOf u r.session r.epoch = false → copyOf u r.session = some c → exec (.rackRecord src r) s = .next (
              if c.owner = src ∧ r.rackSeq ≤ c.rackSeq then
                (if c.pendingPark.isSome then u else sendMsg u src 0 0 0 0 false (.rackAck r.session c.rackSeq))
              else writeRecord u src r))))) ∧
      (∀ (session q : Nat) (x : Sess), sessByHandle s session = some x → buddyOf s x = src → x.rackAcked < q → q ≤ x.rackSeq →
        let u := { s with fab.cnt.rackRecords := ctrAdd s.fab.cnt.rackRecords (q - x.rackAcked) }
        exec (.rackAck src session q) s =
          .next (afterAck (modSess u x.idx fun y => { y with rackAcked := q, rackBusy := false }) x.idx)) ∧
      (∀ slice : Nat, lget s.fab.buddies slice 0 = src → src ≠ 0 → exec (.fencedReceived src slice) s = .next (markLost
        ((s.cellar.sess.filter fun p => sliceOfSess s p.2 == slice && racks s p.2 && p.2.state != 5 && p.2.state != 6).foldl
          (fun s p => fenceSession s p.1) s) src 2))) ∧
  (∀ s : State, running s = true →
      (∀ (spare failed : Nat),
        let handed := s.rack.copies.any (fun c => c.owner == failed && c.frozen == some 0) && !(peerOf s failed).lost &&
          !s.rack.fenced.contains failed
        let pick := fun c : RCopy => servable_ failed c && (!handed || c.frozen == some 0)
        ∃ t : State, exec (.adoptFreezeRequest spare failed) s = .next (servePull t spare ((s.rack.copies.filter pick).map (·.img))) ∧
          t.rack.copies = s.rack.copies.map (fun c => if pick c then { c with frozen := some spare }
            else if c.owner = failed ∧ c.frozen = none ∧ handed = false then { c with frozen := some 0 } else c) ∧
          (handed = false → t.rack.fenced.contains failed = true) ∧
          t = { s with rack := { s.rack with copies := t.rack.copies, fenced := t.rack.fenced } }) ∧
      (∀ (spare sl : Nat) (l : List SessImage), l ≠ [] → (∀ i ∈ l, imgSlice s i = sl) → servePull s spare l =
        sendMsg (l.foldl (fun s i => noteClass s i.shareClass 1 (imgBytes i)) (charge s sl 6 1 (sumBy imgBytes l)))
          spare 4 sl 6 0 false (.adoptCopies l)) ∧
      (∀ (src : Nat) (l : List Nat), exec (.handover src l) s = .next { s with
        rack.copies := s.rack.copies.map fun c =>
          if c.owner = src ∧ l.contains c.img.handle ∧ c.frozen = none then { c with frozen := some 0 } else c }) ∧
      (∀ (q : Nat) (l : List SessImage) (a : Adoption), s.rack.adoptions.find? (fun a => a.seq == q) = some a →
        let r := ((l.filter fun i => i.state == 0) ++ (l.filter fun i => i.state != 0)).foldl (adoptOne a.buddy) (s, default)
        exec (.adoptPullDone q l) s = .next (endAdoption r.1 a r.2)))

/-- Migration messages to the receiver (R337 to R339): an offer it cannot take is refused with its status; one it can take makes an
incoming entry and asks for frames, or answers at once where the session is PARKED, an EXTRACT holding its slot from then on
(the model's choice: log entry 111); the end of the transfer is charged to MOVE and counted for the share class; with a wrong
digest it is answered no match, with the right one it installs the state; a release ends a committed entry; an abort at its epoch
discards it, and one below its epoch is counted stale; an abort mark leaves at its time. -/
def Obligations.MigrationReceived : Prop :=
  ∀ (s : State) (src session : Nat),
    (∀ (img : SessImage), running s = true →
      (aheadOf s img.handle img.epoch = true → exec (.migrateOfferMsg src img) s = .next (staleEpoch s)) ∧
      (∀ st : Nat, aheadOf s img.handle img.epoch = false → offerFault s img = some st → exec (.migrateOfferMsg src img) s =
        .next (sendMsg s src 0 0 0 0 false (.offerRefused img.handle st))) ∧
      (aheadOf s img.handle img.epoch = false → offerFault s img = none → img.offeredFrom = 2 →
        let x := sessOfImage s img ((dieFor s img.model).getD 0) 5 []
        let u := putArrived s { x with incoming := true, ownerPeer := src, offeredFrom := 2 }
        exec (.migrateOfferMsg src img) s = .next (sendMsg { u with
          rack.inn := u.rack.inn ++ [{ src := src, img := img, digest := 0, stage := 2, resv := 0 }] } src 0 0 0 0 false (.offerOk img.handle))) ∧
      (∀ die : Nat, aheadOf s img.handle img.epoch = false → offerFault s img = none → img.offeredFrom ≠ 2 →
        dieFor s img.model = some die →
        let x := sessOfImage s img die 5 []
        let u := putArrived s { x with incoming := true, ownerPeer := src, offeredFrom := img.offeredFrom }
        let w := if img.offeredFrom = 3 then takeExtract u x.idx else u
        imageOrders w img img.offeredFrom ≠ [] ∧ exec (.migrateOfferMsg src img) s = .next (askFrames { w with
          rack.inn := w.rack.inn ++ [{ src := src, img := img, digest := 0, stage := 1, resv := w.cellar.nextResv }] }
          noSeq x.idx die img.tenant (imgSlice w img) (imageOrders w img img.offeredFrom))) ∧
      (aheadOf s img.handle img.epoch = false → offerFault s img = none → img.offeredFrom ≠ 2 → dieFor s img.model = none →
        exec (.migrateOfferMsg src img) s = .next (sendMsg s src 0 0 0 0 false (.offerRefused img.handle 0x0021)))) ∧
    (∀ (img : SessImage) (digest : Nat) (m : MigIn) (x : Sess), migIn s session = some m → sessByHandle s session = some x →
      m.src = src → m.stage = 2 →
      (img.epoch < m.img.epoch → exec (.migrateEnd src session digest img) s = .next (staleEpoch s)) ∧
      (m.img.epoch ≤ img.epoch →
        let u := noteClass (chargeRx s (imgSlice s img) 6 (imgBytes img)) img.shareClass 3 (imgBytes img)
        (digest ≠ Config.streamDigest img ∨ img.handle ≠ session → exec (.migrateEnd src session digest img) s =
          .next (sendMsg u src 0 0 0 0 false (.digestMatch session false))) ∧
        (digest = Config.streamDigest img → img.handle = session →
          let v := installIncoming u m { img with offeredFrom := x.offeredFrom }
          let w := modIn v session fun k => { k with img := img, digest := digest, resv := 0, stage := if x.offeredFrom = 2 then 5 else 2 }
          exec (.migrateEnd src session digest img) s = .next (if x.offeredFrom = 2 then migWrite w session
            else matched (noteClass (charge w (imgSlice w img) 6 1 img.hbmBytes) img.shareClass 1 img.hbmBytes) session)))) ∧
    (∀ m : MigIn, migIn s session = some m →
      exec (.migrateReleased src session) s = .next (if m.src = src ∧ m.stage = 6 then dropIn s session else s) ∧
      (∀ e, exec (.migrateAbort src session e) s = .next (if e < m.img.epoch then staleEpoch s
        else if m.src = src ∧ m.img.epoch = e ∧ m.stage ≠ 6 then discardIncoming s session else s))) ∧
    (∀ e, exec (.abortMarkExpiry session e) s = .next { s with
      rack.aborts := s.rack.aborts.filter fun a => !(a.1 == session && a.2.1 == e && decide (a.2.2 ≤ s.cellar.sec)) })

/-- Migration messages to the sender (R337, R339, R341): an offer taken starts the transfer, one refused is settled with that
status; a match completes the offer with the epoch, a mismatch repeats the transfer and after the third settles it with
RETRY; the receiver's commit releases the OFFERED session at its epoch, is answered again once it is ABSENT, and below the
epoch is counted stale. The bung protocol (R339, R349): asked about an epoch, a device that holds the receiver's state past
the offer answers committed with the owner it knows; another sets an abort mark once, discards the incoming state of that
epoch, and answers not committed. The answer releases or settles the unsettled offer and ends the question; a question not
answered in time ends with the session as it stands. -/
def Obligations.OffersAndBung : Prop :=
  (∀ (s : State) (src session : Nat),
      (∀ (m : MigOut) (x : Sess), offerWith s src session = some (m, x) →
        (m.stage = 1 → exec (.offerReply src session 0) s =
          .next (sendTransfer (modOut s session fun k => { k with stage := 2 }) x src)) ∧
        (∀ st, m.stage = 1 → st ≠ 0 → exec (.offerReply src session st) s = .next (pump (settle s x.idx st) x.idx)) ∧
        (∀ d, m.stage = 2 → exec (.migrateMatchReply src session d true) s =
          .next (complete (modOut s session fun k => { k with stage := 3 }) m.seq (ansB (lay [(4, x.epoch)])))) ∧
        (∀ d, m.stage = 2 → exec (.migrateMatchReply src session d false) s = .next (
          if m.attempts < 3 then sendTransfer (modOut s session fun k => { k with attempts := k.attempts + 1 }) x src
          else pump (settle s x.idx 0x0003) x.idx))) ∧
      (∀ (x : Sess) (e : Nat), sessByHandle s session = some x → exec (.migrateCommitMsg src session e) s = .next (
        if e < x.epoch then staleEpoch s
        else if x.state = 4 ∧ x.epoch = e then sendMsg (release s x.idx src) src 0 0 0 0 false (.releasedMsg session)
        else if x.state = 5 ∧ x.incoming = false then sendMsg s src 0 0 0 0 false (.releasedMsg session) else s))) ∧
  (∀ (s : State) (src session : Nat),
      (∀ e : Nat, running s = true →
        (∀ o : Nat, bungView s session e = some o → exec (.bungAsk src session e) s =
          .next (sendMsg s src 0 0 0 0 false (.bungAnswer session true o))) ∧
        (bungView s session e = none → ∃ u : State,
          u = (if abortMarked s session e then s else { s with
            rack.aborts := s.rack.aborts ++ [(session, e, s.cellar.sec + 60 * max 1 s.cellar.absentHold)]
            fab.cnt.abortMarks := ctrAdd s.fab.cnt.abortMarks 1 }) ∧ abortMarked u session e = true ∧
          (migIn u session = none → exec (.bungAsk src session e) s =
            .next (sendMsg u src 0 0 0 0 false (.bungAnswer session false 0))) ∧
          (∀ m : MigIn, migIn u session = some m → exec (.bungAsk src session e) s = .next (sendMsg
            (if m.img.epoch = e ∧ m.stage ≠ 6 then discardIncoming u session else u) src 0 0 0 0 false (.bungAnswer session false 0))))) ∧
      (∀ (b : BungOpen) (x : Sess) (o : Nat), openBung s src session = some b → sessByHandle s session = some x → unsettled s x = true →
        exec (.bungAnswer src session true o) s = .next (pump (endBung (release s x.idx o) b) (idxOf session)) ∧
        exec (.bungAnswer src session false o) s = .next (pump (endBung (settle s x.idx 0x0003) b) (idxOf session))) ∧
      (∀ (b : BungOpen) (j : Job), s.rack.bung.find? (fun b => b.handle == session) = some b → jobOf s b.seq = some j →
        exec (.bungAskTimeout session) s = .next (endBung (advanceTo s (j.acceptedAt + max 100 s.fab.peerTimeoutUs * 3000)) b)))

/-! ### Events of the Lauter -/

/-- Lauter messages on a running device (R205, R255, R256, R260). Expert tokens of an expert that this device holds, of a
RESIDENT model, are charged on arrival to the activity they name, join their expert's queue with their sender, class and
activity, and an item is made for the queue unless one is; of another expert they change nothing. A search request is charged
to RETRIEVE; with no time left it counts as abandoned; of a shard that is missing, lost, of another tenant or too new for its
snapshot, or while 16,384 wait, it is answered with that status; else it is listed with its end and served. A candidate reply
of a query that asks no more counts as late once the query's deadline is past; of one that asks, the candidates are used, or
the replica is asked. A text request of a shard held here is listed and its texts are read; a text reply fills in the query's
passages. The Lauter's deadlines (R255, R256, R260, R246): a shard that has not answered at half the deadline is asked for at
its replica; at the deadline the shards that answered are merged; half a deadline after the texts were asked for the query
goes on without the missing ones; a peer request leaves the list when it expires, and is counted. A sweep of an enabled
repair runs where SCAN and MAINT have balance, and is counted as held where one has none. -/
def Obligations.LauterEvents : Prop :=
  (∀ (s : State) (src : Nat), running s = true →
      (∀ (model expert : Nat) (payer : Nat × Nat) (toks : List Nat) (m : Model) (home : Nat × Nat), modelOf s model = some m →
        m.hdr.expertMap[expert]? = some home →
        let u := chargeRx s m.slice payer.2 (64 * toks.length)
        (m.st = 2 → home.1 = s.fab.self → exec (.expertTokens src model expert payer toks) s = .next (expertItem { u with
          models.queues := tput u.models.queues (expertKey model expert)
            (tdef s.models.queues (expertKey model expert) [] ++ toks.map fun t => (src, t, payer)) } model expert)) ∧
        (m.st ≠ 2 ∨ home.1 ≠ s.fab.self → exec (.expertTokens src model expert payer toks) s = .next s)) ∧
      (∀ r : SearchReq,
        let u := chargeRx s (corpusSlice s r.corpus) 4 (96 + 2 * r.vector.length)
        (r.remainingUs = 0 → exec (.searchRequest r) s =
          .next { u with lauter.cnt.abandoned := ctrAdd u.lauter.cnt.abandoned 1 }) ∧
        (∀ st, r.remainingUs ≠ 0 → shardStatus u r = st → (st = 1 ∨ st = 4) → exec (.searchRequest r) s =
          .next (sendMsg u r.src 3 (corpusSlice u r.corpus) 4 r.tenant true (.candReply r.qid r.shard st []))) ∧
        (r.remainingUs ≠ 0 → shardStatus u r = 3 →
          let w := { u with lauter.cnt.snapOld := ctrAdd u.lauter.cnt.snapOld 1 }
          exec (.searchRequest r) s = .next (sendMsg w r.src 3 (corpusSlice w r.corpus) 4 r.tenant true (.candReply r.qid r.shard 3 []))) ∧
        (r.remainingUs ≠ 0 → shardStatus u r = 0 → exec (.searchRequest r) s = .next (
          if 16384 ≤ u.lauter.reqs.length then
            sendMsg u r.src 3 (corpusSlice u r.corpus) 4 r.tenant true (.candReply r.qid r.shard 2 [])
          else serveRequest { u with
            lauter.reqs := u.lauter.reqs ++ [PeerReq.mk u.lauter.nextReq r.src r.qid r.tenant r.corpus r.shard r.snapshot
              (u.dev.localCtr + r.remainingUs * 3000) r]
            lauter.nextReq := u.lauter.nextReq + 1 } u.lauter.nextReq))) ∧
      (∀ (qid shard status : Nat) (l : List Cand),
        let u := chargeRx s (querySlice s qid) 4 (24 + 64 * l.length)
        let w := { u with lauter.cnt.lateReply := ctrAdd u.lauter.cnt.lateReply 1 }
        (queryOf u qid = none → exec (.candidateReply src qid shard status l) s = .next w) ∧
        (∀ q : Query, queryOf u qid = some q →
          (q.stage ≠ 2 → exec (.candidateReply src qid shard status l) s =
            .next (if u.dev.localCtr < q.fanoutAt + deadlineOf u q * 3000 then u else w)) ∧
          (q.stage = 2 → ∀ a : Option Asked,
            q.asked.find? (fun a => a.shard == shard && !a.done && (a.owner == src || (a.replica == src && a.replicaAsked))) = a →
            exec (.candidateReply src qid shard status l) s = .next (match a with
              | none => u
              | some a =>
                if status = 0 then progressQuery 4 (takeCands u qid shard (l.map fun c => { c with shard := shard, fromPeer := src })) qid
                else if a.owner = src ∧ status ≠ 4 then progressQuery 4 (askReplica u qid shard) qid else u)))) ∧
      (∀ (qid tenant corpus shard : Nat) (nodes : List Nat),
        let u := chargeRx s (corpusSlice s corpus) 4 (24 + 4 * nodes.length)
        (∀ c : Corpus, corpusOf u corpus = some c → (shardOf u corpus shard).isSome = true → c.tenant = tenant →
          exec (.textFetchRequest src qid tenant corpus shard nodes) s = .next (serveRead { u with
            lauter.textReqs := u.lauter.textReqs ++ [{ rid := u.lauter.nextReq, src := src, qid := qid, tenant := tenant, corpus := corpus,
                                                       shard := shard, nodes := nodes, asked := false }]
            lauter.nextReq := u.lauter.nextReq + 1 } u.lauter.nextReq)) ∧
        (corpusOf u corpus = none ∨ shardOf u corpus shard = none ∨ (∃ c, corpusOf u corpus = some c ∧ c.tenant ≠ tenant) →
          exec (.textFetchRequest src qid tenant corpus shard nodes) s = .next u)) ∧
      (∀ (qid : Nat) (l : List (Nat × Nat × List Byte)),
        let u := chargeRx s (querySlice s qid) 4 (8 + sumBy (fun x => 12 + x.2.2.length) l)
        let w := { u with lauter.cnt.lateReply := ctrAdd u.lauter.cnt.lateReply 1 }
        (queryOf u qid = none → exec (.textFetchReply src qid l) s = .next w) ∧
        (∀ q : Query, queryOf u qid = some q → exec (.textFetchReply src qid l) s =
          .next (if q.stage = 3 then takeTexts u qid src l else w)))) ∧
  (∀ s : State,
      (∀ (qid : Nat) (q : Query), queryOf s qid = some q →
        (∀ shard, q.stage = 2 → q.asked.any (fun a => a.shard == shard && !a.done) = true → exec (.replicaDeadline qid shard) s =
          .next (progressQuery 4 (askReplica (advanceTo s (q.fanoutAt + deadlineOf s q * 3000 / 2)) qid shard) qid)) ∧
        (∀ shard, q.stage ≠ 2 → exec (.replicaDeadline qid shard) s = .next s) ∧
        exec (.mergeDeadline qid) s = .next (if q.stage = 2 then
          progressQuery 4 (mergeQuery (advanceTo s (q.fanoutAt + deadlineOf s q * 3000)) qid) qid else s) ∧
        exec (.textFetchDeadline qid) s = .next (if q.stage = 3 then
          afterTexts (advanceTo s (q.fetchAt + deadlineOf s q * 3000 / 2)) qid else s)) ∧
      (∀ (rid : Nat) (r : PeerReq), s.lauter.reqs.find? (fun r => r.rid == rid) = some r → exec (.peerRequestExpire rid) s =
        .next { advanceTo s r.expiresAt with
          lauter.reqs := s.lauter.reqs.filter fun k => k.rid != rid
          lauter.cnt.abandoned := ctrAdd s.lauter.cnt.abandoned 1 }) ∧
      (∀ (corpus shard : Nat) (c : Corpus) (sh : Shard), corpusOf s corpus = some c → shardOf s corpus shard = some sh →
        running s = true → s.lauter.repairEn = true → exec (.repairSweep corpus shard) s = .next (
          if hasBal s c.cfg.slice 12 0 = false then holdOn s c.cfg.slice 12 0
          else if hasBal s c.cfg.slice 5 1 = false then holdOn s c.cfg.slice 5 1
          else tick (charge (repairShard s corpus shard) c.cfg.slice 12 0 (Config.count s.free)))) ∧
      (∀ (corpus shard : Nat), s.lauter.repairEn = false → exec (.repairSweep corpus shard) s = .next s))

/-! ### Objects and checkpoint shards -/

/-- A fetch that has ended (R37): an object of the expected length and digest is charged and used by its command, one whose
digest differs ends the command BAD_PARAM with detail 0xFFFF, one its gateway could not serve RETRY; of a restore it goes to
the restore; with no fetch out nothing happens. Shards of a running checkpoint (R358, R360): a stored shard is marked so and
the phase counts it, and the checkpoint goes on; a stored manifest completes the generation, which is then the last one
done, and counts it; a shard its gateway failed is put again, to the next gateway listed that has not failed it, and counted;
with none left the checkpoint fails; a manifest is put again in the same way; an index that is not out changes nothing. -/
def Obligations.FetchesAndPuts : Prop :=
  (∀ (s : State) (seq : Nat) (j : Job) (o : ObjRef), serving s = true → jobOf s seq = some j → fetchRef s j = some o →
      (∀ k r, j.kind = .restore k → exec (.objectFetchDone seq r) s = .next (restoreFetched s r)) ∧
      ((∀ k, j.kind ≠ .restore k) →
        exec (.objectFetchDone seq none) s = .next (failFetch s j { status := 0x0003, detail := 0, body := [], handle := none }) ∧
        (∀ bs : List Byte,
          let u := chargeRx s (fetchSlice s j) 12 bs.length
          (digestOk o bs = true → exec (.objectFetchDone seq (some bs)) s = .next (useObject u j bs)) ∧
          (digestOk o bs = false → exec (.objectFetchDone seq (some bs)) s =
            .next (failFetch u j { status := 0x0011, detail := 0xFFFF, body := [], handle := none }))))) ∧
  (∀ (s : State) (seq : Nat), (jobOf s seq).bind (fetchRef s) = none → ∀ r, exec (.objectFetchDone seq r) s = .next s) ∧
  (∀ (s : State) (i : Nat) (r : CkptRun), s.ckpt.run = some r →
      (r.shards.find? (fun d => d.idx == i && d.sent && !d.done) = none →
        exec (.putDone i) s = .next s ∧ exec (.putFail i) s = .next s) ∧
      (∀ d : Shd, r.shards.find? (fun d => d.idx == i && d.sent && !d.done) = some d →
        let q := { r with shards := r.shards.map fun k => if k.idx = i then { k with done := true } else k }
        let u := { s with ckpt.run := some q }
        exec (.putDone i) s = .next (if i = 0xFFFFFFFF then ckptComplete u q
          else ckptAdvance (ckptPump (setPhase u r.generation 1 (countBy (·.done) q.shards) (sumBy (·.bytes) (q.shards.filter (·.done)))))) ∧
        (ckptComplete u q).ckpt.phases.head?.map (fun x => (x.1, x.2.1)) = some (r.generation, 3) ∧
        (ckptComplete u q).ckpt.lastDone = r.generation ∧
        (i = 0xFFFFFFFF → exec (.putFail i) s = .next (sendManifest { s with ckpt.putRetry := ctrAdd s.ckpt.putRetry 1 } (d.gw :: d.tried))) ∧
        (i ≠ 0xFFFFFFFF →
          let next := (r.gateways.drop ((r.gateways.takeWhile (· != d.gw)).length + 1) ++
            r.gateways.take (r.gateways.takeWhile (· != d.gw)).length).find? fun g => !(d.gw :: d.tried).contains g
          (next = none → exec (.putFail i) s = .next (ckptFail s)) ∧
          (∀ g, next = some g → exec (.putFail i) s = .next (sendMsg { s with
            ckpt.putRetry := ctrAdd s.ckpt.putRetry 1
            ckpt.run := some { r with shards := r.shards.map fun k => if k.idx = i then { k with gw := g, tried := d.gw :: d.tried } else k } }
            g 5 d.slice 8 0 false (.put d.idx d.bytes)))))) ∧
  (∀ (s : State) (i : Nat), s.ckpt.run = none → exec (.putDone i) s = .next s ∧ exec (.putFail i) s = .next s)

/-! ### Events of the cellar -/

/-- Sessions move (R168, R173, R174). A WARM session with nothing outstanding, not parking, condensing or waiting to, is
condensed or parked when its class's dwell time has passed. A park whose programs and acknowledgements are complete makes it
PARKED, with its expiry second, and is counted. A revive whose data and frames are there makes it WARM and is counted by its
source, after what came from the buddy is charged to MOVE and counted for its share class. A condense whose slots are computed
and racked makes it an EXTRACT where its summary pages have their frames. Until then nothing happens. -/
def Obligations.SessionsMove : Prop :=
  (∀ (s : State) (session : Nat) (x : Sess), sessByHandle s session = some x →
    exec (.dwellExpiry session) s = .next (
      if running s = true ∧ x.state = 1 ∧ x.dwellOn = true ∧ x.outstanding = 0 ∧ (serviceOf s x.cls).dwellMs ≠ 0xFFFFFFFF ∧
          x.parking = false ∧ x.condensing = false ∧ x.parkWait = false then
        retireSession (advanceTo s (x.dwellSince + (serviceOf s x.cls).dwellMs * 3000000)) x.idx else s) ∧
    exec (.parkComplete session) s = .next (
      if x.parking = true ∧ x.parkProgs = true ∧ x.parkAcked = true ∧ x.parkCancelled = false then pump (finishPark s x.idx) x.idx else s) ∧
    (let n := reviveBytes s x
     let sl := sliceOfSess s x
     let u := if x.reviveSrc = 3 then noteClass (noteClass (charge (chargeRx s sl 6 n) sl 6 1 n) x.share 3 n) x.share 1 n else s
     exec (.reviveComplete session) s = .next (if reviveReady s x = true then pump (finishRevive u x.idx) x.idx else s)) ∧
    exec (.condenseCommit session) s = .next (
      if x.condensing = true ∧ x.condDone = true ∧ x.rackSeq ≤ x.rackAcked then pump (finishCondense s x.idx) x.idx else s)) ∧
  (∀ (s : State) (x : Sess), sessAt s x.idx = some x → x.parkSeq = noSeq →
    (sessAt (finishPark s x.idx) x.idx).map (fun y => (y.state, y.parking, y.expirySec)) = some (2, false, s.cellar.sec + x.parkTtl) ∧
    (finishPark s x.idx).cellar.cnt.parks = ctrAdd s.cellar.cnt.parks 1)

/-- A second of `CELLAR_SEC` (R152 to R154): the second counts and the expiries beyond 1,000 are summed up; PARKED sessions past their
expiry second expire; the seconds are saved in the Oast; the index of an ABSENT or EXPIRED session is freed at its time. A die
under pressure reclaims memory where the cellar may (R163). -/
def Obligations.CellarSeconds : Prop :=
  ∀ s : State,
    (running s = true → ∃ u : State, u = secondEnds s ∧ u.cellar.sec = ctrAdd s.cellar.sec 1 ∧ u.cellar.expiredThisSec = 0 ∧
      exec .caskExpiry s = .next (u.cellar.sess.foldl (fun s p =>
        if p.2.state = stPARKED ∧ p.2.reviving = false ∧ p.2.expirySec ≤ s.cellar.sec then expireSession s p.1 else s) u)) ∧
    (running s = true → exec .cellarSecSave s = .next { s with oast.cfg.cellarSec := s.cellar.sec }) ∧
    (running s = false → exec .caskExpiry s = .next s ∧ exec .cellarSecSave s = .next s) ∧
    (∀ (i : Nat) (x : Sess), sessAt s i = some x → x.incoming = false →
      (x.state = stABSENT ∨ x.state = stEXPIRED → x.expirySec ≤ s.cellar.sec → exec (.holdExpiry i) s = .next { s with
        cellar.sess := tdel s.cellar.sess i, cellar.gens := tput s.cellar.gens i x.gen, cellar.freed := s.cellar.freed ++ [i] }) ∧
      (s.cellar.sec < x.expirySec → exec (.holdExpiry i) s = .next s)) ∧
    (∀ d, d < 4 → running s = true → s.cellar.pressureEn = true → exec (.pressureReclaim d) s =
      .next (if poolFree s d < lowMark s d ∨ waitingFrames s d ≠ 0 then reclaim s d else s))

/-- Frame reservations (R161, R162, R175, R182): the first one waiting is granted when its runs are free, and its command proceeds;
one not granted within `reserve_wait` mash cycles fails, is counted, and its command ends NO_MEMORY; a revive from a buddy out
of reach for as long fails NO_MEMORY; an item that no group takes leaves the list after as long. -/
def Obligations.ReservationsEnd : Prop :=
  ∀ s : State,
    (∀ (rid : Nat) (r : Resv), resvOf s rid = some r →
      (∀ (rs : List Run) (w : State), r.granted = false → firstWaiting s r = true → dieUp s r.die = true →
        takeRuns s r.die r.tenant r.slice r.orders = some (rs, w) → exec (.reservationGranted rid) s =
          .next (pump (afterGrant (modResv w r.id fun k => { k with runs := rs, granted := true }) r) r.sess)) ∧
      (r.granted = true ∨ firstWaiting s r = false ∨ takeRuns s r.die r.tenant r.slice r.orders = none →
        exec (.reservationGranted rid) s = .next s) ∧
      exec (.reserveTimeout rid) s = .next (if r.granted = false ∧ r.sinceCycle + reserveWait s ≤ s.mash.cycleCnt then
        pump (failReservation s r) r.sess else s) ∧
      (∀ (j : Job), s.rack.inn.find? (fun m => m.resv == r.id) = none → jobOf s r.seq = some j → (∀ k, j.kind ≠ .condense k) →
        failReservation s r = failJob (dropResv { s with cellar.cnt.noMem := ctrAdd s.cellar.cnt.noMem 1 } r.id) r.sess r.seq
          { status := 0x0021, detail := 0, body := [], handle := none })) ∧
    (∀ (session : Nat) (x : Sess) (r : Resv), sessByHandle s session = some x → x.reviving = true → x.reviveSrc = 3 →
      resvBySeq s noSeq x.idx = some r → r.sinceCycle + reserveWait s ≤ s.mash.cycleCnt →
      reachable s (if x.caskPeer ≠ 0 then x.caskPeer else buddyOf s x) = false →
      exec (.reviveBuddyTimeout session) s = .next (pump (failRevive s x.idx 0x0021) x.idx)) ∧
    (∀ (item : Nat) (it : Item), itemOf s item = some it →
      (it.noGroup < reserveWait s ∨ it.entry.isSome = true → exec (.noGroupTimeout item) s = .next s) ∧
      (∀ (j : Job) (r : GenRun) (g : GenParams) (n : Nat), reserveWait s ≤ it.noGroup → it.entry = none →
        (∀ k, it.kind ≠ .condense k) → (∀ m e n, it.kind ≠ .expert m e n) → jobOf (dropItem s item) it.seq = some j →
        j.kind = .generate g n → ((sessAt (dropItem s item) it.sess).bind (·.run)) = some r → exec (.noGroupTimeout item) s = .next (
          if r.steps = 0 then pump (failJob (dropItem s item) it.sess j.seq { status := 0x0017, detail := 0, body := [], handle := none }) it.sess
          else pump (endGenerate (dropItem s item) it.sess 6) it.sess)))

/-- Text, models and hot entries (R216, R201, R203, R278). A tokeniser engine that finishes an input of a query leaves it, the
inputs that wait longest take the free engines of the 16, and the query goes on once none of its inputs is left: its tokens,
its rerank or its pack; of a dead query (its tenant removed or its corpus gone) it ends NO_TENANT. An engine that finishes an
append's input hands the append its tokens; one that holds no input of that command changes nothing. A warm whose reads were
asked for and have all landed makes the model RESIDENT and completes its MODEL_WARM commands with the home die and the time
taken; until then nothing happens. An EVICTING model that no entry uses gets its frames freed, is REGISTERED with no runs, and
what waited for it goes on; otherwise nothing happens. Where ROWS runs and its balances allow it, the missing hot entries
become valid with the rows' contents and are counted. -/
def Obligations.EnginesAndModels : Prop :=
  ∀ s : State,
    (∀ (seq : Nat) (q : Query), queryOf s seq = some q →
      (s.copper.engines.contains seq = true →
        let u := leaveEngine s seq
        let n := 16 - (s.copper.engines.erase seq).length
        u = { s with copper := { s.copper with
          engines := s.copper.engines.erase seq ++ s.copper.waiting.take n, waiting := s.copper.waiting.drop n } } ∧
        exec (.tokeniseDone seq) s = .next (
          if queryDead u q = true then endQuery u seq { status := 0x0013, detail := 0, body := [], handle := none }
          else if u.copper.engines.contains seq = true ∨ u.copper.waiting.contains seq = true then u
          else if q.stage = 0 then queryTokens u q else if q.stage = 4 then rerankStart u q
          else if q.stage = 5 then packDone u q else u)) ∧
      (s.copper.engines.contains seq = false → exec (.tokeniseDone seq) s = .next s)) ∧
    (∀ (seq : Nat), queryOf s seq = none →
      (∀ j : Job, jobOf s seq = some j → exec (.tokeniseDone seq) s =
        .next (if s.copper.engines.contains seq = true then appendTokens s j else s)) ∧
      (jobOf s seq = none → exec (.tokeniseDone seq) s = .next s)) ∧
    (∀ (m : Nat) (x : Model), modelOf s m = some x →
      (x.st = 1 → x.asked = true → s.oast.reads.any (fun r => r.what == .warm m) = false → ∃ t : State,
        exec (.modelWarmDone m) s = .next t ∧ (modelOf t m).map (·.st) = some 2 ∧
        t = s.gl.jobs.foldl (fun s j => if j.kind = .warm m then
            complete s j.seq (ansB (lay [(1, x.homeDie), (3, 0), (4, usSince s j.acceptedAt)])) else s)
          { s with models.models := tmod s.models.models m fun y => { y with st := 2 } }) ∧
      (x.st ≠ 1 ∨ x.asked = false ∨ s.oast.reads.any (fun r => r.what == .warm m) = true → exec (.modelWarmDone m) s = .next s) ∧
      (x.st ≠ 3 ∨ modelInUse s m = true → exec (.modelEvictDone m) s = .next s) ∧
      (x.st = 3 → modelInUse s m = false →
        let f := x.runs.foldl (fun s r => freeRun s r.1 r.2) s
        let u := { f with models.models := tmod f.models.models m fun y => { y with st := 0, runs := [] } }
        exec (.modelEvictDone m) s = .next (evictedGoOn u m) ∧
        ((∀ j ∈ u.gl.jobs, j.kind ≠ .evict m ∧ j.kind ≠ .warm m) → (∀ p ∈ u.cellar.sess, p.2.model ≠ m ∨ p.2.reviving = false) →
          evictedGoOn u m = u))) ∧
    (∀ (t : Nat) (x : RowTable), tableOf s t = some x →
      let l := hotMissing s x
      (rowsFree s x = true → ∃ u : State, exec (.hotRefresh t) s = .next u ∧
        (tableOf u t).map (·.hot) = some (x.hot.filter (fun e => !l.any fun k => k.1 == e.group && k.2 == e.row) ++
          l.map fun k => { group := k.1, row := k.2, valid := true, cells := rowAt x k.2 }) ∧
        u.rows.refreshRows = ctrAdd s.rows.refreshRows l.length) ∧
      (rowsFree s x = false → exec (.hotRefresh t) s = .next (rowsHold s x)))

/-! ### Events of the Oast -/

/-- Flash operations that complete (R290, R299, R301, R305, R306): a program that succeeds ends its write, and one of the session
image is named by the map at its address; one that fails is counted and its write goes to a LUN that takes writes; an erase
empties its block and counts the bytes, one that fails counts and retires it; a block that still holds data is not erased. A
read leaves the list and is counted when retried or uncorrectable, and its client goes on. Two pages of a closed block are
read under OAST_GC, and a retry has the block relocated; a block that is not closed is not read. A LUN that does not answer
fails (R306, R308): its blocks are retired and counted, its extents are lost, the writes to it go to another LUN, and
OAST_BLOCK_RETIRED is raised; the sessions and models stay. -/
def Obligations.FlashAndLuns : Prop :=
  (∀ s : State, s.dev.powered = true →
      (∀ (wid : Nat) (w : FWrite), s.oast.writes.find? (fun w => w.id == wid) = some w →
        exec (.flashProgramDone wid true) s = .next (quiesceCheck (writeDone s w)) ∧
        (w.what = .image →
          let p := placeOn (nextSeq { s with oast.writes := s.oast.writes.filter fun k => k.id != w.id }) w.lun w.bytes
          ∃ e : Extent, writeDone s w = { p.2 with oast.exts := tput p.2.oast.exts w.addr e } ∧ e.lun = w.lun ∧ e.block = p.1 ∧
            e.owner = w.owner ∧ e.tenant = w.tenant ∧ e.lost = false ∧ e.sectors = ceilDiv w.bytes 4096) ∧
        exec (.flashProgramDone wid false) s = .next (quiesceCheck (writeFailed s w)) ∧
        (∃ u : State, writeFailed s w = { u with
          oast.writes := u.oast.writes.map fun k => if k.id = w.id then { k with lun := (pickLun u).getD w.lun } else k } ∧
          u.oast.cnt.progFail = ctrAdd s.oast.cnt.progFail 1)) ∧
      (∀ wid ok, s.oast.writes.find? (fun w => w.id == wid) = none → exec (.flashProgramDone wid ok) s = .next s) ∧
      (∀ lun block, erasable s lun block = true →
        exec (.flashEraseDone lun block true) s = .next { s with
          oast.cnt.eraseBytes := ctrAdd s.oast.cnt.eraseBytes (lunAt s lun).blockBytes
          oast.luns := lmod s.oast.luns lun fun u => { u with blocks := lmod u.blocks block fun k =>
            { st := 0, erases := k.erases + 1, valid := 0, closeSeq := 0, pslc := false, relocate := false } } } ∧
        exec (.flashEraseDone lun block false) s =
          .next (retire { s with oast.cnt.eraseFail := ctrAdd s.oast.cnt.eraseFail 1 } lun block 1)) ∧
      (∀ lun block ok, erasable s lun block = false → exec (.flashEraseDone lun block ok) s = .next s) ∧
      (∀ (rid outcome : Nat) (r : FRead), s.oast.reads.find? (fun r => r.id == rid) = some r →
        let bad := decide (2 ≤ outcome) || readLost s r
        ∃ u : State, u.oast.reads = s.oast.reads.filter (fun k => k.id != rid) ∧
          u.oast.cnt.readRetry = (if 1 ≤ outcome then ctrAdd s.oast.cnt.readRetry 1 else s.oast.cnt.readRetry) ∧
          u.oast.cnt.uncorrectable = (if bad = true then ctrAdd s.oast.cnt.uncorrectable 1 else s.oast.cnt.uncorrectable) ∧
          u.cellar = s.cellar ∧ u.models = s.models ∧ u.lauter = s.lauter ∧
          exec (.flashReadDone rid outcome) s = .next (match r.what with
            | .revive i => if bad = true then pump (reviveBad u i) i
                else modSess u i fun y => if y.reviving = true then { y with reviveRead := true } else y
            | .node i id => nodeRead u i id (!bad)
            | .warm m => if bad = true then warmBad u m else u
            | .texts q => textsRead u q (!bad)
            | .serve n => textServed u n (!bad)
            | .patrol => u
            | .relocate l b => quiesceCheck (relocated u l b bad))) ∧
      (∀ rid outcome, s.oast.reads.find? (fun r => r.id == rid) = none → exec (.flashReadDone rid outcome) s = .next s) ∧
      (∀ (lun block : Nat) (retried : Bool) (k : Block), (lunAt s lun).blocks[block]? = some k → s.oast.mountState = 2 →
        (k.st ≠ 2 → exec (.patrolRead lun block retried) s = .next s) ∧
        (k.st = 2 → hasBal s 0 9 2 = false → exec (.patrolRead lun block retried) s = .next (holdOn s 0 9 2)) ∧
        (k.st = 2 → hasBal s 0 9 2 = true → exec (.patrolRead lun block retried) s = .next (if retried = true then
          modBlock { charge s 0 9 2 32768 with oast.cnt.readRetry := ctrAdd (charge s 0 9 2 32768).oast.cnt.readRetry 1 } lun block
            (fun k => { k with relocate := true })
          else charge s 0 9 2 32768)))) ∧
  (∀ (s : State) (lun : Nat), s.dev.powered = true →
      (lunUsable s lun = false → exec (.lunTimeout lun) s = .next s) ∧
      (lunUsable s lun = true → ∃ t : State, exec (.lunTimeout lun) s = .next t ∧
        (∀ p ∈ t.oast.exts, p.2.lun = lun → p.2.lost = true) ∧
        (t.oast.exts.map fun p => (p.1, { p.2 with lost := false })) = s.oast.exts.map (fun p => (p.1, { p.2 with lost := false })) ∧
        (lunAt t lun).failed = true ∧ (∀ b ∈ (lunAt t lun).blocks, b.st = 3) ∧
        t.oast.cnt.retired = ctrAdd s.oast.cnt.retired (countBy (fun b => b.st != 3) (lunAt s lun).blocks) ∧
        (∃ l, t.oast.writes = s.oast.writes.map fun w => if w.lun = lun then { w with lun := l } else w) ∧
        (∃ e ∈ t.gl.log, e.code = 0x22 ∧ e.time = s.dev.localCtr ∧ e.payload.getD 2 0 = 2) ∧
        t.cellar = s.cellar ∧ t.models = s.models))

/-- The Oast's housekeeping (R299, R300, R312 to R316): garbage collection runs while a LUN's free blocks are low; the pseudo-SLC buffer
is recomputed and folded; every second of power the governor counts, records the wear and sets the allowance rate; the
seconds are saved. -/
def Obligations.OastHousekeeping : Prop :=
  ∀ s : State, s.dev.powered = true → s.oast.mountState = 2 →
    (∀ lun, lun < s.oast.luns.length → s.oast.quiescing = false → (lunAt s lun).failed = false →
      freeBlocks (lunAt s lun) * 1000 < s.oast.gcStart * goodBlocks (lunAt s lun) → exec (.gcStart lun) s =
        .next (modLun (gcLoop (lunAt s lun).blocks.length s lun) lun fun v =>
          let start := (gcLoop (lunAt s lun).blocks.length s lun).oast.gcStart
          { v with gcActive := decide (freeBlocks v * 1000 < 2 * start * goodBlocks v) })) ∧
    (∀ lun, (lunAt s lun).failed = true → exec (.gcStart lun) s = .next s) ∧
    exec .pslcRecompute s = .next (foldBuffer { s with oast.pslcBytes := pslcB s }) ∧
    exec .powerSecSave s = .next { s with oast.cfg.powerSec := s.oast.powerSec } ∧
    (let u := { s with
        oast.powerSec := ctrAdd s.oast.powerSec 1
        oast.waHist := ((wearU s, s.oast.cnt.hostWrite) :: s.oast.waHist).take 86401 }
      let v := { tick u with oast.waEst := waNow u }
      exec .wearGovernorTick s = .next (wearWarn (wearWarn (wearWarn
        { v with oast.allowRate := (wearL v - wearU v) * 256 / (v.oast.waEst * lifeLeft v) } 70) 85) 95))

/-- What ends at the array and the stores (R309, R381, R388, R386, R416): a mount that completes makes the array writable, notes
whether the end before it was clean, and at a start reloads after a clean end it can trust, releases the earlier life's
extents after another, and makes the device READY; the oldest key-store change ends, and its KEY_INSTALL counts the key and is
answered OK, or the erasure of a removed tenant goes on; a freed run that has been zeroed rejoins the pool, and the last one
of a tenant that is being removed ends its removal. -/
def Obligations.MountAndStores : Prop :=
  ∀ s : State,
    (serving s = true → s.oast.mountState = 1 →
      let u := { s with oast.mountState := 2, oast.quiescing := false, oast.lastClean := s.oast.cfg.commit && !s.oast.cfg.marker
                        dev.pins.nfWpN := true, oast.pslcBytes := pslcB s }
      (10 ≤ s.dev.startStep → exec .oastMountDone s = .next u) ∧
      (s.dev.startStep < 10 →
        let w := if s.dev.clean = true ∧ s.oast.cfg.commit = true ∧ s.oast.cfg.marker = false then reload u else releaseEarlier u
        let v := { w with dev.startStep := 10 }
        exec .oastMountDone s = .next (if v.dev.devState = 3 then setDevState v 4 else v))) ∧
    (serving s = false ∨ s.oast.mountState ≠ 1 → exec .oastMountDone s = .next s) ∧
    (∀ (q : Nat) (rest : List Nat), s.sec.storePending = q :: rest → s.dev.powered = true →
      let u := { s with sec.storePending := rest }
      let due := fun t : Nat × Tenant => t.2.step == 4 && (((removeJobs s t.1).head?.map (·.seq)).getD noSeq) == q
      (∀ j : Job, jobOf s q = some j → s.sec.tenants.find? due = none →
        exec .keyStoreWriteDone s = .next (finishFinal { u with sec.keysInstalled := ctrAdd s.sec.keysInstalled 1 } q
          { status := 0, detail := 0, body := [], handle := none })) ∧
      (jobOf s q = none → s.sec.tenants.find? due = none → exec .keyStoreWriteDone s = .next u) ∧
      (∀ t : Nat × Tenant, s.sec.tenants.find? due = some t → exec .keyStoreWriteDone s = .next (eraseTenant u t.1))) ∧
    (s.sec.storePending = [] ∨ s.dev.powered = false → exec .keyStoreWriteDone s = .next s) ∧
    (∀ die start,
      let u := runCleared s die start
      (∀ o, die < s.cellar.allocs.length → tget (sortBy (fun (x y : Nat × Nat) => decide (x.1 < y.1)) (alloc s die).clearing) start = some o →
        (alloc u die).clearing = (alloc s die).clearing.erase (start, o) ∧
        (alloc u die).free = addFree (badFrames s die) (alloc s die).free start o) ∧
      (s.sec.tenants.find? (fun t => t.2.step == 5 && t.2.clearRuns.contains (die, start)) = none →
        exec (.frameClearDone die start) s = .next u) ∧
      (∀ t : Nat × Tenant, u.sec.tenants.filter (fun t => t.2.step == 5 && t.2.clearRuns.contains (die, start)) = [t] →
        let w := modTenant u t.1 fun x => { x with clearRuns := t.2.clearRuns.erase (die, start) }
        exec (.frameClearDone die start) s = .next (if t.2.clearRuns.erase (die, start) = [] then endRemoval w t.1 else w)))

/-! ### Faults -/

/-- SRAM and tile faults (R346): a corrected error counts at its tile; an uncorrectable one counts, abandons the running entry
and has the tile self-tested. A self-test ends in a rest of MAINT, is charged to it (its cycles are free: the spec gives none,
log entry 52), and waits while MAINT's balance is used up; a tile that passes is back in use; one that fails is replaced by
the die's spare, which is then used up, or is removed from the die, which loses it. HBM faults and a die that stops (R346,
R347): a corrected error counts; a row repair counts and raises HBM_REPAIR; a lost pseudo-channel is spared while its stack
has a spare one; an uncorrectable frame counts and is recovered as a pool frame or a frame of a fixed region; the first die
to stop is left out, with DIE_DEGRADED raised last, and its tiles, stacks and bit of `die_ok` go; a second one stops the
device. A fault of a die that is lost already has no effect. -/
def Obligations.HardwareFaults : Prop :=
  (∀ (s : State) (tile : Nat), running s = true → tile < 64 → (tileAt s tile).inService = true →
      exec (.sramEccError tile false) s = .next (modTile s tile fun x => { x with eccCe := ctrAdd x.eccCe 1 }) ∧
      exec (.sramEccError tile true) s =
        .next (askSelfTest (abandonTile { s with fab.cnt.eccUe := ctrAdd s.fab.cnt.eccUe 1 } tile) tile) ∧
      ((tileAt s tile).selfTest = false ∨ maintRest s (tile / 16) = false → ∀ pass, exec (.tileSelfTestDone tile pass) s = .next s) ∧
      ((tileAt s tile).selfTest = true → maintRest s (tile / 16) = true →
        let sl := (groupSlice s (tile / 16) (tile % 16) 1).getD 0
        let u := tick (charge s sl 12 0 (Config.count s.free))
        let w := abandonTile u tile
        (hasBal s sl 12 0 = false → ∀ pass, exec (.tileSelfTestDone tile pass) s = .next (holdOn s sl 12 0)) ∧
        (hasBal s sl 12 0 = true →
          exec (.tileSelfTestDone tile true) s = .next (modTile u tile fun x => { x with selfTest := false }) ∧
          (bit w.dev.spareLeft (tile / 16) = true → exec (.tileSelfTestDone tile false) s = .next (spareTile w tile) ∧
            (spareTile w tile).dev.spareLeft = w.dev.spareLeft &&& (15 ^^^ 2 ^ (tile / 16))) ∧
          (bit w.dev.spareLeft (tile / 16) = false → exec (.tileSelfTestDone tile false) s = .next (removeTile w tile) ∧
            (removeTile w tile).dev.tilesOk = w.dev.tilesOk - 1 ∧
            (tile < w.mill.tiles.length → (tileAt (removeTile w tile) tile).inService = false))))) ∧
  (∀ s : State, running s = true →
      (∀ (stack pc row frame : Nat), stack < 24 → pc < 64 →
        ((lget s.mill.dies (stack / 6) default).lost = true → ∀ k, exec (.hbmError k stack pc row frame) s = .next s) ∧
        ((lget s.mill.dies (stack / 6) default).lost = false →
          let u := { s with fab.cnt.hbmCe := ctrAdd s.fab.cnt.hbmCe 1 }
          let v := { s with fab.cnt.hbmUe := ctrAdd s.fab.cnt.hbmUe 1 }
          exec (.hbmError 0 stack pc row frame) s = .next u ∧
          exec (.hbmError 1 stack pc row frame) s =
            .next (raise u 0x30 0 0 [(1, 0), (1, stack), (1, pc), (1, 0), (4, row), (4, 0)]) ∧
          exec (.hbmError 2 stack pc row frame) s = .next (pcFailure s stack pc) ∧
          (s.mill.pcLost.contains (stack, pc) = false → s.mill.pcWait.contains (stack, pc) = false →
            lget s.mill.pcSpared stack 0 + countBy (fun p => p.1 == stack) s.mill.pcWait < 2 → hasBal s (slicePc s stack pc) 12 1 = true →
            pcFailure s stack pc = raise (charge { s with
                mill.pcSpared := lmod s.mill.pcSpared stack (· + 1), mill.pcWait := s.mill.pcWait.erase (stack, pc) }
              (slicePc s stack pc) 12 1 pcCopyBytes) 0x30 0 0 [(1, 2), (1, stack), (1, pc), (1, 0), (4, 0), (4, 0)]) ∧
          exec (.hbmError 3 stack pc row frame) s = .next (
            if frame < poolFrames Config.rawFlash then recoverPool v (stack / 6) frame
            else recoverFixed v (stack / 6) (frame - poolFrames Config.rawFlash)))) ∧
      (∀ d, d < 4 → (lget s.mill.dies d default).lost = false →
        let u := modDie s d fun x => { x with lost := true, stream := [] }
        (s.mill.dies.any (fun x => x.lost) = false → exec (.dieLost d) s = .next (firstDie u d) ∧
          ∃ w : State, firstDie u d = raise (dropCap w d) 0x32 0 0 [(1, d), (1, 0), (1, 0), (1, 0), (4, (homed u d).length)] ∧
            (dropCap w d).dev.stackCnt = w.dev.stackCnt - 6 ∧ (dropCap w d).dev.dieOk = w.dev.dieOk &&& (15 ^^^ 2 ^ d) ∧
            (dropCap w d).dev.tilesOk =
              w.dev.tilesOk - countBy (fun t => (tileAt w t).inService) ((List.range 16).map fun i => 16 * d + i)) ∧
        (s.mill.dies.any (fun x => x.lost) = true → exec (.dieLost d) s = .next (secondDie u d) ∧
          (secondDie u d).dev.stopped = true ∧ (secondDie u d).dev.pins.devReady = false)) ∧
      (∀ d, (lget s.mill.dies d default).lost = true → exec (.dieLost d) s = .next s))

/-! ### Power, clocks, resets -/

/-- The supplies (R399 to R401, R416): MAIN that is down moves the load to a qualified BACKUP, and a BACKUP that is down moves it back;
an input in range is qualified, and with both qualified a device that is off starts; both inputs down is SUPPLY_LOST, with
its pins and the array write-protected; at the end of the hold-up everything volatile is gone, with reset cause 7. -/
def Obligations.SuppliesChange : Prop :=
  ∀ s : State,
    (∀ input volt, input < 2 →
      let u := modSupply s input fun x =>
        { volt := volt, disconnected := decide (7000 < volt) || (x.disconnected && !x.qualified)
          qualified := x.qualified && decide (5200 ≤ volt) && decide (volt ≤ 7000) }
      (inputDown u.dev.vinMain = true → inputDown u.dev.vinBackup = true → s.dev.thr.tripped = false →
        exec (.supplyInputChange input volt) s = .next u) ∧
      (inputDown u.dev.vinMain = true → inputDown u.dev.vinBackup = false → u.dev.onBackup = false →
        u.dev.vinBackup.qualified = true → exec (.supplyInputChange input volt) s = .next (supplySwitched u 0)) ∧
      (inputDown u.dev.vinMain = false → inputDown u.dev.vinBackup = true → u.dev.onBackup = true →
        exec (.supplyInputChange input volt) s = .next (supplySwitched u 1))) ∧
    (∀ input, input < 2 → 5400 ≤ (supplyOf s input).volt → (supplyOf s input).volt ≤ 6800 →
      s.dev.supplyIsLost = false → s.dev.thr.tripped = false → s.dev.powered = false →
      let u := modSupply s input fun x => { x with qualified := true, disconnected := false }
      exec (.supplyQualified input) s = .next (if bothQualified u = true then powerUp u else u)) ∧
    (∀ input, (supplyOf s input).volt < 5400 → exec (.supplyQualified input) s = .next s) ∧
    (s.dev.powered = true → s.dev.supplyIsLost = false → inputDown s.dev.vinMain = true → inputDown s.dev.vinBackup = true →
      ∃ t : State, exec .supplyLost s = .next t ∧ t.dev.supplyIsLost = true ∧ t.dev.supplyNmi = true ∧
        t.dev.pins = { s.dev.pins with pwrFailN := false, nmiOut := true, nfWpN := false, smbAlertN := t.dev.pins.smbAlertN }) ∧
    (inputDown s.dev.vinMain = false → exec .supplyLost s = .next s) ∧
    (s.dev.supplyIsLost = true → ∃ t : State, exec .holdupEnd s = .next t ∧ t.dev.powered = false ∧ t.dev.resetCause = 7 ∧
      t.cellar.sess = [] ∧ t.gl.cmds = [] ∧ t.oast.exts = s.oast.exts ∧ t.pending = s.pending) ∧
    (s.dev.supplyIsLost = false → exec .holdupEnd s = .next s)

/-- The throttle (R404): each of the two levels rises by one above its bound, up to 12, falls by one below its lower bound, and
otherwise stays; `h` is the larger, and a change of `h` starts its rests anew. Samples set the temperatures, the input power
and its last 100 values, with the trims of R420. THERMTRIP switches the device off. -/
def Obligations.ThrottleAndSensors : Prop :=
  ∀ s : State,
    (running s = true →
      let t := s.dev.thr
      let sum := t.pinHist.foldl (· + ·) 0
      let n := t.pinHist.length
      let ht := if 1600 ≤ (hottest t.temps).2 then min 12 (t.hThermal + 1) else if (hottest t.temps).2 ≤ 1552 then t.hThermal - 1 else t.hThermal
      let hp := if pwrLimit s * n < sum then min 12 (t.hPower + 1) else if sum * 100 < 95 * pwrLimit s * n then t.hPower - 1 else t.hPower
      ∃ u : State, exec .throttleUpdate s = .next u ∧ u.dev.thr = { t with
        hThermal := ht, hPower := hp, level := max ht hp, restsSince := if max ht hp = t.level then t.restsSince else 0 } ∧
        (t.level ≠ 0 → max ht hp ≠ 0 → u.gl = s.gl) ∧ u.cellar = s.cellar ∧ u.mill = s.mill) ∧
    (running s = false → exec .throttleUpdate s = .next s) ∧
    (∀ (m b w : Nat) (temps : List Int), standby s = true → ∃ u : State, exec (.sensorSample m b w temps) s = .next u ∧
      u.dev.pinW = ((w * (10000 + trimOf s 0x12)) / 10000).toNat ∧
      u.dev.thr.temps = (List.range 24).map (fun n => lget temps n 0 + trimOf s (0x100 + n)) ∧
      u.dev.thr.pinHist = (u.dev.pinW :: s.dev.thr.pinHist).take 100 ∧
      u.dev.vinMain.volt = shownVolt s 0 m ∧ u.dev.vinBackup.volt = shownVolt s 1 b ∧ u.dev.thr.level = s.dev.thr.level) ∧
    (∀ (m b w : Nat) (temps : List Int), standby s = false → exec (.sensorSample m b w temps) s = .next s) ∧
    (s.dev.powered = true → ∃ u : State, exec .thermtrip s = .next u ∧ u.dev.powered = false ∧ u.dev.thr.tripped = true ∧
      u.dev.pins.thermtripN = false ∧ u.sb = s.sb ∧ u.oast.exts = s.oast.exts) ∧
    (s.dev.powered = false → exec .thermtrip s = .next s)

/-- The clocks (R407, R410 to R413): an oscillator that is stable is marked so and lets the PLL lock; REFCLK not stable in time is
replaced by the internal oscillator, with CLOCK_FAIL cause 2; a window of the monitor sets the count and the run of failed
windows, and a run as long as the debounce switches the root, with cause 0; no window makes MONCLK absent, with cause 1. -/
def Obligations.ClocksChange : Prop :=
  ∀ s : State, s.dev.powered = true →
    exec (.oscillatorStable 0) s = .next (tryLock { s with dev.clk.intStable := true }) ∧
    exec (.oscillatorStable 1) s = .next (tryLock { s with dev.clk.refStable := true }) ∧
    exec (.oscillatorStable 2) s = .next { s with
      dev.clk.monStable := true, dev.clk.monActive := s.dev.clk.monActive || !s.dev.clk.monclkAbsent } ∧
    (s.dev.clk.pllLocked = true ∨ s.dev.clk.intStable = false ∨ (s.dev.clk.refStable = false ∧ s.dev.clk.rootSrc ≠ 1) → tryLock s = s) ∧
    exec .refclkStartTimeout s = .next (if s.dev.clk.pllLocked = true ∨ s.dev.clk.refStable = true then s
      else clockFail (tryLock { s with dev.clk.rootSrc := 1 }) 2) ∧
    (s.dev.clk.monActive = true →
      (∀ count, ∃ u : State, u = countWindow s count ∧ u.dev.clk.lastCount = count ∧
        (u.dev.clk.failRun = 0 ∨ u.dev.clk.failRun = s.dev.clk.failRun + 1) ∧
        exec (.clockMonWindow count) s = .next (
          if max 1 s.dev.clk.monDebounce ≤ u.dev.clk.failRun ∧ s.dev.clk.rootSrc = 0 then
            clockFail { u with dev.clk.rootSrc := 1 } 0 else u)) ∧
      exec .monclkAbsent s = .next (clockFail { s with dev.clk.monActive := false, dev.clk.monclkAbsent := true } 1)) ∧
    (s.dev.clk.monActive = false → exec .monclkAbsent s = .next s ∧ ∀ count, exec (.clockMonWindow count) s = .next s)

/-- Resets (R395, R404, R417): RESET_N resets a powered device with cause 1 and is ignored in the hold-up; a glitch counts and resets
with cause 5; a deferred cold reset has cause 2, and a deferred warm reset leaves no session
and no command, and has its own cause. -/
def Obligations.ResetsTaken : Prop :=
  ∀ s : State,
    (s.dev.supplyIsLost = true → exec .resetPin s = .next s) ∧
    (s.dev.supplyIsLost = false → s.dev.thr.tripped = false → s.dev.powered = true →
      exec .resetPin s = .next (resetLow (coldReset s 1)) ∧ (resetLow (coldReset s 1)).dev.pins.resetN = false ∧
      (coldReset s 1).dev.resetCause = 1 ∧ (coldReset s 1).gl.log = [] ∧
      (coldReset s 1).oast.exts = s.oast.exts ∧ (coldReset s 1).cellar.sess = []) ∧
    (s.dev.powered = true → ∃ t : State, exec .glitchReset s = .next t ∧ t.dev.resetCause = 5 ∧ t.oast.exts = s.oast.exts ∧
      t.sec.glitchCnt = ctrAdd (coldReset { s with dev.shutDone := false } 5).sec.glitchCnt 1) ∧
    (s.dev.powered = false → exec .glitchReset s = .next s) ∧
    (s.dev.deferred = none → exec .deferredReset s = .next s) ∧
    (s.dev.deferred = some 2 → exec .deferredReset s = .next (coldReset (advanceUs s 1000) 2)) ∧
    (∀ k, s.dev.deferred = some k → k ≠ 2 → clockLimitsOk s.dev.clk = true → ∃ t : State, exec .deferredReset s = .next t ∧
      t = warmReset (advanceUs s 1000) k ∧ t.dev.resetCause = k ∧ t.cellar.sess = [] ∧
      t.gl.cmds = [] ∧ t.pending = s.pending)

/-! ### Budgets and grammars -/

/-- At the rest boundary that begins rest 0, every balance becomes min(budget, balance + budget); a tile-rest budget is kept in
tile × ARITH cycles, one tile-rest being 16,384, and a byte budget in bytes (R125). What was sealed in the last rest for rest
0 is charged to the new cycle after that (R126). A boundary at which a new table becomes active follows R122 instead. -/
def Obligations.BalancesRefilled : Prop :=
  (∀ s : State, s.mash.pendingTab = none → s.mash.table.restCount ≤ s.mash.rest + 1 →
    let u := refillBal { beginCycle s with mash.rest := 0 }
    nextRest s = payAhead u ∧ (nextRest s).mash.rest = 0 ∧ (s.mash.ahead = [] → nextRest s = u) ∧
    ∀ sl act cur m, sl < 16 → 1 ≤ act → act ≤ 12 → cur < 4 → budgetCur (budgetOf s sl act) cur = some m →
      (balOf u sl act cur).bal = min (m : Int) ((balOf s sl act cur).bal + m)) ∧
  (∀ b : Budget, budgetCur b 0 = b.tileRests.map (· * 16384) ∧ budgetCur b 1 = b.hbm ∧ budgetCur b 2 = b.flash ∧
    budgetCur b 3 = b.fabric)

/-- The context of a grammar in a state (R229): a context record of the state whose top is the stack's top symbol; with none, one
whose top is 0xFFFF; with neither, there is no context. -/
def Obligations.GrammarContextFound : Prop :=
  ∀ (g : Grammar) (state f n : Nat) (stack : List Nat), g.states[state]? = some (f, n) →
    let top := fun i => (lget g.ctxs i default).top
    let own := fun i => f ≤ i ∧ i < f + n
    (∀ i, findCtx g state stack = some i → own i ∧ (stack.head? = some (top i) ∨ top i = 0xFFFF)) ∧
    (∀ t i, stack.head? = some t → own i → top i = t → ∃ j, findCtx g state stack = some j ∧ top j = t) ∧
    (∀ i, own i → top i = 0xFFFF → (findCtx g state stack).isSome = true) ∧
    ((∀ i, own i → top i ≠ 0xFFFF ∧ stack.head? ≠ some (top i)) → findCtx g state stack = none)
end

