-- ==== Sys2Proof/Laws/Ctl.lean ====
section
/-! SUPPORT. The control part of a state under record updates, choices and folds. -/
namespace Sys2Proof.Machine
@[simp] theorem ctl_upd (X : State) (dev sb gl mash mill cellar models copper lauter rows oast fab rack ckpt sec free)
    (h1 : dev.clk = X.dev.clk) (h2 : dev.thr.hThermal = X.dev.thr.hThermal) (h3 : dev.thr.hPower = X.dev.thr.hPower)
    (h4 : dev.thr.level = X.dev.thr.level) (h5 : dev.pwrLimit = X.dev.pwrLimit) (h6 : sb.jtag = X.sb.jtag)
    (h7 : sb.alertEn = X.sb.alertEn) (h8 : gl.evMask = X.gl.evMask) (h9 : mash.slowThr = X.mash.slowThr)
    (h10 : mill.hbm = X.mill.hbm)
    (c1 : cellar.reserveWait = X.cellar.reserveWait) (c2 : cellar.indexBase = X.cellar.indexBase)
    (c3 : cellar.indexLimit = X.cellar.indexLimit) (c4 : cellar.wmLow = X.cellar.wmLow) (c5 : cellar.wmHigh = X.cellar.wmHigh)
    (c6 : cellar.absentHold = X.cellar.absentHold) (c7 : cellar.expiredHold = X.cellar.expiredHold)
    (l1 : lauter.deadlineDef = X.lauter.deadlineDef) (l2 : lauter.linkBeam = X.lauter.linkBeam) (l3 : lauter.alpha = X.lauter.alpha)
    (r1 : rows.hotKib = X.rows.hotKib) (r2 : rows.rowsSlice = X.rows.rowsSlice)
    (o1 : oast.gcStart = X.oast.gcStart) (o2 : oast.gcUrgent = X.oast.gcUrgent) (o3 : oast.wlGap = X.oast.wlGap)
    (o4 : oast.ratedCycles = X.oast.ratedCycles) (o5 : oast.targetYears = X.oast.targetYears) (o6 : oast.waInit = X.oast.waInit)
    (o7 : oast.bankS = X.oast.bankS) (f1 : fab.peerTimeoutUs = X.fab.peerTimeoutUs) (f2 : fab.rackHbmMax = X.fab.rackHbmMax)
    (k1 : ckpt.chainMax = X.ckpt.chainMax) (k2 : ckpt.stageGib = X.ckpt.stageGib) :
    (State.mk dev sb gl mash mill cellar models copper lauter rows oast fab rack ckpt sec free X.pending).ctl = X.ctl := by
  simp only [State.ctl, *]
@[simp] theorem foldl_ctl {α : Type} {f : State → α → State} {l : List α} (h : ∀ s a, (f s a).ctl = s.ctl) (s : State) : (l.foldl f s).ctl = s.ctl := by
  induction l generalizing s with
  | nil => rfl
  | cons a l ih => simp [List.foldl, ih, h]
@[simp] theorem ite_ctl (p : Prop) [Decidable p] (a b : State) : (if p then a else b).ctl = if p then a.ctl else b.ctl := by
  split <;> rfl
@[simp] theorem foldl_ctl1 {α β : Type} {f : State × β → α → State × β} {l : List α}
    (h : ∀ b a, (f b a).1.ctl = b.1.ctl) (b : State × β) : (l.foldl f b).1.ctl = b.1.ctl := by
  induction l generalizing b with
  | nil => rfl
  | cons a l ih => rw [List.foldl, ih, h]

@[simp] theorem foldl_ctl2 {α β : Type} {f : β × State → α → β × State} {l : List α}
    (h : ∀ b a, (f b a).2.ctl = b.2.ctl) (b : β × State) : (l.foldl f b).2.ctl = b.2.ctl := by
  induction l generalizing b with
  | nil => rfl
  | cons a l ih => rw [List.foldl, ih, h]

@[simp] theorem ite_ctl1 {β : Type} (p : Prop) [Decidable p] (a b : State × β) :
    (if p then a else b).1.ctl = if p then a.1.ctl else b.1.ctl := by
  split <;> rfl

@[simp] theorem ite_ctl2 {β : Type} (p : Prop) [Decidable p] (a b : β × State) :
    (if p then a else b).2.ctl = if p then a.2.ctl else b.2.ctl := by
  split <;> rfl

/-- A pair whose state keeps the control part. -/
theorem pair_ctl2 {β : Type} {p : β × State} {a : β} {t s : State} (h : p = (a, t)) (hp : p.2.ctl = s.ctl) : t.ctl = s.ctl := by
  subst h; exact hp

theorem pair_ctl1 {β : Type} {p : State × β} {a : β} {t s : State} (h : p = (t, a)) (hp : p.1.ctl = s.ctl) : t.ctl = s.ctl := by
  subst h; exact hp

theorem foldl_opt2 {α β : Type} {s : State} {f : Option (β × State) → α → Option (β × State)} {l : List α}
    (h : ∀ acc a, (∀ t, acc = some t → t.2.ctl = s.ctl) → ∀ t, f acc a = some t → t.2.ctl = s.ctl)
    {acc : Option (β × State)} (h0 : ∀ t, acc = some t → t.2.ctl = s.ctl) : ∀ t, l.foldl f acc = some t → t.2.ctl = s.ctl := by
  induction l generalizing acc with
  | nil => exact h0
  | cons a l ih => exact ih (h acc a h0)

/-- A state that may have been found, or the state to go on with. -/
theorem getD_ctl {o : Option State} {s u : State} (h : ∀ t, o = some t → t.ctl = u.ctl) (hs : s.ctl = u.ctl) :
    (o.getD s).ctl = u.ctl := by
  cases o with
  | none => exact hs
  | some t => exact h t rfl

end Sys2Proof.Machine
end

