-- ==== Sys2Proof/Laws/Exec.lean ====
section
/-! SUPPORT. What `exec` is of each command: the command's meaning. -/
namespace Sys2Proof.Machine

theorem exec_sessionOpen (h : Hdr) (model serviceClass vocab grammar shareClass seed : Nat) (s : State) :
    exec (.sessionOpen h model serviceClass vocab grammar shareClass seed) s = execSessionOpen h model serviceClass vocab grammar shareClass seed s := rfl
theorem exec_sessionAppend (h : Hdr) (inPolicy inMode count : Nat) (tail : List Byte) (s : State) :
    exec (.sessionAppend h inPolicy inMode count tail) s = execSessionAppend h inPolicy inMode count tail s := rfl
theorem exec_sessionGenerate (h : Hdr) (g : GenParams) (s : State) :
    exec (.sessionGenerate h g) s = execSessionGenerate h g s := rfl
theorem exec_sessionPark (h : Hdr) (s : State) :
    exec (.sessionPark h) s = execSessionPark h s := rfl
theorem exec_sessionRevive (h : Hdr) (s : State) :
    exec (.sessionRevive h) s = execSessionRevive h s := rfl
theorem exec_sessionCondense (h : Hdr) (slots : Nat) (s : State) :
    exec (.sessionCondense h slots) s = execSessionCondense h slots s := rfl
theorem exec_sessionClose (h : Hdr) (s : State) :
    exec (.sessionClose h) s = execSessionClose h s := rfl
theorem exec_sessionQuery (h : Hdr) (s : State) :
    exec (.sessionQuery h) s = execSessionQuery h s := rfl
theorem exec_sessionMigrateOffer (h : Hdr) (destPeer : Nat) (s : State) :
    exec (.sessionMigrateOffer h destPeer) s = execSessionMigrateOffer h destPeer s := rfl
theorem exec_sessionMigrateAccept (h : Hdr) (srcPeer epoch digest : Nat) (s : State) :
    exec (.sessionMigrateAccept h srcPeer epoch digest) s = execSessionMigrateAccept h srcPeer epoch digest s := rfl
theorem exec_bungQuery (h : Hdr) (peer : Nat) (s : State) :
    exec (.bungQuery h peer) s = execBungQuery h peer s := rfl
theorem exec_modelRegister (h : Hdr) (model modelKind slice : Nat) (weights : ObjRef) (s : State) :
    exec (.modelRegister h model modelKind slice weights) s = execModelRegister h model modelKind slice weights s := rfl
theorem exec_modelWarm (h : Hdr) (model : Nat) (s : State) :
    exec (.modelWarm h model) s = execModelWarm h model s := rfl
theorem exec_modelEvict (h : Hdr) (model : Nat) (s : State) :
    exec (.modelEvict h model) s = execModelEvict h model s := rfl
theorem exec_draftBind (h : Hdr) (model draft kMax : Nat) (s : State) :
    exec (.draftBind h model draft kMax) s = execDraftBind h model draft kMax s := rfl
theorem exec_segmentLoad (h : Hdr) (model phase groupTiles batch : Nat) (segment : ObjRef) (s : State) :
    exec (.segmentLoad h model phase groupTiles batch segment) s = execSegmentLoad h model phase groupTiles batch segment s := rfl
theorem exec_vocabLoad (h : Hdr) (vocab : Nat) (table : ObjRef) (s : State) :
    exec (.vocabLoad h vocab table) s = execVocabLoad h vocab table s := rfl
theorem exec_grammarLoad (h : Hdr) (grammar vocab : Nat) (table : ObjRef) (s : State) :
    exec (.grammarLoad h grammar vocab table) s = execGrammarLoad h grammar vocab table s := rfl
theorem exec_lauterQuery (h : Hdr) (q : QueryParams) (s : State) :
    exec (.lauterQuery h q) s = execLauterQuery h q s := rfl
theorem exec_corpusInsert (h : Hdr) (corpus shard count pubSeq : Nat) (tail : List Byte) (s : State) :
    exec (.corpusInsert h corpus shard count pubSeq tail) s = execCorpusInsert h corpus shard count pubSeq tail s := rfl
theorem exec_corpusDelete (h : Hdr) (corpus shard count pubSeq : Nat) (nodes : List Nat) (s : State) :
    exec (.corpusDelete h corpus shard count pubSeq nodes) s = execCorpusDelete h corpus shard count pubSeq nodes s := rfl
theorem exec_corpusPublish (h : Hdr) (corpus shard pubSeq : Nat) (s : State) :
    exec (.corpusPublish h corpus shard pubSeq) s = execCorpusPublish h corpus shard pubSeq s := rfl
theorem exec_shardMapSet (h : Hdr) (corpus count : Nat) (entries : List ShardEntry) (s : State) :
    exec (.shardMapSet h corpus count entries) s = execShardMapSet h corpus count entries s := rfl
theorem exec_recallProbe (h : Hdr) (corpus shard k beam sample : Nat) (s : State) :
    exec (.recallProbe h corpus shard k beam sample) s = execRecallProbe h corpus shard k beam sample s := rfl
theorem exec_tableCreate (h : Hdr) (table dim rows format optimiser : Nat) (s : State) :
    exec (.tableCreate h table dim rows format optimiser) s = execTableCreate h table dim rows format optimiser s := rfl
theorem exec_rowLookup (h : Hdr) (table pooling bags : Nat) (lens idx : List Nat) (s : State) :
    exec (.rowLookup h table pooling bags lens idx) s = execRowLookup h table pooling bags lens idx s := rfl
theorem exec_rowUpdate (h : Hdr) (table count : Nat) (lr : F32) (recs : List (Nat × List H16)) (s : State) :
    exec (.rowUpdate h table count lr recs) s = execRowUpdate h table count lr recs s := rfl
theorem exec_tableReplaceBegin (h : Hdr) (table : Nat) (s : State) :
    exec (.tableReplaceBegin h table) s = execTableReplaceBegin h table s := rfl
theorem exec_tableReplaceRows (h : Hdr) (table count firstRow : Nat) (rows : List (List Byte)) (s : State) :
    exec (.tableReplaceRows h table count firstRow rows) s = execTableReplaceRows h table count firstRow rows s := rfl
theorem exec_tableReplaceCommit (h : Hdr) (table : Nat) (s : State) :
    exec (.tableReplaceCommit h table) s = execTableReplaceCommit h table s := rfl
theorem exec_hotsetSet (h : Hdr) (table refreshUs count : Nat) (rows : List Nat) (s : State) :
    exec (.hotsetSet h table refreshUs count rows) s = execHotsetSet h table refreshUs count rows s := rfl
theorem exec_mashLoad (h : Hdr) (activateAt : Nat) (table : ObjRef) (s : State) :
    exec (.mashLoad h activateAt table) s = execMashLoad h activateAt table s := rfl
theorem exec_shareSet (h : Hdr) (shareClass tenant weight rtRests : Nat) (s : State) :
    exec (.shareSet h shareClass tenant weight rtRests) s = execShareSet h shareClass tenant weight rtRests s := rfl
theorem exec_shaperSet (h : Hdr) (tenant shaper rate burst : Nat) (s : State) :
    exec (.shaperSet h tenant shaper rate burst) s = execShaperSet h tenant shaper rate burst s := rfl
theorem exec_gateListLoad (h : Hdr) (port count activateAt : Nat) (entries : List (Nat × Nat)) (s : State) :
    exec (.gateListLoad h port count activateAt entries) s = execGateListLoad h port count activateAt entries s := rfl
theorem exec_serviceClassSet (h : Hdr) (cls scFlags pageMaxLog2 dwellMs ttlS condenseSlots : Nat) (s : State) :
    exec (.serviceClassSet h cls scFlags pageMaxLog2 dwellMs ttlS condenseSlots) s = execServiceClassSet h cls scFlags pageMaxLog2 dwellMs ttlS condenseSlots s := rfl
theorem exec_sliceSet (h : Hdr) (slice tiles lanes pcs : Nat) (s : State) :
    exec (.sliceSet h slice tiles lanes pcs) s = execSliceSet h slice tiles lanes pcs s := rfl
theorem exec_routeSet (h : Hdr) (count : Nat) (entries : List (Nat × Nat)) (s : State) :
    exec (.routeSet h count entries) s = execRouteSet h count entries s := rfl
theorem exec_buddySet (h : Hdr) (slice buddyPeer : Nat) (s : State) :
    exec (.buddySet h slice buddyPeer) s = execBuddySet h slice buddyPeer s := rfl
theorem exec_spareAdopt (h : Hdr) (failedPeer buddyPeer : Nat) (s : State) :
    exec (.spareAdopt h failedPeer buddyPeer) s = execSpareAdopt h failedPeer buddyPeer s := rfl
theorem exec_ckptStart (h : Hdr) (generation gateways : Nat) (peers : List Nat) (s : State) :
    exec (.ckptStart h generation gateways peers) s = execCkptStart h generation gateways peers s := rfl
theorem exec_ckptStatus (h : Hdr) (generation : Nat) (s : State) :
    exec (.ckptStatus h generation) s = execCkptStatus h generation s := rfl
theorem exec_restoreStart (h : Hdr) (manifest : ObjRef) (s : State) :
    exec (.restoreStart h manifest) s = execRestoreStart h manifest s := rfl
theorem exec_attest (h : Hdr) (nonce : List Byte) (s : State) :
    exec (.attest h nonce) s = execAttest h nonce s := rfl
theorem exec_tenantCreate (h : Hdr) (tenant : Nat) (s : State) :
    exec (.tenantCreate h tenant) s = execTenantCreate h tenant s := rfl
theorem exec_tenantRemove (h : Hdr) (tenant : Nat) (s : State) :
    exec (.tenantRemove h tenant) s = execTenantRemove h tenant s := rfl
theorem exec_keyInstall (h : Hdr) (keyKind blobLen : Nat) (blob : List Byte) (s : State) :
    exec (.keyInstall h keyKind blobLen blob) s = execKeyInstall h keyKind blobLen blob s := rfl
theorem exec_csrRead (h : Hdr) (address count : Nat) (s : State) :
    exec (.csrRead h address count) s = execCsrRead h address count s := rfl
theorem exec_csrWrite (h : Hdr) (address count : Nat) (values : List Nat) (s : State) :
    exec (.csrWrite h address count values) s = execCsrWrite h address count values s := rfl
theorem exec_calSet (h : Hdr) (item value : Nat) (s : State) :
    exec (.calSet h item value) s = execCalSet h item value s := rfl
theorem exec_clockSet (h : Hdr) (item value : Nat) (s : State) :
    exec (.clockSet h item value) s = execClockSet h item value s := rfl
theorem exec_resultRead (h : Hdr) (target offset readLen : Nat) (s : State) :
    exec (.resultRead h target offset readLen) s = execResultRead h target offset readLen s := rfl
theorem exec_resultRelease (h : Hdr) (target : Nat) (s : State) :
    exec (.resultRelease h target) s = execResultRelease h target s := rfl
theorem exec_eventRead (h : Hdr) (fromSeq max : Nat) (s : State) :
    exec (.eventRead h fromSeq max) s = execEventRead h fromSeq max s := rfl
theorem exec_firmwareStage (h : Hdr) (image : ObjRef) (s : State) :
    exec (.firmwareStage h image) s = execFirmwareStage h image s := rfl
theorem exec_firmwareActivate (h : Hdr) (version : Nat) (s : State) :
    exec (.firmwareActivate h version) s = execFirmwareActivate h version s := rfl
theorem exec_nop (h : Hdr) (s : State) :
    exec (.nop h) s = execNop h s := rfl
theorem exec_shutdown (h : Hdr) (s : State) :
    exec (.shutdown h) s = execShutdown h s := rfl
theorem exec_warmReset (h : Hdr) (s : State) :
    exec (.warmReset h) s = execWarmReset h s := rfl
theorem exec_coldReset (h : Hdr) (s : State) :
    exec (.coldReset h) s = execColdReset h s := rfl
theorem exec_deferredReset (s : State) :
    exec (.deferredReset) s = execDeferredReset s := rfl
theorem exec_quiesce (h : Hdr) (s : State) :
    exec (.quiesce h) s = execQuiesce h s := rfl
theorem exec_clearNmi (h : Hdr) (clock : Bool) (s : State) :
    exec (.clearNmi h clock) s = execClearNmi h clock s := rfl
theorem exec_sbAlertClear (mask : Nat) (s : State) :
    exec (.sbAlertClear mask) s = execSbAlertClear mask s := rfl
theorem exec_sbSetAddr (address len : Nat) (s : State) :
    exec (.sbSetAddr address len) s = execSbSetAddr address len s := rfl
theorem exec_sbRead (s : State) :
    exec (.sbRead) s = execSbRead s := rfl
theorem exec_sbWrite (data : List Byte) (s : State) :
    exec (.sbWrite data) s = execSbWrite data s := rfl
theorem exec_jtagInstruction (code : Nat) (s : State) :
    exec (.jtagInstruction code) s = execJtagInstruction code s := rfl
theorem exec_hsHello (port hsFlags : Nat) (nonceC : List Byte) (s : State) :
    exec (.hsHello port hsFlags nonceC) s = execHsHello port hsFlags nonceC s := rfl
theorem exec_hsCt (port : Nat) (ct : List Byte) (macC : List Byte) (newOwner : Option (List Byte)) (s : State) :
    exec (.hsCt port ct macC newOwner) s = execHsCt port ct macC newOwner s := rfl
theorem exec_handshakeTimeout (port : Nat) (s : State) :
    exec (.handshakeTimeout port) s = execHandshakeTimeout port s := rfl
theorem exec_glFrameReceive (port : Nat) (f : GlFrame) (tagOk : Bool) (s : State) :
    exec (.glFrameReceive port f tagOk) s = execGlFrameReceive port f tagOk s := rfl
theorem exec_glResendTimeout (port : Nat) (s : State) :
    exec (.glResendTimeout port) s = execGlResendTimeout port s := rfl
theorem exec_glKeepalive (port : Nat) (s : State) :
    exec (.glKeepalive port) s = execGlKeepalive port s := rfl
theorem exec_glPortDown (port : Nat) (s : State) :
    exec (.glPortDown port) s = execGlPortDown port s := rfl
theorem exec_fabFrameReceive (f : FabFrame) (authOk : Bool) (s : State) :
    exec (.fabFrameReceive f authOk) s = execFabFrameReceive f authOk s := rfl
theorem exec_fabResendTimeout (peer tclass : Nat) (s : State) :
    exec (.fabResendTimeout peer tclass) s = execFabResendTimeout peer tclass s := rfl
theorem exec_fabKeepalive (peer : Nat) (s : State) :
    exec (.fabKeepalive peer) s = execFabKeepalive peer s := rfl
theorem exec_peerLost (peer : Nat) (s : State) :
    exec (.peerLost peer) s = execPeerLost peer s := rfl
theorem exec_fabHandshake (peer : Nat) (r : List Byte) (macOk : Bool) (s : State) :
    exec (.fabHandshake peer r macOk) s = execFabHandshake peer r macOk s := rfl
theorem exec_fabPortDown (port : Nat) (s : State) :
    exec (.fabPortDown port) s = execFabPortDown port s := rfl
theorem exec_fabPortUp (port : Nat) (lanes : Nat) (s : State) :
    exec (.fabPortUp port lanes) s = execFabPortUp port lanes s := rfl
theorem exec_gateListActivate (port : Nat) (s : State) :
    exec (.gateListActivate port) s = execGateListActivate port s := rfl
theorem exec_restBoundary (s : State) :
    exec (.restBoundary) s = execRestBoundary s := rfl
theorem exec_fenceCheck (die tile copy : Nat) (s : State) :
    exec (.fenceCheck die tile copy) s = execFenceCheck die tile copy s := rfl
theorem exec_copyComplete (die tile copy cycle : Nat) (s : State) :
    exec (.copyComplete die tile copy cycle) s = execCopyComplete die tile copy cycle s := rfl
theorem exec_copyAbandon (die tile copy : Nat) (s : State) :
    exec (.copyAbandon die tile copy) s = execCopyAbandon die tile copy s := rfl
theorem exec_postRecord (die session entry : Nat) (r : PostRec) (s : State) :
    exec (.postRecord die session entry r) s = execPostRecord die session entry r s := rfl
theorem exec_stepCommit (item : Nat) (s : State) :
    exec (.stepCommit item) s = execStepCommit item s := rfl
theorem exec_rackRecord (src : Nat) (r : RackRec) (s : State) :
    exec (.rackRecord src r) s = execRackRecord src r s := rfl
theorem exec_rackAck (peer session rackSeq : Nat) (s : State) :
    exec (.rackAck peer session rackSeq) s = execRackAck peer session rackSeq s := rfl
theorem exec_fencedReceived (peer slice : Nat) (s : State) :
    exec (.fencedReceived peer slice) s = execFencedReceived peer slice s := rfl
theorem exec_adoptFreezeRequest (spare failed : Nat) (s : State) :
    exec (.adoptFreezeRequest spare failed) s = execAdoptFreezeRequest spare failed s := rfl
theorem exec_handover (src : Nat) (sessions : List Nat) (s : State) :
    exec (.handover src sessions) s = execHandover src sessions s := rfl
theorem exec_adoptPullDone (seq : Nat) (images : List SessImage) (s : State) :
    exec (.adoptPullDone seq images) s = execAdoptPullDone seq images s := rfl
theorem exec_migrateOfferMsg (src : Nat) (image : SessImage) (s : State) :
    exec (.migrateOfferMsg src image) s = execMigrateOfferMsg src image s := rfl
theorem exec_offerReply (src session status : Nat) (s : State) :
    exec (.offerReply src session status) s = execOfferReply src session status s := rfl
theorem exec_migrateEnd (src session digest : Nat) (image : SessImage) (s : State) :
    exec (.migrateEnd src session digest image) s = execMigrateEnd src session digest image s := rfl
theorem exec_migrateMatchReply (src session digest : Nat) (isMatch : Bool) (s : State) :
    exec (.migrateMatchReply src session digest isMatch) s = execMigrateMatchReply src session digest isMatch s := rfl
theorem exec_migrateCommitMsg (src session epoch : Nat) (s : State) :
    exec (.migrateCommitMsg src session epoch) s = execMigrateCommitMsg src session epoch s := rfl
theorem exec_migrateReleased (src session : Nat) (s : State) :
    exec (.migrateReleased src session) s = execMigrateReleased src session s := rfl
theorem exec_migrateAbort (src session epoch : Nat) (s : State) :
    exec (.migrateAbort src session epoch) s = execMigrateAbort src session epoch s := rfl
theorem exec_bungAsk (src session epoch : Nat) (s : State) :
    exec (.bungAsk src session epoch) s = execBungAsk src session epoch s := rfl
theorem exec_bungAnswer (src session : Nat) (committed : Bool) (owner : Nat) (s : State) :
    exec (.bungAnswer src session committed owner) s = execBungAnswer src session committed owner s := rfl
theorem exec_bungAskTimeout (session : Nat) (s : State) :
    exec (.bungAskTimeout session) s = execBungAskTimeout session s := rfl
theorem exec_revokeNotice (src tenant : Nat) (s : State) :
    exec (.revokeNotice src tenant) s = execRevokeNotice src tenant s := rfl
theorem exec_expertTokens (src model expert : Nat) (payer : Nat × Nat) (tokens : List Nat) (s : State) :
    exec (.expertTokens src model expert payer tokens) s = execExpertTokens src model expert payer tokens s := rfl
theorem exec_searchRequest (r : SearchReq) (s : State) :
    exec (.searchRequest r) s = execSearchRequest r s := rfl
theorem exec_candidateReply (src qid shard status : Nat) (cands : List Cand) (s : State) :
    exec (.candidateReply src qid shard status cands) s = execCandidateReply src qid shard status cands s := rfl
theorem exec_textFetchRequest (src qid tenant corpus shard : Nat) (nodes : List Nat) (s : State) :
    exec (.textFetchRequest src qid tenant corpus shard nodes) s = execTextFetchRequest src qid tenant corpus shard nodes s := rfl
theorem exec_replicaDeadline (qid shard : Nat) (s : State) :
    exec (.replicaDeadline qid shard) s = execReplicaDeadline qid shard s := rfl
theorem exec_mergeDeadline (qid : Nat) (s : State) :
    exec (.mergeDeadline qid) s = execMergeDeadline qid s := rfl
theorem exec_textFetchDeadline (qid : Nat) (s : State) :
    exec (.textFetchDeadline qid) s = execTextFetchDeadline qid s := rfl
theorem exec_peerRequestExpire (rid : Nat) (s : State) :
    exec (.peerRequestExpire rid) s = execPeerRequestExpire rid s := rfl
theorem exec_repairSweep (corpus shard : Nat) (s : State) :
    exec (.repairSweep corpus shard) s = execRepairSweep corpus shard s := rfl
theorem exec_objectFetchDone (seq : Nat) (result : Option (List Byte)) (s : State) :
    exec (.objectFetchDone seq result) s = execObjectFetchDone seq result s := rfl
theorem exec_putDone (shardIndex : Nat) (s : State) :
    exec (.putDone shardIndex) s = execPutDone shardIndex s := rfl
theorem exec_putFail (shardIndex : Nat) (s : State) :
    exec (.putFail shardIndex) s = execPutFail shardIndex s := rfl
theorem exec_dwellExpiry (session : Nat) (s : State) :
    exec (.dwellExpiry session) s = execDwellExpiry session s := rfl
theorem exec_parkComplete (session : Nat) (s : State) :
    exec (.parkComplete session) s = execParkComplete session s := rfl
theorem exec_reviveComplete (session : Nat) (s : State) :
    exec (.reviveComplete session) s = execReviveComplete session s := rfl
theorem exec_condenseCommit (session : Nat) (s : State) :
    exec (.condenseCommit session) s = execCondenseCommit session s := rfl
theorem exec_caskExpiry (s : State) :
    exec (.caskExpiry) s = execCaskExpiry s := rfl
theorem exec_cellarSecSave (s : State) :
    exec (.cellarSecSave) s = execCellarSecSave s := rfl
theorem exec_holdExpiry (index : Nat) (s : State) :
    exec (.holdExpiry index) s = execHoldExpiry index s := rfl
theorem exec_reservationGranted (rid : Nat) (s : State) :
    exec (.reservationGranted rid) s = execReservationGranted rid s := rfl
theorem exec_reserveTimeout (rid : Nat) (s : State) :
    exec (.reserveTimeout rid) s = execReserveTimeout rid s := rfl
theorem exec_reviveBuddyTimeout (session : Nat) (s : State) :
    exec (.reviveBuddyTimeout session) s = execReviveBuddyTimeout session s := rfl
theorem exec_noGroupTimeout (item : Nat) (s : State) :
    exec (.noGroupTimeout item) s = execNoGroupTimeout item s := rfl
theorem exec_pressureReclaim (die : Nat) (s : State) :
    exec (.pressureReclaim die) s = execPressureReclaim die s := rfl
theorem exec_tokeniseDone (seq : Nat) (s : State) :
    exec (.tokeniseDone seq) s = execTokeniseDone seq s := rfl
theorem exec_modelWarmDone (model : Nat) (s : State) :
    exec (.modelWarmDone model) s = execModelWarmDone model s := rfl
theorem exec_modelEvictDone (model : Nat) (s : State) :
    exec (.modelEvictDone model) s = execModelEvictDone model s := rfl
theorem exec_hotRefresh (table : Nat) (s : State) :
    exec (.hotRefresh table) s = execHotRefresh table s := rfl
theorem exec_flashProgramDone (wid : Nat) (ok : Bool) (s : State) :
    exec (.flashProgramDone wid ok) s = execFlashProgramDone wid ok s := rfl
theorem exec_flashEraseDone (lun block : Nat) (ok : Bool) (s : State) :
    exec (.flashEraseDone lun block ok) s = execFlashEraseDone lun block ok s := rfl
theorem exec_flashReadDone (rid outcome : Nat) (s : State) :
    exec (.flashReadDone rid outcome) s = execFlashReadDone rid outcome s := rfl
theorem exec_gcStart (lun : Nat) (s : State) :
    exec (.gcStart lun) s = execGcStart lun s := rfl
theorem exec_pslcRecompute (s : State) :
    exec (.pslcRecompute) s = execPslcRecompute s := rfl
theorem exec_wearGovernorTick (s : State) :
    exec (.wearGovernorTick) s = execWearGovernorTick s := rfl
theorem exec_powerSecSave (s : State) :
    exec (.powerSecSave) s = execPowerSecSave s := rfl
theorem exec_patrolRead (lun block : Nat) (retried : Bool) (s : State) :
    exec (.patrolRead lun block retried) s = execPatrolRead lun block retried s := rfl
theorem exec_lunTimeout (lun : Nat) (s : State) :
    exec (.lunTimeout lun) s = execLunTimeout lun s := rfl
theorem exec_oastMountDone (s : State) :
    exec (.oastMountDone) s = execOastMountDone s := rfl
theorem exec_keyStoreWriteDone (s : State) :
    exec (.keyStoreWriteDone) s = execKeyStoreWriteDone s := rfl
theorem exec_sramEccError (tile : Nat) (double : Bool) (s : State) :
    exec (.sramEccError tile double) s = execSramEccError tile double s := rfl
theorem exec_tileSelfTestDone (tile : Nat) (pass : Bool) (s : State) :
    exec (.tileSelfTestDone tile pass) s = execTileSelfTestDone tile pass s := rfl
theorem exec_hbmError (kind stack pc row frame : Nat) (s : State) :
    exec (.hbmError kind stack pc row frame) s = execHbmError kind stack pc row frame s := rfl
theorem exec_dieLost (die : Nat) (s : State) :
    exec (.dieLost die) s = execDieLost die s := rfl
theorem exec_supplyInputChange (input volt : Nat) (s : State) :
    exec (.supplyInputChange input volt) s = execSupplyInputChange input volt s := rfl
theorem exec_supplyQualified (input : Nat) (s : State) :
    exec (.supplyQualified input) s = execSupplyQualified input s := rfl
theorem exec_supplyLost (s : State) :
    exec (.supplyLost) s = execSupplyLost s := rfl
theorem exec_holdupEnd (s : State) :
    exec (.holdupEnd) s = execHoldupEnd s := rfl
theorem exec_sensorSample (vinMain vinBackup pinW : Nat) (temps : List Int) (s : State) :
    exec (.sensorSample vinMain vinBackup pinW temps) s = execSensorSample vinMain vinBackup pinW temps s := rfl
theorem exec_throttleUpdate (s : State) :
    exec (.throttleUpdate) s = execThrottleUpdate s := rfl
theorem exec_thermtrip (s : State) :
    exec (.thermtrip) s = execThermtrip s := rfl
theorem exec_oscillatorStable (osc : Nat) (s : State) :
    exec (.oscillatorStable osc) s = execOscillatorStable osc s := rfl
theorem exec_refclkStartTimeout (s : State) :
    exec (.refclkStartTimeout) s = execRefclkStartTimeout s := rfl
theorem exec_clockMonWindow (count : Nat) (s : State) :
    exec (.clockMonWindow count) s = execClockMonWindow count s := rfl
theorem exec_monclkAbsent (s : State) :
    exec (.monclkAbsent) s = execMonclkAbsent s := rfl
theorem exec_resetPin (s : State) :
    exec (.resetPin) s = execResetPin s := rfl
theorem exec_glitchReset (s : State) :
    exec (.glitchReset) s = execGlitchReset s := rfl
theorem exec_replyHoldExpiry (seq : Nat) (s : State) :
    exec (.replyHoldExpiry seq) s = execReplyHoldExpiry seq s := rfl
theorem exec_gateEntryAdvance (port : Nat) (s : State) :
    exec (.gateEntryAdvance port) s = execGateEntryAdvance port s := rfl
theorem exec_frameClearDone (die start : Nat) (s : State) :
    exec (.frameClearDone die start) s = execFrameClearDone die start s := rfl
theorem exec_abortMarkExpiry (session epoch : Nat) (s : State) :
    exec (.abortMarkExpiry session epoch) s = execAbortMarkExpiry session epoch s := rfl
theorem exec_textFetchReply (src qid : Nat) (texts : List (Nat × Nat × List Byte)) (s : State) :
    exec (.textFetchReply src qid texts) s = execTextFetchReply src qid texts s := rfl

end Sys2Proof.Machine
end

