-- ==== Sys2Proof/Laws/FrameOps.lean ====
section
/-! SUPPORT. What the functions of Machine/Ops.lean leave alone: the control part of a state. -/
namespace Sys2Proof.Machine
set_option linter.unusedTactic false
set_option linter.unreachableTactic false

@[simp] theorem advanceTo_ctl (s : State) (t : Nat) : (advanceTo s t).ctl = s.ctl := rfl

@[simp] theorem advanceUs_ctl (s : State) (us : Nat) : (advanceUs s us).ctl = s.ctl := rfl

@[simp] theorem tick_ctl (s : State) : (tick s).ctl = s.ctl := rfl

@[simp] theorem modPort_ctl (s : State) (p : Nat) (f : GlPort → GlPort) : (modPort s p f).ctl = s.ctl := by
  simp [modPort]

@[simp] theorem modCmd_ctl (s : State) (seq : Nat) (f : CmdRec → CmdRec) : (modCmd s seq f).ctl = s.ctl := rfl

@[simp] theorem noteSent_ctl (s : State) (x0 : Content) : (noteSent s x0).ctl = s.ctl := by
  unfold noteSent
  split <;> simp

@[simp] theorem sendOn_ctl (s : State) (p : Nat) (resent : Bool) (c : Content) : (sendOn s p resent c).ctl = s.ctl := by
  simp [sendOn]

@[simp] theorem emit_ctl (s : State) (p : Nat) (resent : Bool) (c : Content) : (emit s p resent c).ctl = s.ctl := by
  simp [emit]

@[simp] theorem drainPort_ctl (x0 : Nat) (s : State) (x2 : Nat) : (drainPort x0 s x2).ctl = s.ctl := by
  induction x0 generalizing s with
  | zero => rfl
  | succ n ih =>
    unfold drainPort
    split
    · rfl
    · split <;> simp [ih]

@[simp] theorem raise_ctl (s : State) (code : Nat) (tenant : Nat) (session : Nat) (fields : List (Nat × Nat)) : (raise s code tenant session fields).ctl = s.ctl := by
  simp [raise]

@[simp] theorem counterNear_ctl (s : State) (kind : Nat) (session : Nat) (value : Nat) (limit : Nat) : (counterNear s kind session value limit).ctl = s.ctl := by
  simp [counterNear]

@[simp] theorem alertSet_ctl (s : State) (b : Nat) : (alertSet s b).ctl = s.ctl := by
  simp [alertSet]

@[simp] theorem setDevState_ctl (s : State) (v : Nat) : (setDevState s v).ctl = s.ctl := by
  simp [setDevState]

@[simp] theorem putSess_ctl (s : State) (x : Sess) : (putSess s x).ctl = s.ctl := rfl

@[simp] theorem modSess_ctl (s : State) (idx : Nat) (f : Sess → Sess) : (modSess s idx f).ctl = s.ctl := rfl

@[simp] theorem dwellStart_ctl (s : State) (idx : Nat) : (dwellStart s idx).ctl = s.ctl := rfl

@[simp] theorem takeFromBuffer_ctl (s : State) (h : Hdr) : (takeFromBuffer s h).ctl = s.ctl := by
  simp [takeFromBuffer]

@[simp] theorem refuse_ctl (s : State) (h : Hdr) (code : Nat) (st : Nat) (detail : Nat) : (refuse s h code st detail).ctl = s.ctl := by
  simp [refuse]

@[simp] theorem countJob_ctl (s : State) (tenant : Nat) (code : Nat) (st : Nat) : (countJob s tenant code st).ctl = s.ctl := by
  simp [countJob]

@[simp] theorem finishReply_ctl (s : State) (rec_ : CmdRec) (kind : Nat) (retain : Bool) (a : Ans) : (finishReply s rec_ kind retain a).ctl = s.ctl := by
  simp [finishReply]

@[simp] theorem resendReply_ctl (s : State) (c : CmdRec) (port : Nat) : (resendReply s c port).ctl = s.ctl := by
  unfold resendReply
  split <;> simp

@[simp] theorem answerSync_ctl (s : State) (h : Hdr) (code : Nat) (retain : Bool) (a : Ans) : (answerSync s h code retain a).ctl = s.ctl := by
  simp [answerSync]

@[simp] theorem answerEarly_ctl (s : State) (h : Hdr) (c : Cmd) (st : Nat) (d : Nat) : (answerEarly s h c st d).ctl = s.ctl := by
  simp [answerEarly]

@[simp] theorem admit__ctl (s : State) (h : Hdr) (c : Cmd) (endOff : Nat) (params : State → List (Bool × Nat)) (go : State → State)
    (hg : ∀ s, (go s).ctl = s.ctl) : (admit_ s h c endOff params go).ctl = s.ctl := by
  unfold admit_
  repeat' first
    | (simp [hg]; done)
    | dsimp only
    | split

@[simp] theorem syncCmd_ctl (s : State) (h : Hdr) (c : Cmd) (endOff : Nat) (params : State → List (Bool × Nat))
    (run : State → State × Ans) (hr : ∀ s, (run s).1.ctl = s.ctl) : (syncCmd s h c endOff params run).ctl = s.ctl := by
  simp [syncCmd, hr]

@[simp] theorem asyncCmd_ctl (s : State) (h : Hdr) (c : Cmd) (endOff : Nat) (params : State → List (Bool × Nat))
    (late : State → List (Bool × Nat × Nat)) (kind : State → JobKind) (start : State → State)
    (hs : ∀ s, (start s).ctl = s.ctl) : (asyncCmd s h c endOff params late kind start).ctl = s.ctl := by
  unfold asyncCmd
  apply admit__ctl
  intro s
  dsimp only
  split
  all_goals first
    | (simp [hs]; done)
    | (split <;> simp [hs])

@[simp] theorem lateSync_ctl (s : State) (h : Hdr) (c : Cmd) (endOff : Nat) (params : State → List (Bool × Nat))
    (late : State → Option Ans) (kind : State → JobKind) (start : State → State)
    (hs : ∀ s, (start s).ctl = s.ctl) : (lateSync s h c endOff params late kind start).ctl = s.ctl := by
  unfold lateSync
  apply admit__ctl
  intro s
  dsimp only
  split
  all_goals first
    | (simp [hs]; done)
    | (split <;> simp [hs])

@[simp] theorem modJob_ctl (s : State) (seq : Nat) (f : Job → Job) : (modJob s seq f).ctl = s.ctl := rfl

@[simp] theorem setStage_ctl (s : State) (seq : Nat) (st : Nat) : (setStage s seq st).ctl = s.ctl := rfl

@[simp] theorem complete_ctl (s : State) (seq : Nat) (a : Ans) : (complete s seq a).ctl = s.ctl := by
  unfold complete
  split <;> simp

@[simp] theorem finishFinal_ctl (s : State) (seq : Nat) (a : Ans) : (finishFinal s seq a).ctl = s.ctl := by
  unfold finishFinal
  split <;> simp

@[simp] theorem dropJob_ctl (s : State) (seq : Nat) : (dropJob s seq).ctl = s.ctl := rfl

@[simp] theorem completeAll_ctl (s : State) (seqs : List Nat) (a : Ans) : (completeAll s seqs a).ctl = s.ctl := by
  simp [completeAll]

@[simp] theorem applied_ctl (s : State) (idx : Nat) (seq : Nat) : (applied s idx seq).ctl = s.ctl := rfl

@[simp] theorem setBal_ctl (s : State) (sl : Nat) (act : Nat) (cur : Nat) (b : Balance) : (setBal s sl act cur b).ctl = s.ctl := rfl

@[simp] theorem charge_ctl (s : State) (sl : Nat) (act : Nat) (cur : Nat) (n : Nat) : (charge s sl act cur n).ctl = s.ctl := by
  unfold charge
  split <;> simp

@[simp] theorem credit_ctl (s : State) (sl : Nat) (act : Nat) (cur : Nat) (n : Nat) : (credit s sl act cur n).ctl = s.ctl := by
  unfold credit
  split <;> simp

@[simp] theorem holdOn_ctl (s : State) (sl : Nat) (act : Nat) (cur : Nat) : (holdOn s sl act cur).ctl = s.ctl := by
  simp [holdOn]

@[simp] theorem modClass_ctl (s : State) (c : Nat) (f : ShareClass → ShareClass) : (modClass s c f).ctl = s.ctl := rfl

@[simp] theorem noteClass_ctl (s : State) (c : Nat) (cur : Nat) (n : Nat) : (noteClass s c cur n).ctl = s.ctl := by
  simp [noteClass]

@[simp] theorem shaperTake_ctl (s : State) (tenant : Nat) (k : Nat) (n : Nat) : (shaperTake s tenant k n).ctl = s.ctl := rfl

@[simp] theorem shaperHold_ctl (s : State) (tenant : Nat) (k : Nat) : (shaperHold s tenant k).ctl = s.ctl := rfl

end Sys2Proof.Machine
end

