-- ==== Sys2Proof/Laws/FrameFabric.lean ====
section
/-! SUPPORT. What the functions of Machine/Fabric.lean leave alone: the control part of a state. -/
namespace Sys2Proof.Machine
set_option linter.unusedTactic false
set_option linter.unreachableTactic false

@[simp] theorem modPeer_ctl (s : State) (peer : Nat) (f : Peer → Peer) : (modPeer s peer f).ctl = s.ctl := rfl

@[simp] theorem modStream_ctl (s : State) (peer : Nat) (c : Nat) (f : Stream → Stream) : (modStream s peer c f).ctl = s.ctl := rfl

@[simp] theorem portFrame_ctl (s : State) (p : Nat) (c : Nat) (n : Nat) : (portFrame s p c n).ctl = s.ctl := by
  simp [portFrame]

@[simp] theorem portSend_ctl (s : State) (p : Nat) (c : Nat) (payload : Nat) : (portSend s p c payload).ctl = s.ctl := by
  simp [portSend]

@[simp] theorem gateRelease_ctl (s : State) (p : Nat) : (gateRelease s p).ctl = s.ctl := rfl

@[simp] theorem sayHello_ctl (s : State) (peer : Nat) : (sayHello s peer).ctl = s.ctl := by
  unfold sayHello
  repeat' first
    | rfl
    | assumption
    | (simp; done)
    | intro _
    | dsimp only
    | split
    | refine (foldl_ctl ?_ _).trans ?_
    | refine (foldl_ctl1 ?_ _).trans ?_
    | refine (foldl_ctl2 ?_ _).trans ?_

@[simp] theorem rekey_ctl (s : State) (peer : Nat) (tenant : Nat) (dir : Nat) (ctr : Nat) (oldGen : Nat) : (rekey s peer tenant dir ctr oldGen).ctl = s.ctl := by
  simp [rekey]

@[simp] theorem putFrame_ctl (s : State) (peer : Nat) (c : Nat) (sl : Nat) (tenant : Nat) (payload : Nat) : (putFrame s peer c sl tenant payload).ctl = s.ctl := by
  unfold putFrame
  repeat' first
    | rfl
    | assumption
    | (simp; done)
    | intro _
    | dsimp only
    | split
    | refine (foldl_ctl ?_ _).trans ?_
    | refine (foldl_ctl1 ?_ _).trans ?_
    | refine (foldl_ctl2 ?_ _).trans ?_

@[simp] theorem transmit_ctl (s : State) (peer : Nat) (c : Nat) (sl : Nat) (tenant : Nat) (m : FMsg) : (transmit s peer c sl tenant m).ctl = s.ctl := by
  simp [transmit]

@[simp] theorem putAll_ctl (s : State) (peer : Nat) (c : Nat) (l : List StreamMsg) : (putAll s peer c l).ctl = s.ctl := by
  simp [putAll]

@[simp] theorem resendStream_ctl (s : State) (peer : Nat) (c : Nat) : (resendStream s peer c).ctl = s.ctl := by
  simp [resendStream]

@[simp] theorem passNow_ctl (s : State) (h : HeldMsg) : (passNow s h).ctl = s.ctl := by
  simp [passNow]

@[simp] theorem noteHold_ctl (s : State) (h : HeldMsg) : (noteHold s h).ctl = s.ctl := by
  simp [noteHold]

@[simp] theorem offerMsg_ctl (s : State) (h : HeldMsg) : (offerMsg s h).ctl = s.ctl := by
  simp [offerMsg]

@[simp] theorem sendMsg_ctl (s : State) (peer : Nat) (c : Nat) (sl : Nat) (act : Nat) (tenant : Nat) (shaped : Bool) (m : FMsg) : (sendMsg s peer c sl act tenant shaped m).ctl = s.ctl := by
  simp [sendMsg]

@[simp] theorem sendOnQueue_ctl (s : State) (peer : Nat) (port : Nat) (sl : Nat) (act : Nat) (tenant : Nat) (m : FMsg) : (sendOnQueue s peer port sl act tenant m).ctl = s.ctl := by
  simp [sendOnQueue]

@[simp] theorem flushHeld_ctl (s : State) : (flushHeld s).ctl = s.ctl := by
  simp [flushHeld]

@[simp] theorem chargeRx_ctl (s : State) (sl : Nat) (act : Nat) (n : Nat) : (chargeRx s sl act n).ctl = s.ctl := by
  simp [chargeRx]

end Sys2Proof.Machine
end

