-- ==== Sys2Proof/Laws/FrameAlloc.lean ====
section
/-! SUPPORT. What the functions of Machine/Alloc.lean leave alone: the control part of a state. -/
namespace Sys2Proof.Machine
set_option linter.unusedTactic false
set_option linter.unreachableTactic false

@[simp] theorem modAlloc_ctl (s : State) (d : Nat) (f : Alloc → Alloc) : (modAlloc s d f).ctl = s.ctl := rfl

theorem takeRun_ctl {s : State} {d : Nat} {o : Nat} {tenant : Nat} {sl : Nat} {t} (h : takeRun s d o tenant sl = some t) : t.2.ctl = s.ctl := by
  unfold takeRun at h
  split at h
  · cases h
  · split at h
    · cases h; simp
    · cases h

theorem takeRuns_ctl {s : State} {d : Nat} {tenant : Nat} {sl : Nat} {x0 : List Nat} {t : List Run × State} (h : takeRuns s d tenant sl x0 = some t) : t.2.ctl = s.ctl := by
  induction x0 generalizing s t with
  | nil => cases h; rfl
  | cons o os ih =>
    unfold takeRuns at h
    split at h
    · cases h
    · rename_i h1
      split at h
      · cases h
      · rename_i h2
        cases h
        exact (ih h2).trans (takeRun_ctl h1)

/-- A state after an attempt to take runs. -/
theorem takeRuns_getD_ctl (s : State) (d tenant sl : Nat) (l : List Nat) :
    ((takeRuns s d tenant sl l).getD ([], s)).2.ctl = s.ctl := by
  cases h : takeRuns s d tenant sl l with
  | none => rfl
  | some p => exact takeRuns_ctl h

@[simp] theorem freeRun_ctl (s : State) (d : Nat) (r : Run) : (freeRun s d r).ctl = s.ctl := rfl

@[simp] theorem freeRuns_ctl (s : State) (d : Nat) (l : List Run) : (freeRuns s d l).ctl = s.ctl := by
  unfold freeRuns
  repeat' first
    | rfl
    | (simp; done)
    | intro _
    | split
    | refine (foldl_ctl ?_ _).trans ?_
    | (rename_i h; have h2 := congrArg (fun p => p.2.ctl) h; simp at h2; simp [← h2]; done)
    | (rename_i h; have h2 := congrArg (fun p => p.1.ctl) h; simp at h2; simp [← h2]; done)

@[simp] theorem giveRun_ctl (s : State) (d : Nat) (r : Run) : (giveRun s d r).ctl = s.ctl := rfl

@[simp] theorem giveRuns_ctl (s : State) (d : Nat) (l : List Run) : (giveRuns s d l).ctl = s.ctl := by
  unfold giveRuns
  repeat' first
    | with_reducible rfl
    | assumption
    | (simp; done)
    | intro _
    | with_reducible refine asyncCmd_ctl _ _ _ _ _ _ _ _ ?_
    | with_reducible refine syncCmd_ctl _ _ _ _ _ _ ?_
    | with_reducible refine lateSync_ctl _ _ _ _ _ _ _ _ ?_
    | dsimp only
    | split
    | with_reducible refine (foldl_ctl ?_ _).trans ?_
    | with_reducible refine (foldl_ctl1 ?_ _).trans ?_
    | with_reducible refine (foldl_ctl2 ?_ _).trans ?_
    | (have hh := takeRun_ctl (by assumption); (try simp at hh); simp [hh]; done)
    | (have hh := takeRuns_ctl (by assumption); (try simp at hh); simp [hh]; done)
    | (have hh := runFor_ctl (by assumption); (try simp at hh); simp [hh]; done)
    | (have hh := runsFor_ctl (by assumption); (try simp at hh); simp [hh]; done)
    | (have hh := flashWrite_ctl (by assumption); (try simp at hh); simp [hh]; done)
    | (have hh := takeTable_ctl (by assumption); (try simp at hh); simp [hh]; done)
    | (have hh := growCopy_ctl (by assumption); (try simp at hh); simp [hh]; done)
    | (have hh := configNow_ctl (by assumption); (try simp at hh); simp [hh]; done)
    | (have hh := grantRuns_ctl (by assumption); (try simp at hh); simp [hh]; done)
    | (have hh := beginWarm_ctl (by assumption); (try simp at hh); simp [hh]; done)
    | (have hh := spillOldest_ctl (by assumption); (try simp at hh); simp [hh]; done)
    | (have hh := shardRuns_ctl (by assumption); (try simp at hh); simp [hh]; done)
    | (have hh := createNow_ctl (by assumption); (try simp at hh); simp [hh]; done)
    | (have hh := writeNow_ctl (by assumption); (try simp at hh); simp [hh]; done)
    | (have hh := restoreTables_ctl (by assumption); (try simp at hh); simp [hh]; done)
    | (have hh := applyTables_ctl (by assumption); (try simp at hh); simp [hh]; done)
    | (have hh := restoreNodes_ctl (by assumption); (try simp at hh); simp [hh]; done)
    | (have hh := applyShards_ctl (by assumption); (try simp at hh); simp [hh]; done)
    | (have hh := restoreAll_ctl (by assumption); (try simp at hh); simp [hh]; done)
    | (have hh := restoreTable_ctl (by assumption); (try simp at hh); simp [hh]; done)
    | (have hh := restoreShard_ctl (by assumption); (try simp at hh); simp [hh]; done)
    | (have hh := applyShard_ctl (by assumption); (try simp at hh); simp [hh]; done)
    | (have hh := restoreCask_ctl (by assumption); (try simp at hh); simp [hh]; done)
    | (have hh := restoreModel_ctl (by assumption); (try simp at hh); simp [hh]; done)
    | (have hh := restoreObject_ctl (by assumption); (try simp at hh); simp [hh]; done)
    | (have hh := restoreSess_ctl (by assumption); (try simp at hh); simp [hh]; done)
    | (simp; refine pair_ctl2 (by assumption) ?_)
    | (simp; refine pair_ctl1 (by assumption) ?_)
    | simp

@[simp] theorem askFrames_ctl (s : State) (seq : Nat) (sess : Nat) (d : Nat) (tenant : Nat) (sl : Nat) (orders : List Nat) : (askFrames s seq sess d tenant sl orders).ctl = s.ctl := rfl

@[simp] theorem modResv_ctl (s : State) (rid : Nat) (f : Resv → Resv) : (modResv s rid f).ctl = s.ctl := rfl

@[simp] theorem dropResv_ctl (s : State) (rid : Nat) : (dropResv s rid).ctl = s.ctl := by
  unfold dropResv
  split <;> simp

@[simp] theorem dropResvOf_ctl (s : State) (seq : Nat) (sess : Nat) : (dropResvOf s seq sess).ctl = s.ctl := by
  unfold dropResvOf
  split <;> simp

theorem runFor_ctl {s : State} {seq : Nat} {sess : Nat} {d : Nat} {tenant : Nat} {sl : Nat} {o : Nat} {t} (h : runFor s seq sess d tenant sl o = some t) : t.2.ctl = s.ctl := by
  unfold runFor at h
  split at h
  · split at h
    · cases h; simp
    · exact takeRun_ctl h
  · exact takeRun_ctl h

theorem runsFor_ctl {s : State} {seq : Nat} {sess : Nat} {d : Nat} {tenant : Nat} {sl : Nat} {o : Nat} {x0 : Nat} {t} (h : runsFor s seq sess d tenant sl o x0 = some t) : t.2.ctl = s.ctl := by
  induction x0 generalizing s t with
  | zero => cases h; rfl
  | succ n ih =>
    unfold runsFor at h
    split at h
    · cases h
    · rename_i h1
      split at h
      · cases h
      · rename_i h2
        cases h
        exact (ih h2).trans (runFor_ctl h1)

theorem runsForAll_ctl {s : State} {seq : Nat} {sess : Nat} {d : Nat} {tenant : Nat} {sl : Nat} {x0 : List Nat} {t : List Run × State} (h : runsForAll s seq sess d tenant sl x0 = some t) : t.2.ctl = s.ctl := by
  induction x0 generalizing s t with
  | nil => cases h; rfl
  | cons o os ih =>
    unfold runsForAll at h
    split at h
    · cases h
    · rename_i h1
      split at h
      · cases h
      · rename_i h2
        cases h
        exact (ih h2).trans (runFor_ctl h1)

end Sys2Proof.Machine
end

