-- ==== Sys2Proof/Laws/FrameLayouts.lean ====
section
/-! SUPPORT. What the functions of Machine/Layouts.lean leave alone: the control part of a state. -/
namespace Sys2Proof.Machine
set_option linter.unusedTactic false
set_option linter.unreachableTactic false

@[simp] theorem modTable_ctl (s : State) (t : Nat) (f : RowTable → RowTable) : (modTable s t f).ctl = s.ctl := rfl

end Sys2Proof.Machine
end

