-- ==== Sys2Proof/Laws/FrameFlash.lean ====
section
/-! SUPPORT. What the functions of Machine/Flash.lean leave alone: the control part of a state. -/
namespace Sys2Proof.Machine
set_option linter.unusedTactic false
set_option linter.unreachableTactic false

@[simp] theorem modLun_ctl (s : State) (i : Nat) (f : Lun → Lun) : (modLun s i f).ctl = s.ctl := rfl

@[simp] theorem modBlock_ctl (s : State) (l : Nat) (b : Nat) (f : Block → Block) : (modBlock s l b f).ctl = s.ctl := rfl

@[simp] theorem nextSeq_ctl (s : State) : (nextSeq s).ctl = s.ctl := rfl

@[simp] theorem placeOn_ctl (s : State) (l : Nat) (n : Nat) : (placeOn s l n).2.ctl = s.ctl := rfl

@[simp] theorem dropExtent_ctl (s : State) (addr : Nat) : (dropExtent s addr).ctl = s.ctl := by
  unfold dropExtent
  split <;> simp

@[simp] theorem freeExtent_ctl (s : State) (addr : Nat) : (freeExtent s addr).ctl = s.ctl := by
  unfold freeExtent
  split <;> simp

@[simp] theorem freeExtentsIf_ctl (s : State) (p : Extent → Bool) : (freeExtentsIf s p).ctl = s.ctl := by
  simp [freeExtentsIf]

@[simp] theorem noteWriteHold_ctl (s : State) (sl : Nat) (act : Nat) (tenant : Nat) (n : Nat) (who : Option Nat) : (noteWriteHold s sl act tenant n who).ctl = s.ctl := by
  unfold noteWriteHold
  repeat' first
    | with_reducible rfl
    | assumption
    | (simp; done)
    | intro _
    | with_reducible refine asyncCmd_ctl _ _ _ _ _ _ _ _ ?_
    | with_reducible refine syncCmd_ctl _ _ _ _ _ _ ?_
    | with_reducible refine lateSync_ctl _ _ _ _ _ _ _ _ ?_
    | dsimp only
    | split
    | with_reducible refine (foldl_ctl ?_ _).trans ?_
    | with_reducible refine (foldl_ctl1 ?_ _).trans ?_
    | with_reducible refine (foldl_ctl2 ?_ _).trans ?_
    | (have hh := takeRun_ctl (by assumption); (try simp at hh); simp [hh]; done)
    | (have hh := takeRuns_ctl (by assumption); (try simp at hh); simp [hh]; done)
    | (have hh := runFor_ctl (by assumption); (try simp at hh); simp [hh]; done)
    | (have hh := runsFor_ctl (by assumption); (try simp at hh); simp [hh]; done)
    | (have hh := flashWrite_ctl (by assumption); (try simp at hh); simp [hh]; done)
    | (have hh := takeTable_ctl (by assumption); (try simp at hh); simp [hh]; done)
    | (have hh := growCopy_ctl (by assumption); (try simp at hh); simp [hh]; done)
    | (have hh := configNow_ctl (by assumption); (try simp at hh); simp [hh]; done)
    | (have hh := grantRuns_ctl (by assumption); (try simp at hh); simp [hh]; done)
    | (have hh := beginWarm_ctl (by assumption); (try simp at hh); simp [hh]; done)
    | (have hh := spillOldest_ctl (by assumption); (try simp at hh); simp [hh]; done)
    | (have hh := shardRuns_ctl (by assumption); (try simp at hh); simp [hh]; done)
    | (have hh := createNow_ctl (by assumption); (try simp at hh); simp [hh]; done)
    | (have hh := writeNow_ctl (by assumption); (try simp at hh); simp [hh]; done)
    | (have hh := restoreTables_ctl (by assumption); (try simp at hh); simp [hh]; done)
    | (have hh := applyTables_ctl (by assumption); (try simp at hh); simp [hh]; done)
    | (have hh := restoreNodes_ctl (by assumption); (try simp at hh); simp [hh]; done)
    | (have hh := applyShards_ctl (by assumption); (try simp at hh); simp [hh]; done)
    | (have hh := restoreAll_ctl (by assumption); (try simp at hh); simp [hh]; done)
    | (have hh := restoreTable_ctl (by assumption); (try simp at hh); simp [hh]; done)
    | (have hh := restoreShard_ctl (by assumption); (try simp at hh); simp [hh]; done)
    | (have hh := applyShard_ctl (by assumption); (try simp at hh); simp [hh]; done)
    | (have hh := restoreCask_ctl (by assumption); (try simp at hh); simp [hh]; done)
    | (have hh := restoreModel_ctl (by assumption); (try simp at hh); simp [hh]; done)
    | (have hh := restoreObject_ctl (by assumption); (try simp at hh); simp [hh]; done)
    | (have hh := restoreSess_ctl (by assumption); (try simp at hh); simp [hh]; done)
    | (have hh := ownCondense_ctl (by assumption); (try simp at hh); simp [hh]; done)
    | (have hh := runsForAll_ctl (by assumption); (try simp at hh); simp [hh]; done)
    | (simp; refine pair_ctl2 (by assumption) ?_)
    | (simp; refine pair_ctl1 (by assumption) ?_)
    | simp

theorem flashWrite_ctl {s : State} {sl : Nat} {act : Nat} {tenant : Nat} {n : Nat} {shaped : Bool} {what : WriteFor} {o : Owner} {t} (h : flashWrite s sl act tenant n shaped what o = some t) : t.2.ctl = s.ctl := by
  unfold flashWrite at h
  repeat' first
    | contradiction
    | (cases h; done)
    | (cases h; simp; done)
    | split at h
    | dsimp only at h

@[simp] theorem flashRead_ctl (s : State) (sl : Nat) (act : Nat) (n : Nat) (addr : Nat) (what : ReadFor) : (flashRead s sl act n addr what).ctl = s.ctl := by
  simp [flashRead]

@[simp] theorem spareLowCheck_ctl (s : State) (i : Nat) : (spareLowCheck s i).ctl = s.ctl := by
  simp [spareLowCheck]

@[simp] theorem retire_ctl (s : State) (l : Nat) (b : Nat) (cause : Nat) : (retire s l b cause).ctl = s.ctl := by
  unfold retire
  repeat' first
    | rfl
    | assumption
    | (simp; done)
    | intro _
    | dsimp only
    | split
    | refine (foldl_ctl ?_ _).trans ?_
    | refine (foldl_ctl1 ?_ _).trans ?_
    | refine (foldl_ctl2 ?_ _).trans ?_

@[simp] theorem placeIn_ctl (s : State) (l : Nat) (b : Nat) (n : Nat) : (placeIn s l b n).ctl = s.ctl := rfl

@[simp] theorem moveExtents_ctl (s : State) (l : Nat) (b : Nat) (per : Nat) : (moveExtents s l b per).ctl = s.ctl := by
  simp [moveExtents]

end Sys2Proof.Machine
end

