-- ==== Sys2Proof/Laws/FrameCellar.lean ====
section
/-! SUPPORT. What the functions of Machine/Cellar.lean leave alone: the control part of a state. -/
namespace Sys2Proof.Machine
set_option linter.unusedTactic false
set_option linter.unreachableTactic false

@[simp] theorem freeDraft_ctl (s : State) (x : Sess) : (freeDraft s x).ctl = s.ctl := by
  simp [freeDraft]

@[simp] theorem growList_ctl (s : State) (idx : Nat) (seq : Nat) : (growList s idx seq).ctl = s.ctl := by
  unfold growList
  repeat' first
    | rfl
    | assumption
    | (simp; done)
    | intro _
    | dsimp only
    | split
    | refine (foldl_ctl ?_ _).trans ?_
    | refine (foldl_ctl1 ?_ _).trans ?_
    | refine (foldl_ctl2 ?_ _).trans ?_
    | (have hh := runFor_ctl (by assumption); simp at hh; simp [hh]; done)
    | (simp; refine pair_ctl2 (by assumption) ?_)
    | (simp; refine pair_ctl1 (by assumption) ?_)

@[simp] theorem addPage_ctl (s : State) (idx : Nat) (seq : Nat) : (addPage s idx seq).ctl = s.ctl := by
  unfold addPage
  repeat' first
    | rfl
    | assumption
    | (simp; done)
    | intro _
    | dsimp only
    | split
    | refine (foldl_ctl ?_ _).trans ?_
    | refine (foldl_ctl1 ?_ _).trans ?_
    | refine (foldl_ctl2 ?_ _).trans ?_
    | (have hh := runsFor_ctl (by assumption); simp at hh; simp [hh]; done)
    | (simp; refine pair_ctl2 (by assumption) ?_)
    | (simp; refine pair_ctl1 (by assumption) ?_)

@[simp] theorem addPagesTo_ctl (s : State) (idx : Nat) (seq : Nat) (target : Nat) (x0 : Nat) : (addPagesTo s idx seq target x0).ctl = s.ctl := by
  induction x0 generalizing s with
  | zero => rfl
  | succ n ih =>
    unfold addPagesTo
    split
    · split <;> simp [ih]
    · rfl

@[simp] theorem trimPages_ctl (s : State) (idx : Nat) (cut : Nat) : (trimPages s idx cut).ctl = s.ctl := by
  unfold trimPages
  split <;> simp

@[simp] theorem modNode_ctl (s : State) (id : Nat) (f : Node → Node) : (modNode s id f).ctl = s.ctl := rfl

@[simp] theorem nodeReap_ctl (s : State) (id : Nat) : (nodeReap s id).ctl = s.ctl := by
  unfold nodeReap
  split <;> simp

@[simp] theorem rack_ctl (s : State) (idx : Nat) (kind : Nat) (kv : Nat) (d : Delta) : (rack s idx kind kv d).ctl = s.ctl := by
  unfold rack
  split <;> simp

@[simp] theorem beginPark_ctl (s : State) (idx : Nat) (seq : Nat) : (beginPark s idx seq).ctl = s.ctl := by
  unfold beginPark
  repeat' first
    | rfl
    | assumption
    | (simp; done)
    | intro _
    | dsimp only
    | split
    | refine (foldl_ctl ?_ _).trans ?_
    | refine (foldl_ctl1 ?_ _).trans ?_
    | refine (foldl_ctl2 ?_ _).trans ?_
    | (have hh := flashWrite_ctl (by assumption); simp at hh; simp [hh]; done)
    | (simp; refine pair_ctl2 (by assumption) ?_)
    | (simp; refine pair_ctl1 (by assumption) ?_)

@[simp] theorem parkExtents_ctl (s : State) (idx : Nat) (c : Cask) (e : Extent) : (parkExtents s idx c e).ctl = s.ctl := by
  simp [parkExtents]

@[simp] theorem installPage_ctl (s : State) (idx : Nat) (c : CaskPage) : (installPage s idx c).ctl = s.ctl := by
  unfold installPage
  repeat' first
    | with_reducible rfl
    | assumption
    | (simp; done)
    | intro _
    | with_reducible refine asyncCmd_ctl _ _ _ _ _ _ _ _ ?_
    | with_reducible refine syncCmd_ctl _ _ _ _ _ _ ?_
    | with_reducible refine lateSync_ctl _ _ _ _ _ _ _ _ ?_
    | dsimp only
    | split
    | with_reducible refine (foldl_ctl ?_ _).trans ?_
    | with_reducible refine (foldl_ctl1 ?_ _).trans ?_
    | with_reducible refine (foldl_ctl2 ?_ _).trans ?_
    | (have hh := takeRun_ctl (by assumption); (try simp at hh); simp [hh]; done)
    | (have hh := takeRuns_ctl (by assumption); (try simp at hh); simp [hh]; done)
    | (have hh := runFor_ctl (by assumption); (try simp at hh); simp [hh]; done)
    | (have hh := runsFor_ctl (by assumption); (try simp at hh); simp [hh]; done)
    | (have hh := flashWrite_ctl (by assumption); (try simp at hh); simp [hh]; done)
    | (have hh := takeTable_ctl (by assumption); (try simp at hh); simp [hh]; done)
    | (have hh := growCopy_ctl (by assumption); (try simp at hh); simp [hh]; done)
    | (have hh := configNow_ctl (by assumption); (try simp at hh); simp [hh]; done)
    | (have hh := grantRuns_ctl (by assumption); (try simp at hh); simp [hh]; done)
    | (have hh := beginWarm_ctl (by assumption); (try simp at hh); simp [hh]; done)
    | (have hh := spillOldest_ctl (by assumption); (try simp at hh); simp [hh]; done)
    | (have hh := shardRuns_ctl (by assumption); (try simp at hh); simp [hh]; done)
    | (have hh := createNow_ctl (by assumption); (try simp at hh); simp [hh]; done)
    | (have hh := writeNow_ctl (by assumption); (try simp at hh); simp [hh]; done)
    | (have hh := restoreTables_ctl (by assumption); (try simp at hh); simp [hh]; done)
    | (have hh := applyTables_ctl (by assumption); (try simp at hh); simp [hh]; done)
    | (have hh := restoreNodes_ctl (by assumption); (try simp at hh); simp [hh]; done)
    | (have hh := applyShards_ctl (by assumption); (try simp at hh); simp [hh]; done)
    | (have hh := restoreAll_ctl (by assumption); (try simp at hh); simp [hh]; done)
    | (have hh := restoreTable_ctl (by assumption); (try simp at hh); simp [hh]; done)
    | (have hh := restoreShard_ctl (by assumption); (try simp at hh); simp [hh]; done)
    | (have hh := applyShard_ctl (by assumption); (try simp at hh); simp [hh]; done)
    | (have hh := restoreCask_ctl (by assumption); (try simp at hh); simp [hh]; done)
    | (have hh := restoreModel_ctl (by assumption); (try simp at hh); simp [hh]; done)
    | (have hh := restoreObject_ctl (by assumption); (try simp at hh); simp [hh]; done)
    | (have hh := restoreSess_ctl (by assumption); (try simp at hh); simp [hh]; done)
    | (have hh := ownCondense_ctl (by assumption); (try simp at hh); simp [hh]; done)
    | (have hh := runsForAll_ctl (by assumption); (try simp at hh); simp [hh]; done)
    | (simp; refine pair_ctl2 (by assumption) ?_)
    | (simp; refine pair_ctl1 (by assumption) ?_)
    | simp

@[simp] theorem installCask_ctl (s : State) (idx : Nat) (c : Cask) : (installCask s idx c).ctl = s.ctl := by
  unfold installCask
  repeat' first
    | rfl
    | (simp; done)
    | intro _
    | split
    | refine (foldl_ctl ?_ _).trans ?_
    | (rename_i h; have h2 := congrArg (fun p => p.2.ctl) h; simp at h2; simp [← h2]; done)
    | (rename_i h; have h2 := congrArg (fun p => p.1.ctl) h; simp at h2; simp [← h2]; done)

@[simp] theorem freeHbm_ctl (s : State) (idx : Nat) : (freeHbm s idx).ctl = s.ctl := by
  unfold freeHbm
  repeat' first
    | rfl
    | (simp; done)
    | intro _
    | split
    | refine (foldl_ctl ?_ _).trans ?_
    | (rename_i h; have h2 := congrArg (fun p => p.2.ctl) h; simp at h2; simp [← h2]; done)
    | (rename_i h; have h2 := congrArg (fun p => p.1.ctl) h; simp at h2; simp [← h2]; done)

@[simp] theorem finishPark_ctl (s : State) (idx : Nat) : (finishPark s idx).ctl = s.ctl := by
  unfold finishPark
  split <;> simp

@[simp] theorem cancelParkCondense_ctl (s : State) (idx : Nat) (own : Nat) : (cancelParkCondense s idx own).ctl = s.ctl := by
  unfold cancelParkCondense
  split <;> simp

@[simp] theorem releaseCask_ctl (s : State) (idx : Nat) : (releaseCask s idx).ctl = s.ctl := by
  unfold releaseCask
  repeat' first
    | rfl
    | (simp; done)
    | intro _
    | split
    | refine (foldl_ctl ?_ _).trans ?_
    | (rename_i h; have h2 := congrArg (fun p => p.2.ctl) h; simp at h2; simp [← h2]; done)
    | (rename_i h; have h2 := congrArg (fun p => p.1.ctl) h; simp at h2; simp [← h2]; done)

@[simp] theorem releaseExtract_ctl (s : State) (idx : Nat) : (releaseExtract s idx).ctl = s.ctl := by
  unfold releaseExtract
  repeat' first
    | rfl
    | (simp; done)
    | intro _
    | split
    | refine (foldl_ctl ?_ _).trans ?_
    | (rename_i h; have h2 := congrArg (fun p => p.2.ctl) h; simp at h2; simp [← h2]; done)
    | (rename_i h; have h2 := congrArg (fun p => p.1.ctl) h; simp at h2; simp [← h2]; done)

@[simp] theorem releaseAll_ctl (s : State) (idx : Nat) : (releaseAll s idx).ctl = s.ctl := by
  unfold releaseAll
  split <;> simp

@[simp] theorem freeIndex_ctl (s : State) (idx : Nat) : (freeIndex s idx).ctl = s.ctl := by
  unfold freeIndex
  split <;> simp

@[simp] theorem closeEntry_ctl (s : State) (idx : Nat) : (closeEntry s idx).ctl = s.ctl := by
  simp [closeEntry]

@[simp] theorem goAbsent_ctl (s : State) (idx : Nat) (owner : Nat) : (goAbsent s idx owner).ctl = s.ctl := by
  simp [goAbsent]

@[simp] theorem raiseExpired_ctl (s : State) (x : Sess) : (raiseExpired s x).ctl = s.ctl := by
  simp [raiseExpired]

@[simp] theorem expire_ctl (s : State) (idx : Nat) : (expire s idx).ctl = s.ctl := by
  unfold expire
  split <;> simp

@[simp] theorem noteReadHold_ctl (s : State) (sl : Nat) (act : Nat) : (noteReadHold s sl act).ctl = s.ctl := by
  simp [noteReadHold]

@[simp] theorem poolRead_ctl (s : State) (sl : Nat) (act : Nat) (n : Nat) (addr : Nat) (what : ReadFor) : (poolRead s sl act n addr what).ctl = s.ctl := by
  simp [poolRead]

@[simp] theorem warmReads_ctl (s : State) (m : Nat) : (warmReads s m).ctl = s.ctl := by
  unfold warmReads
  split <;> simp

@[simp] theorem rehomeSess_ctl (home : Nat) (s : State) (idx : Nat) : (rehomeSess home s idx).ctl = s.ctl := by
  unfold rehomeSess
  repeat' first
    | with_reducible rfl
    | assumption
    | (simp; done)
    | intro _
    | with_reducible refine asyncCmd_ctl _ _ _ _ _ _ _ _ ?_
    | with_reducible refine syncCmd_ctl _ _ _ _ _ _ ?_
    | with_reducible refine lateSync_ctl _ _ _ _ _ _ _ _ ?_
    | dsimp only
    | split
    | with_reducible refine (foldl_ctl ?_ _).trans ?_
    | with_reducible refine (foldl_ctl1 ?_ _).trans ?_
    | with_reducible refine (foldl_ctl2 ?_ _).trans ?_
    | (have hh := takeRun_ctl (by assumption); (try simp at hh); simp [hh]; done)
    | (have hh := takeRuns_ctl (by assumption); (try simp at hh); simp [hh]; done)
    | (have hh := runFor_ctl (by assumption); (try simp at hh); simp [hh]; done)
    | (have hh := runsFor_ctl (by assumption); (try simp at hh); simp [hh]; done)
    | (have hh := flashWrite_ctl (by assumption); (try simp at hh); simp [hh]; done)
    | (have hh := takeTable_ctl (by assumption); (try simp at hh); simp [hh]; done)
    | (have hh := growCopy_ctl (by assumption); (try simp at hh); simp [hh]; done)
    | (have hh := configNow_ctl (by assumption); (try simp at hh); simp [hh]; done)
    | (have hh := grantRuns_ctl (by assumption); (try simp at hh); simp [hh]; done)
    | (have hh := beginWarm_ctl (by assumption); (try simp at hh); simp [hh]; done)
    | (have hh := spillOldest_ctl (by assumption); (try simp at hh); simp [hh]; done)
    | (have hh := shardRuns_ctl (by assumption); (try simp at hh); simp [hh]; done)
    | (have hh := createNow_ctl (by assumption); (try simp at hh); simp [hh]; done)
    | (have hh := writeNow_ctl (by assumption); (try simp at hh); simp [hh]; done)
    | (have hh := restoreTables_ctl (by assumption); (try simp at hh); simp [hh]; done)
    | (have hh := applyTables_ctl (by assumption); (try simp at hh); simp [hh]; done)
    | (have hh := restoreNodes_ctl (by assumption); (try simp at hh); simp [hh]; done)
    | (have hh := applyShards_ctl (by assumption); (try simp at hh); simp [hh]; done)
    | (have hh := restoreAll_ctl (by assumption); (try simp at hh); simp [hh]; done)
    | (have hh := restoreTable_ctl (by assumption); (try simp at hh); simp [hh]; done)
    | (have hh := restoreShard_ctl (by assumption); (try simp at hh); simp [hh]; done)
    | (have hh := applyShard_ctl (by assumption); (try simp at hh); simp [hh]; done)
    | (have hh := restoreCask_ctl (by assumption); (try simp at hh); simp [hh]; done)
    | (have hh := restoreModel_ctl (by assumption); (try simp at hh); simp [hh]; done)
    | (have hh := restoreObject_ctl (by assumption); (try simp at hh); simp [hh]; done)
    | (have hh := restoreSess_ctl (by assumption); (try simp at hh); simp [hh]; done)
    | (have hh := ownCondense_ctl (by assumption); (try simp at hh); simp [hh]; done)
    | (have hh := runsForAll_ctl (by assumption); (try simp at hh); simp [hh]; done)
    | (simp; refine pair_ctl2 (by assumption) ?_)
    | (simp; refine pair_ctl1 (by assumption) ?_)
    | simp

theorem beginWarm_ctl {s : State} {m : Nat} {t : State} (h : beginWarm s m = some t) : t.ctl = s.ctl := by
  unfold beginWarm at h
  split at h
  · cases h
  · dsimp only at h
    split at h
    · cases h
    · rename_i hh
      cases h
      have h2 := foldl_opt2 (s := s) ?_ ?_ _ hh
      · simp at h2; simp [h2]
      · intro acc b ha t ht
        refine foldl_opt2 (s := s) ?_ ha _ ht
        intro acc c ha t ht
        split at ht
        · cases ht
        · split at ht
          · cases ht
          · split at ht
            · rename_i h3
              cases ht
              exact (takeRuns_ctl h3).trans (ha _ rfl)
            · cases ht
      · intro t ht; cases ht; rfl

@[simp] theorem beginWarm_getD_ctl (s : State) (m : Nat) : ((beginWarm s m).getD s).ctl = s.ctl :=
  getD_ctl (fun _ h => beginWarm_ctl h) rfl

@[simp] theorem askRevive_ctl (s : State) (idx : Nat) : (askRevive s idx).ctl = s.ctl := by
  unfold askRevive
  split <;> simp

@[simp] theorem beginRevive_ctl (s : State) (idx : Nat) : (beginRevive s idx).ctl = s.ctl := by
  unfold beginRevive
  repeat' first
    | rfl
    | assumption
    | (simp; done)
    | intro _
    | dsimp only
    | split
    | refine (foldl_ctl ?_ _).trans ?_
    | refine (foldl_ctl1 ?_ _).trans ?_
    | refine (foldl_ctl2 ?_ _).trans ?_
    | simp

@[simp] theorem reviveReads_ctl (s : State) (idx : Nat) : (reviveReads s idx).ctl = s.ctl := by
  unfold reviveReads
  split <;> simp

@[simp] theorem revivePage_ctl (s : State) (idx : Nat) (p : Page) : (revivePage s idx p).2.ctl = s.ctl := by
  unfold revivePage
  repeat' first
    | rfl
    | assumption
    | (simp; done)
    | intro _
    | dsimp only
    | split
    | refine (foldl_ctl ?_ _).trans ?_
    | refine (foldl_ctl1 ?_ _).trans ?_
    | refine (foldl_ctl2 ?_ _).trans ?_
    | (have hh := runsFor_ctl (by assumption); simp at hh; simp [hh]; done)
    | (simp; refine pair_ctl2 (by assumption) ?_)
    | (simp; refine pair_ctl1 (by assumption) ?_)

@[simp] theorem returnPages_ctl (s : State) (idx : Nat) (l : List Page) : (returnPages s idx l).2.ctl = s.ctl := by
  simp [returnPages]

@[simp] theorem oneRun_ctl (s : State) (idx : Nat) (die : Nat) (tenant : Nat) (sl : Nat) (order : Nat) : (oneRun s idx die tenant sl order).2.ctl = s.ctl := by
  unfold oneRun
  repeat' first
    | with_reducible rfl
    | assumption
    | (simp; done)
    | intro _
    | dsimp only
    | split
    | (have hh := runFor_ctl (by assumption); (try simp at hh); simp [hh]; done)
    | (simp; refine pair_ctl2 (by assumption) ?_)
    | (simp; refine pair_ctl1 (by assumption) ?_)
    | simp

@[simp] theorem finishRevive_ctl (s : State) (idx : Nat) : (finishRevive s idx).ctl = s.ctl := by
  unfold finishRevive
  split <;> simp

end Sys2Proof.Machine
end

