-- ==== Sys2Proof/Laws/FrameText.lean ====
section
/-! SUPPORT. What the functions of Machine/Text.lean leave alone: the control part of a state. -/
namespace Sys2Proof.Machine
set_option linter.unusedTactic false
set_option linter.unreachableTactic false

@[simp] theorem countTok_ctl (s : State) (bytes : Nat) (toks : Nat) (repl : Nat) : (countTok s bytes toks repl).ctl = s.ctl := rfl

@[simp] theorem fillEngines_ctl (s : State) : (fillEngines s).ctl = s.ctl := rfl

@[simp] theorem enqueueInputs_ctl (s : State) (seq : Nat) (n : Nat) : (enqueueInputs s seq n).ctl = s.ctl := rfl

@[simp] theorem enqueueInput_ctl (s : State) (seq : Nat) : (enqueueInput s seq).ctl = s.ctl := by
  simp [enqueueInput]

@[simp] theorem leaveEngine_ctl (s : State) (seq : Nat) : (leaveEngine s seq).ctl = s.ctl := by
  unfold leaveEngine
  repeat' first
    | rfl
    | assumption
    | (simp; done)
    | intro _
    | dsimp only
    | split
    | refine (foldl_ctl ?_ _).trans ?_
    | refine (foldl_ctl1 ?_ _).trans ?_
    | refine (foldl_ctl2 ?_ _).trans ?_

@[simp] theorem leaveEngines_ctl (s : State) (seq : Nat) : (leaveEngines s seq).ctl = s.ctl := rfl

@[simp] theorem stageSlot_ctl (s : State) (idx : Nat) (i : Nat) (t : MaskSlot) : (stageSlot s idx i t).ctl = s.ctl := rfl

@[simp] theorem stageNow_ctl (s : State) (idx : Nat) : (stageNow s idx).ctl = s.ctl := by
  unfold stageNow
  split <;> simp

@[simp] theorem gramApply_ctl (s : State) (idx : Nat) (t : Nat) : (gramApply s idx t).1.ctl = s.ctl := by
  unfold gramApply
  repeat' first
    | rfl
    | assumption
    | (simp; done)
    | intro _
    | dsimp only
    | split
    | refine (foldl_ctl ?_ _).trans ?_
    | refine (foldl_ctl1 ?_ _).trans ?_
    | refine (foldl_ctl2 ?_ _).trans ?_
    | (simp; refine pair_ctl2 (by assumption) ?_)
    | (simp; refine pair_ctl1 (by assumption) ?_)

@[simp] theorem gramStart_ctl (s : State) (idx : Nat) (g : Nat) (cmd : Bool) : (gramStart s idx g cmd).ctl = s.ctl := by
  unfold gramStart
  split <;> simp

end Sys2Proof.Machine
end

