-- ==== Sys2Proof/Laws/FrameGenerate.lean ====
section
/-! SUPPORT. What the functions of Machine/Generate.lean leave alone: the control part of a state. -/
namespace Sys2Proof.Machine
set_option linter.unusedTactic false
set_option linter.unreachableTactic false

@[simp] theorem addItem_ctl (s : State) (idx : Nat) (seq : Nat) (tenant : Nat) (sl : Nat) (cls : Nat) (phase : Nat) (model : Nat) (lastPos : Nat) (no : Nat) (kind : ItemKind) (act : Nat) : (addItem s idx seq tenant sl cls phase model lastPos no kind act).ctl = s.ctl := by
  simp [addItem]

@[simp] theorem modItem_ctl (s : State) (id : Nat) (f : Item → Item) : (modItem s id f).ctl = s.ctl := rfl

@[simp] theorem dropItem_ctl (s : State) (id : Nat) : (dropItem s id).ctl = s.ctl := rfl

@[simp] theorem settleWarm_ctl (s : State) (idx : Nat) : (settleWarm s idx).ctl = s.ctl := by
  unfold settleWarm
  split <;> simp

@[simp] theorem streamOut_ctl (s : State) (x : Sess) (r : GenRun) (offset : Nat) (text : List Byte) (ids : List Nat) (final : Bool) : (streamOut s x r offset text ids final).ctl = s.ctl := by
  simp [streamOut]

@[simp] theorem flushText_ctl (s : State) (idx : Nat) (d : Detok) (all : Bool) (final : Bool) : (flushText s idx d all final).ctl = s.ctl := by
  unfold flushText
  repeat' first
    | rfl
    | assumption
    | (simp; done)
    | intro _
    | dsimp only
    | split
    | refine (foldl_ctl ?_ _).trans ?_
    | refine (foldl_ctl1 ?_ _).trans ?_
    | refine (foldl_ctl2 ?_ _).trans ?_

@[simp] theorem trimTo_ctl (s : State) (idx : Nat) (pos : Nat) : (trimTo s idx pos).ctl = s.ctl := by
  unfold trimTo
  split <;> simp

@[simp] theorem stepToTail_ctl (s : State) (idx : Nat) (seq : Nat) : (stepToTail s idx seq).ctl = s.ctl := by
  unfold stepToTail
  repeat' first
    | with_reducible rfl
    | assumption
    | (simp; done)
    | intro _
    | with_reducible refine asyncCmd_ctl _ _ _ _ _ _ _ _ ?_
    | with_reducible refine syncCmd_ctl _ _ _ _ _ _ ?_
    | with_reducible refine lateSync_ctl _ _ _ _ _ _ _ _ ?_
    | dsimp only
    | split
    | with_reducible refine (foldl_ctl ?_ _).trans ?_
    | with_reducible refine (foldl_ctl1 ?_ _).trans ?_
    | with_reducible refine (foldl_ctl2 ?_ _).trans ?_
    | (have hh := takeRun_ctl (by assumption); (try simp at hh); simp [hh]; done)
    | (have hh := takeRuns_ctl (by assumption); (try simp at hh); simp [hh]; done)
    | (have hh := runFor_ctl (by assumption); (try simp at hh); simp [hh]; done)
    | (have hh := runsFor_ctl (by assumption); (try simp at hh); simp [hh]; done)
    | (have hh := flashWrite_ctl (by assumption); (try simp at hh); simp [hh]; done)
    | (have hh := takeTable_ctl (by assumption); (try simp at hh); simp [hh]; done)
    | (have hh := growCopy_ctl (by assumption); (try simp at hh); simp [hh]; done)
    | (have hh := configNow_ctl (by assumption); (try simp at hh); simp [hh]; done)
    | (have hh := grantRuns_ctl (by assumption); (try simp at hh); simp [hh]; done)
    | (have hh := beginWarm_ctl (by assumption); (try simp at hh); simp [hh]; done)
    | (have hh := spillOldest_ctl (by assumption); (try simp at hh); simp [hh]; done)
    | (have hh := shardRuns_ctl (by assumption); (try simp at hh); simp [hh]; done)
    | (have hh := createNow_ctl (by assumption); (try simp at hh); simp [hh]; done)
    | (have hh := writeNow_ctl (by assumption); (try simp at hh); simp [hh]; done)
    | (have hh := restoreTables_ctl (by assumption); (try simp at hh); simp [hh]; done)
    | (have hh := applyTables_ctl (by assumption); (try simp at hh); simp [hh]; done)
    | (have hh := restoreNodes_ctl (by assumption); (try simp at hh); simp [hh]; done)
    | (have hh := applyShards_ctl (by assumption); (try simp at hh); simp [hh]; done)
    | (have hh := restoreAll_ctl (by assumption); (try simp at hh); simp [hh]; done)
    | (have hh := restoreTable_ctl (by assumption); (try simp at hh); simp [hh]; done)
    | (have hh := restoreShard_ctl (by assumption); (try simp at hh); simp [hh]; done)
    | (have hh := applyShard_ctl (by assumption); (try simp at hh); simp [hh]; done)
    | (have hh := restoreCask_ctl (by assumption); (try simp at hh); simp [hh]; done)
    | (have hh := restoreModel_ctl (by assumption); (try simp at hh); simp [hh]; done)
    | (have hh := restoreObject_ctl (by assumption); (try simp at hh); simp [hh]; done)
    | (have hh := restoreSess_ctl (by assumption); (try simp at hh); simp [hh]; done)
    | (simp; refine pair_ctl2 (by assumption) ?_)
    | (simp; refine pair_ctl1 (by assumption) ?_)
    | simp

@[simp] theorem gramBack_ctl (s : State) (idx : Nat) (g : Nat × List Nat) : (gramBack s idx g).ctl = s.ctl := rfl

@[simp] theorem releaseToken_ctl (s : State) (idx : Nat) (tok : Nat) (gram : Option (Nat × List Nat)) : (releaseToken s idx tok gram).ctl = s.ctl := by
  unfold releaseToken
  repeat' first
    | rfl
    | assumption
    | (simp; done)
    | intro _
    | dsimp only
    | split
    | refine (foldl_ctl ?_ _).trans ?_
    | refine (foldl_ctl1 ?_ _).trans ?_
    | refine (foldl_ctl2 ?_ _).trans ?_

@[simp] theorem dropEmpty_ctl (s : State) (idx : Nat) : (dropEmpty s idx).ctl = s.ctl := by
  unfold dropEmpty
  split <;> simp

@[simp] theorem settleReserved_ctl (s : State) (idx : Nat) : (settleReserved s idx).ctl = s.ctl := by
  unfold settleReserved
  split <;> simp

@[simp] theorem finalRecord_ctl (s : State) (idx : Nat) (reason : Nat) (fixed : Bool) : (finalRecord s idx reason fixed).1.ctl = s.ctl := by
  unfold finalRecord
  repeat' first
    | rfl
    | assumption
    | (simp; done)
    | intro _
    | dsimp only
    | split
    | refine (foldl_ctl ?_ _).trans ?_
    | refine (foldl_ctl1 ?_ _).trans ?_
    | refine (foldl_ctl2 ?_ _).trans ?_
    | (simp; refine pair_ctl2 (by assumption) ?_)
    | (simp; refine pair_ctl1 (by assumption) ?_)

@[simp] theorem clearGen_ctl (s : State) (idx : Nat) (reason : Nat) : (clearGen s idx reason).ctl = s.ctl := by
  unfold clearGen
  split <;> simp

@[simp] theorem endGenerateAs_ctl (s : State) (idx : Nat) (reason : Nat) (st : Option Nat) : (endGenerateAs s idx reason st).ctl = s.ctl := by
  unfold endGenerateAs
  repeat' first
    | rfl
    | assumption
    | (simp; done)
    | intro _
    | dsimp only
    | split
    | refine (foldl_ctl ?_ _).trans ?_
    | refine (foldl_ctl1 ?_ _).trans ?_
    | refine (foldl_ctl2 ?_ _).trans ?_
    | (simp; refine pair_ctl2 (by assumption) ?_)
    | (simp; refine pair_ctl1 (by assumption) ?_)

@[simp] theorem endGenerate_ctl (s : State) (idx : Nat) (reason : Nat) : (endGenerate s idx reason).ctl = s.ctl := by
  simp [endGenerate]

@[simp] theorem endHeldGenerate_ctl (s : State) (x : Sess) (j : Job) (reason : Nat) (st : Nat) : (endHeldGenerate s x j reason st).ctl = s.ctl := by
  simp [endHeldGenerate]

@[simp] theorem carryBack_ctl (s : State) (idx : Nat) (j : Job) : (carryBack s idx j).ctl = s.ctl := rfl

@[simp] theorem failJob_ctl (s : State) (idx : Nat) (seq : Nat) (a : Ans) : (failJob s idx seq a).ctl = s.ctl := by
  unfold failJob
  repeat' first
    | with_reducible rfl
    | assumption
    | (simp; done)
    | intro _
    | with_reducible refine asyncCmd_ctl _ _ _ _ _ _ _ _ ?_
    | with_reducible refine syncCmd_ctl _ _ _ _ _ _ ?_
    | with_reducible refine lateSync_ctl _ _ _ _ _ _ _ _ ?_
    | dsimp only
    | split
    | with_reducible refine (foldl_ctl ?_ _).trans ?_
    | with_reducible refine (foldl_ctl1 ?_ _).trans ?_
    | with_reducible refine (foldl_ctl2 ?_ _).trans ?_
    | (have hh := takeRun_ctl (by assumption); (try simp at hh); simp [hh]; done)
    | (have hh := takeRuns_ctl (by assumption); (try simp at hh); simp [hh]; done)
    | (have hh := runFor_ctl (by assumption); (try simp at hh); simp [hh]; done)
    | (have hh := runsFor_ctl (by assumption); (try simp at hh); simp [hh]; done)
    | (have hh := flashWrite_ctl (by assumption); (try simp at hh); simp [hh]; done)
    | (have hh := takeTable_ctl (by assumption); (try simp at hh); simp [hh]; done)
    | (have hh := growCopy_ctl (by assumption); (try simp at hh); simp [hh]; done)
    | (have hh := configNow_ctl (by assumption); (try simp at hh); simp [hh]; done)
    | (have hh := grantRuns_ctl (by assumption); (try simp at hh); simp [hh]; done)
    | (have hh := beginWarm_ctl (by assumption); (try simp at hh); simp [hh]; done)
    | (have hh := spillOldest_ctl (by assumption); (try simp at hh); simp [hh]; done)
    | (have hh := shardRuns_ctl (by assumption); (try simp at hh); simp [hh]; done)
    | (have hh := createNow_ctl (by assumption); (try simp at hh); simp [hh]; done)
    | (have hh := writeNow_ctl (by assumption); (try simp at hh); simp [hh]; done)
    | (have hh := restoreTables_ctl (by assumption); (try simp at hh); simp [hh]; done)
    | (have hh := applyTables_ctl (by assumption); (try simp at hh); simp [hh]; done)
    | (have hh := restoreNodes_ctl (by assumption); (try simp at hh); simp [hh]; done)
    | (have hh := applyShards_ctl (by assumption); (try simp at hh); simp [hh]; done)
    | (have hh := restoreAll_ctl (by assumption); (try simp at hh); simp [hh]; done)
    | (have hh := restoreTable_ctl (by assumption); (try simp at hh); simp [hh]; done)
    | (have hh := restoreShard_ctl (by assumption); (try simp at hh); simp [hh]; done)
    | (have hh := applyShard_ctl (by assumption); (try simp at hh); simp [hh]; done)
    | (have hh := restoreCask_ctl (by assumption); (try simp at hh); simp [hh]; done)
    | (have hh := restoreModel_ctl (by assumption); (try simp at hh); simp [hh]; done)
    | (have hh := restoreObject_ctl (by assumption); (try simp at hh); simp [hh]; done)
    | (have hh := restoreSess_ctl (by assumption); (try simp at hh); simp [hh]; done)
    | (have hh := ownCondense_ctl (by assumption); (try simp at hh); simp [hh]; done)
    | (have hh := runsForAll_ctl (by assumption); (try simp at hh); simp [hh]; done)
    | (simp; refine pair_ctl2 (by assumption) ?_)
    | (simp; refine pair_ctl1 (by assumption) ?_)
    | simp

@[simp] theorem modQuery_ctl (s : State) (seq : Nat) (f : Query → Query) : (modQuery s seq f).ctl = s.ctl := rfl

@[simp] theorem endQuery_ctl (s : State) (seq : Nat) (a : Ans) : (endQuery s seq a).ctl = s.ctl := by
  unfold endQuery
  split <;> simp

@[simp] theorem detachQuery_ctl (s : State) (idx : Nat) (seq : Nat) : (detachQuery s idx seq).ctl = s.ctl := by
  unfold detachQuery
  repeat' first
    | rfl
    | assumption
    | (simp; done)
    | intro _
    | dsimp only
    | split
    | refine (foldl_ctl ?_ _).trans ?_
    | refine (foldl_ctl1 ?_ _).trans ?_
    | refine (foldl_ctl2 ?_ _).trans ?_

@[simp] theorem endJobs_ctl (s : State) (idx : Nat) (st : Nat) (reason : Nat) : (endJobs s idx st reason).ctl = s.ctl := by
  unfold endJobs
  repeat' first
    | rfl
    | assumption
    | (simp; done)
    | intro _
    | dsimp only
    | split
    | refine (foldl_ctl ?_ _).trans ?_
    | refine (foldl_ctl1 ?_ _).trans ?_
    | refine (foldl_ctl2 ?_ _).trans ?_

@[simp] theorem closeSession_ctl (s : State) (idx : Nat) (st : Nat) (reason : Nat) : (closeSession s idx st reason).ctl = s.ctl := by
  simp [closeSession]

@[simp] theorem failRevive_ctl (s : State) (idx : Nat) (st : Nat) : (failRevive s idx st).ctl = s.ctl := by
  simp [failRevive]

@[simp] theorem maybeEnd_ctl (s : State) (idx : Nat) : (maybeEnd s idx).ctl = s.ctl := by
  unfold maybeEnd
  repeat' first
    | rfl
    | assumption
    | (simp; done)
    | intro _
    | dsimp only
    | split
    | refine (foldl_ctl ?_ _).trans ?_
    | refine (foldl_ctl1 ?_ _).trans ?_
    | refine (foldl_ctl2 ?_ _).trans ?_

@[simp] theorem growDraftList_ctl (s : State) (idx : Nat) (seq : Nat) (h : ModelHdr) : (growDraftList s idx seq h).ctl = s.ctl := by
  unfold growDraftList
  repeat' first
    | with_reducible rfl
    | assumption
    | (simp; done)
    | intro _
    | with_reducible refine asyncCmd_ctl _ _ _ _ _ _ _ _ ?_
    | with_reducible refine syncCmd_ctl _ _ _ _ _ _ ?_
    | with_reducible refine lateSync_ctl _ _ _ _ _ _ _ _ ?_
    | dsimp only
    | split
    | with_reducible refine (foldl_ctl ?_ _).trans ?_
    | with_reducible refine (foldl_ctl1 ?_ _).trans ?_
    | with_reducible refine (foldl_ctl2 ?_ _).trans ?_
    | (have hh := takeRun_ctl (by assumption); (try simp at hh); simp [hh]; done)
    | (have hh := takeRuns_ctl (by assumption); (try simp at hh); simp [hh]; done)
    | (have hh := runFor_ctl (by assumption); (try simp at hh); simp [hh]; done)
    | (have hh := runsFor_ctl (by assumption); (try simp at hh); simp [hh]; done)
    | (have hh := flashWrite_ctl (by assumption); (try simp at hh); simp [hh]; done)
    | (have hh := takeTable_ctl (by assumption); (try simp at hh); simp [hh]; done)
    | (have hh := growCopy_ctl (by assumption); (try simp at hh); simp [hh]; done)
    | (have hh := configNow_ctl (by assumption); (try simp at hh); simp [hh]; done)
    | (have hh := grantRuns_ctl (by assumption); (try simp at hh); simp [hh]; done)
    | (have hh := beginWarm_ctl (by assumption); (try simp at hh); simp [hh]; done)
    | (have hh := spillOldest_ctl (by assumption); (try simp at hh); simp [hh]; done)
    | (have hh := shardRuns_ctl (by assumption); (try simp at hh); simp [hh]; done)
    | (have hh := createNow_ctl (by assumption); (try simp at hh); simp [hh]; done)
    | (have hh := writeNow_ctl (by assumption); (try simp at hh); simp [hh]; done)
    | (have hh := restoreTables_ctl (by assumption); (try simp at hh); simp [hh]; done)
    | (have hh := applyTables_ctl (by assumption); (try simp at hh); simp [hh]; done)
    | (have hh := restoreNodes_ctl (by assumption); (try simp at hh); simp [hh]; done)
    | (have hh := applyShards_ctl (by assumption); (try simp at hh); simp [hh]; done)
    | (have hh := restoreAll_ctl (by assumption); (try simp at hh); simp [hh]; done)
    | (have hh := restoreTable_ctl (by assumption); (try simp at hh); simp [hh]; done)
    | (have hh := restoreShard_ctl (by assumption); (try simp at hh); simp [hh]; done)
    | (have hh := applyShard_ctl (by assumption); (try simp at hh); simp [hh]; done)
    | (have hh := restoreCask_ctl (by assumption); (try simp at hh); simp [hh]; done)
    | (have hh := restoreModel_ctl (by assumption); (try simp at hh); simp [hh]; done)
    | (have hh := restoreObject_ctl (by assumption); (try simp at hh); simp [hh]; done)
    | (have hh := restoreSess_ctl (by assumption); (try simp at hh); simp [hh]; done)
    | (have hh := ownCondense_ctl (by assumption); (try simp at hh); simp [hh]; done)
    | (have hh := runsForAll_ctl (by assumption); (try simp at hh); simp [hh]; done)
    | (simp; refine pair_ctl2 (by assumption) ?_)
    | (simp; refine pair_ctl1 (by assumption) ?_)
    | simp

@[simp] theorem openDraft_ctl (s : State) (idx : Nat) (seq : Nat) (target : Nat) (h : ModelHdr) (x0 : Nat) : (openDraft s idx seq target h x0).ctl = s.ctl := by
  induction x0 generalizing s idx seq target h with
  | zero => rfl
  | succ n ih =>
    unfold openDraft
    repeat' first
      | with_reducible rfl
      | assumption
      | (simp [ih]; done)
      | intro _
      | with_reducible refine asyncCmd_ctl _ _ _ _ _ _ _ _ ?_
      | with_reducible refine syncCmd_ctl _ _ _ _ _ _ ?_
      | with_reducible refine lateSync_ctl _ _ _ _ _ _ _ _ ?_
      | dsimp only
      | split
      | with_reducible refine (foldl_ctl ?_ _).trans ?_
      | with_reducible refine (foldl_ctl1 ?_ _).trans ?_
      | with_reducible refine (foldl_ctl2 ?_ _).trans ?_
      | (have hh := takeRun_ctl (by assumption); (try simp at hh); simp [hh]; done)
      | (have hh := takeRuns_ctl (by assumption); (try simp at hh); simp [hh]; done)
      | (have hh := runFor_ctl (by assumption); (try simp at hh); simp [hh]; done)
      | (have hh := runsFor_ctl (by assumption); (try simp at hh); simp [hh]; done)
      | (have hh := flashWrite_ctl (by assumption); (try simp at hh); simp [hh]; done)
      | (have hh := takeTable_ctl (by assumption); (try simp at hh); simp [hh]; done)
      | (have hh := growCopy_ctl (by assumption); (try simp at hh); simp [hh]; done)
      | (have hh := configNow_ctl (by assumption); (try simp at hh); simp [hh]; done)
      | (have hh := grantRuns_ctl (by assumption); (try simp at hh); simp [hh]; done)
      | (have hh := beginWarm_ctl (by assumption); (try simp at hh); simp [hh]; done)
      | (have hh := spillOldest_ctl (by assumption); (try simp at hh); simp [hh]; done)
      | (have hh := shardRuns_ctl (by assumption); (try simp at hh); simp [hh]; done)
      | (have hh := createNow_ctl (by assumption); (try simp at hh); simp [hh]; done)
      | (have hh := writeNow_ctl (by assumption); (try simp at hh); simp [hh]; done)
      | (have hh := restoreTables_ctl (by assumption); (try simp at hh); simp [hh]; done)
      | (have hh := applyTables_ctl (by assumption); (try simp at hh); simp [hh]; done)
      | (have hh := restoreNodes_ctl (by assumption); (try simp at hh); simp [hh]; done)
      | (have hh := applyShards_ctl (by assumption); (try simp at hh); simp [hh]; done)
      | (have hh := restoreAll_ctl (by assumption); (try simp at hh); simp [hh]; done)
      | (have hh := restoreTable_ctl (by assumption); (try simp at hh); simp [hh]; done)
      | (have hh := restoreShard_ctl (by assumption); (try simp at hh); simp [hh]; done)
      | (have hh := applyShard_ctl (by assumption); (try simp at hh); simp [hh]; done)
      | (have hh := restoreCask_ctl (by assumption); (try simp at hh); simp [hh]; done)
      | (have hh := restoreModel_ctl (by assumption); (try simp at hh); simp [hh]; done)
      | (have hh := restoreObject_ctl (by assumption); (try simp at hh); simp [hh]; done)
      | (have hh := restoreSess_ctl (by assumption); (try simp at hh); simp [hh]; done)
      | (have hh := ownCondense_ctl (by assumption); (try simp at hh); simp [hh]; done)
      | (have hh := runsForAll_ctl (by assumption); (try simp at hh); simp [hh]; done)
      | (simp; refine pair_ctl2 (by assumption) ?_)
      | (simp; refine pair_ctl1 (by assumption) ?_)
      | simp [ih]

@[simp] theorem startDraft_ctl (s : State) (idx : Nat) (seq : Nat) (m : Model) : (startDraft s idx seq m).ctl = s.ctl := by
  unfold startDraft
  split
  · rfl
  · dsimp only
    rw [foldl_ctl]
    · simp
    · intro s i
      split <;> simp

@[simp] theorem nextStep_ctl (s : State) (idx : Nat) : (nextStep s idx).ctl = s.ctl := by
  unfold nextStep
  repeat' first
    | rfl
    | assumption
    | (simp; done)
    | intro _
    | dsimp only
    | split
    | refine (foldl_ctl ?_ _).trans ?_
    | refine (foldl_ctl1 ?_ _).trans ?_
    | refine (foldl_ctl2 ?_ _).trans ?_

@[simp] theorem takeTokens_ctl (s : State) (idx : Nat) (toks : List Nat) (eos : Bool) : (takeTokens s idx toks eos).1.ctl = s.ctl := by
  unfold takeTokens
  repeat' first
    | rfl
    | assumption
    | (simp; done)
    | intro _
    | dsimp only
    | split
    | refine (foldl_ctl ?_ _).trans ?_
    | refine (foldl_ctl1 ?_ _).trans ?_
    | refine (foldl_ctl2 ?_ _).trans ?_
    | (simp; refine pair_ctl2 (by assumption) ?_)
    | (simp; refine pair_ctl1 (by assumption) ?_)

@[simp] theorem commitKv_ctl (s : State) (idx : Nat) (seq : Nat) (n : Nat) (lo : Nat) (hi : Nat) (one : Bool) : (commitKv s idx seq n lo hi one).ctl = s.ctl := by
  unfold commitKv
  split <;> simp

@[simp] theorem linkPages_ctl (x0 : Nat) (s : State) (x2 : Nat) (x3 : Nat) (x4 : List Nat) : (linkPages x0 s x2 x3 x4).1.ctl = s.ctl := by
  induction x0 generalizing s x2 x3 x4 with
  | zero => rfl
  | succ n ih =>
    unfold linkPages
    repeat' first
      | rfl
      | assumption
      | (simp [ih]; done)
      | intro _
      | dsimp only
      | split
      | refine (foldl_ctl ?_ _).trans ?_
      | refine (foldl_ctl1 ?_ _).trans ?_
      | refine (foldl_ctl2 ?_ _).trans ?_
      | (simp; refine pair_ctl2 (by assumption) ?_)
      | (simp; refine pair_ctl1 (by assumption) ?_)
      | simp [ih]

@[simp] theorem startChunks_ctl (s : State) (idx : Nat) (seq : Nat) (toks : List Nat) : (startChunks s idx seq toks).ctl = s.ctl := by
  unfold startChunks
  repeat' first
    | rfl
    | assumption
    | (simp; done)
    | intro _
    | dsimp only
    | split
    | refine (foldl_ctl ?_ _).trans ?_
    | refine (foldl_ctl1 ?_ _).trans ?_
    | refine (foldl_ctl2 ?_ _).trans ?_

@[simp] theorem runAppend_ctl (s : State) (j : Job) : (runAppend s j).ctl = s.ctl := by
  unfold runAppend
  split <;> simp

@[simp] theorem takeSlots_ctl (s : State) (idx : Nat) (seq : Nat) (x0 : Option Nat) : (takeSlots s idx seq x0).ctl = s.ctl := by
  unfold takeSlots
  repeat' first
    | with_reducible rfl
    | assumption
    | (simp; done)
    | intro _
    | with_reducible refine asyncCmd_ctl _ _ _ _ _ _ _ _ ?_
    | with_reducible refine syncCmd_ctl _ _ _ _ _ _ ?_
    | with_reducible refine lateSync_ctl _ _ _ _ _ _ _ _ ?_
    | dsimp only
    | split
    | with_reducible refine (foldl_ctl ?_ _).trans ?_
    | with_reducible refine (foldl_ctl1 ?_ _).trans ?_
    | with_reducible refine (foldl_ctl2 ?_ _).trans ?_
    | (have hh := takeRun_ctl (by assumption); (try simp at hh); simp [hh]; done)
    | (have hh := takeRuns_ctl (by assumption); (try simp at hh); simp [hh]; done)
    | (have hh := runFor_ctl (by assumption); (try simp at hh); simp [hh]; done)
    | (have hh := runsFor_ctl (by assumption); (try simp at hh); simp [hh]; done)
    | (have hh := flashWrite_ctl (by assumption); (try simp at hh); simp [hh]; done)
    | (have hh := takeTable_ctl (by assumption); (try simp at hh); simp [hh]; done)
    | (have hh := growCopy_ctl (by assumption); (try simp at hh); simp [hh]; done)
    | (have hh := configNow_ctl (by assumption); (try simp at hh); simp [hh]; done)
    | (have hh := grantRuns_ctl (by assumption); (try simp at hh); simp [hh]; done)
    | (have hh := beginWarm_ctl (by assumption); (try simp at hh); simp [hh]; done)
    | (have hh := spillOldest_ctl (by assumption); (try simp at hh); simp [hh]; done)
    | (have hh := shardRuns_ctl (by assumption); (try simp at hh); simp [hh]; done)
    | (have hh := createNow_ctl (by assumption); (try simp at hh); simp [hh]; done)
    | (have hh := writeNow_ctl (by assumption); (try simp at hh); simp [hh]; done)
    | (have hh := restoreTables_ctl (by assumption); (try simp at hh); simp [hh]; done)
    | (have hh := applyTables_ctl (by assumption); (try simp at hh); simp [hh]; done)
    | (have hh := restoreNodes_ctl (by assumption); (try simp at hh); simp [hh]; done)
    | (have hh := applyShards_ctl (by assumption); (try simp at hh); simp [hh]; done)
    | (have hh := restoreAll_ctl (by assumption); (try simp at hh); simp [hh]; done)
    | (have hh := restoreTable_ctl (by assumption); (try simp at hh); simp [hh]; done)
    | (have hh := restoreShard_ctl (by assumption); (try simp at hh); simp [hh]; done)
    | (have hh := applyShard_ctl (by assumption); (try simp at hh); simp [hh]; done)
    | (have hh := restoreCask_ctl (by assumption); (try simp at hh); simp [hh]; done)
    | (have hh := restoreModel_ctl (by assumption); (try simp at hh); simp [hh]; done)
    | (have hh := restoreObject_ctl (by assumption); (try simp at hh); simp [hh]; done)
    | (have hh := restoreSess_ctl (by assumption); (try simp at hh); simp [hh]; done)
    | (have hh := ownCondense_ctl (by assumption); (try simp at hh); simp [hh]; done)
    | (have hh := runsForAll_ctl (by assumption); (try simp at hh); simp [hh]; done)
    | (simp; refine pair_ctl2 (by assumption) ?_)
    | (simp; refine pair_ctl1 (by assumption) ?_)
    | simp

@[simp] theorem runGenerate_ctl (s : State) (j : Job) : (runGenerate s j).ctl = s.ctl := by
  unfold runGenerate
  repeat' first
    | rfl
    | assumption
    | (simp; done)
    | intro _
    | dsimp only
    | split
    | refine (foldl_ctl ?_ _).trans ?_
    | refine (foldl_ctl1 ?_ _).trans ?_
    | refine (foldl_ctl2 ?_ _).trans ?_
    | (simp; refine pair_ctl2 (by assumption) ?_)
    | (simp; refine pair_ctl1 (by assumption) ?_)

@[simp] theorem rejectText_ctl (s : State) : (rejectText s).ctl = s.ctl := rfl

@[simp] theorem pumpAppend_ctl (s : State) (x : Sess) (j : Job) (p : Nat) (m : Nat) (tail : List Byte) (toks : List Nat) : (pumpAppend s x j p m tail toks).ctl = s.ctl := by
  unfold pumpAppend
  repeat' first
    | with_reducible rfl
    | assumption
    | (simp; done)
    | intro _
    | with_reducible refine asyncCmd_ctl _ _ _ _ _ _ _ _ ?_
    | with_reducible refine syncCmd_ctl _ _ _ _ _ _ ?_
    | with_reducible refine lateSync_ctl _ _ _ _ _ _ _ _ ?_
    | dsimp only
    | split
    | with_reducible refine (foldl_ctl ?_ _).trans ?_
    | with_reducible refine (foldl_ctl1 ?_ _).trans ?_
    | with_reducible refine (foldl_ctl2 ?_ _).trans ?_
    | (have hh := takeRun_ctl (by assumption); (try simp at hh); simp [hh]; done)
    | (have hh := takeRuns_ctl (by assumption); (try simp at hh); simp [hh]; done)
    | (have hh := runFor_ctl (by assumption); (try simp at hh); simp [hh]; done)
    | (have hh := runsFor_ctl (by assumption); (try simp at hh); simp [hh]; done)
    | (have hh := flashWrite_ctl (by assumption); (try simp at hh); simp [hh]; done)
    | (have hh := takeTable_ctl (by assumption); (try simp at hh); simp [hh]; done)
    | (have hh := growCopy_ctl (by assumption); (try simp at hh); simp [hh]; done)
    | (have hh := configNow_ctl (by assumption); (try simp at hh); simp [hh]; done)
    | (have hh := grantRuns_ctl (by assumption); (try simp at hh); simp [hh]; done)
    | (have hh := beginWarm_ctl (by assumption); (try simp at hh); simp [hh]; done)
    | (have hh := spillOldest_ctl (by assumption); (try simp at hh); simp [hh]; done)
    | (have hh := shardRuns_ctl (by assumption); (try simp at hh); simp [hh]; done)
    | (have hh := createNow_ctl (by assumption); (try simp at hh); simp [hh]; done)
    | (have hh := writeNow_ctl (by assumption); (try simp at hh); simp [hh]; done)
    | (have hh := restoreTables_ctl (by assumption); (try simp at hh); simp [hh]; done)
    | (have hh := applyTables_ctl (by assumption); (try simp at hh); simp [hh]; done)
    | (have hh := restoreNodes_ctl (by assumption); (try simp at hh); simp [hh]; done)
    | (have hh := applyShards_ctl (by assumption); (try simp at hh); simp [hh]; done)
    | (have hh := restoreAll_ctl (by assumption); (try simp at hh); simp [hh]; done)
    | (have hh := restoreTable_ctl (by assumption); (try simp at hh); simp [hh]; done)
    | (have hh := restoreShard_ctl (by assumption); (try simp at hh); simp [hh]; done)
    | (have hh := applyShard_ctl (by assumption); (try simp at hh); simp [hh]; done)
    | (have hh := restoreCask_ctl (by assumption); (try simp at hh); simp [hh]; done)
    | (have hh := restoreModel_ctl (by assumption); (try simp at hh); simp [hh]; done)
    | (have hh := restoreObject_ctl (by assumption); (try simp at hh); simp [hh]; done)
    | (have hh := restoreSess_ctl (by assumption); (try simp at hh); simp [hh]; done)
    | (have hh := ownCondense_ctl (by assumption); (try simp at hh); simp [hh]; done)
    | (have hh := runsForAll_ctl (by assumption); (try simp at hh); simp [hh]; done)
    | (simp; refine pair_ctl2 (by assumption) ?_)
    | (simp; refine pair_ctl1 (by assumption) ?_)
    | simp

@[simp] theorem pumpGenerate_ctl (s : State) (x : Sess) (j : Job) (g : GenParams) (mt : Nat) : (pumpGenerate s x j g mt).ctl = s.ctl := by
  simp [pumpGenerate]

@[simp] theorem pumpAdding_ctl (s : State) (idx : Nat) : (pumpAdding s idx).ctl = s.ctl := by
  unfold pumpAdding
  repeat' first
    | rfl
    | assumption
    | (simp; done)
    | intro _
    | dsimp only
    | split
    | refine (foldl_ctl ?_ _).trans ?_
    | refine (foldl_ctl1 ?_ _).trans ?_
    | refine (foldl_ctl2 ?_ _).trans ?_

@[simp] theorem deliverPack_ctl (s : State) (seq : Nat) : (deliverPack s seq).ctl = s.ctl := by
  unfold deliverPack
  repeat' first
    | rfl
    | assumption
    | (simp; done)
    | intro _
    | dsimp only
    | split
    | refine (foldl_ctl ?_ _).trans ?_
    | refine (foldl_ctl1 ?_ _).trans ?_
    | refine (foldl_ctl2 ?_ _).trans ?_

@[simp] theorem granted_ctl (s : State) (seq : Nat) (idx : Nat) : (granted s seq idx).ctl = s.ctl := by
  unfold granted
  repeat' first
    | rfl
    | assumption
    | (simp; done)
    | intro _
    | dsimp only
    | split
    | refine (foldl_ctl ?_ _).trans ?_
    | refine (foldl_ctl1 ?_ _).trans ?_
    | refine (foldl_ctl2 ?_ _).trans ?_

end Sys2Proof.Machine
end

