-- ==== Sys2Proof/Laws/FrameCommit.lean ====
section
/-! SUPPORT. What the functions of Machine/Commit.lean leave alone: the control part of a state. -/
namespace Sys2Proof.Machine
set_option linter.unusedTactic false
set_option linter.unreachableTactic false

@[simp] theorem insertNode_ctl (s : State) (idx : Nat) (i : Nat) : (insertNode s idx i).ctl = s.ctl := by
  unfold insertNode
  repeat' first
    | with_reducible rfl
    | assumption
    | (simp; done)
    | intro _
    | with_reducible refine asyncCmd_ctl _ _ _ _ _ _ _ _ ?_
    | with_reducible refine syncCmd_ctl _ _ _ _ _ _ ?_
    | with_reducible refine lateSync_ctl _ _ _ _ _ _ _ _ ?_
    | dsimp only
    | split
    | with_reducible refine (foldl_ctl ?_ _).trans ?_
    | with_reducible refine (foldl_ctl1 ?_ _).trans ?_
    | with_reducible refine (foldl_ctl2 ?_ _).trans ?_
    | (have hh := takeRun_ctl (by assumption); (try simp at hh); simp [hh]; done)
    | (have hh := takeRuns_ctl (by assumption); (try simp at hh); simp [hh]; done)
    | (have hh := runFor_ctl (by assumption); (try simp at hh); simp [hh]; done)
    | (have hh := runsFor_ctl (by assumption); (try simp at hh); simp [hh]; done)
    | (have hh := flashWrite_ctl (by assumption); (try simp at hh); simp [hh]; done)
    | (have hh := takeTable_ctl (by assumption); (try simp at hh); simp [hh]; done)
    | (have hh := growCopy_ctl (by assumption); (try simp at hh); simp [hh]; done)
    | (have hh := configNow_ctl (by assumption); (try simp at hh); simp [hh]; done)
    | (have hh := grantRuns_ctl (by assumption); (try simp at hh); simp [hh]; done)
    | (have hh := beginWarm_ctl (by assumption); (try simp at hh); simp [hh]; done)
    | (have hh := spillOldest_ctl (by assumption); (try simp at hh); simp [hh]; done)
    | (have hh := shardRuns_ctl (by assumption); (try simp at hh); simp [hh]; done)
    | (have hh := createNow_ctl (by assumption); (try simp at hh); simp [hh]; done)
    | (have hh := writeNow_ctl (by assumption); (try simp at hh); simp [hh]; done)
    | (have hh := restoreTables_ctl (by assumption); (try simp at hh); simp [hh]; done)
    | (have hh := applyTables_ctl (by assumption); (try simp at hh); simp [hh]; done)
    | (have hh := restoreNodes_ctl (by assumption); (try simp at hh); simp [hh]; done)
    | (have hh := applyShards_ctl (by assumption); (try simp at hh); simp [hh]; done)
    | (have hh := restoreAll_ctl (by assumption); (try simp at hh); simp [hh]; done)
    | (have hh := restoreTable_ctl (by assumption); (try simp at hh); simp [hh]; done)
    | (have hh := restoreShard_ctl (by assumption); (try simp at hh); simp [hh]; done)
    | (have hh := applyShard_ctl (by assumption); (try simp at hh); simp [hh]; done)
    | (have hh := restoreCask_ctl (by assumption); (try simp at hh); simp [hh]; done)
    | (have hh := restoreModel_ctl (by assumption); (try simp at hh); simp [hh]; done)
    | (have hh := restoreObject_ctl (by assumption); (try simp at hh); simp [hh]; done)
    | (have hh := restoreSess_ctl (by assumption); (try simp at hh); simp [hh]; done)
    | (have hh := ownCondense_ctl (by assumption); (try simp at hh); simp [hh]; done)
    | (have hh := runsForAll_ctl (by assumption); (try simp at hh); simp [hh]; done)
    | (simp; refine pair_ctl2 (by assumption) ?_)
    | (simp; refine pair_ctl1 (by assumption) ?_)
    | simp

@[simp] theorem insertNodes_ctl (s : State) (idx : Nat) (a : Nat) (b : Nat) : (insertNodes s idx a b).ctl = s.ctl := by
  simp [insertNodes]

@[simp] theorem takeAcks_ctl (x0 : Nat) (s : State) (x2 : Nat) : (takeAcks x0 s x2).ctl = s.ctl := by
  induction x0 generalizing s x2 with
  | zero => rfl
  | succ n ih =>
    unfold takeAcks
    repeat' first
      | rfl
      | assumption
      | (simp [ih]; done)
      | intro _
      | dsimp only
      | split
      | refine (foldl_ctl ?_ _).trans ?_
      | refine (foldl_ctl1 ?_ _).trans ?_
      | refine (foldl_ctl2 ?_ _).trans ?_
      | simp [ih]

@[simp] theorem beginOffer_ctl (s : State) (j : Job) (dest : Nat) : (beginOffer s j dest).ctl = s.ctl := by
  unfold beginOffer
  repeat' first
    | rfl
    | assumption
    | (simp; done)
    | intro _
    | dsimp only
    | split
    | refine (foldl_ctl ?_ _).trans ?_
    | refine (foldl_ctl1 ?_ _).trans ?_
    | refine (foldl_ctl2 ?_ _).trans ?_

@[simp] theorem parkedNow_ctl (s : State) (idx : Nat) (seq : Nat) : (parkedNow s idx seq).ctl = s.ctl := by
  simp [parkedNow]

@[simp] theorem tryPark_ctl (s : State) (idx : Nat) (seq : Nat) : (tryPark s idx seq).ctl = s.ctl := by
  unfold tryPark
  repeat' first
    | rfl
    | assumption
    | (simp; done)
    | intro _
    | dsimp only
    | split
    | refine (foldl_ctl ?_ _).trans ?_
    | refine (foldl_ctl1 ?_ _).trans ?_
    | refine (foldl_ctl2 ?_ _).trans ?_

@[simp] theorem beginCondense_ctl (s : State) (idx : Nat) (seq : Nat) (slots : Nat) : (beginCondense s idx seq slots).ctl = s.ctl := by
  unfold beginCondense
  split <;> simp

@[simp] theorem condenseItem_ctl (s : State) (x : Sess) (seq : Nat) (no : Nat) (slots : Nat) : (condenseItem s x seq no slots).ctl = s.ctl := rfl

theorem ownCondense_ctl {s : State} {idx : Nat} {slots : Nat} {t : State} (h : ownCondense s idx slots = some t) : t.ctl = s.ctl := by
  unfold ownCondense at h
  repeat' first
    | contradiction
    | (cases h; done)
    | (cases h; simp; done)
    | (have hh := takeRun_ctl (by assumption); (try simp at hh); cases h; simp [hh]; done)
    | (have hh := takeRuns_ctl (by assumption); (try simp at hh); cases h; simp [hh]; done)
    | (have hh := runFor_ctl (by assumption); (try simp at hh); cases h; simp [hh]; done)
    | (have hh := runsFor_ctl (by assumption); (try simp at hh); cases h; simp [hh]; done)
    | (have hh := flashWrite_ctl (by assumption); (try simp at hh); cases h; simp [hh]; done)
    | (have hh := takeTable_ctl (by assumption); (try simp at hh); cases h; simp [hh]; done)
    | (have hh := growCopy_ctl (by assumption); (try simp at hh); cases h; simp [hh]; done)
    | (have hh := configNow_ctl (by assumption); (try simp at hh); cases h; simp [hh]; done)
    | (have hh := grantRuns_ctl (by assumption); (try simp at hh); cases h; simp [hh]; done)
    | (have hh := beginWarm_ctl (by assumption); (try simp at hh); cases h; simp [hh]; done)
    | (have hh := spillOldest_ctl (by assumption); (try simp at hh); cases h; simp [hh]; done)
    | (have hh := shardRuns_ctl (by assumption); (try simp at hh); cases h; simp [hh]; done)
    | (have hh := createNow_ctl (by assumption); (try simp at hh); cases h; simp [hh]; done)
    | (have hh := writeNow_ctl (by assumption); (try simp at hh); cases h; simp [hh]; done)
    | (have hh := restoreTables_ctl (by assumption); (try simp at hh); cases h; simp [hh]; done)
    | (have hh := applyTables_ctl (by assumption); (try simp at hh); cases h; simp [hh]; done)
    | (have hh := restoreNodes_ctl (by assumption); (try simp at hh); cases h; simp [hh]; done)
    | (have hh := applyShards_ctl (by assumption); (try simp at hh); cases h; simp [hh]; done)
    | (have hh := restoreAll_ctl (by assumption); (try simp at hh); cases h; simp [hh]; done)
    | (have hh := restoreTable_ctl (by assumption); (try simp at hh); cases h; simp [hh]; done)
    | (have hh := restoreShard_ctl (by assumption); (try simp at hh); cases h; simp [hh]; done)
    | (have hh := applyShard_ctl (by assumption); (try simp at hh); cases h; simp [hh]; done)
    | (have hh := restoreCask_ctl (by assumption); (try simp at hh); cases h; simp [hh]; done)
    | (have hh := restoreModel_ctl (by assumption); (try simp at hh); cases h; simp [hh]; done)
    | (have hh := restoreObject_ctl (by assumption); (try simp at hh); cases h; simp [hh]; done)
    | (have hh := restoreSess_ctl (by assumption); (try simp at hh); cases h; simp [hh]; done)
    | split at h
    | dsimp only at h

@[simp] theorem reviveNow_ctl (s : State) (idx : Nat) (j : Job) : (reviveNow s idx j).ctl = s.ctl := by
  simp [reviveNow]

@[simp] theorem tryCondense_ctl (s : State) (idx : Nat) (seq : Nat) (slots : Nat) : (tryCondense s idx seq slots).ctl = s.ctl := by
  unfold tryCondense
  split <;> simp

@[simp] theorem retireSession_ctl (s : State) (idx : Nat) : (retireSession s idx).ctl = s.ctl := by
  unfold retireSession
  split
  · rfl
  · dsimp only
    split
    · split
      · rename_i h
        split at h
        · exact ownCondense_ctl h
        · cases h
      · simp
    · simp

@[simp] theorem pumpOther_ctl (s : State) (idx : Nat) : (pumpOther s idx).ctl = s.ctl := by
  unfold pumpOther
  repeat' first
    | rfl
    | assumption
    | (simp; done)
    | intro _
    | dsimp only
    | split
    | refine (foldl_ctl ?_ _).trans ?_
    | refine (foldl_ctl1 ?_ _).trans ?_
    | refine (foldl_ctl2 ?_ _).trans ?_

@[simp] theorem pump_ctl (s : State) (idx : Nat) : (pump s idx).ctl = s.ctl := by
  simp [pump]

@[simp] theorem accountItem_ctl (s : State) (it : Item) : (accountItem s it).ctl = s.ctl := by
  simp [accountItem]

@[simp] theorem redoItem_ctl (s : State) (id : Nat) : (redoItem s id).ctl = s.ctl := rfl

@[simp] theorem commitGram_ctl (s : State) (idx : Nat) (gs : Nat) : (commitGram s idx gs).1.ctl = s.ctl := by
  simp [commitGram]

@[simp] theorem deadStep_ctl (s : State) (idx : Nat) : (deadStep s idx).ctl = s.ctl := rfl

@[simp] theorem commitSampled_ctl (s : State) (it : Item) (tok : Nat) (flags : Nat) (gs : Nat) : (commitSampled s it tok flags gs).ctl = s.ctl := by
  simp [commitSampled]

@[simp] theorem passGrams_ctl (s : State) (idx : Nat) (drafts : List (Nat × Nat)) (toks : List Nat) (last : Nat) : (passGrams s idx drafts toks last).1.ctl = s.ctl := by
  unfold passGrams
  repeat' first
    | with_reducible rfl
    | assumption
    | (simp; done)
    | intro _
    | with_reducible refine asyncCmd_ctl _ _ _ _ _ _ _ _ ?_
    | with_reducible refine syncCmd_ctl _ _ _ _ _ _ ?_
    | with_reducible refine lateSync_ctl _ _ _ _ _ _ _ _ ?_
    | dsimp only
    | split
    | with_reducible refine (foldl_ctl ?_ _).trans ?_
    | with_reducible refine (foldl_ctl1 ?_ _).trans ?_
    | with_reducible refine (foldl_ctl2 ?_ _).trans ?_
    | (have hh := takeRun_ctl (by assumption); (try simp at hh); simp [hh]; done)
    | (have hh := takeRuns_ctl (by assumption); (try simp at hh); simp [hh]; done)
    | (have hh := runFor_ctl (by assumption); (try simp at hh); simp [hh]; done)
    | (have hh := runsFor_ctl (by assumption); (try simp at hh); simp [hh]; done)
    | (have hh := flashWrite_ctl (by assumption); (try simp at hh); simp [hh]; done)
    | (have hh := takeTable_ctl (by assumption); (try simp at hh); simp [hh]; done)
    | (have hh := growCopy_ctl (by assumption); (try simp at hh); simp [hh]; done)
    | (have hh := configNow_ctl (by assumption); (try simp at hh); simp [hh]; done)
    | (have hh := grantRuns_ctl (by assumption); (try simp at hh); simp [hh]; done)
    | (have hh := beginWarm_ctl (by assumption); (try simp at hh); simp [hh]; done)
    | (have hh := spillOldest_ctl (by assumption); (try simp at hh); simp [hh]; done)
    | (have hh := shardRuns_ctl (by assumption); (try simp at hh); simp [hh]; done)
    | (have hh := createNow_ctl (by assumption); (try simp at hh); simp [hh]; done)
    | (have hh := writeNow_ctl (by assumption); (try simp at hh); simp [hh]; done)
    | (have hh := restoreTables_ctl (by assumption); (try simp at hh); simp [hh]; done)
    | (have hh := applyTables_ctl (by assumption); (try simp at hh); simp [hh]; done)
    | (have hh := restoreNodes_ctl (by assumption); (try simp at hh); simp [hh]; done)
    | (have hh := applyShards_ctl (by assumption); (try simp at hh); simp [hh]; done)
    | (have hh := restoreAll_ctl (by assumption); (try simp at hh); simp [hh]; done)
    | (have hh := restoreTable_ctl (by assumption); (try simp at hh); simp [hh]; done)
    | (have hh := restoreShard_ctl (by assumption); (try simp at hh); simp [hh]; done)
    | (have hh := applyShard_ctl (by assumption); (try simp at hh); simp [hh]; done)
    | (have hh := restoreCask_ctl (by assumption); (try simp at hh); simp [hh]; done)
    | (have hh := restoreModel_ctl (by assumption); (try simp at hh); simp [hh]; done)
    | (have hh := restoreObject_ctl (by assumption); (try simp at hh); simp [hh]; done)
    | (have hh := restoreSess_ctl (by assumption); (try simp at hh); simp [hh]; done)
    | (simp; refine pair_ctl2 (by assumption) ?_)
    | (simp; refine pair_ctl1 (by assumption) ?_)
    | simp

@[simp] theorem trimmedPass_ctl (s : State) (idx : Nat) : (trimmedPass s idx).ctl = s.ctl := by
  unfold trimmedPass
  split <;> simp

@[simp] theorem growDraft_ctl (s : State) (idx : Nat) : (growDraft s idx).ctl = s.ctl := by
  unfold growDraft
  repeat' first
    | with_reducible rfl
    | assumption
    | (simp; done)
    | intro _
    | with_reducible refine asyncCmd_ctl _ _ _ _ _ _ _ _ ?_
    | with_reducible refine syncCmd_ctl _ _ _ _ _ _ ?_
    | with_reducible refine lateSync_ctl _ _ _ _ _ _ _ _ ?_
    | dsimp only
    | split
    | with_reducible refine (foldl_ctl ?_ _).trans ?_
    | with_reducible refine (foldl_ctl1 ?_ _).trans ?_
    | with_reducible refine (foldl_ctl2 ?_ _).trans ?_
    | (have hh := takeRun_ctl (by assumption); (try simp at hh); simp [hh]; done)
    | (have hh := takeRuns_ctl (by assumption); (try simp at hh); simp [hh]; done)
    | (have hh := runFor_ctl (by assumption); (try simp at hh); simp [hh]; done)
    | (have hh := runsFor_ctl (by assumption); (try simp at hh); simp [hh]; done)
    | (have hh := flashWrite_ctl (by assumption); (try simp at hh); simp [hh]; done)
    | (have hh := takeTable_ctl (by assumption); (try simp at hh); simp [hh]; done)
    | (have hh := growCopy_ctl (by assumption); (try simp at hh); simp [hh]; done)
    | (have hh := configNow_ctl (by assumption); (try simp at hh); simp [hh]; done)
    | (have hh := grantRuns_ctl (by assumption); (try simp at hh); simp [hh]; done)
    | (have hh := beginWarm_ctl (by assumption); (try simp at hh); simp [hh]; done)
    | (have hh := spillOldest_ctl (by assumption); (try simp at hh); simp [hh]; done)
    | (have hh := shardRuns_ctl (by assumption); (try simp at hh); simp [hh]; done)
    | (have hh := createNow_ctl (by assumption); (try simp at hh); simp [hh]; done)
    | (have hh := writeNow_ctl (by assumption); (try simp at hh); simp [hh]; done)
    | (have hh := restoreTables_ctl (by assumption); (try simp at hh); simp [hh]; done)
    | (have hh := applyTables_ctl (by assumption); (try simp at hh); simp [hh]; done)
    | (have hh := restoreNodes_ctl (by assumption); (try simp at hh); simp [hh]; done)
    | (have hh := applyShards_ctl (by assumption); (try simp at hh); simp [hh]; done)
    | (have hh := restoreAll_ctl (by assumption); (try simp at hh); simp [hh]; done)
    | (have hh := restoreTable_ctl (by assumption); (try simp at hh); simp [hh]; done)
    | (have hh := restoreShard_ctl (by assumption); (try simp at hh); simp [hh]; done)
    | (have hh := applyShard_ctl (by assumption); (try simp at hh); simp [hh]; done)
    | (have hh := restoreCask_ctl (by assumption); (try simp at hh); simp [hh]; done)
    | (have hh := restoreModel_ctl (by assumption); (try simp at hh); simp [hh]; done)
    | (have hh := restoreObject_ctl (by assumption); (try simp at hh); simp [hh]; done)
    | (have hh := restoreSess_ctl (by assumption); (try simp at hh); simp [hh]; done)
    | (have hh := ownCondense_ctl (by assumption); (try simp at hh); simp [hh]; done)
    | (have hh := runsForAll_ctl (by assumption); (try simp at hh); simp [hh]; done)
    | (simp; refine pair_ctl2 (by assumption) ?_)
    | (simp; refine pair_ctl1 (by assumption) ?_)
    | simp

@[simp] theorem commitDraft_ctl (s : State) (idx : Nat) (seq : Nat) (n : Nat) (lo : Nat) (hi : Nat) : (commitDraft s idx seq n lo hi).ctl = s.ctl := by
  unfold commitDraft
  repeat' first
    | with_reducible rfl
    | assumption
    | (simp; done)
    | intro _
    | with_reducible refine asyncCmd_ctl _ _ _ _ _ _ _ _ ?_
    | with_reducible refine syncCmd_ctl _ _ _ _ _ _ ?_
    | with_reducible refine lateSync_ctl _ _ _ _ _ _ _ _ ?_
    | dsimp only
    | split
    | with_reducible refine (foldl_ctl ?_ _).trans ?_
    | with_reducible refine (foldl_ctl1 ?_ _).trans ?_
    | with_reducible refine (foldl_ctl2 ?_ _).trans ?_
    | (have hh := takeRun_ctl (by assumption); (try simp at hh); simp [hh]; done)
    | (have hh := takeRuns_ctl (by assumption); (try simp at hh); simp [hh]; done)
    | (have hh := runFor_ctl (by assumption); (try simp at hh); simp [hh]; done)
    | (have hh := runsFor_ctl (by assumption); (try simp at hh); simp [hh]; done)
    | (have hh := flashWrite_ctl (by assumption); (try simp at hh); simp [hh]; done)
    | (have hh := takeTable_ctl (by assumption); (try simp at hh); simp [hh]; done)
    | (have hh := growCopy_ctl (by assumption); (try simp at hh); simp [hh]; done)
    | (have hh := configNow_ctl (by assumption); (try simp at hh); simp [hh]; done)
    | (have hh := grantRuns_ctl (by assumption); (try simp at hh); simp [hh]; done)
    | (have hh := beginWarm_ctl (by assumption); (try simp at hh); simp [hh]; done)
    | (have hh := spillOldest_ctl (by assumption); (try simp at hh); simp [hh]; done)
    | (have hh := shardRuns_ctl (by assumption); (try simp at hh); simp [hh]; done)
    | (have hh := createNow_ctl (by assumption); (try simp at hh); simp [hh]; done)
    | (have hh := writeNow_ctl (by assumption); (try simp at hh); simp [hh]; done)
    | (have hh := restoreTables_ctl (by assumption); (try simp at hh); simp [hh]; done)
    | (have hh := applyTables_ctl (by assumption); (try simp at hh); simp [hh]; done)
    | (have hh := restoreNodes_ctl (by assumption); (try simp at hh); simp [hh]; done)
    | (have hh := applyShards_ctl (by assumption); (try simp at hh); simp [hh]; done)
    | (have hh := restoreAll_ctl (by assumption); (try simp at hh); simp [hh]; done)
    | (have hh := restoreTable_ctl (by assumption); (try simp at hh); simp [hh]; done)
    | (have hh := restoreShard_ctl (by assumption); (try simp at hh); simp [hh]; done)
    | (have hh := applyShard_ctl (by assumption); (try simp at hh); simp [hh]; done)
    | (have hh := restoreCask_ctl (by assumption); (try simp at hh); simp [hh]; done)
    | (have hh := restoreModel_ctl (by assumption); (try simp at hh); simp [hh]; done)
    | (have hh := restoreObject_ctl (by assumption); (try simp at hh); simp [hh]; done)
    | (have hh := restoreSess_ctl (by assumption); (try simp at hh); simp [hh]; done)
    | (have hh := ownCondense_ctl (by assumption); (try simp at hh); simp [hh]; done)
    | (have hh := runsForAll_ctl (by assumption); (try simp at hh); simp [hh]; done)
    | (simp; refine pair_ctl2 (by assumption) ?_)
    | (simp; refine pair_ctl1 (by assumption) ?_)
    | simp

@[simp] theorem commitChunk_ctl (s : State) (it : Item) (x : Sess) (first : Nat) (toks : List Nat) (isLast : Bool) : (commitChunk s it x first toks isLast).ctl = s.ctl := by
  unfold commitChunk
  extract_lets idx per lead fresh range span s1 x2 now carries s2 s3 s4 s5 s6 s7 s8
  have h1 : s1.ctl = s.ctl := commitKv_ctl ..
  have h2 : s2.ctl = s.ctl := (modSess_ctl ..).trans h1
  have h3 : s3.ctl = s.ctl := by
    have : s3.ctl = s2.ctl := by show (if _ then applied s2 _ _ else s2).ctl = _; split <;> simp
    exact this.trans h2
  have h7 : s7.ctl = s.ctl := ((rack_ctl ..).trans ((insertNodes_ctl ..).trans ((modSess_ctl ..).trans (modJob_ctl ..)))).trans h3
  have h8 : s8.ctl = s.ctl := by
    refine Eq.trans ?_ h7
    show (match it.result with
      | some (.chunkDone _ _ (some (t, f, g))) => if it.samples ∧ samplesNext s7 it then modSess s7 idx _ else s7
      | _ => s7).ctl = s7.ctl
    split
    · split
      · exact modSess_ctl ..
      · rfl
    · rfl
  split
  · split
    · split
      · exact (rack_ctl ..).trans h8
      · exact (setStage_ctl ..).trans h8
      · exact h8
    · exact h8
  · exact h8

@[simp] theorem commitVerify_ctl (s : State) (it : Item) (x : Sess) (k : Nat) : (commitVerify s it x k).ctl = s.ctl := by
  unfold commitVerify
  split <;> simp

@[simp] theorem commitSess_ctl (s : State) (it : Item) : (commitSess s it).ctl = s.ctl := by
  unfold commitSess
  repeat' first
    | with_reducible rfl
    | assumption
    | (simp; done)
    | intro _
    | with_reducible refine asyncCmd_ctl _ _ _ _ _ _ _ _ ?_
    | with_reducible refine syncCmd_ctl _ _ _ _ _ _ ?_
    | with_reducible refine lateSync_ctl _ _ _ _ _ _ _ _ ?_
    | dsimp only
    | split
    | with_reducible refine (foldl_ctl ?_ _).trans ?_
    | with_reducible refine (foldl_ctl1 ?_ _).trans ?_
    | with_reducible refine (foldl_ctl2 ?_ _).trans ?_
    | (have hh := takeRun_ctl (by assumption); (try simp at hh); simp [hh]; done)
    | (have hh := takeRuns_ctl (by assumption); (try simp at hh); simp [hh]; done)
    | (have hh := runFor_ctl (by assumption); (try simp at hh); simp [hh]; done)
    | (have hh := runsFor_ctl (by assumption); (try simp at hh); simp [hh]; done)
    | (have hh := flashWrite_ctl (by assumption); (try simp at hh); simp [hh]; done)
    | (have hh := takeTable_ctl (by assumption); (try simp at hh); simp [hh]; done)
    | (have hh := growCopy_ctl (by assumption); (try simp at hh); simp [hh]; done)
    | (have hh := configNow_ctl (by assumption); (try simp at hh); simp [hh]; done)
    | (have hh := grantRuns_ctl (by assumption); (try simp at hh); simp [hh]; done)
    | (have hh := beginWarm_ctl (by assumption); (try simp at hh); simp [hh]; done)
    | (have hh := spillOldest_ctl (by assumption); (try simp at hh); simp [hh]; done)
    | (have hh := shardRuns_ctl (by assumption); (try simp at hh); simp [hh]; done)
    | (have hh := createNow_ctl (by assumption); (try simp at hh); simp [hh]; done)
    | (have hh := writeNow_ctl (by assumption); (try simp at hh); simp [hh]; done)
    | (have hh := restoreTables_ctl (by assumption); (try simp at hh); simp [hh]; done)
    | (have hh := applyTables_ctl (by assumption); (try simp at hh); simp [hh]; done)
    | (have hh := restoreNodes_ctl (by assumption); (try simp at hh); simp [hh]; done)
    | (have hh := applyShards_ctl (by assumption); (try simp at hh); simp [hh]; done)
    | (have hh := restoreAll_ctl (by assumption); (try simp at hh); simp [hh]; done)
    | (have hh := restoreTable_ctl (by assumption); (try simp at hh); simp [hh]; done)
    | (have hh := restoreShard_ctl (by assumption); (try simp at hh); simp [hh]; done)
    | (have hh := applyShard_ctl (by assumption); (try simp at hh); simp [hh]; done)
    | (have hh := restoreCask_ctl (by assumption); (try simp at hh); simp [hh]; done)
    | (have hh := restoreModel_ctl (by assumption); (try simp at hh); simp [hh]; done)
    | (have hh := restoreObject_ctl (by assumption); (try simp at hh); simp [hh]; done)
    | (have hh := restoreSess_ctl (by assumption); (try simp at hh); simp [hh]; done)
    | (have hh := ownCondense_ctl (by assumption); (try simp at hh); simp [hh]; done)
    | (have hh := runsForAll_ctl (by assumption); (try simp at hh); simp [hh]; done)
    | (simp; refine pair_ctl2 (by assumption) ?_)
    | (simp; refine pair_ctl1 (by assumption) ?_)
    | simp

@[simp] theorem commitItem_ctl (s : State) (it : Item) : (commitItem s it).ctl = s.ctl := by
  unfold commitItem
  dsimp only
  rw [pump_ctl]
  repeat' first
    | (simp; done)
    | split

end Sys2Proof.Machine
end

