-- ==== Sys2Proof/Laws/FrameSessionCmd.lean ====
section
/-! SUPPORT. What the functions of Machine/SessionCmd.lean leave alone: the control part of a state. -/
namespace Sys2Proof.Machine
set_option linter.unusedTactic false
set_option linter.unreachableTactic false

@[simp] theorem openSession_ctl (s : State) (h : Hdr) (model : Nat) (cls : Nat) (vocab : Nat) (grammar : Nat) (share : Nat) (seed : Nat) : (openSession s h model cls vocab grammar share seed).1.ctl = s.ctl := by
  unfold openSession
  repeat' first
    | rfl
    | assumption
    | (simp; done)
    | intro _
    | dsimp only
    | split
    | refine (foldl_ctl ?_ _).trans ?_
    | refine (foldl_ctl1 ?_ _).trans ?_
    | refine (foldl_ctl2 ?_ _).trans ?_
    | (have hh := takeRuns_ctl (by assumption); simp at hh; simp [hh]; done)
    | (simp; refine pair_ctl2 (by assumption) ?_)
    | (simp; refine pair_ctl1 (by assumption) ?_)

theorem execSessionOpen_ctl {h : Hdr} {model : Nat} {serviceClass : Nat} {vocab : Nat} {grammar : Nat} {shareClass : Nat} {seed : Nat} {s : State} {t : State} (h : execSessionOpen h model serviceClass vocab grammar shareClass seed s = .next t) : t.ctl = s.ctl := by
  cases h
  simp

@[simp] theorem takePlace_ctl (s : State) (idx : Nat) (seq : Nat) (kv : Bool) : (takePlace s idx seq kv).ctl = s.ctl := by
  unfold takePlace
  repeat' first
    | with_reducible rfl
    | assumption
    | (simp; done)
    | intro _
    | dsimp only
    | split
    | simp

@[simp] theorem appendKnown_ctl (s : State) (idx : Nat) (j : Job) (policy : Nat) (mode : Nat) (tail : List Byte) (toks : List Nat) (text : List Byte) (behind : List Byte) : (appendKnown s idx j policy mode tail toks text behind).ctl = s.ctl := by
  unfold appendKnown
  split <;> simp

@[simp] theorem textInvalid_ctl (s : State) (idx : Nat) (seq : Nat) (detail : Nat) : (textInvalid s idx seq detail).ctl = s.ctl := by
  simp [textInvalid]

@[simp] theorem appendTokens_ctl (s : State) (j : Job) : (appendTokens s j).ctl = s.ctl := by
  unfold appendTokens
  repeat' first
    | with_reducible rfl
    | assumption
    | (simp; done)
    | intro _
    | dsimp only
    | split
    | simp

theorem execSessionAppend_ctl {h : Hdr} {inPolicy : Nat} {inMode : Nat} {count : Nat} {tail : List Byte} {s : State} {t : State} (h : execSessionAppend h inPolicy inMode count tail s = .next t) : t.ctl = s.ctl := by
  cases h
  refine asyncCmd_ctl _ _ _ _ _ _ _ _ ?_
  intro s
  dsimp only
  repeat' first
    | (simp; done)
    | split

theorem execSessionGenerate_ctl {h : Hdr} {g : GenParams} {s : State} {t : State} (h : execSessionGenerate h g s = .next t) : t.ctl = s.ctl := by
  cases h
  simp

theorem execSessionPark_ctl {h : Hdr} {s : State} {t : State} (h : execSessionPark h s = .next t) : t.ctl = s.ctl := by
  cases h
  simp

theorem execSessionRevive_ctl {h : Hdr} {s : State} {t : State} (h : execSessionRevive h s = .next t) : t.ctl = s.ctl := by
  cases h
  repeat' first
    | rfl
    | assumption
    | (simp; done)
    | intro _
    | refine asyncCmd_ctl _ _ _ _ _ _ _ _ ?_
    | dsimp only
    | split
    | refine (foldl_ctl ?_ _).trans ?_
    | refine (foldl_ctl1 ?_ _).trans ?_
    | refine (foldl_ctl2 ?_ _).trans ?_
    | simp

theorem execSessionCondense_ctl {h : Hdr} {slots : Nat} {s : State} {t : State} (h : execSessionCondense h slots s = .next t) : t.ctl = s.ctl := by
  cases h
  simp

theorem execSessionClose_ctl {h : Hdr} {s : State} {t : State} (h : execSessionClose h s = .next t) : t.ctl = s.ctl := by
  cases h
  simp

theorem execSessionQuery_ctl {h : Hdr} {s : State} {t : State} (h : execSessionQuery h s = .next t) : t.ctl = s.ctl := by
  cases h
  repeat' first
    | rfl
    | assumption
    | (simp; done)
    | intro _
    | refine syncCmd_ctl _ _ _ _ _ _ ?_
    | dsimp only
    | split
    | refine (foldl_ctl ?_ _).trans ?_
    | refine (foldl_ctl1 ?_ _).trans ?_
    | refine (foldl_ctl2 ?_ _).trans ?_
    | (simp; refine pair_ctl2 (by assumption) ?_)
    | (simp; refine pair_ctl1 (by assumption) ?_)
    | simp

@[simp] theorem tokeniseAppend_ctl (s : State) (seq : Nat) : (tokeniseAppend s seq).ctl = s.ctl := by
  unfold tokeniseAppend
  split <;> simp

end Sys2Proof.Machine
end

