-- ==== Sys2Proof/Laws/FrameSegments.lean ====
section
/-! SUPPORT. What the functions of Machine/Segments.lean leave alone: the control part of a state. -/
namespace Sys2Proof.Machine
set_option linter.unusedTactic false
set_option linter.unreachableTactic false

@[simp] theorem reapSegs_ctl (s : State) : (reapSegs s).ctl = s.ctl := rfl

end Sys2Proof.Machine
end

