-- ==== Sys2Proof/Laws/FrameModelsCmd.lean ====
section
/-! SUPPORT. What the functions of Machine/ModelsCmd.lean leave alone: the control part of a state. -/
namespace Sys2Proof.Machine
set_option linter.unusedTactic false
set_option linter.unreachableTactic false

@[simp] theorem fetchObj_ctl (s : State) (seq : Nat) (sl : Nat) (tenant : Nat) (o : ObjRef) : (fetchObj s seq sl tenant o).ctl = s.ctl := by
  simp [fetchObj]

theorem execModelRegister_ctl {h : Hdr} {model : Nat} {modelKind : Nat} {slice : Nat} {weights : ObjRef} {s : State} {t : State} (h : execModelRegister h model modelKind slice weights s = .next t) : t.ctl = s.ctl := by
  cases h
  repeat' first
    | rfl
    | assumption
    | (simp; done)
    | intro _
    | refine asyncCmd_ctl _ _ _ _ _ _ _ _ ?_
    | dsimp only
    | split
    | refine (foldl_ctl ?_ _).trans ?_
    | refine (foldl_ctl1 ?_ _).trans ?_
    | refine (foldl_ctl2 ?_ _).trans ?_
    | simp

@[simp] theorem endRegister_ctl (s : State) (seq : Nat) (model : Nat) (a : Ans) : (endRegister s seq model a).ctl = s.ctl := by
  simp [endRegister]

@[simp] theorem registerWrite_ctl (s : State) (seq : Nat) : (registerWrite s seq).ctl = s.ctl := by
  unfold registerWrite
  repeat' first
    | rfl
    | assumption
    | (simp; done)
    | intro _
    | dsimp only
    | split
    | refine (foldl_ctl ?_ _).trans ?_
    | refine (foldl_ctl1 ?_ _).trans ?_
    | refine (foldl_ctl2 ?_ _).trans ?_
    | (have hh := flashWrite_ctl (by assumption); simp at hh; simp [hh]; done)
    | (simp; refine pair_ctl2 (by assumption) ?_)
    | (simp; refine pair_ctl1 (by assumption) ?_)

@[simp] theorem registerDone_ctl (s : State) (seq : Nat) (addr : Nat) : (registerDone s seq addr).ctl = s.ctl := by
  unfold registerDone
  repeat' first
    | rfl
    | assumption
    | (simp; done)
    | intro _
    | dsimp only
    | split
    | refine (foldl_ctl ?_ _).trans ?_
    | refine (foldl_ctl1 ?_ _).trans ?_
    | refine (foldl_ctl2 ?_ _).trans ?_

@[simp] theorem tryWarm_ctl (s : State) (seq : Nat) (m : Nat) : (tryWarm s seq m).ctl = s.ctl := by
  unfold tryWarm
  repeat' first
    | rfl
    | assumption
    | (simp; done)
    | intro _
    | dsimp only
    | split
    | refine (foldl_ctl ?_ _).trans ?_
    | refine (foldl_ctl1 ?_ _).trans ?_
    | refine (foldl_ctl2 ?_ _).trans ?_
    | (have hh := beginWarm_ctl (by assumption); (try simp at hh); simp [hh]; done)
    | simp

theorem execModelWarm_ctl {h : Hdr} {model : Nat} {s : State} {t : State} (h : execModelWarm h model s = .next t) : t.ctl = s.ctl := by
  cases h
  repeat' first
    | rfl
    | assumption
    | (simp; done)
    | intro _
    | refine asyncCmd_ctl _ _ _ _ _ _ _ _ ?_
    | dsimp only
    | split
    | refine (foldl_ctl ?_ _).trans ?_
    | refine (foldl_ctl1 ?_ _).trans ?_
    | refine (foldl_ctl2 ?_ _).trans ?_
    | simp

@[simp] theorem warmDone_ctl (s : State) (m : Nat) : (warmDone s m).ctl = s.ctl := by
  unfold warmDone
  split <;> simp

theorem execModelWarmDone_ctl {model : Nat} {s : State} {t : State} (h : execModelWarmDone model s = .next t) : t.ctl = s.ctl := by
  cases h
  simp

@[simp] theorem dropDraftKv_ctl (s : State) (m : Nat) : (dropDraftKv s m).ctl = s.ctl := by
  unfold dropDraftKv
  repeat' first
    | rfl
    | assumption
    | (simp; done)
    | intro _
    | dsimp only
    | split
    | refine (foldl_ctl ?_ _).trans ?_
    | refine (foldl_ctl1 ?_ _).trans ?_
    | refine (foldl_ctl2 ?_ _).trans ?_

@[simp] theorem evictedGoOn_ctl (s : State) (m : Nat) : (evictedGoOn s m).ctl = s.ctl := by
  unfold evictedGoOn
  repeat' first
    | with_reducible rfl
    | assumption
    | (simp; done)
    | intro _
    | with_reducible refine asyncCmd_ctl _ _ _ _ _ _ _ _ ?_
    | with_reducible refine syncCmd_ctl _ _ _ _ _ _ ?_
    | with_reducible refine lateSync_ctl _ _ _ _ _ _ _ _ ?_
    | dsimp only
    | split
    | with_reducible refine (foldl_ctl ?_ _).trans ?_
    | with_reducible refine (foldl_ctl1 ?_ _).trans ?_
    | with_reducible refine (foldl_ctl2 ?_ _).trans ?_
    | (have hh := takeRun_ctl (by assumption); (try simp at hh); simp [hh]; done)
    | (have hh := takeRuns_ctl (by assumption); (try simp at hh); simp [hh]; done)
    | (have hh := runFor_ctl (by assumption); (try simp at hh); simp [hh]; done)
    | (have hh := runsFor_ctl (by assumption); (try simp at hh); simp [hh]; done)
    | (have hh := flashWrite_ctl (by assumption); (try simp at hh); simp [hh]; done)
    | (have hh := takeTable_ctl (by assumption); (try simp at hh); simp [hh]; done)
    | (have hh := growCopy_ctl (by assumption); (try simp at hh); simp [hh]; done)
    | (have hh := configNow_ctl (by assumption); (try simp at hh); simp [hh]; done)
    | (have hh := grantRuns_ctl (by assumption); (try simp at hh); simp [hh]; done)
    | (have hh := beginWarm_ctl (by assumption); (try simp at hh); simp [hh]; done)
    | (have hh := spillOldest_ctl (by assumption); (try simp at hh); simp [hh]; done)
    | (have hh := shardRuns_ctl (by assumption); (try simp at hh); simp [hh]; done)
    | (have hh := createNow_ctl (by assumption); (try simp at hh); simp [hh]; done)
    | (have hh := writeNow_ctl (by assumption); (try simp at hh); simp [hh]; done)
    | (have hh := restoreTables_ctl (by assumption); (try simp at hh); simp [hh]; done)
    | (have hh := applyTables_ctl (by assumption); (try simp at hh); simp [hh]; done)
    | (have hh := restoreNodes_ctl (by assumption); (try simp at hh); simp [hh]; done)
    | (have hh := applyShards_ctl (by assumption); (try simp at hh); simp [hh]; done)
    | (have hh := restoreAll_ctl (by assumption); (try simp at hh); simp [hh]; done)
    | (have hh := restoreTable_ctl (by assumption); (try simp at hh); simp [hh]; done)
    | (have hh := restoreShard_ctl (by assumption); (try simp at hh); simp [hh]; done)
    | (have hh := applyShard_ctl (by assumption); (try simp at hh); simp [hh]; done)
    | (have hh := restoreCask_ctl (by assumption); (try simp at hh); simp [hh]; done)
    | (have hh := restoreModel_ctl (by assumption); (try simp at hh); simp [hh]; done)
    | (have hh := restoreObject_ctl (by assumption); (try simp at hh); simp [hh]; done)
    | (have hh := restoreSess_ctl (by assumption); (try simp at hh); simp [hh]; done)
    | (have hh := ownCondense_ctl (by assumption); (try simp at hh); simp [hh]; done)
    | (have hh := runsForAll_ctl (by assumption); (try simp at hh); simp [hh]; done)
    | (have hh := takePosted_ctl (by assumption); (try simp at hh); simp [hh]; done)
    | (simp; refine pair_ctl2 (by assumption) ?_)
    | (simp; refine pair_ctl1 (by assumption) ?_)
    | simp

@[simp] theorem evictDone_ctl (s : State) (m : Nat) : (evictDone s m).ctl = s.ctl := by
  unfold evictDone
  repeat' first
    | rfl
    | assumption
    | (simp; done)
    | intro _
    | dsimp only
    | split
    | refine (foldl_ctl ?_ _).trans ?_
    | refine (foldl_ctl1 ?_ _).trans ?_
    | refine (foldl_ctl2 ?_ _).trans ?_
    | (have hh := beginWarm_ctl (by assumption); simp at hh; simp [hh]; done)
    | simp

theorem execModelEvictDone_ctl {model : Nat} {s : State} {t : State} (h : execModelEvictDone model s = .next t) : t.ctl = s.ctl := by
  cases h
  simp

theorem execModelEvict_ctl {h : Hdr} {model : Nat} {s : State} {t : State} (h : execModelEvict h model s = .next t) : t.ctl = s.ctl := by
  cases h
  repeat' first
    | rfl
    | assumption
    | (simp; done)
    | intro _
    | refine asyncCmd_ctl _ _ _ _ _ _ _ _ ?_
    | dsimp only
    | split
    | refine (foldl_ctl ?_ _).trans ?_
    | refine (foldl_ctl1 ?_ _).trans ?_
    | refine (foldl_ctl2 ?_ _).trans ?_
    | simp

theorem execDraftBind_ctl {h : Hdr} {model : Nat} {draft : Nat} {kMax : Nat} {s : State} {t : State} (h : execDraftBind h model draft kMax s = .next t) : t.ctl = s.ctl := by
  cases h
  simp

theorem execSegmentLoad_ctl {h : Hdr} {model : Nat} {phase : Nat} {groupTiles : Nat} {batch : Nat} {segment : ObjRef} {s : State} {t : State} (h : execSegmentLoad h model phase groupTiles batch segment s = .next t) : t.ctl = s.ctl := by
  cases h
  repeat' first
    | rfl
    | assumption
    | (simp; done)
    | intro _
    | refine asyncCmd_ctl _ _ _ _ _ _ _ _ ?_
    | dsimp only
    | split
    | refine (foldl_ctl ?_ _).trans ?_
    | refine (foldl_ctl1 ?_ _).trans ?_
    | refine (foldl_ctl2 ?_ _).trans ?_
    | simp

@[simp] theorem loadSegment_ctl (s : State) (seq : Nat) (tenant : Nat) (model : Nat) (phase : Nat) (groupTiles : Nat) (batch : Nat) (o : ObjRef) (bs : List Byte) : (loadSegment s seq tenant model phase groupTiles batch o bs).ctl = s.ctl := by
  unfold loadSegment
  repeat' first
    | rfl
    | assumption
    | (simp; done)
    | intro _
    | dsimp only
    | split
    | refine (foldl_ctl ?_ _).trans ?_
    | refine (foldl_ctl1 ?_ _).trans ?_
    | refine (foldl_ctl2 ?_ _).trans ?_
    | (simp; refine pair_ctl2 (by assumption) ?_)
    | (simp; refine pair_ctl1 (by assumption) ?_)

theorem takeTable_ctl {s : State} {tenant : Nat} {n : Nat} {t} (h : takeTable s tenant n = some t) : t.2.ctl = s.ctl := by
  unfold takeTable at h
  repeat' first
    | contradiction
    | (cases h; done)
    | (cases h; simp; done)
    | (have hh := takeRuns_ctl (by assumption); simp at hh; cases h; simp [hh]; done)
    | split at h
    | dsimp only at h

@[simp] theorem freeTable_ctl (s : State) (runs : List (Nat × Run)) : (freeTable s runs).ctl = s.ctl := by
  unfold freeTable
  repeat' first
    | rfl
    | assumption
    | (simp; done)
    | intro _
    | dsimp only
    | split
    | refine (foldl_ctl ?_ _).trans ?_
    | refine (foldl_ctl1 ?_ _).trans ?_
    | refine (foldl_ctl2 ?_ _).trans ?_

theorem execVocabLoad_ctl {h : Hdr} {vocab : Nat} {table : ObjRef} {s : State} {t : State} (h : execVocabLoad h vocab table s = .next t) : t.ctl = s.ctl := by
  cases h
  simp

@[simp] theorem loadVocab_ctl (s : State) (seq : Nat) (v : Nat) (o : ObjRef) (bs : List Byte) : (loadVocab s seq v o bs).ctl = s.ctl := by
  unfold loadVocab
  repeat' first
    | rfl
    | assumption
    | (simp; done)
    | intro _
    | dsimp only
    | split
    | refine (foldl_ctl ?_ _).trans ?_
    | refine (foldl_ctl1 ?_ _).trans ?_
    | refine (foldl_ctl2 ?_ _).trans ?_
    | (have hh := takeTable_ctl (by assumption); simp at hh; simp [hh]; done)
    | (simp; refine pair_ctl2 (by assumption) ?_)
    | (simp; refine pair_ctl1 (by assumption) ?_)
    | simp

theorem execGrammarLoad_ctl {h : Hdr} {grammar : Nat} {vocab : Nat} {table : ObjRef} {s : State} {t : State} (h : execGrammarLoad h grammar vocab table s = .next t) : t.ctl = s.ctl := by
  cases h
  simp

@[simp] theorem loadGrammar_ctl (s : State) (seq : Nat) (tenant : Nat) (g : Nat) (v : Nat) (o : ObjRef) (bs : List Byte) : (loadGrammar s seq tenant g v o bs).ctl = s.ctl := by
  unfold loadGrammar
  repeat' first
    | rfl
    | assumption
    | (simp; done)
    | intro _
    | dsimp only
    | split
    | refine (foldl_ctl ?_ _).trans ?_
    | refine (foldl_ctl1 ?_ _).trans ?_
    | refine (foldl_ctl2 ?_ _).trans ?_
    | (have hh := takeTable_ctl (by assumption); simp at hh; simp [hh]; done)
    | (simp; refine pair_ctl2 (by assumption) ?_)
    | (simp; refine pair_ctl1 (by assumption) ?_)
    | simp

theorem execMashLoad_ctl {h : Hdr} {activateAt : Nat} {table : ObjRef} {s : State} {t : State} (h : execMashLoad h activateAt table s = .next t) : t.ctl = s.ctl := by
  cases h
  simp

@[simp] theorem loadMash_ctl (s : State) (seq : Nat) (activateAt : Nat) (o : ObjRef) (bs : List Byte) : (loadMash s seq activateAt o bs).ctl = s.ctl := by
  unfold loadMash
  repeat' first
    | rfl
    | assumption
    | (simp; done)
    | intro _
    | dsimp only
    | split
    | refine (foldl_ctl ?_ _).trans ?_
    | refine (foldl_ctl1 ?_ _).trans ?_
    | refine (foldl_ctl2 ?_ _).trans ?_

end Sys2Proof.Machine
end

