-- ==== Sys2Proof/Laws/FrameCellarEvents.lean ====
section
/-! SUPPORT. What the functions of Machine/CellarEvents.lean leave alone: the control part of a state. -/
namespace Sys2Proof.Machine
set_option linter.unusedTactic false
set_option linter.unreachableTactic false

theorem execDwellExpiry_ctl {session : Nat} {s : State} {t : State} (h : execDwellExpiry session s = .next t) : t.ctl = s.ctl := by
  cases h
  split <;> simp

theorem execParkComplete_ctl {session : Nat} {s : State} {t : State} (h : execParkComplete session s = .next t) : t.ctl = s.ctl := by
  cases h
  split <;> simp

theorem execReviveComplete_ctl {session : Nat} {s : State} {t : State} (h : execReviveComplete session s = .next t) : t.ctl = s.ctl := by
  cases h
  split <;> simp

theorem execReviveBuddyTimeout_ctl {session : Nat} {s : State} {t : State} (h : execReviveBuddyTimeout session s = .next t) : t.ctl = s.ctl := by
  cases h
  split <;> simp

@[simp] theorem finishCondense_ctl (s : State) (idx : Nat) : (finishCondense s idx).ctl = s.ctl := by
  unfold finishCondense
  repeat' first
    | rfl
    | assumption
    | (simp; done)
    | intro _
    | dsimp only
    | split
    | refine (foldl_ctl ?_ _).trans ?_
    | refine (foldl_ctl1 ?_ _).trans ?_
    | refine (foldl_ctl2 ?_ _).trans ?_
    | (have hh := runsFor_ctl (by assumption); simp at hh; simp [hh]; done)
    | (simp; refine pair_ctl2 (by assumption) ?_)
    | (simp; refine pair_ctl1 (by assumption) ?_)
    | simp

theorem execCondenseCommit_ctl {session : Nat} {s : State} {t : State} (h : execCondenseCommit session s = .next t) : t.ctl = s.ctl := by
  cases h
  split <;> simp

@[simp] theorem secondEnds_ctl (s : State) : (secondEnds s).ctl = s.ctl := by
  simp [secondEnds]

@[simp] theorem expireSession_ctl (s : State) (idx : Nat) : (expireSession s idx).ctl = s.ctl := by
  simp [expireSession]

theorem execCaskExpiry_ctl {s : State} {t : State} (h : execCaskExpiry s = .next t) : t.ctl = s.ctl := by
  cases h
  simp

theorem execCellarSecSave_ctl {s : State} {t : State} (h : execCellarSecSave s = .next t) : t.ctl = s.ctl := by
  cases h
  simp

theorem execHoldExpiry_ctl {index : Nat} {s : State} {t : State} (h : execHoldExpiry index s = .next t) : t.ctl = s.ctl := by
  cases h
  split <;> simp

@[simp] theorem endAppendWrong_ctl (s : State) (idx : Nat) (j : Job) : (endAppendWrong s idx j).ctl = s.ctl := by
  unfold endAppendWrong
  split <;> simp

@[simp] theorem dropCondense_ctl (s : State) (idx : Nat) (seq : Nat) (st : Nat) : (dropCondense s idx seq st).ctl = s.ctl := by
  simp [dropCondense]

@[simp] theorem refuseIncoming_ctl (s : State) (handle : Nat) (st : Nat) : (refuseIncoming s handle st).ctl = s.ctl := by
  unfold refuseIncoming
  repeat' first
    | rfl
    | assumption
    | (simp; done)
    | intro _
    | dsimp only
    | split
    | refine (foldl_ctl ?_ _).trans ?_
    | refine (foldl_ctl1 ?_ _).trans ?_
    | refine (foldl_ctl2 ?_ _).trans ?_

@[simp] theorem failReservation_ctl (s : State) (r : Resv) : (failReservation s r).ctl = s.ctl := by
  unfold failReservation
  repeat' first
    | rfl
    | assumption
    | (simp; done)
    | intro _
    | dsimp only
    | split
    | refine (foldl_ctl ?_ _).trans ?_
    | refine (foldl_ctl1 ?_ _).trans ?_
    | refine (foldl_ctl2 ?_ _).trans ?_

theorem execReserveTimeout_ctl {rid : Nat} {s : State} {t : State} (h : execReserveTimeout rid s = .next t) : t.ctl = s.ctl := by
  cases h
  split <;> simp

theorem execNoGroupTimeout_ctl {item : Nat} {s : State} {t : State} (h : execNoGroupTimeout item s = .next t) : t.ctl = s.ctl := by
  cases h
  repeat' first
    | with_reducible rfl
    | assumption
    | (simp; done)
    | intro _
    | dsimp only
    | split
    | simp

@[simp] theorem reclaimNode_ctl (s : State) (n : Node) : (reclaimNode s n).ctl = s.ctl := by
  simp [reclaimNode]

@[simp] theorem reclaim_ctl (s : State) (d : Nat) : (reclaim s d).ctl = s.ctl := by
  unfold reclaim
  repeat' first
    | rfl
    | assumption
    | (simp; done)
    | intro _
    | dsimp only
    | split
    | refine (foldl_ctl ?_ _).trans ?_
    | refine (foldl_ctl1 ?_ _).trans ?_
    | refine (foldl_ctl2 ?_ _).trans ?_

theorem execPressureReclaim_ctl {die : Nat} {s : State} {t : State} (h : execPressureReclaim die s = .next t) : t.ctl = s.ctl := by
  cases h
  simp

end Sys2Proof.Machine
end

