-- ==== Sys2Proof/Laws/FrameImages.lean ====
section
/-! SUPPORT. What the functions of Machine/Images.lean leave alone: the control part of a state. -/
namespace Sys2Proof.Machine
set_option linter.unusedTactic false
set_option linter.unreachableTactic false

@[simp] theorem putArrived_ctl (s : State) (x : Sess) : (putArrived s x).ctl = s.ctl := rfl

@[simp] theorem takeExtract_ctl (s : State) (idx : Nat) : (takeExtract s idx).ctl = s.ctl := rfl

@[simp] theorem epochMark_ctl (s : State) (handle : Nat) (was : Nat) (now : Nat) : (epochMark s handle was now).ctl = s.ctl := by
  simp [epochMark]

@[simp] theorem modOut_ctl (s : State) (handle : Nat) (f : MigOut → MigOut) : (modOut s handle f).ctl = s.ctl := rfl

@[simp] theorem dropOut_ctl (s : State) (handle : Nat) : (dropOut s handle).ctl = s.ctl := rfl

@[simp] theorem modIn_ctl (s : State) (handle : Nat) (f : MigIn → MigIn) : (modIn s handle f).ctl = s.ctl := rfl

@[simp] theorem dropIn_ctl (s : State) (handle : Nat) : (dropIn s handle).ctl = s.ctl := rfl

@[simp] theorem finishSettle_ctl (s : State) (idx : Nat) : (finishSettle s idx).ctl = s.ctl := by
  unfold finishSettle
  repeat' first
    | rfl
    | assumption
    | (simp; done)
    | intro _
    | dsimp only
    | split
    | refine (foldl_ctl ?_ _).trans ?_
    | refine (foldl_ctl1 ?_ _).trans ?_
    | refine (foldl_ctl2 ?_ _).trans ?_

@[simp] theorem settle_ctl (s : State) (idx : Nat) (st : Nat) : (settle s idx st).ctl = s.ctl := by
  unfold settle
  repeat' first
    | rfl
    | assumption
    | (simp; done)
    | intro _
    | dsimp only
    | split
    | refine (foldl_ctl ?_ _).trans ?_
    | refine (foldl_ctl1 ?_ _).trans ?_
    | refine (foldl_ctl2 ?_ _).trans ?_

@[simp] theorem release_ctl (s : State) (idx : Nat) (owner : Nat) : (release s idx owner).ctl = s.ctl := by
  unfold release
  split <;> simp

@[simp] theorem finishCommit_ctl (s : State) (idx : Nat) : (finishCommit s idx).ctl = s.ctl := by
  unfold finishCommit
  repeat' first
    | rfl
    | assumption
    | (simp; done)
    | intro _
    | dsimp only
    | split
    | refine (foldl_ctl ?_ _).trans ?_
    | refine (foldl_ctl1 ?_ _).trans ?_
    | refine (foldl_ctl2 ?_ _).trans ?_

@[simp] theorem afterAck_ctl (s : State) (idx : Nat) : (afterAck s idx).ctl = s.ctl := by
  simp [afterAck]

@[simp] theorem discardIncoming_ctl (s : State) (handle : Nat) : (discardIncoming s handle).ctl = s.ctl := by
  unfold discardIncoming
  repeat' first
    | rfl
    | assumption
    | (simp; done)
    | intro _
    | dsimp only
    | split
    | refine (foldl_ctl ?_ _).trans ?_
    | refine (foldl_ctl1 ?_ _).trans ?_
    | refine (foldl_ctl2 ?_ _).trans ?_

@[simp] theorem tryAccept_ctl (s : State) (j : Job) : (tryAccept s j).ctl = s.ctl := by
  unfold tryAccept
  split <;> simp

@[simp] theorem matched_ctl (s : State) (handle : Nat) : (matched s handle).ctl = s.ctl := by
  unfold matched
  repeat' first
    | rfl
    | assumption
    | (simp; done)
    | intro _
    | dsimp only
    | split
    | refine (foldl_ctl ?_ _).trans ?_
    | refine (foldl_ctl1 ?_ _).trans ?_
    | refine (foldl_ctl2 ?_ _).trans ?_

@[simp] theorem migWrite_ctl (s : State) (handle : Nat) : (migWrite s handle).ctl = s.ctl := by
  unfold migWrite
  repeat' first
    | rfl
    | assumption
    | (simp; done)
    | intro _
    | dsimp only
    | split
    | refine (foldl_ctl ?_ _).trans ?_
    | refine (foldl_ctl1 ?_ _).trans ?_
    | refine (foldl_ctl2 ?_ _).trans ?_
    | (have hh := flashWrite_ctl (by assumption); simp at hh; simp [hh]; done)
    | (simp; refine pair_ctl2 (by assumption) ?_)
    | (simp; refine pair_ctl1 (by assumption) ?_)

@[simp] theorem migWritten_ctl (s : State) (idx : Nat) (addr : Nat) : (migWritten s idx addr).ctl = s.ctl := by
  unfold migWritten
  split <;> simp

@[simp] theorem installIncoming_ctl (s : State) (m : MigIn) (i : SessImage) : (installIncoming s m i).ctl = s.ctl := by
  unfold installIncoming
  split <;> simp

end Sys2Proof.Machine
end

