-- ==== Sys2Proof/Laws/FrameMigration.lean ====
section
/-! SUPPORT. What the functions of Machine/Migration.lean leave alone: the control part of a state. -/
namespace Sys2Proof.Machine
set_option linter.unusedTactic false
set_option linter.unreachableTactic false

theorem execSessionMigrateOffer_ctl {h : Hdr} {destPeer : Nat} {s : State} {t : State} (h : execSessionMigrateOffer h destPeer s = .next t) : t.ctl = s.ctl := by
  cases h
  simp

theorem execSessionMigrateAccept_ctl {h : Hdr} {srcPeer : Nat} {epoch : Nat} {digest : Nat} {s : State} {t : State} (h : execSessionMigrateAccept h srcPeer epoch digest s = .next t) : t.ctl = s.ctl := by
  cases h
  repeat' first
    | rfl
    | assumption
    | (simp; done)
    | intro _
    | refine asyncCmd_ctl _ _ _ _ _ _ _ _ ?_
    | dsimp only
    | split
    | refine (foldl_ctl ?_ _).trans ?_
    | refine (foldl_ctl1 ?_ _).trans ?_
    | refine (foldl_ctl2 ?_ _).trans ?_
    | simp

@[simp] theorem staleEpoch_ctl (s : State) : (staleEpoch s).ctl = s.ctl := rfl

theorem execMigrateOfferMsg_ctl {src : Nat} {image : SessImage} {s : State} {t : State} (h : execMigrateOfferMsg src image s = .next t) : t.ctl = s.ctl := by
  cases h
  repeat' first
    | rfl
    | assumption
    | (simp; done)
    | intro _
    | dsimp only
    | split
    | refine (foldl_ctl ?_ _).trans ?_
    | refine (foldl_ctl1 ?_ _).trans ?_
    | refine (foldl_ctl2 ?_ _).trans ?_

@[simp] theorem sendTransfer_ctl (s : State) (x : Sess) (dest : Nat) : (sendTransfer s x dest).ctl = s.ctl := by
  simp [sendTransfer]

theorem execOfferReply_ctl {src : Nat} {session : Nat} {status : Nat} {s : State} {t : State} (h : execOfferReply src session status s = .next t) : t.ctl = s.ctl := by
  cases h
  split <;> simp

theorem execMigrateEnd_ctl {src : Nat} {session : Nat} {digest : Nat} {image : SessImage} {s : State} {t : State} (h : execMigrateEnd src session digest image s = .next t) : t.ctl = s.ctl := by
  cases h
  split <;> simp

theorem execMigrateMatchReply_ctl {src : Nat} {session : Nat} {_digest : Nat} {isMatch : Bool} {s : State} {t : State} (h : execMigrateMatchReply src session _digest isMatch s = .next t) : t.ctl = s.ctl := by
  cases h
  split <;> simp

theorem execMigrateCommitMsg_ctl {src : Nat} {session : Nat} {epoch : Nat} {s : State} {t : State} (h : execMigrateCommitMsg src session epoch s = .next t) : t.ctl = s.ctl := by
  cases h
  split <;> simp

theorem execMigrateReleased_ctl {src : Nat} {session : Nat} {s : State} {t : State} (h : execMigrateReleased src session s = .next t) : t.ctl = s.ctl := by
  cases h
  split <;> simp

theorem execMigrateAbort_ctl {src : Nat} {session : Nat} {epoch : Nat} {s : State} {t : State} (h : execMigrateAbort src session epoch s = .next t) : t.ctl = s.ctl := by
  cases h
  split <;> simp

@[simp] theorem askBung_ctl (s : State) (x : Sess) (j : Job) (peer : Nat) : (askBung s x j peer).ctl = s.ctl := by
  unfold askBung
  repeat' first
    | with_reducible rfl
    | assumption
    | (simp; done)
    | intro _
    | dsimp only
    | split
    | simp

@[simp] theorem nextBung_ctl (x0 : Nat) (s : State) (x2 : Nat) : (nextBung x0 s x2).ctl = s.ctl := by
  induction x0 generalizing s x2 with
  | zero => rfl
  | succ n ih =>
    unfold nextBung
    repeat' first
      | with_reducible rfl
      | assumption
      | (simp [ih]; done)
      | intro _
      | dsimp only
      | split
      | simp [ih]

theorem execBungQuery_ctl {h : Hdr} {peer : Nat} {s : State} {t : State} (h : execBungQuery h peer s = .next t) : t.ctl = s.ctl := by
  cases h
  simp

theorem execBungAsk_ctl {src : Nat} {session : Nat} {epoch : Nat} {s : State} {t : State} (h : execBungAsk src session epoch s = .next t) : t.ctl = s.ctl := by
  cases h
  repeat' first
    | rfl
    | assumption
    | (simp; done)
    | intro _
    | dsimp only
    | split
    | refine (foldl_ctl ?_ _).trans ?_
    | refine (foldl_ctl1 ?_ _).trans ?_
    | refine (foldl_ctl2 ?_ _).trans ?_

@[simp] theorem endBung_ctl (s : State) (b : BungOpen) : (endBung s b).ctl = s.ctl := by
  unfold endBung
  repeat' first
    | rfl
    | assumption
    | (simp; done)
    | intro _
    | dsimp only
    | split
    | refine (foldl_ctl ?_ _).trans ?_
    | refine (foldl_ctl1 ?_ _).trans ?_
    | refine (foldl_ctl2 ?_ _).trans ?_

theorem execBungAnswer_ctl {src : Nat} {session : Nat} {committed : Bool} {owner : Nat} {s : State} {t : State} (h : execBungAnswer src session committed owner s = .next t) : t.ctl = s.ctl := by
  cases h
  repeat' first
    | with_reducible rfl
    | assumption
    | (simp; done)
    | intro _
    | dsimp only
    | split
    | simp

theorem execBungAskTimeout_ctl {session : Nat} {s : State} {t : State} (h : execBungAskTimeout session s = .next t) : t.ctl = s.ctl := by
  cases h
  split <;> simp

theorem execAbortMarkExpiry_ctl {session : Nat} {epoch : Nat} {s : State} {t : State} (h : execAbortMarkExpiry session epoch s = .next t) : t.ctl = s.ctl := by
  cases h
  rfl

end Sys2Proof.Machine
end

