-- ==== Sys2Proof/Laws/FrameRacking.lean ====
section
/-! SUPPORT. What the functions of Machine/Racking.lean leave alone: the control part of a state. -/
namespace Sys2Proof.Machine
set_option linter.unusedTactic false
set_option linter.unreachableTactic false

@[simp] theorem modCopy_ctl (s : State) (handle : Nat) (f : RCopy → RCopy) : (modCopy s handle f).ctl = s.ctl := rfl

@[simp] theorem freeCopyRuns_ctl (s : State) (c : RCopy) : (freeCopyRuns s c).ctl = s.ctl := by
  unfold freeCopyRuns
  repeat' first
    | rfl
    | assumption
    | (simp; done)
    | intro _
    | dsimp only
    | split
    | refine (foldl_ctl ?_ _).trans ?_
    | refine (foldl_ctl1 ?_ _).trans ?_
    | refine (foldl_ctl2 ?_ _).trans ?_

@[simp] theorem dropCopy_ctl (s : State) (handle : Nat) : (dropCopy s handle).ctl = s.ctl := by
  unfold dropCopy
  split <;> simp

theorem growCopy_ctl {s : State} {have_ : List (Nat × Run)} {i : SessImage} {t} (h : growCopy s have_ i = some t) : t.2.ctl = s.ctl := by
  unfold growCopy at h
  repeat' first
    | contradiction
    | (cases h; done)
    | (cases h; simp; done)
    | (have hh := takeRuns_ctl (by assumption); simp at hh; cases h; simp [hh]; done)
    | split at h
    | dsimp only at h

theorem spillOldest_ctl {s : State} {t : State} (h : spillOldest s = some t) : t.ctl = s.ctl := by
  unfold spillOldest at h
  split at h
  · cases h
  · dsimp only at h
    split at h
    · rw [Option.map_eq_some_iff] at h
      obtain ⟨p, hp, rfl⟩ := h
      rw [noteClass_ctl]
      exact flashWrite_ctl hp
    · cases h

@[simp] theorem spillWhileOver_ctl (s : State) : (spillWhileOver s).ctl = s.ctl := by
  unfold spillWhileOver
  split
  · exact getD_ctl (fun _ h => spillOldest_ctl h) rfl
  · rfl

@[simp] theorem parkCopy_ctl (s : State) (handle : Nat) : (parkCopy s handle).ctl = s.ctl := by
  unfold parkCopy
  repeat' first
    | rfl
    | assumption
    | (simp; done)
    | intro _
    | dsimp only
    | split
    | refine (foldl_ctl ?_ _).trans ?_
    | refine (foldl_ctl1 ?_ _).trans ?_
    | refine (foldl_ctl2 ?_ _).trans ?_
    | (have hh := flashWrite_ctl (by assumption); simp at hh; simp [hh]; done)
    | (simp; refine pair_ctl2 (by assumption) ?_)
    | (simp; refine pair_ctl1 (by assumption) ?_)

@[simp] theorem copyWritten_ctl (s : State) (src : Nat) (handle : Nat) (q : Nat) : (copyWritten s src handle q).ctl = s.ctl := by
  unfold copyWritten
  repeat' first
    | with_reducible rfl
    | assumption
    | (simp; done)
    | intro _
    | dsimp only
    | split
    | (have hh := growCopy_ctl (by assumption); (try simp at hh); simp [hh]; done)
    | (simp; refine pair_ctl2 (by assumption) ?_)
    | (simp; refine pair_ctl1 (by assumption) ?_)
    | simp

@[simp] theorem condenseCopy_ctl (s : State) (r : RackRec) (runs : List (Nat × Run)) : (condenseCopy s r runs).1.ctl = s.ctl := by
  unfold condenseCopy
  repeat' first
    | with_reducible rfl
    | assumption
    | (simp; done)
    | intro _
    | dsimp only
    | split
    | with_reducible refine (foldl_ctl ?_ _).trans ?_
    | with_reducible refine (foldl_ctl1 ?_ _).trans ?_
    | with_reducible refine (foldl_ctl2 ?_ _).trans ?_
    | (simp; refine pair_ctl2 (by assumption) ?_)
    | (simp; refine pair_ctl1 (by assumption) ?_)
    | simp

@[simp] theorem keepRecord_ctl (s : State) (old : Option RCopy) (src : Nat) (r : RackRec) (runs : List (Nat × Run)) : (keepRecord s old src r runs).ctl = s.ctl := by
  simp [keepRecord]

@[simp] theorem writeGrown_ctl (s : State) (old : Option RCopy) (src : Nat) (r : RackRec) (runs : List (Nat × Run)) : (writeGrown s old src r runs).ctl = s.ctl := by
  cases hg : growCopy s runs r.image with
  | none =>
    rw [writeGrown.eq_1, hg]
    exact (sendMsg_ctl ..).trans (getD_ctl (fun _ h => spillOldest_ctl h) rfl)
  | some q =>
    rw [writeGrown.eq_1, hg]
    exact (keepRecord_ctl ..).trans (growCopy_ctl hg)

@[simp] theorem writeRecord_ctl (s : State) (src : Nat) (r : RackRec) : (writeRecord s src r).ctl = s.ctl := by
  unfold writeRecord
  split
  · simp
  · exact (writeGrown_ctl ..).trans (condenseCopy_ctl ..)

theorem execRackRecord_ctl {src : Nat} {r : RackRec} {s : State} {t : State} (h : execRackRecord src r s = .next t) : t.ctl = s.ctl := by
  cases h
  repeat' first
    | rfl
    | assumption
    | (simp; done)
    | intro _
    | dsimp only
    | split
    | refine (foldl_ctl ?_ _).trans ?_
    | refine (foldl_ctl1 ?_ _).trans ?_
    | refine (foldl_ctl2 ?_ _).trans ?_

theorem execRackAck_ctl {peer : Nat} {session : Nat} {rackSeq : Nat} {s : State} {t : State} (h : execRackAck peer session rackSeq s = .next t) : t.ctl = s.ctl := by
  cases h
  split <;> simp

@[simp] theorem silence_ctl (s : State) (handle : Nat) : (silence s handle).ctl = s.ctl := rfl

@[simp] theorem fenceSession_ctl (s : State) (idx : Nat) : (fenceSession s idx).ctl = s.ctl := by
  unfold fenceSession
  split <;> simp

@[simp] theorem markLost_ctl (s : State) (peer : Nat) (reason : Nat) : (markLost s peer reason).ctl = s.ctl := by
  simp [markLost]

theorem execFencedReceived_ctl {peer : Nat} {slice : Nat} {s : State} {t : State} (h : execFencedReceived peer slice s = .next t) : t.ctl = s.ctl := by
  cases h
  simp

@[simp] theorem servePull_ctl (s : State) (spare : Nat) (imgs : List SessImage) : (servePull s spare imgs).ctl = s.ctl := by
  unfold servePull
  split <;> simp

theorem execAdoptFreezeRequest_ctl {spare : Nat} {failed : Nat} {s : State} {t : State} (h : execAdoptFreezeRequest spare failed s = .next t) : t.ctl = s.ctl := by
  cases h
  simp

theorem execHandover_ctl {src : Nat} {sessions : List Nat} {s : State} {t : State} (h : execHandover src sessions s = .next t) : t.ctl = s.ctl := by
  cases h
  simp

theorem execSpareAdopt_ctl {h : Hdr} {failedPeer : Nat} {buddyPeer : Nat} {s : State} {t : State} (h : execSpareAdopt h failedPeer buddyPeer s = .next t) : t.ctl = s.ctl := by
  cases h
  simp

@[simp] theorem warmNow_ctl (s : State) (m : Nat) : (warmNow s m).ctl = s.ctl := by
  unfold warmNow
  repeat' first
    | rfl
    | assumption
    | (simp; done)
    | intro _
    | dsimp only
    | split
    | refine (foldl_ctl ?_ _).trans ?_
    | refine (foldl_ctl1 ?_ _).trans ?_
    | refine (foldl_ctl2 ?_ _).trans ?_
    | (have hh := beginWarm_ctl (by assumption); (try simp at hh); simp [hh]; done)
    | simp

@[simp] theorem resumeGenerate_ctl (s : State) (idx : Nat) (i : SessImage) : (resumeGenerate s idx i).ctl = s.ctl := by
  unfold resumeGenerate
  split <;> simp

@[simp] theorem lostMarker_ctl (s : State) (i : SessImage) : (lostMarker s i).ctl = s.ctl := rfl

@[simp] theorem adoptWrite_ctl (s : State) (idx : Nat) : (adoptWrite s idx).ctl = s.ctl := by
  unfold adoptWrite
  repeat' first
    | rfl
    | assumption
    | (simp; done)
    | intro _
    | dsimp only
    | split
    | refine (foldl_ctl ?_ _).trans ?_
    | refine (foldl_ctl1 ?_ _).trans ?_
    | refine (foldl_ctl2 ?_ _).trans ?_
    | (have hh := flashWrite_ctl (by assumption); simp at hh; simp [hh]; done)
    | (simp; refine pair_ctl2 (by assumption) ?_)
    | (simp; refine pair_ctl1 (by assumption) ?_)

@[simp] theorem adoptInto_ctl (s : State) (buddy : Nat) (i : SessImage) (die : Nat) (st : Nat) (e : Nat) (offered : Bool) (runs : List Run) : (adoptInto s buddy i die st e offered runs).ctl = s.ctl := by
  simp [adoptInto]

@[simp] theorem adoptOne_ctl (b : Nat) (a : State × AdoptCount) (img : SessImage) : (adoptOne b a img).1.ctl = a.1.ctl := by
  obtain ⟨s, n⟩ := a
  unfold adoptOne
  dsimp only
  repeat' first
    | with_reducible rfl
    | (simp; done)
    | (have hh := takeRuns_ctl (by assumption); (try simp at hh); simp [hh]; done)
    | split

@[simp] theorem endAdoption_ctl (s : State) (a : Adoption) (n : AdoptCount) : (endAdoption s a n).ctl = s.ctl := by
  simp [endAdoption]

theorem execAdoptPullDone_ctl {seq : Nat} {images : List SessImage} {s : State} {t : State} (h : execAdoptPullDone seq images s = .next t) : t.ctl = s.ctl := by
  cases h
  split
  · rfl
  · dsimp only
    rw [endAdoption_ctl]
    exact foldl_ctl1 (fun a b => adoptOne_ctl _ a b) _

end Sys2Proof.Machine
end

