-- ==== Sys2Proof/Laws/FrameLauter.lean ====
section
/-! SUPPORT. What the functions of Machine/Lauter.lean leave alone: the control part of a state. -/
namespace Sys2Proof.Machine
set_option linter.unusedTactic false
set_option linter.unreachableTactic false

@[simp] theorem modCorpus_ctl (s : State) (c : Nat) (f : Corpus → Corpus) : (modCorpus s c f).ctl = s.ctl := rfl

@[simp] theorem modShard_ctl (s : State) (c : Nat) (h : Nat) (f : Shard → Shard) : (modShard s c h f).ctl = s.ctl := rfl

@[simp] theorem scanHold_ctl (s : State) (sl : Nat) (rescore : Bool) : (scanHold s sl rescore).ctl = s.ctl := by
  simp [scanHold]

@[simp] theorem chargeScan_ctl (s : State) (sl : Nat) (n : Nat) (cls : Option Nat) : (chargeScan s sl n cls).ctl = s.ctl := by
  unfold chargeScan
  split <;> simp

@[simp] theorem logVector_ctl (s : State) (c : Nat) (h : Nat) (v : List H16) : (logVector s c h v).ctl = s.ctl := by
  simp [logVector]

@[simp] theorem runSearch_ctl (s : State) (r : SearchReq) (frm : Nat) (cls : Option Nat) : (runSearch s r frm cls).1.ctl = s.ctl := by
  unfold runSearch
  repeat' first
    | with_reducible rfl
    | assumption
    | (simp; done)
    | intro _
    | with_reducible refine asyncCmd_ctl _ _ _ _ _ _ _ _ ?_
    | with_reducible refine syncCmd_ctl _ _ _ _ _ _ ?_
    | with_reducible refine lateSync_ctl _ _ _ _ _ _ _ _ ?_
    | dsimp only
    | split
    | with_reducible refine (foldl_ctl ?_ _).trans ?_
    | with_reducible refine (foldl_ctl1 ?_ _).trans ?_
    | with_reducible refine (foldl_ctl2 ?_ _).trans ?_
    | (have hh := takeRun_ctl (by assumption); (try simp at hh); simp [hh]; done)
    | (have hh := takeRuns_ctl (by assumption); (try simp at hh); simp [hh]; done)
    | (have hh := runFor_ctl (by assumption); (try simp at hh); simp [hh]; done)
    | (have hh := runsFor_ctl (by assumption); (try simp at hh); simp [hh]; done)
    | (have hh := flashWrite_ctl (by assumption); (try simp at hh); simp [hh]; done)
    | (have hh := takeTable_ctl (by assumption); (try simp at hh); simp [hh]; done)
    | (have hh := growCopy_ctl (by assumption); (try simp at hh); simp [hh]; done)
    | (have hh := configNow_ctl (by assumption); (try simp at hh); simp [hh]; done)
    | (have hh := grantRuns_ctl (by assumption); (try simp at hh); simp [hh]; done)
    | (have hh := beginWarm_ctl (by assumption); (try simp at hh); simp [hh]; done)
    | (have hh := spillOldest_ctl (by assumption); (try simp at hh); simp [hh]; done)
    | (have hh := shardRuns_ctl (by assumption); (try simp at hh); simp [hh]; done)
    | (have hh := createNow_ctl (by assumption); (try simp at hh); simp [hh]; done)
    | (have hh := writeNow_ctl (by assumption); (try simp at hh); simp [hh]; done)
    | (have hh := restoreTables_ctl (by assumption); (try simp at hh); simp [hh]; done)
    | (have hh := applyTables_ctl (by assumption); (try simp at hh); simp [hh]; done)
    | (have hh := restoreNodes_ctl (by assumption); (try simp at hh); simp [hh]; done)
    | (have hh := applyShards_ctl (by assumption); (try simp at hh); simp [hh]; done)
    | (have hh := restoreAll_ctl (by assumption); (try simp at hh); simp [hh]; done)
    | (have hh := restoreTable_ctl (by assumption); (try simp at hh); simp [hh]; done)
    | (have hh := restoreShard_ctl (by assumption); (try simp at hh); simp [hh]; done)
    | (have hh := applyShard_ctl (by assumption); (try simp at hh); simp [hh]; done)
    | (have hh := restoreCask_ctl (by assumption); (try simp at hh); simp [hh]; done)
    | (have hh := restoreModel_ctl (by assumption); (try simp at hh); simp [hh]; done)
    | (have hh := restoreObject_ctl (by assumption); (try simp at hh); simp [hh]; done)
    | (have hh := restoreSess_ctl (by assumption); (try simp at hh); simp [hh]; done)
    | (have hh := ownCondense_ctl (by assumption); (try simp at hh); simp [hh]; done)
    | (have hh := runsForAll_ctl (by assumption); (try simp at hh); simp [hh]; done)
    | (simp; refine pair_ctl2 (by assumption) ?_)
    | (simp; refine pair_ctl1 (by assumption) ?_)
    | simp

@[simp] theorem linkNode_ctl (s : State) (cid : Nat) (h : Nat) (x : Nat) : (linkNode s cid h x).ctl = s.ctl := by
  unfold linkNode
  split <;> simp

@[simp] theorem degradeCheck_ctl (s : State) (cid : Nat) (h : Nat) : (degradeCheck s cid h).ctl = s.ctl := by
  unfold degradeCheck
  split <;> simp

@[simp] theorem reapIds_ctl (s : State) : (reapIds s).ctl = s.ctl := rfl

@[simp] theorem repairShard_ctl (s : State) (cid : Nat) (h : Nat) : (repairShard s cid h).ctl = s.ctl := by
  unfold repairShard
  split <;> simp

end Sys2Proof.Machine
end

