-- ==== Sys2Proof/Laws/FrameRetrieval.lean ====
section
/-! SUPPORT. What the functions of Machine/Retrieval.lean leave alone: the control part of a state. -/
namespace Sys2Proof.Machine
set_option linter.unusedTactic false
set_option linter.unreachableTactic false

theorem shardRuns_ctl {s : State} {tenant : Nat} {sl : Nat} {bytes : Nat} {t} (h : shardRuns s tenant sl bytes = some t) : t.2.ctl = s.ctl := by
  unfold shardRuns at h
  refine foldl_opt2 (s := s) ?_ ?_ _ h
  · intro acc d ha t ht
    split at ht
    · cases ht
    · split at ht
      · rename_i h3
        cases ht
        exact (takeRuns_ctl h3).trans (ha _ rfl)
      · cases ht
  · intro t ht; cases ht; rfl

@[simp] theorem createShard_ctl (s : State) (tenant : Nat) (cid : Nat) (h : Nat) (maxItems : Nat) (cfg : CorpusCfg) : (createShard s tenant cid h maxItems cfg).1.ctl = s.ctl := by
  unfold createShard
  dsimp only
  split
  · rfl
  · split
    · rfl
    · split
      · rfl
      · rename_i hh
        have := shardRuns_ctl hh
        simpa using this

theorem configNow_ctl {s : State} {h : Hdr} {cid : Nat} {shard : Nat} {r : List Byte} {t} (h : configNow s h cid shard r = some t) : t.1.ctl = s.ctl := by
  unfold configNow at h
  repeat' first
    | contradiction
    | (cases h; done)
    | (cases h; simp; done)
    | split at h
    | dsimp only at h

@[simp] theorem finishConfig_ctl (s : State) (seq : Nat) (bs : List Byte) : (finishConfig s seq bs).ctl = s.ctl := by
  unfold finishConfig
  repeat' first
    | rfl
    | assumption
    | (simp; done)
    | intro _
    | dsimp only
    | split
    | refine (foldl_ctl ?_ _).trans ?_
    | refine (foldl_ctl1 ?_ _).trans ?_
    | refine (foldl_ctl2 ?_ _).trans ?_
    | (have hh := configNow_ctl (by assumption); simp at hh; simp [hh]; done)
    | (simp; refine pair_ctl2 (by assumption) ?_)
    | (simp; refine pair_ctl1 (by assumption) ?_)
    | simp

@[simp] theorem dropShard_ctl (s : State) (cid : Nat) (h : Nat) : (dropShard s cid h).ctl = s.ctl := by
  unfold dropShard
  repeat' first
    | rfl
    | assumption
    | (simp; done)
    | intro _
    | dsimp only
    | split
    | refine (foldl_ctl ?_ _).trans ?_
    | refine (foldl_ctl1 ?_ _).trans ?_
    | refine (foldl_ctl2 ?_ _).trans ?_

@[simp] theorem dropIfEmpty_ctl (s : State) (cid : Nat) : (dropIfEmpty s cid).ctl = s.ctl := by
  unfold dropIfEmpty
  split <;> simp

@[simp] theorem dropRecord_ctl (s : State) (h : Hdr) (cid : Nat) (shard : Nat) : (dropRecord s h cid shard).1.ctl = s.ctl := by
  unfold dropRecord
  split <;> simp

@[simp] theorem insertItem_ctl (s : State) (cid : Nat) (h : Nat) (pub : Nat) (node : Nat) (r : List Byte) : (insertItem s cid h pub node r).ctl = s.ctl := by
  unfold insertItem
  split <;> simp

@[simp] theorem encodeHold_ctl (s : State) (sl : Nat) : (encodeHold s sl).ctl = s.ctl := by
  simp [encodeHold]

@[simp] theorem insertEncode_ctl (x0 : Nat) (s : State) (x2 : Nat) : (insertEncode x0 s x2).ctl = s.ctl := by
  induction x0 generalizing s x2 with
  | zero => rfl
  | succ n ih =>
    unfold insertEncode
    repeat' first
      | with_reducible rfl
      | assumption
      | (simp [ih]; done)
      | intro _
      | with_reducible refine asyncCmd_ctl _ _ _ _ _ _ _ _ ?_
      | with_reducible refine syncCmd_ctl _ _ _ _ _ _ ?_
      | with_reducible refine lateSync_ctl _ _ _ _ _ _ _ _ ?_
      | dsimp only
      | split
      | with_reducible refine (foldl_ctl ?_ _).trans ?_
      | with_reducible refine (foldl_ctl1 ?_ _).trans ?_
      | with_reducible refine (foldl_ctl2 ?_ _).trans ?_
      | (have hh := takeRun_ctl (by assumption); (try simp at hh); simp [hh]; done)
      | (have hh := takeRuns_ctl (by assumption); (try simp at hh); simp [hh]; done)
      | (have hh := runFor_ctl (by assumption); (try simp at hh); simp [hh]; done)
      | (have hh := runsFor_ctl (by assumption); (try simp at hh); simp [hh]; done)
      | (have hh := flashWrite_ctl (by assumption); (try simp at hh); simp [hh]; done)
      | (have hh := takeTable_ctl (by assumption); (try simp at hh); simp [hh]; done)
      | (have hh := growCopy_ctl (by assumption); (try simp at hh); simp [hh]; done)
      | (have hh := configNow_ctl (by assumption); (try simp at hh); simp [hh]; done)
      | (have hh := grantRuns_ctl (by assumption); (try simp at hh); simp [hh]; done)
      | (have hh := beginWarm_ctl (by assumption); (try simp at hh); simp [hh]; done)
      | (have hh := spillOldest_ctl (by assumption); (try simp at hh); simp [hh]; done)
      | (have hh := shardRuns_ctl (by assumption); (try simp at hh); simp [hh]; done)
      | (have hh := createNow_ctl (by assumption); (try simp at hh); simp [hh]; done)
      | (have hh := writeNow_ctl (by assumption); (try simp at hh); simp [hh]; done)
      | (have hh := restoreTables_ctl (by assumption); (try simp at hh); simp [hh]; done)
      | (have hh := applyTables_ctl (by assumption); (try simp at hh); simp [hh]; done)
      | (have hh := restoreNodes_ctl (by assumption); (try simp at hh); simp [hh]; done)
      | (have hh := applyShards_ctl (by assumption); (try simp at hh); simp [hh]; done)
      | (have hh := restoreAll_ctl (by assumption); (try simp at hh); simp [hh]; done)
      | (have hh := restoreTable_ctl (by assumption); (try simp at hh); simp [hh]; done)
      | (have hh := restoreShard_ctl (by assumption); (try simp at hh); simp [hh]; done)
      | (have hh := applyShard_ctl (by assumption); (try simp at hh); simp [hh]; done)
      | (have hh := restoreCask_ctl (by assumption); (try simp at hh); simp [hh]; done)
      | (have hh := restoreModel_ctl (by assumption); (try simp at hh); simp [hh]; done)
      | (have hh := restoreObject_ctl (by assumption); (try simp at hh); simp [hh]; done)
      | (have hh := restoreSess_ctl (by assumption); (try simp at hh); simp [hh]; done)
      | (have hh := ownCondense_ctl (by assumption); (try simp at hh); simp [hh]; done)
      | (have hh := runsForAll_ctl (by assumption); (try simp at hh); simp [hh]; done)
      | (simp; refine pair_ctl2 (by assumption) ?_)
      | (simp; refine pair_ctl1 (by assumption) ?_)
      | simp [ih]

@[simp] theorem insertWrite_ctl (s : State) (seq : Nat) : (insertWrite s seq).ctl = s.ctl := by
  unfold insertWrite
  repeat' first
    | rfl
    | assumption
    | (simp; done)
    | intro _
    | dsimp only
    | split
    | refine (foldl_ctl ?_ _).trans ?_
    | refine (foldl_ctl1 ?_ _).trans ?_
    | refine (foldl_ctl2 ?_ _).trans ?_
    | (have hh := flashWrite_ctl (by assumption); simp at hh; simp [hh]; done)
    | (simp; refine pair_ctl2 (by assumption) ?_)
    | (simp; refine pair_ctl1 (by assumption) ?_)

@[simp] theorem insertGo_ctl (s : State) (seq : Nat) : (insertGo s seq).ctl = s.ctl := by
  simp [insertGo]

@[simp] theorem itemWritten_ctl (s : State) (seq : Nat) (cid : Nat) (h : Nat) (y : Nat) (addr : Nat) : (itemWritten s seq cid h y addr).ctl = s.ctl := by
  simp [itemWritten]

@[simp] theorem insertStart_ctl (s : State) (h : Hdr) (cid : Nat) (shard : Nat) (count : Nat) (pub : Nat) (tail : List Byte) : (insertStart s h cid shard count pub tail).ctl = s.ctl := by
  unfold insertStart
  repeat' first
    | rfl
    | assumption
    | (simp; done)
    | intro _
    | dsimp only
    | split
    | refine (foldl_ctl ?_ _).trans ?_
    | refine (foldl_ctl1 ?_ _).trans ?_
    | refine (foldl_ctl2 ?_ _).trans ?_
    | (have hh := configNow_ctl (by assumption); simp at hh; simp [hh]; done)
    | (simp; refine pair_ctl2 (by assumption) ?_)
    | (simp; refine pair_ctl1 (by assumption) ?_)
    | simp

theorem execCorpusInsert_ctl {h : Hdr} {corpus : Nat} {shard : Nat} {count : Nat} {pubSeq : Nat} {tail : List Byte} {s : State} {t : State} (h : execCorpusInsert h corpus shard count pubSeq tail s = .next t) : t.ctl = s.ctl := by
  cases h
  simp

@[simp] theorem deleteNode_ctl (s : State) (cid : Nat) (h : Nat) (pub : Nat) (y : Nat) : (deleteNode s cid h pub y).ctl = s.ctl := by
  unfold deleteNode
  split <;> simp

theorem execCorpusDelete_ctl {h : Hdr} {corpus : Nat} {shard : Nat} {count : Nat} {pubSeq : Nat} {nodes : List Nat} {s : State} {t : State} (h : execCorpusDelete h corpus shard count pubSeq nodes s = .next t) : t.ctl = s.ctl := by
  cases h
  simp

theorem execCorpusPublish_ctl {h : Hdr} {corpus : Nat} {shard : Nat} {pubSeq : Nat} {s : State} {t : State} (h : execCorpusPublish h corpus shard pubSeq s = .next t) : t.ctl = s.ctl := by
  cases h
  simp

theorem execShardMapSet_ctl {h : Hdr} {corpus : Nat} {count : Nat} {entries : List ShardEntry} {s : State} {t : State} (h : execShardMapSet h corpus count entries s = .next t) : t.ctl = s.ctl := by
  cases h
  repeat' first
    | rfl
    | assumption
    | (simp; done)
    | intro _
    | refine syncCmd_ctl _ _ _ _ _ _ ?_
    | dsimp only
    | split
    | refine (foldl_ctl ?_ _).trans ?_
    | refine (foldl_ctl1 ?_ _).trans ?_
    | refine (foldl_ctl2 ?_ _).trans ?_
    | simp

theorem execLauterQuery_ctl {h : Hdr} {q : QueryParams} {s : State} {t : State} (h : execLauterQuery h q s = .next t) : t.ctl = s.ctl := by
  cases h
  simp

@[simp] theorem queryItem_ctl (s : State) (q : Query) (phase : Nat) (model : Nat) (lastPos : Nat) (k : ItemKind) : (queryItem s q phase model lastPos k).ctl = s.ctl := rfl

@[simp] theorem queryTokens_ctl (s : State) (q : Query) : (queryTokens s q).ctl = s.ctl := by
  unfold queryTokens
  split <;> simp

@[simp] theorem modAsked_ctl (s : State) (seq : Nat) (shard : Nat) (f : Asked → Asked) : (modAsked s seq shard f).ctl = s.ctl := rfl

@[simp] theorem takeCands_ctl (s : State) (seq : Nat) (shard : Nat) (l : List Cand) : (takeCands s seq shard l).ctl = s.ctl := by
  unfold takeCands
  split <;> simp

@[simp] theorem searchHere_ctl (s : State) (q : Query) (shard : Nat) : (searchHere s q shard).ctl = s.ctl := by
  simp [searchHere]

@[simp] theorem askReplica_ctl (s : State) (seq : Nat) (shard : Nat) : (askReplica s seq shard).ctl = s.ctl := by
  unfold askReplica
  repeat' first
    | rfl
    | assumption
    | (simp; done)
    | intro _
    | dsimp only
    | split
    | refine (foldl_ctl ?_ _).trans ?_
    | refine (foldl_ctl1 ?_ _).trans ?_
    | refine (foldl_ctl2 ?_ _).trans ?_

@[simp] theorem askOwner_ctl (s : State) (seq : Nat) (e : ShardEntry) : (askOwner s seq e).ctl = s.ctl := by
  unfold askOwner
  split <;> simp

@[simp] theorem fanOut_ctl (s : State) (seq : Nat) : (fanOut s seq).ctl = s.ctl := by
  unfold fanOut
  split <;> simp

@[simp] theorem packDone_ctl (s : State) (q : Query) : (packDone s q).ctl = s.ctl := by
  unfold packDone
  repeat' first
    | rfl
    | assumption
    | (simp; done)
    | intro _
    | dsimp only
    | split
    | refine (foldl_ctl ?_ _).trans ?_
    | refine (foldl_ctl1 ?_ _).trans ?_
    | refine (foldl_ctl2 ?_ _).trans ?_
    | simp

@[simp] theorem finalise_ctl (s : State) (seq : Nat) : (finalise s seq).ctl = s.ctl := by
  unfold finalise
  split <;> simp

@[simp] theorem rerankDone_ctl (s : State) (seq : Nat) : (rerankDone s seq).ctl = s.ctl := by
  unfold rerankDone
  split <;> simp

@[simp] theorem afterTexts_ctl (s : State) (seq : Nat) : (afterTexts s seq).ctl = s.ctl := by
  unfold afterTexts
  split <;> simp

@[simp] theorem textReads_ctl (s : State) (seq : Nat) : (textReads s seq).ctl = s.ctl := by
  unfold textReads
  repeat' first
    | with_reducible rfl
    | assumption
    | (simp; done)
    | intro _
    | with_reducible refine asyncCmd_ctl _ _ _ _ _ _ _ _ ?_
    | with_reducible refine syncCmd_ctl _ _ _ _ _ _ ?_
    | with_reducible refine lateSync_ctl _ _ _ _ _ _ _ _ ?_
    | dsimp only
    | split
    | with_reducible refine (foldl_ctl ?_ _).trans ?_
    | with_reducible refine (foldl_ctl1 ?_ _).trans ?_
    | with_reducible refine (foldl_ctl2 ?_ _).trans ?_
    | (have hh := takeRun_ctl (by assumption); (try simp at hh); simp [hh]; done)
    | (have hh := takeRuns_ctl (by assumption); (try simp at hh); simp [hh]; done)
    | (have hh := runFor_ctl (by assumption); (try simp at hh); simp [hh]; done)
    | (have hh := runsFor_ctl (by assumption); (try simp at hh); simp [hh]; done)
    | (have hh := flashWrite_ctl (by assumption); (try simp at hh); simp [hh]; done)
    | (have hh := takeTable_ctl (by assumption); (try simp at hh); simp [hh]; done)
    | (have hh := growCopy_ctl (by assumption); (try simp at hh); simp [hh]; done)
    | (have hh := configNow_ctl (by assumption); (try simp at hh); simp [hh]; done)
    | (have hh := grantRuns_ctl (by assumption); (try simp at hh); simp [hh]; done)
    | (have hh := beginWarm_ctl (by assumption); (try simp at hh); simp [hh]; done)
    | (have hh := spillOldest_ctl (by assumption); (try simp at hh); simp [hh]; done)
    | (have hh := shardRuns_ctl (by assumption); (try simp at hh); simp [hh]; done)
    | (have hh := createNow_ctl (by assumption); (try simp at hh); simp [hh]; done)
    | (have hh := writeNow_ctl (by assumption); (try simp at hh); simp [hh]; done)
    | (have hh := restoreTables_ctl (by assumption); (try simp at hh); simp [hh]; done)
    | (have hh := applyTables_ctl (by assumption); (try simp at hh); simp [hh]; done)
    | (have hh := restoreNodes_ctl (by assumption); (try simp at hh); simp [hh]; done)
    | (have hh := applyShards_ctl (by assumption); (try simp at hh); simp [hh]; done)
    | (have hh := restoreAll_ctl (by assumption); (try simp at hh); simp [hh]; done)
    | (have hh := restoreTable_ctl (by assumption); (try simp at hh); simp [hh]; done)
    | (have hh := restoreShard_ctl (by assumption); (try simp at hh); simp [hh]; done)
    | (have hh := applyShard_ctl (by assumption); (try simp at hh); simp [hh]; done)
    | (have hh := restoreCask_ctl (by assumption); (try simp at hh); simp [hh]; done)
    | (have hh := restoreModel_ctl (by assumption); (try simp at hh); simp [hh]; done)
    | (have hh := restoreObject_ctl (by assumption); (try simp at hh); simp [hh]; done)
    | (have hh := restoreSess_ctl (by assumption); (try simp at hh); simp [hh]; done)
    | (have hh := ownCondense_ctl (by assumption); (try simp at hh); simp [hh]; done)
    | (have hh := runsForAll_ctl (by assumption); (try simp at hh); simp [hh]; done)
    | (simp; refine pair_ctl2 (by assumption) ?_)
    | (simp; refine pair_ctl1 (by assumption) ?_)
    | simp

@[simp] theorem fetchTexts_ctl (s : State) (seq : Nat) : (fetchTexts s seq).ctl = s.ctl := by
  unfold fetchTexts
  repeat' first
    | rfl
    | assumption
    | (simp; done)
    | intro _
    | dsimp only
    | split
    | refine (foldl_ctl ?_ _).trans ?_
    | refine (foldl_ctl1 ?_ _).trans ?_
    | refine (foldl_ctl2 ?_ _).trans ?_

@[simp] theorem mergeQuery_ctl (s : State) (seq : Nat) : (mergeQuery s seq).ctl = s.ctl := by
  unfold mergeQuery
  repeat' first
    | rfl
    | assumption
    | (simp; done)
    | intro _
    | dsimp only
    | split
    | refine (foldl_ctl ?_ _).trans ?_
    | refine (foldl_ctl1 ?_ _).trans ?_
    | refine (foldl_ctl2 ?_ _).trans ?_

@[simp] theorem progressQuery_ctl (x0 : Nat) (s : State) (x2 : Nat) : (progressQuery x0 s x2).ctl = s.ctl := by
  induction x0 generalizing s x2 with
  | zero => rfl
  | succ n ih =>
    unfold progressQuery
    repeat' first
      | rfl
      | assumption
      | (simp [ih]; done)
      | intro _
      | dsimp only
      | split
      | refine (foldl_ctl ?_ _).trans ?_
      | refine (foldl_ctl1 ?_ _).trans ?_
      | refine (foldl_ctl2 ?_ _).trans ?_
      | simp [ih]

@[simp] theorem embedDone_ctl (s : State) (seq : Nat) : (embedDone s seq).ctl = s.ctl := by
  unfold embedDone
  split <;> simp

@[simp] theorem rerankStart_ctl (s : State) (q : Query) : (rerankStart s q).ctl = s.ctl := by
  unfold rerankStart
  repeat' first
    | rfl
    | assumption
    | (simp; done)
    | intro _
    | dsimp only
    | split
    | refine (foldl_ctl ?_ _).trans ?_
    | refine (foldl_ctl1 ?_ _).trans ?_
    | refine (foldl_ctl2 ?_ _).trans ?_

theorem execTokeniseDone_ctl {seq : Nat} {s : State} {t : State} (h : execTokeniseDone seq s = .next t) : t.ctl = s.ctl := by
  cases h
  split <;> simp

@[simp] theorem serveRequest_ctl (s : State) (rid : Nat) : (serveRequest s rid).ctl = s.ctl := by
  unfold serveRequest
  split <;> simp

@[simp] theorem answerSearch_ctl (s : State) (r : SearchReq) (st : Nat) : (answerSearch s r st).ctl = s.ctl := by
  simp [answerSearch]

@[simp] theorem takeSearch_ctl (s : State) (r : SearchReq) : (takeSearch s r).ctl = s.ctl := by
  simp [takeSearch]

theorem execSearchRequest_ctl {r : SearchReq} {s : State} {t : State} (h : execSearchRequest r s = .next t) : t.ctl = s.ctl := by
  cases h
  simp

@[simp] theorem lateReply_ctl (s : State) (qid : Nat) : (lateReply s qid).ctl = s.ctl := by
  unfold lateReply
  split <;> simp

@[simp] theorem lateText_ctl (s : State) : (lateText s).ctl = s.ctl := rfl

@[simp] theorem takeReply_ctl (s : State) (src : Nat) (qid : Nat) (shard : Nat) (status : Nat) (cands : List Cand) : (takeReply s src qid shard status cands).ctl = s.ctl := by
  unfold takeReply
  repeat' first
    | with_reducible rfl
    | assumption
    | (simp; done)
    | intro _
    | with_reducible refine asyncCmd_ctl _ _ _ _ _ _ _ _ ?_
    | with_reducible refine syncCmd_ctl _ _ _ _ _ _ ?_
    | with_reducible refine lateSync_ctl _ _ _ _ _ _ _ _ ?_
    | dsimp only
    | split
    | with_reducible refine (foldl_ctl ?_ _).trans ?_
    | with_reducible refine (foldl_ctl1 ?_ _).trans ?_
    | with_reducible refine (foldl_ctl2 ?_ _).trans ?_
    | (have hh := takeRun_ctl (by assumption); (try simp at hh); simp [hh]; done)
    | (have hh := takeRuns_ctl (by assumption); (try simp at hh); simp [hh]; done)
    | (have hh := runFor_ctl (by assumption); (try simp at hh); simp [hh]; done)
    | (have hh := runsFor_ctl (by assumption); (try simp at hh); simp [hh]; done)
    | (have hh := flashWrite_ctl (by assumption); (try simp at hh); simp [hh]; done)
    | (have hh := takeTable_ctl (by assumption); (try simp at hh); simp [hh]; done)
    | (have hh := growCopy_ctl (by assumption); (try simp at hh); simp [hh]; done)
    | (have hh := configNow_ctl (by assumption); (try simp at hh); simp [hh]; done)
    | (have hh := grantRuns_ctl (by assumption); (try simp at hh); simp [hh]; done)
    | (have hh := beginWarm_ctl (by assumption); (try simp at hh); simp [hh]; done)
    | (have hh := spillOldest_ctl (by assumption); (try simp at hh); simp [hh]; done)
    | (have hh := shardRuns_ctl (by assumption); (try simp at hh); simp [hh]; done)
    | (have hh := createNow_ctl (by assumption); (try simp at hh); simp [hh]; done)
    | (have hh := writeNow_ctl (by assumption); (try simp at hh); simp [hh]; done)
    | (have hh := restoreTables_ctl (by assumption); (try simp at hh); simp [hh]; done)
    | (have hh := applyTables_ctl (by assumption); (try simp at hh); simp [hh]; done)
    | (have hh := restoreNodes_ctl (by assumption); (try simp at hh); simp [hh]; done)
    | (have hh := applyShards_ctl (by assumption); (try simp at hh); simp [hh]; done)
    | (have hh := restoreAll_ctl (by assumption); (try simp at hh); simp [hh]; done)
    | (have hh := restoreTable_ctl (by assumption); (try simp at hh); simp [hh]; done)
    | (have hh := restoreShard_ctl (by assumption); (try simp at hh); simp [hh]; done)
    | (have hh := applyShard_ctl (by assumption); (try simp at hh); simp [hh]; done)
    | (have hh := restoreCask_ctl (by assumption); (try simp at hh); simp [hh]; done)
    | (have hh := restoreModel_ctl (by assumption); (try simp at hh); simp [hh]; done)
    | (have hh := restoreObject_ctl (by assumption); (try simp at hh); simp [hh]; done)
    | (have hh := restoreSess_ctl (by assumption); (try simp at hh); simp [hh]; done)
    | (simp; refine pair_ctl2 (by assumption) ?_)
    | (simp; refine pair_ctl1 (by assumption) ?_)
    | simp

theorem execCandidateReply_ctl {src : Nat} {qid : Nat} {shard : Nat} {status : Nat} {cands : List Cand} {s : State} {t : State} (h : execCandidateReply src qid shard status cands s = .next t) : t.ctl = s.ctl := by
  cases h
  repeat' first
    | rfl
    | assumption
    | (simp; done)
    | intro _
    | dsimp only
    | split
    | refine (foldl_ctl ?_ _).trans ?_
    | refine (foldl_ctl1 ?_ _).trans ?_
    | refine (foldl_ctl2 ?_ _).trans ?_

theorem execReplicaDeadline_ctl {qid : Nat} {shard : Nat} {s : State} {t : State} (h : execReplicaDeadline qid shard s = .next t) : t.ctl = s.ctl := by
  cases h
  split <;> simp

theorem execMergeDeadline_ctl {qid : Nat} {s : State} {t : State} (h : execMergeDeadline qid s = .next t) : t.ctl = s.ctl := by
  cases h
  split <;> simp

@[simp] theorem takeTexts_ctl (s : State) (seq : Nat) (frm : Nat) (texts : List (Nat × Nat × List Byte)) : (takeTexts s seq frm texts).ctl = s.ctl := by
  unfold takeTexts
  repeat' first
    | rfl
    | assumption
    | (simp; done)
    | intro _
    | dsimp only
    | split
    | refine (foldl_ctl ?_ _).trans ?_
    | refine (foldl_ctl1 ?_ _).trans ?_
    | refine (foldl_ctl2 ?_ _).trans ?_

@[simp] theorem textsRead_ctl (s : State) (seq : Nat) (ok : Bool) : (textsRead s seq ok).ctl = s.ctl := by
  unfold textsRead
  split <;> simp

@[simp] theorem takeTextReply_ctl (s : State) (src : Nat) (qid : Nat) (texts : List (Nat × Nat × List Byte)) : (takeTextReply s src qid texts).ctl = s.ctl := by
  unfold takeTextReply
  split <;> simp

theorem execTextFetchReply_ctl {src : Nat} {qid : Nat} {texts : List (Nat × Nat × List Byte)} {s : State} {t : State} (h : execTextFetchReply src qid texts s = .next t) : t.ctl = s.ctl := by
  cases h
  split <;> simp

theorem execTextFetchDeadline_ctl {qid : Nat} {s : State} {t : State} (h : execTextFetchDeadline qid s = .next t) : t.ctl = s.ctl := by
  cases h
  split <;> simp

@[simp] theorem textServed_ctl (s : State) (rid : Nat) (ok : Bool) : (textServed s rid ok).ctl = s.ctl := by
  unfold textServed
  split <;> simp

@[simp] theorem serveRead_ctl (s : State) (rid : Nat) : (serveRead s rid).ctl = s.ctl := by
  unfold serveRead
  split <;> simp

@[simp] theorem serveTexts_ctl (s : State) (src : Nat) (qid : Nat) (tenant : Nat) (corpus : Nat) (shard : Nat) (nodes : List Nat) : (serveTexts s src qid tenant corpus shard nodes).ctl = s.ctl := by
  unfold serveTexts
  repeat' first
    | with_reducible rfl
    | assumption
    | (simp; done)
    | intro _
    | with_reducible refine asyncCmd_ctl _ _ _ _ _ _ _ _ ?_
    | with_reducible refine syncCmd_ctl _ _ _ _ _ _ ?_
    | with_reducible refine lateSync_ctl _ _ _ _ _ _ _ _ ?_
    | dsimp only
    | split
    | with_reducible refine (foldl_ctl ?_ _).trans ?_
    | with_reducible refine (foldl_ctl1 ?_ _).trans ?_
    | with_reducible refine (foldl_ctl2 ?_ _).trans ?_
    | (have hh := takeRun_ctl (by assumption); (try simp at hh); simp [hh]; done)
    | (have hh := takeRuns_ctl (by assumption); (try simp at hh); simp [hh]; done)
    | (have hh := runFor_ctl (by assumption); (try simp at hh); simp [hh]; done)
    | (have hh := runsFor_ctl (by assumption); (try simp at hh); simp [hh]; done)
    | (have hh := flashWrite_ctl (by assumption); (try simp at hh); simp [hh]; done)
    | (have hh := takeTable_ctl (by assumption); (try simp at hh); simp [hh]; done)
    | (have hh := growCopy_ctl (by assumption); (try simp at hh); simp [hh]; done)
    | (have hh := configNow_ctl (by assumption); (try simp at hh); simp [hh]; done)
    | (have hh := grantRuns_ctl (by assumption); (try simp at hh); simp [hh]; done)
    | (have hh := beginWarm_ctl (by assumption); (try simp at hh); simp [hh]; done)
    | (have hh := spillOldest_ctl (by assumption); (try simp at hh); simp [hh]; done)
    | (have hh := shardRuns_ctl (by assumption); (try simp at hh); simp [hh]; done)
    | (have hh := createNow_ctl (by assumption); (try simp at hh); simp [hh]; done)
    | (have hh := writeNow_ctl (by assumption); (try simp at hh); simp [hh]; done)
    | (have hh := restoreTables_ctl (by assumption); (try simp at hh); simp [hh]; done)
    | (have hh := applyTables_ctl (by assumption); (try simp at hh); simp [hh]; done)
    | (have hh := restoreNodes_ctl (by assumption); (try simp at hh); simp [hh]; done)
    | (have hh := applyShards_ctl (by assumption); (try simp at hh); simp [hh]; done)
    | (have hh := restoreAll_ctl (by assumption); (try simp at hh); simp [hh]; done)
    | (have hh := restoreTable_ctl (by assumption); (try simp at hh); simp [hh]; done)
    | (have hh := restoreShard_ctl (by assumption); (try simp at hh); simp [hh]; done)
    | (have hh := applyShard_ctl (by assumption); (try simp at hh); simp [hh]; done)
    | (have hh := restoreCask_ctl (by assumption); (try simp at hh); simp [hh]; done)
    | (have hh := restoreModel_ctl (by assumption); (try simp at hh); simp [hh]; done)
    | (have hh := restoreObject_ctl (by assumption); (try simp at hh); simp [hh]; done)
    | (have hh := restoreSess_ctl (by assumption); (try simp at hh); simp [hh]; done)
    | (simp; refine pair_ctl2 (by assumption) ?_)
    | (simp; refine pair_ctl1 (by assumption) ?_)
    | simp

theorem execTextFetchRequest_ctl {src : Nat} {qid : Nat} {tenant : Nat} {corpus : Nat} {shard : Nat} {nodes : List Nat} {s : State} {t : State} (h : execTextFetchRequest src qid tenant corpus shard nodes s = .next t) : t.ctl = s.ctl := by
  cases h
  repeat' first
    | rfl
    | assumption
    | (simp; done)
    | intro _
    | dsimp only
    | split
    | refine (foldl_ctl ?_ _).trans ?_
    | refine (foldl_ctl1 ?_ _).trans ?_
    | refine (foldl_ctl2 ?_ _).trans ?_

theorem execPeerRequestExpire_ctl {rid : Nat} {s : State} {t : State} (h : execPeerRequestExpire rid s = .next t) : t.ctl = s.ctl := by
  cases h
  split <;> simp

theorem execRepairSweep_ctl {corpus : Nat} {shard : Nat} {s : State} {t : State} (h : execRepairSweep corpus shard s = .next t) : t.ctl = s.ctl := by
  cases h
  split <;> simp

@[simp] theorem topK_ctl (s : State) (k : Nat) (l : List Nat) : (topK s k l).1.ctl = s.ctl := rfl

@[simp] theorem probeOne_ctl (s : State) (cid : Nat) (h : Nat) (k : Nat) (beam : Nat) (v : List H16) : (probeOne s cid h k beam v).1.ctl = s.ctl := by
  unfold probeOne
  split <;> simp

@[simp] theorem probeAll_ctl (s : State) (cid : Nat) (h : Nat) (k : Nat) (beam : Nat) (vs : List (List H16)) : (probeAll s cid h k beam vs).1.ctl = s.ctl := by
  unfold probeAll
  refine (foldl_ctl1 ?_ _).trans rfl
  intro a v
  simp

@[simp] theorem runProbe_ctl (s : State) (seq : Nat) : (runProbe s seq).ctl = s.ctl := by
  unfold runProbe
  repeat' first
    | with_reducible rfl
    | assumption
    | (simp; done)
    | intro _
    | dsimp only
    | split
    | (simp; refine pair_ctl2 (by assumption) ?_)
    | (simp; refine pair_ctl1 (by assumption) ?_)
    | simp

theorem execRecallProbe_ctl {h : Hdr} {corpus : Nat} {shard : Nat} {k : Nat} {beam : Nat} {sample : Nat} {s : State} {t : State} (h : execRecallProbe h corpus shard k beam sample s = .next t) : t.ctl = s.ctl := by
  cases h
  simp

@[simp] theorem lauterRest_ctl (s : State) : (lauterRest s).ctl = s.ctl := by
  unfold lauterRest
  repeat' first
    | rfl
    | assumption
    | (simp; done)
    | intro _
    | dsimp only
    | split
    | refine (foldl_ctl ?_ _).trans ?_
    | refine (foldl_ctl1 ?_ _).trans ?_
    | refine (foldl_ctl2 ?_ _).trans ?_

@[simp] theorem lauterPeerLost_ctl (s : State) (peer : Nat) : (lauterPeerLost s peer).ctl = s.ctl := by
  simp [lauterPeerLost]

@[simp] theorem expertItem_ctl (s : State) (model : Nat) (expert : Nat) : (expertItem s model expert).ctl = s.ctl := by
  unfold expertItem
  split <;> simp

theorem execExpertTokens_ctl {src : Nat} {model : Nat} {expert : Nat} {payer : Nat × Nat} {tokens : List Nat} {s : State} {t : State} (h : execExpertTokens src model expert payer tokens s = .next t) : t.ctl = s.ctl := by
  cases h
  split <;> simp

@[simp] theorem expertDone_ctl (s : State) (model : Nat) (expert : Nat) (n : Nat) (act : Nat) : (expertDone s model expert n act).ctl = s.ctl := by
  simp [expertDone]

end Sys2Proof.Machine
end

