-- ==== Sys2Proof/Laws/FrameRows.lean ====
section
/-! SUPPORT. What the functions of Machine/Rows.lean leave alone: the control part of a state. -/
namespace Sys2Proof.Machine
set_option linter.unusedTactic false
set_option linter.unreachableTactic false

@[simp] theorem rowsHold_ctl (s : State) (x : RowTable) : (rowsHold s x).ctl = s.ctl := by
  simp [rowsHold]

@[simp] theorem chargeRows_ctl (s : State) (x : RowTable) (n : Nat) : (chargeRows s x n).ctl = s.ctl := by
  simp [chargeRows]

@[simp] theorem countTile_ctl (s : State) (d : Nat) (sat : Nat) (nan : Nat) : (countTile s d sat nan).ctl = s.ctl := by
  unfold countTile
  split <;> simp

@[simp] theorem writeRow_ctl (s : State) (t : Nat) (r : Nat) (rec_ : RowRec) : (writeRow s t r rec_).ctl = s.ctl := rfl

@[simp] theorem installHot_ctl (s : State) (t : Nat) : (installHot s t).ctl = s.ctl := by
  unfold installHot
  split <;> simp

@[simp] theorem clearHot_ctl (s : State) (g : Nat) : (clearHot s g).ctl = s.ctl := rfl

@[simp] theorem dropTable_ctl (s : State) (t : Nat) : (dropTable s t).ctl = s.ctl := by
  unfold dropTable
  split <;> simp

@[simp] theorem tryRemoveTable_ctl (s : State) (t : Nat) : (tryRemoveTable s t).ctl = s.ctl := by
  simp [tryRemoveTable]

@[simp] theorem createTable_ctl (s : State) (tenant : Nat) (t : Nat) (dim : Nat) (rows : Nat) (format : Nat) (opt : Nat) : (createTable s tenant t dim rows format opt).1.ctl = s.ctl := by
  unfold createTable
  repeat' first
    | rfl
    | assumption
    | (simp; done)
    | intro _
    | dsimp only
    | split
    | refine (foldl_ctl ?_ _).trans ?_
    | refine (foldl_ctl1 ?_ _).trans ?_
    | refine (foldl_ctl2 ?_ _).trans ?_
    | (have hh := takeRuns_ctl (by assumption); simp at hh; simp [hh]; done)
    | (simp; refine pair_ctl2 (by assumption) ?_)
    | (simp; refine pair_ctl1 (by assumption) ?_)

@[simp] theorem createNow_ctl (s : State) (h : Hdr) (t : Nat) (dim : Nat) (rows : Nat) (format : Nat) (opt : Nat) : (createNow s h t dim rows format opt).1.ctl = s.ctl := by
  unfold createNow
  split <;> simp

theorem execTableCreate_ctl {h : Hdr} {table : Nat} {dim : Nat} {rows : Nat} {format : Nat} {optimiser : Nat} {s : State} {t : State} (h : execTableCreate h table dim rows format optimiser s = .next t) : t.ctl = s.ctl := by
  cases h
  simp

@[simp] theorem doLookup_ctl (s : State) (x : RowTable) (pooling : Nat) (lens : List Nat) (idx : List Nat) : (doLookup s x pooling lens idx).1.ctl = s.ctl := by
  simp [doLookup]

@[simp] theorem updateRow_ctl (s : State) (t : Nat) (lr : F32) (r : Nat) (grad : List H16) : (updateRow s t lr r grad).ctl = s.ctl := by
  unfold updateRow
  repeat' first
    | with_reducible rfl
    | assumption
    | (simp; done)
    | intro _
    | with_reducible refine asyncCmd_ctl _ _ _ _ _ _ _ _ ?_
    | with_reducible refine syncCmd_ctl _ _ _ _ _ _ ?_
    | with_reducible refine lateSync_ctl _ _ _ _ _ _ _ _ ?_
    | dsimp only
    | split
    | with_reducible refine (foldl_ctl ?_ _).trans ?_
    | with_reducible refine (foldl_ctl1 ?_ _).trans ?_
    | with_reducible refine (foldl_ctl2 ?_ _).trans ?_
    | (have hh := takeRun_ctl (by assumption); (try simp at hh); simp [hh]; done)
    | (have hh := takeRuns_ctl (by assumption); (try simp at hh); simp [hh]; done)
    | (have hh := runFor_ctl (by assumption); (try simp at hh); simp [hh]; done)
    | (have hh := runsFor_ctl (by assumption); (try simp at hh); simp [hh]; done)
    | (have hh := flashWrite_ctl (by assumption); (try simp at hh); simp [hh]; done)
    | (have hh := takeTable_ctl (by assumption); (try simp at hh); simp [hh]; done)
    | (have hh := growCopy_ctl (by assumption); (try simp at hh); simp [hh]; done)
    | (have hh := configNow_ctl (by assumption); (try simp at hh); simp [hh]; done)
    | (have hh := grantRuns_ctl (by assumption); (try simp at hh); simp [hh]; done)
    | (have hh := beginWarm_ctl (by assumption); (try simp at hh); simp [hh]; done)
    | (have hh := spillOldest_ctl (by assumption); (try simp at hh); simp [hh]; done)
    | (have hh := shardRuns_ctl (by assumption); (try simp at hh); simp [hh]; done)
    | (have hh := createNow_ctl (by assumption); (try simp at hh); simp [hh]; done)
    | (have hh := writeNow_ctl (by assumption); (try simp at hh); simp [hh]; done)
    | (have hh := restoreTables_ctl (by assumption); (try simp at hh); simp [hh]; done)
    | (have hh := applyTables_ctl (by assumption); (try simp at hh); simp [hh]; done)
    | (have hh := restoreNodes_ctl (by assumption); (try simp at hh); simp [hh]; done)
    | (have hh := applyShards_ctl (by assumption); (try simp at hh); simp [hh]; done)
    | (have hh := restoreAll_ctl (by assumption); (try simp at hh); simp [hh]; done)
    | (have hh := restoreTable_ctl (by assumption); (try simp at hh); simp [hh]; done)
    | (have hh := restoreShard_ctl (by assumption); (try simp at hh); simp [hh]; done)
    | (have hh := applyShard_ctl (by assumption); (try simp at hh); simp [hh]; done)
    | (have hh := restoreCask_ctl (by assumption); (try simp at hh); simp [hh]; done)
    | (have hh := restoreModel_ctl (by assumption); (try simp at hh); simp [hh]; done)
    | (have hh := restoreObject_ctl (by assumption); (try simp at hh); simp [hh]; done)
    | (have hh := restoreSess_ctl (by assumption); (try simp at hh); simp [hh]; done)
    | (have hh := ownCondense_ctl (by assumption); (try simp at hh); simp [hh]; done)
    | (have hh := runsForAll_ctl (by assumption); (try simp at hh); simp [hh]; done)
    | (simp; refine pair_ctl2 (by assumption) ?_)
    | (simp; refine pair_ctl1 (by assumption) ?_)
    | simp

@[simp] theorem setHot_ctl (s : State) (t : Nat) (refreshUs : Nat) (rows : List Nat) : (setHot s t refreshUs rows).ctl = s.ctl := by
  simp [setHot]

@[simp] theorem runRows_ctl (x0 : Nat) (s : State) (x2 : Nat) : (runRows x0 s x2).ctl = s.ctl := by
  induction x0 generalizing s x2 with
  | zero => rfl
  | succ n ih =>
    unfold runRows
    repeat' first
      | rfl
      | assumption
      | (simp [ih]; done)
      | intro _
      | dsimp only
      | split
      | refine (foldl_ctl ?_ _).trans ?_
      | refine (foldl_ctl1 ?_ _).trans ?_
      | refine (foldl_ctl2 ?_ _).trans ?_
      | simp [ih]

@[simp] theorem startRows_ctl (s : State) (t : Nat) : (startRows s t).ctl = s.ctl := by
  simp [startRows]

theorem execRowLookup_ctl {h : Hdr} {table : Nat} {pooling : Nat} {bags : Nat} {lens : List Nat} {idx : List Nat} {s : State} {t : State} (h : execRowLookup h table pooling bags lens idx s = .next t) : t.ctl = s.ctl := by
  cases h
  simp

theorem execRowUpdate_ctl {h : Hdr} {table : Nat} {count : Nat} {lr : F32} {recs : List (Nat × List H16)} {s : State} {t : State} (h : execRowUpdate h table count lr recs s = .next t) : t.ctl = s.ctl := by
  cases h
  simp

theorem execHotsetSet_ctl {h : Hdr} {table : Nat} {refreshUs : Nat} {count : Nat} {rows : List Nat} {s : State} {t : State} (h : execHotsetSet h table refreshUs count rows s = .next t) : t.ctl = s.ctl := by
  cases h
  simp

theorem execTableReplaceBegin_ctl {h : Hdr} {table : Nat} {s : State} {t : State} (h : execTableReplaceBegin h table s = .next t) : t.ctl = s.ctl := by
  cases h
  repeat' first
    | with_reducible rfl
    | assumption
    | (simp; done)
    | intro _
    | with_reducible refine asyncCmd_ctl _ _ _ _ _ _ _ _ ?_
    | with_reducible refine syncCmd_ctl _ _ _ _ _ _ ?_
    | with_reducible refine lateSync_ctl _ _ _ _ _ _ _ _ ?_
    | dsimp only
    | split
    | with_reducible refine (foldl_ctl ?_ _).trans ?_
    | with_reducible refine (foldl_ctl1 ?_ _).trans ?_
    | with_reducible refine (foldl_ctl2 ?_ _).trans ?_
    | (have hh := takeRun_ctl (by assumption); (try simp at hh); simp [hh]; done)
    | (have hh := takeRuns_ctl (by assumption); (try simp at hh); simp [hh]; done)
    | (have hh := runFor_ctl (by assumption); (try simp at hh); simp [hh]; done)
    | (have hh := runsFor_ctl (by assumption); (try simp at hh); simp [hh]; done)
    | (have hh := flashWrite_ctl (by assumption); (try simp at hh); simp [hh]; done)
    | (have hh := takeTable_ctl (by assumption); (try simp at hh); simp [hh]; done)
    | (have hh := growCopy_ctl (by assumption); (try simp at hh); simp [hh]; done)
    | (have hh := configNow_ctl (by assumption); (try simp at hh); simp [hh]; done)
    | (have hh := grantRuns_ctl (by assumption); (try simp at hh); simp [hh]; done)
    | (have hh := beginWarm_ctl (by assumption); (try simp at hh); simp [hh]; done)
    | (have hh := spillOldest_ctl (by assumption); (try simp at hh); simp [hh]; done)
    | (have hh := shardRuns_ctl (by assumption); (try simp at hh); simp [hh]; done)
    | (have hh := createNow_ctl (by assumption); (try simp at hh); simp [hh]; done)
    | (have hh := writeNow_ctl (by assumption); (try simp at hh); simp [hh]; done)
    | (have hh := restoreTables_ctl (by assumption); (try simp at hh); simp [hh]; done)
    | (have hh := applyTables_ctl (by assumption); (try simp at hh); simp [hh]; done)
    | (have hh := restoreNodes_ctl (by assumption); (try simp at hh); simp [hh]; done)
    | (have hh := applyShards_ctl (by assumption); (try simp at hh); simp [hh]; done)
    | (have hh := restoreAll_ctl (by assumption); (try simp at hh); simp [hh]; done)
    | (have hh := restoreTable_ctl (by assumption); (try simp at hh); simp [hh]; done)
    | (have hh := restoreShard_ctl (by assumption); (try simp at hh); simp [hh]; done)
    | (have hh := applyShard_ctl (by assumption); (try simp at hh); simp [hh]; done)
    | (have hh := restoreCask_ctl (by assumption); (try simp at hh); simp [hh]; done)
    | (have hh := restoreModel_ctl (by assumption); (try simp at hh); simp [hh]; done)
    | (have hh := restoreObject_ctl (by assumption); (try simp at hh); simp [hh]; done)
    | (have hh := restoreSess_ctl (by assumption); (try simp at hh); simp [hh]; done)
    | (have hh := ownCondense_ctl (by assumption); (try simp at hh); simp [hh]; done)
    | (have hh := runsForAll_ctl (by assumption); (try simp at hh); simp [hh]; done)
    | (simp; refine pair_ctl2 (by assumption) ?_)
    | (simp; refine pair_ctl1 (by assumption) ?_)
    | simp

theorem execTableReplaceRows_ctl {h : Hdr} {table : Nat} {count : Nat} {firstRow : Nat} {rows : List (List Byte)} {s : State} {t : State} (h : execTableReplaceRows h table count firstRow rows s = .next t) : t.ctl = s.ctl := by
  cases h
  repeat' first
    | rfl
    | assumption
    | (simp; done)
    | intro _
    | refine syncCmd_ctl _ _ _ _ _ _ ?_
    | dsimp only
    | split
    | refine (foldl_ctl ?_ _).trans ?_
    | refine (foldl_ctl1 ?_ _).trans ?_
    | refine (foldl_ctl2 ?_ _).trans ?_
    | (simp; refine pair_ctl2 (by assumption) ?_)
    | (simp; refine pair_ctl1 (by assumption) ?_)
    | simp

@[simp] theorem replaceRow_ctl (s : State) (t : Nat) (r : Nat) (v : H16 × H16 × List Nat) : (replaceRow s t r v).ctl = s.ctl := by
  unfold replaceRow
  split <;> simp

@[simp] theorem endCommit_ctl (s : State) (t : Nat) (x : RowTable) (seq : Nat) (a : Ans) : (endCommit s t x seq a).ctl = s.ctl := by
  simp [endCommit]

@[simp] theorem walkCommit_ctl (s : State) (t : Nat) : (walkCommit s t).ctl = s.ctl := by
  unfold walkCommit
  repeat' first
    | with_reducible rfl
    | assumption
    | (simp; done)
    | intro _
    | dsimp only
    | split
    | with_reducible refine (foldl_ctl ?_ _).trans ?_
    | with_reducible refine (foldl_ctl1 ?_ _).trans ?_
    | with_reducible refine (foldl_ctl2 ?_ _).trans ?_
    | simp

theorem execTableReplaceCommit_ctl {h : Hdr} {table : Nat} {s : State} {t : State} (h : execTableReplaceCommit h table s = .next t) : t.ctl = s.ctl := by
  cases h
  simp

theorem execHotRefresh_ctl {table : Nat} {s : State} {t : State} (h : execHotRefresh table s = .next t) : t.ctl = s.ctl := by
  cases h
  split <;> simp

@[simp] theorem rowsRest_ctl (s : State) : (rowsRest s).ctl = s.ctl := by
  unfold rowsRest
  repeat' first
    | rfl
    | assumption
    | (simp; done)
    | intro _
    | dsimp only
    | split
    | refine (foldl_ctl ?_ _).trans ?_
    | refine (foldl_ctl1 ?_ _).trans ?_
    | refine (foldl_ctl2 ?_ _).trans ?_

end Sys2Proof.Machine
end

