-- ==== Sys2Proof/Laws/FrameGrants.lean ====
section
/-! SUPPORT. What the functions of Machine/Grants.lean leave alone: the control part of a state. -/
namespace Sys2Proof.Machine
set_option linter.unusedTactic false
set_option linter.unreachableTactic false

theorem grantRuns_ctl {s : State} {r : Resv} {t : State} (h : grantRuns s r = some t) : t.ctl = s.ctl := by
  unfold grantRuns at h
  repeat' first
    | contradiction
    | (cases h; done)
    | (cases h; simp; done)
    | (have hh := takeRuns_ctl (by assumption); simp at hh; cases h; simp [hh]; done)
    | split at h
    | dsimp only at h

@[simp] theorem reviveGranted_ctl (s : State) (idx : Nat) : (reviveGranted s idx).ctl = s.ctl := by
  unfold reviveGranted
  repeat' first
    | with_reducible rfl
    | assumption
    | (simp; done)
    | intro _
    | dsimp only
    | split
    | (have hh := beginWarm_ctl (by assumption); (try simp at hh); simp [hh]; done)
    | simp

@[simp] theorem condenseGranted_ctl (s : State) (x : Sess) (j : Job) : (condenseGranted s x j).ctl = s.ctl := rfl

@[simp] theorem afterGrant_ctl (s : State) (r : Resv) : (afterGrant s r).ctl = s.ctl := by
  unfold afterGrant
  repeat' first
    | with_reducible rfl
    | assumption
    | (simp; done)
    | intro _
    | dsimp only
    | split
    | simp

theorem execReservationGranted_ctl {rid : Nat} {s : State} {t : State} (h : execReservationGranted rid s = .next t) : t.ctl = s.ctl := by
  cases h
  repeat' first
    | with_reducible rfl
    | assumption
    | (simp; done)
    | intro _
    | dsimp only
    | split
    | (have hh := grantRuns_ctl (by assumption); (try simp at hh); simp [hh]; done)
    | simp

@[simp] theorem runCleared_ctl (s : State) (die : Nat) (start : Nat) : (runCleared s die start).ctl = s.ctl := rfl

end Sys2Proof.Machine
end

