-- ==== Sys2Proof/Laws/FrameOast.lean ====
section
/-! SUPPORT. What the functions of Machine/Oast.lean leave alone: the control part of a state. -/
namespace Sys2Proof.Machine
set_option linter.unusedTactic false
set_option linter.unreachableTactic false

@[simp] theorem quiesceCheck_ctl (s : State) : (quiesceCheck s).ctl = s.ctl := by
  simp [quiesceCheck]

@[simp] theorem startQuiesce_ctl (s : State) : (startQuiesce s).ctl = s.ctl := by
  simp [startQuiesce]

@[simp] theorem imageWritten_ctl (s : State) (seq : Nat) (addr : Nat) (e : Extent) : (imageWritten s seq addr e).ctl = s.ctl := by
  unfold imageWritten
  repeat' first
    | rfl
    | assumption
    | (simp; done)
    | intro _
    | dsimp only
    | split
    | refine (foldl_ctl ?_ _).trans ?_
    | refine (foldl_ctl1 ?_ _).trans ?_
    | refine (foldl_ctl2 ?_ _).trans ?_

@[simp] theorem writeDone_ctl (s : State) (w : FWrite) : (writeDone s w).ctl = s.ctl := by
  unfold writeDone
  repeat' first
    | rfl
    | assumption
    | (simp; done)
    | intro _
    | dsimp only
    | split
    | refine (foldl_ctl ?_ _).trans ?_
    | refine (foldl_ctl1 ?_ _).trans ?_
    | refine (foldl_ctl2 ?_ _).trans ?_
    | (simp; refine pair_ctl2 (by assumption) ?_)
    | (simp; refine pair_ctl1 (by assumption) ?_)

@[simp] theorem writeFailed_ctl (s : State) (w : FWrite) : (writeFailed s w).ctl = s.ctl := by
  unfold writeFailed
  repeat' first
    | rfl
    | assumption
    | (simp; done)
    | intro _
    | dsimp only
    | split
    | refine (foldl_ctl ?_ _).trans ?_
    | refine (foldl_ctl1 ?_ _).trans ?_
    | refine (foldl_ctl2 ?_ _).trans ?_

theorem execFlashProgramDone_ctl {wid : Nat} {ok : Bool} {s : State} {t : State} (h : execFlashProgramDone wid ok s = .next t) : t.ctl = s.ctl := by
  cases h
  split <;> simp

theorem execFlashEraseDone_ctl {lun : Nat} {block : Nat} {ok : Bool} {s : State} {t : State} (h : execFlashEraseDone lun block ok s = .next t) : t.ctl = s.ctl := by
  cases h
  simp

@[simp] theorem gcRead_ctl (s : State) (l : Nat) (b : Nat) : (gcRead s l b).ctl = s.ctl := by
  simp [gcRead]

@[simp] theorem gcLoop_ctl (x0 : Nat) (s : State) (x2 : Nat) : (gcLoop x0 s x2).ctl = s.ctl := by
  induction x0 generalizing s x2 with
  | zero => rfl
  | succ n ih =>
    unfold gcLoop
    repeat' first
      | rfl
      | assumption
      | (simp [ih]; done)
      | intro _
      | dsimp only
      | split
      | refine (foldl_ctl ?_ _).trans ?_
      | refine (foldl_ctl1 ?_ _).trans ?_
      | refine (foldl_ctl2 ?_ _).trans ?_
      | simp [ih]

theorem execGcStart_ctl {lun : Nat} {s : State} {t : State} (h : execGcStart lun s = .next t) : t.ctl = s.ctl := by
  cases h
  simp

@[simp] theorem loseOne_ctl (s : State) (l : Nat) (b : Nat) : (loseOne s l b).ctl = s.ctl := by
  unfold loseOne
  repeat' first
    | rfl
    | assumption
    | (simp; done)
    | intro _
    | dsimp only
    | split
    | refine (foldl_ctl ?_ _).trans ?_
    | refine (foldl_ctl1 ?_ _).trans ?_
    | refine (foldl_ctl2 ?_ _).trans ?_

@[simp] theorem relocated_ctl (s : State) (l : Nat) (b : Nat) (bad : Bool) : (relocated s l b bad).ctl = s.ctl := by
  simp [relocated]

@[simp] theorem reviveBad_ctl (s : State) (idx : Nat) : (reviveBad s idx).ctl = s.ctl := by
  unfold reviveBad
  split <;> simp

@[simp] theorem warmBad_ctl (s : State) (m : Nat) : (warmBad s m).ctl = s.ctl := by
  unfold warmBad
  repeat' first
    | rfl
    | assumption
    | (simp; done)
    | intro _
    | dsimp only
    | split
    | refine (foldl_ctl ?_ _).trans ?_
    | refine (foldl_ctl1 ?_ _).trans ?_
    | refine (foldl_ctl2 ?_ _).trans ?_

@[simp] theorem nodeGot_ctl (s : State) (x : Sess) (seq : Nat) (n : Node) (ok : Bool) : (nodeGot s x seq n ok).2.ctl = s.ctl := by
  unfold nodeGot
  split
  · rfl
  · split
    · simp
    · split
      · rename_i h1
        simp [runsFor_ctl h1]
      · rfl

@[simp] theorem nodeRead_ctl (s : State) (idx : Nat) (id : Nat) (ok : Bool) : (nodeRead s idx id ok).ctl = s.ctl := by
  unfold nodeRead
  repeat' first
    | with_reducible rfl
    | assumption
    | (simp; done)
    | intro _
    | dsimp only
    | split
    | (simp; refine pair_ctl2 (by assumption) ?_)
    | (simp; refine pair_ctl1 (by assumption) ?_)
    | simp

theorem execFlashReadDone_ctl {rid : Nat} {outcome : Nat} {s : State} {t : State} (h : execFlashReadDone rid outcome s = .next t) : t.ctl = s.ctl := by
  cases h
  repeat' first
    | with_reducible rfl
    | assumption
    | (simp; done)
    | intro _
    | dsimp only
    | split
    | simp

@[simp] theorem foldBuffer_ctl (s : State) : (foldBuffer s).ctl = s.ctl := by
  simp [foldBuffer]

theorem execPslcRecompute_ctl {s : State} {t : State} (h : execPslcRecompute s = .next t) : t.ctl = s.ctl := by
  cases h
  simp

@[simp] theorem wearWarn_ctl (s : State) (t : Nat) : (wearWarn s t).ctl = s.ctl := by
  simp [wearWarn]

theorem execWearGovernorTick_ctl {s : State} {t : State} (h : execWearGovernorTick s = .next t) : t.ctl = s.ctl := by
  cases h
  simp

theorem execPowerSecSave_ctl {s : State} {t : State} (h : execPowerSecSave s = .next t) : t.ctl = s.ctl := by
  cases h
  simp

theorem execPatrolRead_ctl {lun : Nat} {block : Nat} {retried : Bool} {s : State} {t : State} (h : execPatrolRead lun block retried s = .next t) : t.ctl = s.ctl := by
  cases h
  split <;> simp

theorem execLunTimeout_ctl {lun : Nat} {s : State} {t : State} (h : execLunTimeout lun s = .next t) : t.ctl = s.ctl := by
  cases h
  simp

end Sys2Proof.Machine
end

