-- ==== Sys2Proof/Laws/FrameTile.lean ====
section
/-! SUPPORT. What the functions of Machine/Tile.lean leave alone: the control part of a state. -/
namespace Sys2Proof.Machine
set_option linter.unusedTactic false
set_option linter.unreachableTactic false

@[simp] theorem modTile_ctl (s : State) (t : Nat) (f : Tile → Tile) : (modTile s t f).ctl = s.ctl := rfl

@[simp] theorem scatterTo_ctl (s : State) (g : Segment) (e : Entry) (c : CopyEnt) (x : Sess) (bs : List Byte) : (scatterTo s g e c x bs).ctl = s.ctl := rfl

@[simp] theorem crossBridges_ctl (s : State) (a : Nat) (b : Nat) (n : Nat) : (crossBridges s a b n).ctl = s.ctl := rfl

@[simp] theorem runPost_ctl (s : State) (d : Nat) (t0 : Nat) (o : Op) : (runPost s d t0 o).ctl = s.ctl := rfl

end Sys2Proof.Machine
end

