-- ==== Sys2Proof/Laws/FrameSeal.lean ====
section
/-! SUPPORT. What the functions of Machine/Seal.lean leave alone: the control part of a state. -/
namespace Sys2Proof.Machine
set_option linter.unusedTactic false
set_option linter.unreachableTactic false

@[simp] theorem spendRt_ctl (s : State) (c : Nat) : (spendRt s c).ctl = s.ctl := rfl

@[simp] theorem setBounds_ctl (s : State) (t : MashTable) (phases : Tab Bool) (r : Nat) : (setBounds s t phases r).ctl = s.ctl := by
  simp [setBounds]

@[simp] theorem primeSample_ctl (s : State) (it : Item) : (primeSample s it).ctl = s.ctl := by
  unfold primeSample
  repeat' first
    | with_reducible rfl
    | assumption
    | (simp; done)
    | intro _
    | with_reducible refine asyncCmd_ctl _ _ _ _ _ _ _ _ ?_
    | with_reducible refine syncCmd_ctl _ _ _ _ _ _ ?_
    | with_reducible refine lateSync_ctl _ _ _ _ _ _ _ _ ?_
    | dsimp only
    | split
    | with_reducible refine (foldl_ctl ?_ _).trans ?_
    | with_reducible refine (foldl_ctl1 ?_ _).trans ?_
    | with_reducible refine (foldl_ctl2 ?_ _).trans ?_
    | (have hh := takeRun_ctl (by assumption); (try simp at hh); simp [hh]; done)
    | (have hh := takeRuns_ctl (by assumption); (try simp at hh); simp [hh]; done)
    | (have hh := runFor_ctl (by assumption); (try simp at hh); simp [hh]; done)
    | (have hh := runsFor_ctl (by assumption); (try simp at hh); simp [hh]; done)
    | (have hh := flashWrite_ctl (by assumption); (try simp at hh); simp [hh]; done)
    | (have hh := takeTable_ctl (by assumption); (try simp at hh); simp [hh]; done)
    | (have hh := growCopy_ctl (by assumption); (try simp at hh); simp [hh]; done)
    | (have hh := configNow_ctl (by assumption); (try simp at hh); simp [hh]; done)
    | (have hh := grantRuns_ctl (by assumption); (try simp at hh); simp [hh]; done)
    | (have hh := beginWarm_ctl (by assumption); (try simp at hh); simp [hh]; done)
    | (have hh := spillOldest_ctl (by assumption); (try simp at hh); simp [hh]; done)
    | (have hh := shardRuns_ctl (by assumption); (try simp at hh); simp [hh]; done)
    | (have hh := createNow_ctl (by assumption); (try simp at hh); simp [hh]; done)
    | (have hh := writeNow_ctl (by assumption); (try simp at hh); simp [hh]; done)
    | (have hh := restoreTables_ctl (by assumption); (try simp at hh); simp [hh]; done)
    | (have hh := applyTables_ctl (by assumption); (try simp at hh); simp [hh]; done)
    | (have hh := restoreNodes_ctl (by assumption); (try simp at hh); simp [hh]; done)
    | (have hh := applyShards_ctl (by assumption); (try simp at hh); simp [hh]; done)
    | (have hh := restoreAll_ctl (by assumption); (try simp at hh); simp [hh]; done)
    | (have hh := restoreTable_ctl (by assumption); (try simp at hh); simp [hh]; done)
    | (have hh := restoreShard_ctl (by assumption); (try simp at hh); simp [hh]; done)
    | (have hh := applyShard_ctl (by assumption); (try simp at hh); simp [hh]; done)
    | (have hh := restoreCask_ctl (by assumption); (try simp at hh); simp [hh]; done)
    | (have hh := restoreModel_ctl (by assumption); (try simp at hh); simp [hh]; done)
    | (have hh := restoreObject_ctl (by assumption); (try simp at hh); simp [hh]; done)
    | (have hh := restoreSess_ctl (by assumption); (try simp at hh); simp [hh]; done)
    | (have hh := ownCondense_ctl (by assumption); (try simp at hh); simp [hh]; done)
    | (have hh := runsForAll_ctl (by assumption); (try simp at hh); simp [hh]; done)
    | (simp; refine pair_ctl2 (by assumption) ?_)
    | (simp; refine pair_ctl1 (by assumption) ?_)
    | simp

@[simp] theorem openPages_ctl (s : State) (it : Item) : (openPages s it).ctl = s.ctl := by
  unfold openPages
  repeat' first
    | with_reducible rfl
    | assumption
    | (simp; done)
    | intro _
    | with_reducible refine asyncCmd_ctl _ _ _ _ _ _ _ _ ?_
    | with_reducible refine syncCmd_ctl _ _ _ _ _ _ ?_
    | with_reducible refine lateSync_ctl _ _ _ _ _ _ _ _ ?_
    | dsimp only
    | split
    | with_reducible refine (foldl_ctl ?_ _).trans ?_
    | with_reducible refine (foldl_ctl1 ?_ _).trans ?_
    | with_reducible refine (foldl_ctl2 ?_ _).trans ?_
    | (have hh := takeRun_ctl (by assumption); (try simp at hh); simp [hh]; done)
    | (have hh := takeRuns_ctl (by assumption); (try simp at hh); simp [hh]; done)
    | (have hh := runFor_ctl (by assumption); (try simp at hh); simp [hh]; done)
    | (have hh := runsFor_ctl (by assumption); (try simp at hh); simp [hh]; done)
    | (have hh := flashWrite_ctl (by assumption); (try simp at hh); simp [hh]; done)
    | (have hh := takeTable_ctl (by assumption); (try simp at hh); simp [hh]; done)
    | (have hh := growCopy_ctl (by assumption); (try simp at hh); simp [hh]; done)
    | (have hh := configNow_ctl (by assumption); (try simp at hh); simp [hh]; done)
    | (have hh := grantRuns_ctl (by assumption); (try simp at hh); simp [hh]; done)
    | (have hh := beginWarm_ctl (by assumption); (try simp at hh); simp [hh]; done)
    | (have hh := spillOldest_ctl (by assumption); (try simp at hh); simp [hh]; done)
    | (have hh := shardRuns_ctl (by assumption); (try simp at hh); simp [hh]; done)
    | (have hh := createNow_ctl (by assumption); (try simp at hh); simp [hh]; done)
    | (have hh := writeNow_ctl (by assumption); (try simp at hh); simp [hh]; done)
    | (have hh := restoreTables_ctl (by assumption); (try simp at hh); simp [hh]; done)
    | (have hh := applyTables_ctl (by assumption); (try simp at hh); simp [hh]; done)
    | (have hh := restoreNodes_ctl (by assumption); (try simp at hh); simp [hh]; done)
    | (have hh := applyShards_ctl (by assumption); (try simp at hh); simp [hh]; done)
    | (have hh := restoreAll_ctl (by assumption); (try simp at hh); simp [hh]; done)
    | (have hh := restoreTable_ctl (by assumption); (try simp at hh); simp [hh]; done)
    | (have hh := restoreShard_ctl (by assumption); (try simp at hh); simp [hh]; done)
    | (have hh := applyShard_ctl (by assumption); (try simp at hh); simp [hh]; done)
    | (have hh := restoreCask_ctl (by assumption); (try simp at hh); simp [hh]; done)
    | (have hh := restoreModel_ctl (by assumption); (try simp at hh); simp [hh]; done)
    | (have hh := restoreObject_ctl (by assumption); (try simp at hh); simp [hh]; done)
    | (have hh := restoreSess_ctl (by assumption); (try simp at hh); simp [hh]; done)
    | (have hh := ownCondense_ctl (by assumption); (try simp at hh); simp [hh]; done)
    | (have hh := runsForAll_ctl (by assumption); (try simp at hh); simp [hh]; done)
    | (simp; refine pair_ctl2 (by assumption) ?_)
    | (simp; refine pair_ctl1 (by assumption) ?_)
    | simp

@[simp] theorem chargeAll_ctl (s : State) (sl : Nat) (act : Nat) (cs : List (Nat × Nat)) : (chargeAll s sl act cs).ctl = s.ctl := by
  simp [chargeAll]

@[simp] theorem classShare_ctl (s : State) (items : List Item) (g : Segment) (n : Nat) (start : Nat) (sw : Nat) (main : Bool) : (classShare s items g n start sw main).ctl = s.ctl := by
  simp [classShare]

@[simp] theorem putSealed_ctl (s : State) (i : Nat) (e : Entry) : (putSealed s i e).ctl = s.ctl := rfl

@[simp] theorem startEntry_ctl (s : State) (i : Nat) (act : Nat) (sl : Nat) (g : Segment) (items : List Item) (tenant : Nat) (prev : Nat) (carry : Nat) (at_ : Nat) (main : Bool) : (startEntry s i act sl g items tenant prev carry at_ main).ctl = s.ctl := by
  unfold startEntry
  repeat' first
    | with_reducible rfl
    | assumption
    | (simp; done)
    | intro _
    | dsimp only
    | split
    | with_reducible refine (foldl_ctl ?_ _).trans ?_
    | with_reducible refine (foldl_ctl1 ?_ _).trans ?_
    | with_reducible refine (foldl_ctl2 ?_ _).trans ?_
    | simp

@[simp] theorem holdWork_ctl (s : State) (sl : Nat) (act : Nat) (cur : Nat) : (holdWork s sl act cur).ctl = s.ctl := by
  simp [holdWork]

@[simp] theorem reshare_ctl (s : State) (e : Entry) (seg : Segment) (u : Nat × Nat) : (reshare s e seg u).ctl = s.ctl := by
  unfold reshare
  repeat' first
    | with_reducible rfl
    | assumption
    | (simp; done)
    | intro _
    | with_reducible refine asyncCmd_ctl _ _ _ _ _ _ _ _ ?_
    | with_reducible refine syncCmd_ctl _ _ _ _ _ _ ?_
    | with_reducible refine lateSync_ctl _ _ _ _ _ _ _ _ ?_
    | dsimp only
    | split
    | with_reducible refine (foldl_ctl ?_ _).trans ?_
    | with_reducible refine (foldl_ctl1 ?_ _).trans ?_
    | with_reducible refine (foldl_ctl2 ?_ _).trans ?_
    | (have hh := takeRun_ctl (by assumption); (try simp at hh); simp [hh]; done)
    | (have hh := takeRuns_ctl (by assumption); (try simp at hh); simp [hh]; done)
    | (have hh := runFor_ctl (by assumption); (try simp at hh); simp [hh]; done)
    | (have hh := runsFor_ctl (by assumption); (try simp at hh); simp [hh]; done)
    | (have hh := flashWrite_ctl (by assumption); (try simp at hh); simp [hh]; done)
    | (have hh := takeTable_ctl (by assumption); (try simp at hh); simp [hh]; done)
    | (have hh := growCopy_ctl (by assumption); (try simp at hh); simp [hh]; done)
    | (have hh := configNow_ctl (by assumption); (try simp at hh); simp [hh]; done)
    | (have hh := grantRuns_ctl (by assumption); (try simp at hh); simp [hh]; done)
    | (have hh := beginWarm_ctl (by assumption); (try simp at hh); simp [hh]; done)
    | (have hh := spillOldest_ctl (by assumption); (try simp at hh); simp [hh]; done)
    | (have hh := shardRuns_ctl (by assumption); (try simp at hh); simp [hh]; done)
    | (have hh := createNow_ctl (by assumption); (try simp at hh); simp [hh]; done)
    | (have hh := writeNow_ctl (by assumption); (try simp at hh); simp [hh]; done)
    | (have hh := restoreTables_ctl (by assumption); (try simp at hh); simp [hh]; done)
    | (have hh := applyTables_ctl (by assumption); (try simp at hh); simp [hh]; done)
    | (have hh := restoreNodes_ctl (by assumption); (try simp at hh); simp [hh]; done)
    | (have hh := applyShards_ctl (by assumption); (try simp at hh); simp [hh]; done)
    | (have hh := restoreAll_ctl (by assumption); (try simp at hh); simp [hh]; done)
    | (have hh := restoreTable_ctl (by assumption); (try simp at hh); simp [hh]; done)
    | (have hh := restoreShard_ctl (by assumption); (try simp at hh); simp [hh]; done)
    | (have hh := applyShard_ctl (by assumption); (try simp at hh); simp [hh]; done)
    | (have hh := restoreCask_ctl (by assumption); (try simp at hh); simp [hh]; done)
    | (have hh := restoreModel_ctl (by assumption); (try simp at hh); simp [hh]; done)
    | (have hh := restoreObject_ctl (by assumption); (try simp at hh); simp [hh]; done)
    | (have hh := restoreSess_ctl (by assumption); (try simp at hh); simp [hh]; done)
    | (have hh := ownCondense_ctl (by assumption); (try simp at hh); simp [hh]; done)
    | (have hh := runsForAll_ctl (by assumption); (try simp at hh); simp [hh]; done)
    | (have hh := takePosted_ctl (by assumption); (try simp at hh); simp [hh]; done)
    | (simp; refine pair_ctl2 (by assumption) ?_)
    | (simp; refine pair_ctl1 (by assumption) ?_)
    | simp

@[simp] theorem fillChoice_ctl (x0 : Nat) (s : State) (x2 : Nat) (x3 : Nat) (x4 : Nat) (x5 : Nat) (x6 : Option Nat) : (fillChoice x0 s x2 x3 x4 x5 x6).ctl = s.ctl := by
  induction x0 generalizing s x2 x3 x4 x5 x6 with
  | zero => rfl
  | succ n ih =>
    unfold fillChoice
    repeat' first
      | with_reducible rfl
      | assumption
      | (simp [ih]; done)
      | intro _
      | with_reducible refine asyncCmd_ctl _ _ _ _ _ _ _ _ ?_
      | with_reducible refine syncCmd_ctl _ _ _ _ _ _ ?_
      | with_reducible refine lateSync_ctl _ _ _ _ _ _ _ _ ?_
      | dsimp only
      | split
      | with_reducible refine (foldl_ctl ?_ _).trans ?_
      | with_reducible refine (foldl_ctl1 ?_ _).trans ?_
      | with_reducible refine (foldl_ctl2 ?_ _).trans ?_
      | (have hh := takeRun_ctl (by assumption); (try simp at hh); simp [hh]; done)
      | (have hh := takeRuns_ctl (by assumption); (try simp at hh); simp [hh]; done)
      | (have hh := runFor_ctl (by assumption); (try simp at hh); simp [hh]; done)
      | (have hh := runsFor_ctl (by assumption); (try simp at hh); simp [hh]; done)
      | (have hh := flashWrite_ctl (by assumption); (try simp at hh); simp [hh]; done)
      | (have hh := takeTable_ctl (by assumption); (try simp at hh); simp [hh]; done)
      | (have hh := growCopy_ctl (by assumption); (try simp at hh); simp [hh]; done)
      | (have hh := configNow_ctl (by assumption); (try simp at hh); simp [hh]; done)
      | (have hh := grantRuns_ctl (by assumption); (try simp at hh); simp [hh]; done)
      | (have hh := beginWarm_ctl (by assumption); (try simp at hh); simp [hh]; done)
      | (have hh := spillOldest_ctl (by assumption); (try simp at hh); simp [hh]; done)
      | (have hh := shardRuns_ctl (by assumption); (try simp at hh); simp [hh]; done)
      | (have hh := createNow_ctl (by assumption); (try simp at hh); simp [hh]; done)
      | (have hh := writeNow_ctl (by assumption); (try simp at hh); simp [hh]; done)
      | (have hh := restoreTables_ctl (by assumption); (try simp at hh); simp [hh]; done)
      | (have hh := applyTables_ctl (by assumption); (try simp at hh); simp [hh]; done)
      | (have hh := restoreNodes_ctl (by assumption); (try simp at hh); simp [hh]; done)
      | (have hh := applyShards_ctl (by assumption); (try simp at hh); simp [hh]; done)
      | (have hh := restoreAll_ctl (by assumption); (try simp at hh); simp [hh]; done)
      | (have hh := restoreTable_ctl (by assumption); (try simp at hh); simp [hh]; done)
      | (have hh := restoreShard_ctl (by assumption); (try simp at hh); simp [hh]; done)
      | (have hh := applyShard_ctl (by assumption); (try simp at hh); simp [hh]; done)
      | (have hh := restoreCask_ctl (by assumption); (try simp at hh); simp [hh]; done)
      | (have hh := restoreModel_ctl (by assumption); (try simp at hh); simp [hh]; done)
      | (have hh := restoreObject_ctl (by assumption); (try simp at hh); simp [hh]; done)
      | (have hh := restoreSess_ctl (by assumption); (try simp at hh); simp [hh]; done)
      | (have hh := ownCondense_ctl (by assumption); (try simp at hh); simp [hh]; done)
      | (have hh := runsForAll_ctl (by assumption); (try simp at hh); simp [hh]; done)
      | (have hh := takePosted_ctl (by assumption); (try simp at hh); simp [hh]; done)
      | (simp; refine pair_ctl2 (by assumption) ?_)
      | (simp; refine pair_ctl1 (by assumption) ?_)
      | simp [ih]

@[simp] theorem sealGroup_ctl (s : State) (t : MashTable) (phases : Tab Bool) (r : Nat) (i : Nat) : (sealGroup s t phases r i).ctl = s.ctl := by
  unfold sealGroup
  repeat' first
    | with_reducible rfl
    | assumption
    | (simp; done)
    | intro _
    | dsimp only
    | split
    | simp

@[simp] theorem stageFlash_ctl (s : State) (e : Entry) : (stageFlash s e).ctl = s.ctl := by
  simp [stageFlash]

@[simp] theorem composeDie_ctl (s : State) (d : Nat) : (composeDie s d).ctl = s.ctl := rfl

end Sys2Proof.Machine
end

