-- ==== Sys2Proof/Laws/FrameRest.lean ====
section
/-! SUPPORT. What the functions of Machine/Rest.lean leave alone: the control part of a state. -/
namespace Sys2Proof.Machine
set_option linter.unusedTactic false
set_option linter.unreachableTactic false

@[simp] theorem stepHold_ctl (s : State) : (stepHold s).ctl = s.ctl := rfl

@[simp] theorem refillBal_ctl (s : State) : (refillBal s).ctl = s.ctl := by
  unfold refillBal
  repeat' first
    | with_reducible rfl
    | assumption
    | (simp; done)
    | intro _
    | dsimp only
    | split
    | with_reducible refine (foldl_ctl ?_ _).trans ?_
    | with_reducible refine (foldl_ctl1 ?_ _).trans ?_
    | with_reducible refine (foldl_ctl2 ?_ _).trans ?_
    | simp

@[simp] theorem payAhead_ctl (s : State) : (payAhead s).ctl = s.ctl := by
  simp [payAhead]

@[simp] theorem clearHeld_ctl (s : State) : (clearHeld s).ctl = s.ctl := rfl

@[simp] theorem setAllowance_ctl (s : State) : (setAllowance s).ctl = s.ctl := rfl

@[simp] theorem raiseSlow_ctl (s : State) (c : Nat) (k : ShareClass) (reason : Nat) (slow : Nat) (causes : List Nat) : (raiseSlow s c k reason slow causes).ctl = s.ctl := by
  simp [raiseSlow]

@[simp] theorem endWindows_ctl (s : State) : (endWindows s).ctl = s.ctl := by
  simp [endWindows]

@[simp] theorem countNoGroup_ctl (s : State) : (countNoGroup s).ctl = s.ctl := rfl

@[simp] theorem beyondBuckets_ctl (s : State) : (beyondBuckets s).ctl = s.ctl := by
  simp [beyondBuckets]

@[simp] theorem refillShapers_ctl (s : State) : (refillShapers s).ctl = s.ctl := rfl

@[simp] theorem govSlice_ctl (s : State) (sl : Nat) : (govSlice s sl).ctl = s.ctl := by
  unfold govSlice
  repeat' first
    | with_reducible rfl
    | assumption
    | (simp; done)
    | intro _
    | dsimp only
    | split
    | simp

@[simp] theorem activateBal_ctl (s : State) : (activateBal s).ctl = s.ctl := by
  unfold activateBal
  repeat' first
    | with_reducible rfl
    | assumption
    | (simp; done)
    | intro _
    | dsimp only
    | split
    | with_reducible refine (foldl_ctl ?_ _).trans ?_
    | with_reducible refine (foldl_ctl1 ?_ _).trans ?_
    | with_reducible refine (foldl_ctl2 ?_ _).trans ?_
    | simp

@[simp] theorem dropSealed_ctl (s : State) (g : Group) : (dropSealed s g).ctl = s.ctl := by
  simp [dropSealed]

@[simp] theorem rehome_ctl (s : State) (o : Nat × Nat × Entry) : (rehome s o).ctl = s.ctl := by
  unfold rehome
  split <;> simp

@[simp] theorem rehomeKept_ctl (s : State) (o : Nat × Nat × Entry) : (rehomeKept s o).ctl = s.ctl := by
  unfold rehomeKept
  split <;> simp

@[simp] theorem resendBusy_ctl (s : State) (x : Sess) : (resendBusy s x).ctl = s.ctl := by
  unfold resendBusy
  split <;> simp

@[simp] theorem retryPark_ctl (s : State) (idx : Nat) : (retryPark s idx).ctl = s.ctl := by
  unfold retryPark
  split <;> simp

@[simp] theorem resumeRevive_ctl (s : State) (idx : Nat) : (resumeRevive s idx).ctl = s.ctl := by
  unfold resumeRevive
  repeat' first
    | with_reducible rfl
    | assumption
    | (simp; done)
    | intro _
    | with_reducible refine asyncCmd_ctl _ _ _ _ _ _ _ _ ?_
    | with_reducible refine syncCmd_ctl _ _ _ _ _ _ ?_
    | with_reducible refine lateSync_ctl _ _ _ _ _ _ _ _ ?_
    | dsimp only
    | split
    | with_reducible refine (foldl_ctl ?_ _).trans ?_
    | with_reducible refine (foldl_ctl1 ?_ _).trans ?_
    | with_reducible refine (foldl_ctl2 ?_ _).trans ?_
    | (have hh := takeRun_ctl (by assumption); (try simp at hh); simp [hh]; done)
    | (have hh := takeRuns_ctl (by assumption); (try simp at hh); simp [hh]; done)
    | (have hh := runFor_ctl (by assumption); (try simp at hh); simp [hh]; done)
    | (have hh := runsFor_ctl (by assumption); (try simp at hh); simp [hh]; done)
    | (have hh := flashWrite_ctl (by assumption); (try simp at hh); simp [hh]; done)
    | (have hh := takeTable_ctl (by assumption); (try simp at hh); simp [hh]; done)
    | (have hh := growCopy_ctl (by assumption); (try simp at hh); simp [hh]; done)
    | (have hh := configNow_ctl (by assumption); (try simp at hh); simp [hh]; done)
    | (have hh := grantRuns_ctl (by assumption); (try simp at hh); simp [hh]; done)
    | (have hh := beginWarm_ctl (by assumption); (try simp at hh); simp [hh]; done)
    | (have hh := spillOldest_ctl (by assumption); (try simp at hh); simp [hh]; done)
    | (have hh := shardRuns_ctl (by assumption); (try simp at hh); simp [hh]; done)
    | (have hh := createNow_ctl (by assumption); (try simp at hh); simp [hh]; done)
    | (have hh := writeNow_ctl (by assumption); (try simp at hh); simp [hh]; done)
    | (have hh := restoreTables_ctl (by assumption); (try simp at hh); simp [hh]; done)
    | (have hh := applyTables_ctl (by assumption); (try simp at hh); simp [hh]; done)
    | (have hh := restoreNodes_ctl (by assumption); (try simp at hh); simp [hh]; done)
    | (have hh := applyShards_ctl (by assumption); (try simp at hh); simp [hh]; done)
    | (have hh := restoreAll_ctl (by assumption); (try simp at hh); simp [hh]; done)
    | (have hh := restoreTable_ctl (by assumption); (try simp at hh); simp [hh]; done)
    | (have hh := restoreShard_ctl (by assumption); (try simp at hh); simp [hh]; done)
    | (have hh := applyShard_ctl (by assumption); (try simp at hh); simp [hh]; done)
    | (have hh := restoreCask_ctl (by assumption); (try simp at hh); simp [hh]; done)
    | (have hh := restoreModel_ctl (by assumption); (try simp at hh); simp [hh]; done)
    | (have hh := restoreObject_ctl (by assumption); (try simp at hh); simp [hh]; done)
    | (have hh := restoreSess_ctl (by assumption); (try simp at hh); simp [hh]; done)
    | (have hh := ownCondense_ctl (by assumption); (try simp at hh); simp [hh]; done)
    | (have hh := runsForAll_ctl (by assumption); (try simp at hh); simp [hh]; done)
    | (simp; refine pair_ctl2 (by assumption) ?_)
    | (simp; refine pair_ctl1 (by assumption) ?_)
    | simp

@[simp] theorem resumeJob_ctl (s : State) (j : Job) : (resumeJob s j).ctl = s.ctl := by
  unfold resumeJob
  split <;> simp

@[simp] theorem resumeIncoming_ctl (s : State) (m : MigIn) : (resumeIncoming s m).ctl = s.ctl := by
  simp [resumeIncoming]

@[simp] theorem resumeSess_ctl (s : State) (p : Nat × Sess) : (resumeSess s p).ctl = s.ctl := by
  unfold resumeSess
  repeat' first
    | with_reducible rfl
    | assumption
    | (simp; done)
    | intro _
    | dsimp only
    | split
    | simp

@[simp] theorem resumeWork_ctl (s : State) : (resumeWork s).ctl = s.ctl := by
  unfold resumeWork
  repeat' first
    | with_reducible rfl
    | assumption
    | (simp; done)
    | intro _
    | dsimp only
    | split
    | with_reducible refine (foldl_ctl ?_ _).trans ?_
    | with_reducible refine (foldl_ctl1 ?_ _).trans ?_
    | with_reducible refine (foldl_ctl2 ?_ _).trans ?_
    | simp

@[simp] theorem beginCycle_ctl (s : State) : (beginCycle s).ctl = s.ctl := by
  simp [beginCycle]

@[simp] theorem sealGroups_ctl (s : State) (ph : Tab Bool) (r : Nat) (ahead : Bool) : (sealGroups s ph r ahead).ctl = s.ctl := by
  simp [sealGroups]

@[simp] theorem sealComing_ctl (s : State) (t : MashTable) : (sealComing s t).ctl = s.ctl := by
  simp [sealComing]

end Sys2Proof.Machine
end

