-- ==== Sys2Proof/Laws/FrameSchedCmd.lean ====
section
/-! SUPPORT. What the functions of Machine/SchedCmd.lean leave alone: the control part of a state. -/
namespace Sys2Proof.Machine
set_option linter.unusedTactic false
set_option linter.unreachableTactic false

theorem execShareSet_ctl {h : Hdr} {shareClass : Nat} {tenant : Nat} {weight : Nat} {rtRests : Nat} {s : State} {t : State} (h : execShareSet h shareClass tenant weight rtRests s = .next t) : t.ctl = s.ctl := by
  cases h
  simp

theorem execShaperSet_ctl {h : Hdr} {tenant : Nat} {shaper : Nat} {rate : Nat} {burst : Nat} {s : State} {t : State} (h : execShaperSet h tenant shaper rate burst s = .next t) : t.ctl = s.ctl := by
  cases h
  repeat' first
    | with_reducible rfl
    | assumption
    | (simp; done)
    | intro _
    | with_reducible refine syncCmd_ctl _ _ _ _ _ _ ?_
    | dsimp only
    | split
    | simp

theorem execGateListLoad_ctl {h : Hdr} {port : Nat} {count : Nat} {activateAt : Nat} {entries : List (Nat × Nat)} {s : State} {t : State} (h : execGateListLoad h port count activateAt entries s = .next t) : t.ctl = s.ctl := by
  cases h
  simp

theorem execGateListActivate_ctl {port : Nat} {s : State} {t : State} (h : execGateListActivate port s = .next t) : t.ctl = s.ctl := by
  cases h
  split <;> simp

theorem execGateEntryAdvance_ctl {port : Nat} {s : State} {t : State} (h : execGateEntryAdvance port s = .next t) : t.ctl = s.ctl := by
  cases h
  split <;> simp

theorem execServiceClassSet_ctl {h : Hdr} {cls : Nat} {scFlags : Nat} {pageMaxLog2 : Nat} {dwellMs : Nat} {ttlS : Nat} {condenseSlots : Nat} {s : State} {t : State} (h : execServiceClassSet h cls scFlags pageMaxLog2 dwellMs ttlS condenseSlots s = .next t) : t.ctl = s.ctl := by
  cases h
  simp

theorem execSliceSet_ctl {h : Hdr} {slice : Nat} {tiles : Nat} {lanes : Nat} {pcs : Nat} {s : State} {t : State} (h : execSliceSet h slice tiles lanes pcs s = .next t) : t.ctl = s.ctl := by
  cases h
  simp

@[simp] theorem closeAt_ctl (s : State) (peer : Nat) (x : Sess) : (closeAt s peer x).ctl = s.ctl := by
  simp [closeAt]

theorem execBuddySet_ctl {h : Hdr} {slice : Nat} {buddyPeer : Nat} {s : State} {t : State} (h : execBuddySet h slice buddyPeer s = .next t) : t.ctl = s.ctl := by
  cases h
  repeat' first
    | with_reducible rfl
    | assumption
    | (simp; done)
    | intro _
    | with_reducible refine syncCmd_ctl _ _ _ _ _ _ ?_
    | dsimp only
    | split
    | with_reducible refine (foldl_ctl ?_ _).trans ?_
    | with_reducible refine (foldl_ctl1 ?_ _).trans ?_
    | with_reducible refine (foldl_ctl2 ?_ _).trans ?_
    | (simp; refine pair_ctl2 (by assumption) ?_)
    | (simp; refine pair_ctl1 (by assumption) ?_)
    | simp

end Sys2Proof.Machine
end

