-- ==== Sys2Proof/Laws/FrameCkpt.lean ====
section
/-! SUPPORT. What the functions of Machine/Ckpt.lean leave alone: the control part of a state. -/
namespace Sys2Proof.Machine
set_option linter.unusedTactic false
set_option linter.unreachableTactic false

@[simp] theorem setPhase_ctl (s : State) (gen : Nat) (p : Nat) (shards : Nat) (bytes : Nat) : (setPhase s gen p shards bytes).ctl = s.ctl := rfl

@[simp] theorem freeDeferred_ctl (s : State) : (freeDeferred s).ctl = s.ctl := by
  simp [freeDeferred]

@[simp] theorem unstage_ctl (s : State) (all_ : Bool) : (unstage s all_).ctl = s.ctl := by
  unfold unstage
  repeat' first
    | with_reducible rfl
    | assumption
    | (simp; done)
    | intro _
    | with_reducible refine asyncCmd_ctl _ _ _ _ _ _ _ _ ?_
    | with_reducible refine syncCmd_ctl _ _ _ _ _ _ ?_
    | with_reducible refine lateSync_ctl _ _ _ _ _ _ _ _ ?_
    | dsimp only
    | split
    | with_reducible refine (foldl_ctl ?_ _).trans ?_
    | with_reducible refine (foldl_ctl1 ?_ _).trans ?_
    | with_reducible refine (foldl_ctl2 ?_ _).trans ?_
    | (have hh := takeRun_ctl (by assumption); (try simp at hh); simp [hh]; done)
    | (have hh := takeRuns_ctl (by assumption); (try simp at hh); simp [hh]; done)
    | (have hh := runFor_ctl (by assumption); (try simp at hh); simp [hh]; done)
    | (have hh := runsFor_ctl (by assumption); (try simp at hh); simp [hh]; done)
    | (have hh := flashWrite_ctl (by assumption); (try simp at hh); simp [hh]; done)
    | (have hh := takeTable_ctl (by assumption); (try simp at hh); simp [hh]; done)
    | (have hh := growCopy_ctl (by assumption); (try simp at hh); simp [hh]; done)
    | (have hh := configNow_ctl (by assumption); (try simp at hh); simp [hh]; done)
    | (have hh := grantRuns_ctl (by assumption); (try simp at hh); simp [hh]; done)
    | (have hh := beginWarm_ctl (by assumption); (try simp at hh); simp [hh]; done)
    | (have hh := spillOldest_ctl (by assumption); (try simp at hh); simp [hh]; done)
    | (have hh := shardRuns_ctl (by assumption); (try simp at hh); simp [hh]; done)
    | (have hh := createNow_ctl (by assumption); (try simp at hh); simp [hh]; done)
    | (have hh := writeNow_ctl (by assumption); (try simp at hh); simp [hh]; done)
    | (have hh := restoreTables_ctl (by assumption); (try simp at hh); simp [hh]; done)
    | (have hh := applyTables_ctl (by assumption); (try simp at hh); simp [hh]; done)
    | (have hh := restoreNodes_ctl (by assumption); (try simp at hh); simp [hh]; done)
    | (have hh := applyShards_ctl (by assumption); (try simp at hh); simp [hh]; done)
    | (have hh := restoreAll_ctl (by assumption); (try simp at hh); simp [hh]; done)
    | (have hh := restoreTable_ctl (by assumption); (try simp at hh); simp [hh]; done)
    | (have hh := restoreShard_ctl (by assumption); (try simp at hh); simp [hh]; done)
    | (have hh := applyShard_ctl (by assumption); (try simp at hh); simp [hh]; done)
    | (have hh := restoreCask_ctl (by assumption); (try simp at hh); simp [hh]; done)
    | (have hh := restoreModel_ctl (by assumption); (try simp at hh); simp [hh]; done)
    | (have hh := restoreObject_ctl (by assumption); (try simp at hh); simp [hh]; done)
    | (have hh := restoreSess_ctl (by assumption); (try simp at hh); simp [hh]; done)
    | (have hh := ownCondense_ctl (by assumption); (try simp at hh); simp [hh]; done)
    | (have hh := runsForAll_ctl (by assumption); (try simp at hh); simp [hh]; done)
    | (simp; refine pair_ctl2 (by assumption) ?_)
    | (simp; refine pair_ctl1 (by assumption) ?_)
    | simp

@[simp] theorem endRun_ctl (s : State) : (endRun s).ctl = s.ctl := by
  simp [endRun]

@[simp] theorem remark_ctl (s : State) (m : Nat × Nat × Nat) : (remark s m).ctl = s.ctl := rfl

@[simp] theorem ckptFail_ctl (s : State) : (ckptFail s).ctl = s.ctl := by
  unfold ckptFail
  repeat' first
    | with_reducible rfl
    | assumption
    | (simp; done)
    | intro _
    | with_reducible refine asyncCmd_ctl _ _ _ _ _ _ _ _ ?_
    | with_reducible refine syncCmd_ctl _ _ _ _ _ _ ?_
    | with_reducible refine lateSync_ctl _ _ _ _ _ _ _ _ ?_
    | dsimp only
    | split
    | with_reducible refine (foldl_ctl ?_ _).trans ?_
    | with_reducible refine (foldl_ctl1 ?_ _).trans ?_
    | with_reducible refine (foldl_ctl2 ?_ _).trans ?_
    | (have hh := takeRun_ctl (by assumption); (try simp at hh); simp [hh]; done)
    | (have hh := takeRuns_ctl (by assumption); (try simp at hh); simp [hh]; done)
    | (have hh := runFor_ctl (by assumption); (try simp at hh); simp [hh]; done)
    | (have hh := runsFor_ctl (by assumption); (try simp at hh); simp [hh]; done)
    | (have hh := flashWrite_ctl (by assumption); (try simp at hh); simp [hh]; done)
    | (have hh := takeTable_ctl (by assumption); (try simp at hh); simp [hh]; done)
    | (have hh := growCopy_ctl (by assumption); (try simp at hh); simp [hh]; done)
    | (have hh := configNow_ctl (by assumption); (try simp at hh); simp [hh]; done)
    | (have hh := grantRuns_ctl (by assumption); (try simp at hh); simp [hh]; done)
    | (have hh := beginWarm_ctl (by assumption); (try simp at hh); simp [hh]; done)
    | (have hh := spillOldest_ctl (by assumption); (try simp at hh); simp [hh]; done)
    | (have hh := shardRuns_ctl (by assumption); (try simp at hh); simp [hh]; done)
    | (have hh := createNow_ctl (by assumption); (try simp at hh); simp [hh]; done)
    | (have hh := writeNow_ctl (by assumption); (try simp at hh); simp [hh]; done)
    | (have hh := restoreTables_ctl (by assumption); (try simp at hh); simp [hh]; done)
    | (have hh := applyTables_ctl (by assumption); (try simp at hh); simp [hh]; done)
    | (have hh := restoreNodes_ctl (by assumption); (try simp at hh); simp [hh]; done)
    | (have hh := applyShards_ctl (by assumption); (try simp at hh); simp [hh]; done)
    | (have hh := restoreAll_ctl (by assumption); (try simp at hh); simp [hh]; done)
    | (have hh := restoreTable_ctl (by assumption); (try simp at hh); simp [hh]; done)
    | (have hh := restoreShard_ctl (by assumption); (try simp at hh); simp [hh]; done)
    | (have hh := applyShard_ctl (by assumption); (try simp at hh); simp [hh]; done)
    | (have hh := restoreCask_ctl (by assumption); (try simp at hh); simp [hh]; done)
    | (have hh := restoreModel_ctl (by assumption); (try simp at hh); simp [hh]; done)
    | (have hh := restoreObject_ctl (by assumption); (try simp at hh); simp [hh]; done)
    | (have hh := restoreSess_ctl (by assumption); (try simp at hh); simp [hh]; done)
    | (have hh := ownCondense_ctl (by assumption); (try simp at hh); simp [hh]; done)
    | (have hh := runsForAll_ctl (by assumption); (try simp at hh); simp [hh]; done)
    | (simp; refine pair_ctl2 (by assumption) ?_)
    | (simp; refine pair_ctl1 (by assumption) ?_)
    | simp

theorem execCkptStart_ctl {h : Hdr} {generation : Nat} {gateways : Nat} {peers : List Nat} {s : State} {t : State} (h : execCkptStart h generation gateways peers s = .next t) : t.ctl = s.ctl := by
  cases h
  simp

theorem execCkptStatus_ctl {h : Hdr} {generation : Nat} {s : State} {t : State} (h : execCkptStatus h generation s = .next t) : t.ctl = s.ctl := by
  cases h
  simp

@[simp] theorem ckptPump_ctl (s : State) : (ckptPump s).ctl = s.ctl := by
  unfold ckptPump
  split <;> simp

@[simp] theorem ckptPoint_ctl (s : State) : (ckptPoint s).ctl = s.ctl := by
  unfold ckptPoint
  split <;> simp

@[simp] theorem stageOne_ctl (s : State) (o : StagedObj) : (stageOne s o).ctl = s.ctl := by
  unfold stageOne
  split
  · rfl
  · split
    · rfl
    · dsimp only
      generalize hs : (if o.share < 65536 then noteClass (charge s o.slice 8 1 o.bytes) o.share 1 o.bytes
        else charge s o.slice 8 1 o.bytes) = u
      have hu : u.ctl = s.ctl := by subst hs; split <;> simp
      cases hg : takeRuns u o.die o.tenant o.slice (weightOrders o.bytes) with
      | none => split <;> simpa using hu
      | some p =>
        have hp := (takeRuns_ctl hg).trans hu
        split <;> simpa using hp

@[simp] theorem ckptStage_ctl (s : State) : (ckptStage s).ctl = s.ctl := by
  unfold ckptStage
  repeat' first
    | with_reducible rfl
    | assumption
    | (simp; done)
    | intro _
    | dsimp only
    | split
    | with_reducible refine (foldl_ctl ?_ _).trans ?_
    | with_reducible refine (foldl_ctl1 ?_ _).trans ?_
    | with_reducible refine (foldl_ctl2 ?_ _).trans ?_
    | simp

@[simp] theorem sendManifest_ctl (s : State) (tried : List Nat) : (sendManifest s tried).ctl = s.ctl := by
  unfold sendManifest
  repeat' first
    | with_reducible rfl
    | assumption
    | (simp; done)
    | intro _
    | dsimp only
    | split
    | simp

@[simp] theorem ckptComplete_ctl (s : State) (r : CkptRun) : (ckptComplete s r).ctl = s.ctl := by
  simp [ckptComplete]

@[simp] theorem ckptAdvance_ctl (s : State) : (ckptAdvance s).ctl = s.ctl := by
  unfold ckptAdvance
  split <;> simp

theorem execPutDone_ctl {shardIndex : Nat} {s : State} {t : State} (h : execPutDone shardIndex s = .next t) : t.ctl = s.ctl := by
  cases h
  repeat' first
    | with_reducible rfl
    | assumption
    | (simp; done)
    | intro _
    | dsimp only
    | split
    | simp

@[simp] theorem putAgain_ctl (s : State) (shardIndex : Nat) : (putAgain s shardIndex).ctl = s.ctl := by
  unfold putAgain
  repeat' first
    | with_reducible rfl
    | assumption
    | (simp; done)
    | intro _
    | dsimp only
    | split
    | simp

theorem execPutFail_ctl {shardIndex : Nat} {s : State} {t : State} (h : execPutFail shardIndex s = .next t) : t.ctl = s.ctl := by
  cases h
  simp

@[simp] theorem ckptPeerLost_ctl (s : State) (peer : Nat) : (ckptPeerLost s peer).ctl = s.ctl := by
  unfold ckptPeerLost
  split <;> simp

@[simp] theorem ckptDropTenant_ctl (s : State) (t : Nat) : (ckptDropTenant s t).ctl = s.ctl := by
  simp [ckptDropTenant]

theorem execRestoreStart_ctl {h : Hdr} {manifest : ObjRef} {s : State} {t : State} (h : execRestoreStart h manifest s = .next t) : t.ctl = s.ctl := by
  cases h
  simp

@[simp] theorem restoreFail_ctl (s : State) (a : Ans) : (restoreFail s a).ctl = s.ctl := by
  unfold restoreFail
  repeat' first
    | with_reducible rfl
    | assumption
    | (simp; done)
    | intro _
    | dsimp only
    | split
    | with_reducible refine (foldl_ctl ?_ _).trans ?_
    | with_reducible refine (foldl_ctl1 ?_ _).trans ?_
    | with_reducible refine (foldl_ctl2 ?_ _).trans ?_
    | simp

@[simp] theorem restoreAsk_ctl (s : State) (g : Nat) : (restoreAsk s g).ctl = s.ctl := by
  unfold restoreAsk
  repeat' first
    | with_reducible rfl
    | assumption
    | (simp; done)
    | intro _
    | dsimp only
    | split
    | simp

theorem writeNow_ctl {s : State} {sl : Nat} {tenant : Nat} {n : Nat} {o : Owner} {t} (h : writeNow s sl tenant n o = some t) : t.2.ctl = s.ctl := by
  unfold writeNow at h
  split at h
  · rename_i h1
    rw [Option.map_eq_some_iff] at h
    obtain ⟨w, hw, rfl⟩ := h
    simp [flashWrite_ctl h1]
  · cases h

@[simp] theorem applyConfig_ctl (s : State) (d : ShardData) : (applyConfig s d).1.ctl = s.ctl := by
  unfold applyConfig
  repeat' first
    | with_reducible rfl
    | assumption
    | (simp; done)
    | intro _
    | dsimp only
    | split
    | with_reducible refine (foldl_ctl ?_ _).trans ?_
    | with_reducible refine (foldl_ctl1 ?_ _).trans ?_
    | with_reducible refine (foldl_ctl2 ?_ _).trans ?_
    | (simp; refine pair_ctl2 (by assumption) ?_)
    | (simp; refine pair_ctl1 (by assumption) ?_)
    | simp

@[simp] theorem modRestore_ctl (s : State) (f : RestoreRun → RestoreRun) : (modRestore s f).ctl = s.ctl := rfl

theorem restoreTable_ctl {s : State} {t : Nat} {x : RowTable} {u : State} (h : restoreTable s t x = some u) : u.ctl = s.ctl := by
  unfold restoreTable at h
  split at h
  · cases h; rfl
  · split at h
    · cases h
    · rename_i hh
      cases h
      exact (modRestore_ctl ..).trans (takeRuns_ctl hh)

theorem restoreTables_ctl {s : State} {l : List (Nat × RowTable)} {t : State} (h : restoreTables s l = some t) : t.ctl = s.ctl := by
  induction l generalizing s t with
  | nil => cases h; rfl
  | cons n l ih =>
    unfold restoreTables at h
    split at h
    · cases h
    · rename_i h1
      exact (ih h).trans (restoreTable_ctl h1)

theorem applyTables_ctl {s : State} {d : ShardData} {t : State} (h : applyTables s d = some t) : t.ctl = s.ctl := by
  unfold applyTables at h
  split at h
  · cases h
  · rename_i h1
    cases h
    exact (foldl_ctl (fun s x => modTable_ctl s _ _) _).trans (restoreTables_ctl h1)

theorem restoreNodes_ctl {s : State} {cid h : Nat} {c : Corpus} {l : List (Nat × LNode)} {t : State × Tab LNode}
    (hh : restoreNodes s cid h c l = .ok t) : t.1.ctl = s.ctl := by
  induction l generalizing s t with
  | nil => cases hh; rfl
  | cons n l ih =>
    unfold restoreNodes at hh
    split at hh
    · cases hh
    · rename_i h1
      split at hh
      · cases hh
      · rename_i h2
        cases hh
        exact (ih h2).trans (writeNow_ctl h1)

theorem restoreShard_ctl {s : State} {cid h : Nat} {x : Shard} {t : State} (hh : restoreShard s cid h x = .ok t) : t.ctl = s.ctl := by
  unfold restoreShard at hh
  split at hh
  · cases hh; rfl
  · split at hh
    · cases hh
    · rename_i h1
      split at hh
      · cases hh
      · rename_i h2
        cases hh
        have a := shardRuns_ctl h1
        have b := restoreNodes_ctl h2
        rw [modRestore_ctl, modCorpus_ctl]
        rw [b, a, dropShard_ctl]

theorem applyShards_ctl {s : State} {l : List (Nat × Nat × Shard)} {t : State} (h : applyShards s l = .ok t) : t.ctl = s.ctl := by
  induction l generalizing s t with
  | nil => cases h; rfl
  | cons n l ih =>
    unfold applyShards at h
    split at h
    · cases h
    · rename_i h1
      exact (ih h).trans (restoreShard_ctl h1)

theorem applyShard_ctl {s : State} {kind : Nat} {bs : List Byte} {t : State × List RFetch} (h : applyShard s kind bs = .ok t) : t.1.ctl = s.ctl := by
  unfold applyShard at h
  dsimp only at h
  split at h
  · cases h
  · rename_i h1
    split at h
    · cases h
    · rename_i h2
      cases h
      have a := applyTables_ctl h1
      have b := applyShards_ctl h2
      rw [b, a]
      split
      · rw [applyConfig_ctl, modRestore_ctl, foldl_ctl dropTable_ctl, foldl_ctl (fun s p => dropShard_ctl s _ _)]
      · rw [modRestore_ctl, foldl_ctl dropTable_ctl, foldl_ctl (fun s p => dropShard_ctl s _ _)]

theorem restoreCask_ctl {s : State} {idx : Nat} {i : SessImage} {t : State} (h : restoreCask s idx i = .ok t) : t.ctl = s.ctl := by
  unfold restoreCask at h
  split at h
  · cases h; rfl
  · split at h
    · cases h
    · rename_i h1
      cases h
      exact (modSess_ctl ..).trans (writeNow_ctl h1)

@[simp] theorem restoredTail_ctl (s : State) (i : SessImage) (st : Nat) (idx : Nat) : (restoredTail s i st idx).ctl = s.ctl := by
  simp [restoredTail]

@[simp] theorem restored_ctl (s : State) (i : SessImage) (st : Nat) (idx : Nat) : (restored s i st idx).ctl = s.ctl := by
  simp [restored]

theorem restoreSess_ctl {s : State} {i : SessImage} {t : State} (h : restoreSess s i = .ok t) : t.ctl = s.ctl := by
  unfold restoreSess at h
  extract_lets st at h
  split at h
  · cases h
  · split at h
    · cases h
    · split at h
      · cases h
      · rename_i h1
        extract_lets x y at h
        split at h
        · cases h
        · rename_i h2
          cases h
          rw [restored_ctl, restoreCask_ctl h2, putArrived_ctl]
          exact takeRuns_ctl h1

theorem restoreAll_ctl {s : State} {l : List SessImage} {t : State} (h : restoreAll s l = .ok t) : t.ctl = s.ctl := by
  induction l generalizing s t with
  | nil => cases h; rfl
  | cons n l ih =>
    unfold restoreAll at h
    split at h
    · cases h
    · rename_i h1
      exact (ih h).trans (restoreSess_ctl h1)

@[simp] theorem restoreWarms_ctl (s : State) : (restoreWarms s).ctl = s.ctl := by
  simp [restoreWarms]

@[simp] theorem restoreEnd_ctl (s : State) : (restoreEnd s).ctl = s.ctl := by
  unfold restoreEnd
  split
  · rfl
  · split
    · exact restoreFail_ctl _ _
    · rename_i r _ _ s1 h1
      have b : (setPhase (restoreWarms s1) r.generation 6 r.applied r.bytes).ctl = s1.ctl := by
        rw [setPhase_ctl, restoreWarms_ctl]
      rw [complete_ctl, ← restoreAll_ctl h1, ← b]
      rfl

@[simp] theorem restoreNext_ctl (x0 : Nat) (s : State) : (restoreNext x0 s).ctl = s.ctl := by
  induction x0 generalizing s with
  | zero => rfl
  | succ n ih =>
    unfold restoreNext
    repeat' first
      | with_reducible rfl
      | assumption
      | (simp [ih]; done)
      | intro _
      | dsimp only
      | split
      | simp [ih]

theorem restoreModel_ctl {s : State} {id tenant kind sl : Nat} {o : ObjRef} {bs : List Byte} {t : State} (h : restoreModel s id tenant kind sl o bs = .ok t) : t.ctl = s.ctl := by
  unfold restoreModel at h
  split at h
  · cases h
  · split at h
    · cases h
    · rename_i h1
      cases h
      exact writeNow_ctl h1

theorem restoreObject_ctl {s : State} {f : RFetch} {bs : List Byte} {t : State} (h : restoreObject s f bs = .ok t) : t.ctl = s.ctl := by
  unfold restoreObject at h
  split at h
  · exact restoreModel_ctl h
  · dsimp only at h
    split at h
    · cases h; exact loadSegment_ctl ..
    · cases h
  · dsimp only at h
    split at h
    · cases h; exact loadVocab_ctl ..
    · cases h
  · dsimp only at h
    split at h
    · cases h; exact loadGrammar_ctl ..
    · cases h
  · cases h; rfl

@[simp] theorem gotManifest_ctl (s : State) (r : RestoreRun) (o : ObjRef) (bs : List Byte) : (gotManifest s r o bs).ctl = s.ctl := by
  unfold gotManifest
  repeat' first
    | with_reducible rfl
    | assumption
    | (simp; done)
    | intro _
    | dsimp only
    | split
    | simp

@[simp] theorem gotShard_ctl (s : State) (kind : Nat) (bs : List Byte) : (gotShard s kind bs).ctl = s.ctl := by
  unfold gotShard
  split
  · simp
  · rename_i h1
    rw [restoreNext_ctl, modRestore_ctl, ← applyShard_ctl h1]
    split
    · rw [setPhase_ctl]
    · rfl

@[simp] theorem gotObject_ctl (s : State) (f : RFetch) (bs : List Byte) (rest : List RFetch) : (gotObject s f bs rest).ctl = s.ctl := by
  unfold gotObject
  split
  · simp
  · rename_i h1
    rw [restoreNext_ctl, modRestore_ctl, restoreObject_ctl h1]

@[simp] theorem restoreFetched_ctl (s : State) (result : Option (List Byte)) : (restoreFetched s result).ctl = s.ctl := by
  unfold restoreFetched
  repeat' first
    | with_reducible rfl
    | assumption
    | (simp; done)
    | intro _
    | dsimp only
    | split
    | simp

end Sys2Proof.Machine
end

