-- ==== Sys2Proof/Laws/FramePeers.lean ====
section
/-! SUPPORT. What the functions of Machine/Peers.lean leave alone: the control part of a state. -/
namespace Sys2Proof.Machine
set_option linter.unusedTactic false
set_option linter.unreachableTactic false

@[simp] theorem failFetch_ctl (s : State) (j : Job) (a : Ans) : (failFetch s j a).ctl = s.ctl := by
  unfold failFetch
  split <;> simp

@[simp] theorem losePeer_ctl (s : State) (peer : Nat) (reason : Nat) : (losePeer s peer reason).ctl = s.ctl := by
  simp [losePeer]

@[simp] theorem losePathless_ctl (s : State) : (losePathless s).ctl = s.ctl := by
  simp [losePathless]

theorem execPeerLost_ctl {peer : Nat} {s : State} {t : State} (h : execPeerLost peer s = .next t) : t.ctl = s.ctl := by
  cases h
  simp

@[simp] theorem setRoutes_ctl (s : State) (entries : List (Nat × Nat)) : (setRoutes s entries).ctl = s.ctl := by
  simp [setRoutes]

theorem execRouteSet_ctl {h : Hdr} {count : Nat} {entries : List (Nat × Nat)} {s : State} {t : State} (h : execRouteSet h count entries s = .next t) : t.ctl = s.ctl := by
  cases h
  simp

@[simp] theorem frameBad_ctl (s : State) (tenant : Nat) : (frameBad s tenant).ctl = s.ctl := rfl

@[simp] theorem takeAck_ctl (s : State) (peer : Nat) (c : Nat) (ack : Nat) : (takeAck s peer c ack).ctl = s.ctl := by
  simp [takeAck]

@[simp] theorem putBare_ctl (s : State) (peer : Nat) (c : Nat) : (putBare s peer c).ctl = s.ctl := by
  simp [putBare]

@[simp] theorem takeData_ctl (s : State) (f : FabFrame) : (takeData s f).ctl = s.ctl := by
  unfold takeData
  repeat' first
    | with_reducible rfl
    | assumption
    | (simp; done)
    | intro _
    | dsimp only
    | split
    | simp

theorem execFabFrameReceive_ctl {f : FabFrame} {authOk : Bool} {s : State} {t : State} (h : execFabFrameReceive f authOk s = .next t) : t.ctl = s.ctl := by
  cases h
  simp

theorem execFabResendTimeout_ctl {peer : Nat} {tclass : Nat} {s : State} {t : State} (h : execFabResendTimeout peer tclass s = .next t) : t.ctl = s.ctl := by
  cases h
  simp

theorem execFabKeepalive_ctl {peer : Nat} {s : State} {t : State} (h : execFabKeepalive peer s = .next t) : t.ctl = s.ctl := by
  cases h
  simp

@[simp] theorem flushStreams_ctl (s : State) (peer : Nat) : (flushStreams s peer).ctl = s.ctl := by
  simp [flushStreams]

@[simp] theorem setSalt_ctl (s : State) (peer : Nat) (r : List Byte) : (setSalt s peer r).ctl = s.ctl := rfl

theorem execFabHandshake_ctl {peer : Nat} {r : List Byte} {macOk : Bool} {s : State} {t : State} (h : execFabHandshake peer r macOk s = .next t) : t.ctl = s.ctl := by
  cases h
  simp

@[simp] theorem moveStreams_ctl (s : State) (port : Nat) : (moveStreams s port).ctl = s.ctl := by
  simp [moveStreams]

theorem execFabPortDown_ctl {port : Nat} {s : State} {t : State} (h : execFabPortDown port s = .next t) : t.ctl = s.ctl := by
  cases h
  simp

theorem execFabPortUp_ctl {port : Nat} {lanes : Nat} {s : State} {t : State} (h : execFabPortUp port lanes s = .next t) : t.ctl = s.ctl := by
  cases h
  simp

theorem execRevokeNotice_ctl {src : Nat} {tenant : Nat} {s : State} {t : State} (h : execRevokeNotice src tenant s = .next t) : t.ctl = s.ctl := by
  cases h
  simp

end Sys2Proof.Machine
end

