-- ==== Sys2Proof/Laws/FramePower.lean ====
section
/-! SUPPORT. What the functions of Machine/Power.lean leave alone: the control part of a state. -/
namespace Sys2Proof.Machine
set_option linter.unusedTactic false
set_option linter.unreachableTactic false

@[simp] theorem applyTrims_ctl (s : State) : (applyTrims s).ctl = s.ctl := rfl

@[simp] theorem romBoot_ctl (s : State) : (romBoot s).ctl = s.ctl := by
  simp [romBoot]

@[simp] theorem markRoot_ctl (s : State) (l : Nat) : (markRoot s l).ctl = s.ctl := by
  unfold markRoot
  exact foldl_ctl (fun s b => modBlock_ctl s l b _) _

@[simp] theorem findArray_ctl (s : State) : (findArray s).ctl = s.ctl := by
  unfold findArray
  split
  · rfl
  · exact (foldl_ctl markRoot_ctl _).trans rfl

@[simp] theorem finishRemovals_ctl (s : State) : (finishRemovals s).ctl = s.ctl := by
  simp [finishRemovals]

@[simp] theorem resumeSigning_ctl (s : State) : (resumeSigning s).ctl = s.ctl := by
  simp [resumeSigning]

@[simp] theorem fuseArb_ctl (s : State) : (fuseArb s).ctl = s.ctl := by
  simp [fuseArb]

@[simp] theorem coldKeys_ctl (s : State) : (coldKeys s).ctl = s.ctl := by
  simp [coldKeys]

@[simp] theorem resetLow_ctl (s : State) : (resetLow s).ctl = s.ctl := rfl

@[simp] theorem modSupply_ctl (s : State) (input : Nat) (f : Supply → Supply) : (modSupply s input f).ctl = s.ctl := by
  simp [modSupply]

@[simp] theorem supplySwitched_ctl (s : State) (kind : Nat) : (supplySwitched s kind).ctl = s.ctl := by
  simp [supplySwitched]

theorem execSupplyInputChange_ctl {input : Nat} {volt : Nat} {s : State} {t : State} (h : execSupplyInputChange input volt s = .next t) : t.ctl = s.ctl := by
  cases h
  simp

theorem execSupplyLost_ctl {s : State} {t : State} (h : execSupplyLost s = .next t) : t.ctl = s.ctl := by
  cases h
  simp

@[simp] theorem raiseImminent_ctl (s : State) (old : List Bool) (new : List Bool) : (raiseImminent s old new).ctl = s.ctl := by
  simp [raiseImminent]

theorem execSensorSample_ctl {vinMain : Nat} {vinBackup : Nat} {pinW : Nat} {temps : List Int} {s : State} {t : State} (h : execSensorSample vinMain vinBackup pinW temps s = .next t) : t.ctl = s.ctl := by
  cases h
  simp

@[simp] theorem shutParks_ctl (s : State) : (shutParks s).ctl = s.ctl := by
  unfold shutParks
  repeat' first
    | with_reducible rfl
    | assumption
    | (simp; done)
    | intro _
    | dsimp only
    | split
    | with_reducible refine (foldl_ctl ?_ _).trans ?_
    | with_reducible refine (foldl_ctl1 ?_ _).trans ?_
    | with_reducible refine (foldl_ctl2 ?_ _).trans ?_
    | simp

@[simp] theorem writeImage_ctl (s : State) : (writeImage s).ctl = s.ctl := rfl

@[simp] theorem shutEnd_ctl (s : State) : (shutEnd s).ctl = s.ctl := by
  unfold shutEnd
  repeat' first
    | with_reducible rfl
    | assumption
    | (simp; done)
    | intro _
    | dsimp only
    | split
    | simp

@[simp] theorem shutStep_ctl (s : State) : (shutStep s).ctl = s.ctl := by
  simp [shutStep]

@[simp] theorem startShutdown_ctl (s : State) : (startShutdown s).ctl = s.ctl := by
  simp [startShutdown]

@[simp] theorem reRun_ctl (s : State) (die : Nat) (l : List Run) : (reRun s die l).2.ctl = s.ctl := by
  unfold reRun
  repeat' first
    | with_reducible rfl
    | assumption
    | (simp; done)
    | intro _
    | dsimp only
    | split
    | with_reducible refine (foldl_ctl ?_ _).trans ?_
    | with_reducible refine (foldl_ctl1 ?_ _).trans ?_
    | with_reducible refine (foldl_ctl2 ?_ _).trans ?_
    | (have hh := takeRun_ctl (by assumption); (try simp at hh); simp [hh]; done)
    | (simp; refine pair_ctl2 (by assumption) ?_)
    | (simp; refine pair_ctl1 (by assumption) ?_)
    | simp

@[simp] theorem reloadSess_ctl (s : State) (x : Sess) : (reloadSess s x).ctl = s.ctl := by
  simp [reloadSess]

@[simp] theorem reloadTables_ctl (s : State) : (reloadTables s).ctl = s.ctl := by
  unfold reloadTables
  repeat' first
    | with_reducible rfl
    | assumption
    | (simp; done)
    | intro _
    | dsimp only
    | split
    | with_reducible refine (foldl_ctl ?_ _).trans ?_
    | with_reducible refine (foldl_ctl1 ?_ _).trans ?_
    | with_reducible refine (foldl_ctl2 ?_ _).trans ?_
    | (have hh := takeTable_ctl (by assumption); (try simp at hh); simp [hh]; done)
    | (simp; refine pair_ctl2 (by assumption) ?_)
    | (simp; refine pair_ctl1 (by assumption) ?_)
    | simp

@[simp] theorem reload_ctl (s : State) : (reload s).ctl = s.ctl := by
  simp [reload]

@[simp] theorem releaseEarlier_ctl (s : State) : (releaseEarlier s).ctl = s.ctl := by
  simp [releaseEarlier]

theorem execOastMountDone_ctl {s : State} {t : State} (h : execOastMountDone s = .next t) : t.ctl = s.ctl := by
  cases h
  simp

end Sys2Proof.Machine
end

