-- ==== Sys2Proof/Laws/FrameFetch.lean ====
section
/-! SUPPORT. What the functions of Machine/Fetch.lean leave alone: the control part of a state. -/
namespace Sys2Proof.Machine
set_option linter.unusedTactic false
set_option linter.unreachableTactic false

theorem execFirmwareStage_ctl {h : Hdr} {image : ObjRef} {s : State} {t : State} (h : execFirmwareStage h image s = .next t) : t.ctl = s.ctl := by
  cases h
  simp

@[simp] theorem imageWrite_ctl (s : State) (seq : Nat) : (imageWrite s seq).ctl = s.ctl := by
  unfold imageWrite
  repeat' first
    | with_reducible rfl
    | assumption
    | (simp; done)
    | intro _
    | dsimp only
    | split
    | (have hh := flashWrite_ctl (by assumption); (try simp at hh); simp [hh]; done)
    | (simp; refine pair_ctl2 (by assumption) ?_)
    | (simp; refine pair_ctl1 (by assumption) ?_)
    | simp

@[simp] theorem stageImage_ctl (s : State) (seq : Nat) (bs : List Byte) : (stageImage s seq bs).ctl = s.ctl := by
  simp [stageImage]

@[simp] theorem imageRest_ctl (s : State) : (imageRest s).ctl = s.ctl := by
  simp [imageRest]

@[simp] theorem useObject_ctl (s : State) (j : Job) (bs : List Byte) : (useObject s j bs).ctl = s.ctl := by
  unfold useObject
  repeat' first
    | with_reducible rfl
    | assumption
    | (simp; done)
    | intro _
    | dsimp only
    | split
    | simp

theorem execObjectFetchDone_ctl {seq : Nat} {result : Option (List Byte)} {s : State} {t : State} (h : execObjectFetchDone seq result s = .next t) : t.ctl = s.ctl := by
  cases h
  repeat' first
    | with_reducible rfl
    | assumption
    | (simp; done)
    | intro _
    | dsimp only
    | split
    | simp

end Sys2Proof.Machine
end

