-- ==== Sys2Proof/Laws/FrameGrenlink.lean ====
section
/-! SUPPORT. What the functions of Machine/Grenlink.lean leave alone: the control part of a state. -/
namespace Sys2Proof.Machine
set_option linter.unusedTactic false
set_option linter.unreachableTactic false

theorem execHsHello_ctl {port : Nat} {hsFlags : Nat} {nonceC : List Byte} {s : State} {t : State} (h : execHsHello port hsFlags nonceC s = .next t) : t.ctl = s.ctl := by
  cases h
  simp

@[simp] theorem hsFailed_ctl (s : State) (port : Nat) (reason : Nat) : (hsFailed s port reason).ctl = s.ctl := by
  simp [hsFailed]

@[simp] theorem moveReplies_ctl (s : State) (p : Nat) : (moveReplies s p).ctl = s.ctl := rfl

@[simp] theorem movePort_ctl (s : State) (p : Nat) : (movePort s p).ctl = s.ctl := rfl

@[simp] theorem hsDone_ctl (s : State) (port : Nat) (out : List Byte) (tag : List Byte) : (hsDone s port out tag).ctl = s.ctl := by
  simp [hsDone]

@[simp] theorem hsFinish_ctl (s : State) (port : Nat) (o : List Byte) (ss : List Byte) (t : List Byte) : (hsFinish s port o ss t).ctl = s.ctl := by
  simp [hsFinish]

theorem execHsCt_ctl {port : Nat} {ct : List Byte} {macC : List Byte} {newOwner : Option (List Byte)} {s : State} {t : State} (h : execHsCt port ct macC newOwner s = .next t) : t.ctl = s.ctl := by
  cases h
  repeat' first
    | with_reducible rfl
    | assumption
    | (simp; done)
    | intro _
    | dsimp only
    | split
    | simp

theorem execHandshakeTimeout_ctl {port : Nat} {s : State} {t : State} (h : execHandshakeTimeout port s = .next t) : t.ctl = s.ctl := by
  cases h
  split <;> simp

@[simp] theorem takePacket_ctl (s : State) (port : Nat) (bs : List Byte) : (takePacket s port bs).ctl = s.ctl := by
  unfold takePacket
  repeat' first
    | with_reducible rfl
    | assumption
    | (simp; done)
    | intro _
    | with_reducible refine asyncCmd_ctl _ _ _ _ _ _ _ _ ?_
    | with_reducible refine syncCmd_ctl _ _ _ _ _ _ ?_
    | with_reducible refine lateSync_ctl _ _ _ _ _ _ _ _ ?_
    | dsimp only
    | split
    | with_reducible refine (foldl_ctl ?_ _).trans ?_
    | with_reducible refine (foldl_ctl1 ?_ _).trans ?_
    | with_reducible refine (foldl_ctl2 ?_ _).trans ?_
    | (have hh := takeRun_ctl (by assumption); (try simp at hh); simp [hh]; done)
    | (have hh := takeRuns_ctl (by assumption); (try simp at hh); simp [hh]; done)
    | (have hh := runFor_ctl (by assumption); (try simp at hh); simp [hh]; done)
    | (have hh := runsFor_ctl (by assumption); (try simp at hh); simp [hh]; done)
    | (have hh := flashWrite_ctl (by assumption); (try simp at hh); simp [hh]; done)
    | (have hh := takeTable_ctl (by assumption); (try simp at hh); simp [hh]; done)
    | (have hh := growCopy_ctl (by assumption); (try simp at hh); simp [hh]; done)
    | (have hh := configNow_ctl (by assumption); (try simp at hh); simp [hh]; done)
    | (have hh := grantRuns_ctl (by assumption); (try simp at hh); simp [hh]; done)
    | (have hh := beginWarm_ctl (by assumption); (try simp at hh); simp [hh]; done)
    | (have hh := spillOldest_ctl (by assumption); (try simp at hh); simp [hh]; done)
    | (have hh := shardRuns_ctl (by assumption); (try simp at hh); simp [hh]; done)
    | (have hh := createNow_ctl (by assumption); (try simp at hh); simp [hh]; done)
    | (have hh := writeNow_ctl (by assumption); (try simp at hh); simp [hh]; done)
    | (have hh := restoreTables_ctl (by assumption); (try simp at hh); simp [hh]; done)
    | (have hh := applyTables_ctl (by assumption); (try simp at hh); simp [hh]; done)
    | (have hh := restoreNodes_ctl (by assumption); (try simp at hh); simp [hh]; done)
    | (have hh := applyShards_ctl (by assumption); (try simp at hh); simp [hh]; done)
    | (have hh := restoreAll_ctl (by assumption); (try simp at hh); simp [hh]; done)
    | (have hh := restoreTable_ctl (by assumption); (try simp at hh); simp [hh]; done)
    | (have hh := restoreShard_ctl (by assumption); (try simp at hh); simp [hh]; done)
    | (have hh := applyShard_ctl (by assumption); (try simp at hh); simp [hh]; done)
    | (have hh := restoreCask_ctl (by assumption); (try simp at hh); simp [hh]; done)
    | (have hh := restoreModel_ctl (by assumption); (try simp at hh); simp [hh]; done)
    | (have hh := restoreObject_ctl (by assumption); (try simp at hh); simp [hh]; done)
    | (have hh := restoreSess_ctl (by assumption); (try simp at hh); simp [hh]; done)
    | (have hh := ownCondense_ctl (by assumption); (try simp at hh); simp [hh]; done)
    | (have hh := runsForAll_ctl (by assumption); (try simp at hh); simp [hh]; done)
    | (simp; refine pair_ctl2 (by assumption) ?_)
    | (simp; refine pair_ctl1 (by assumption) ?_)
    | simp

theorem execGlFrameReceive_ctl {port : Nat} {f : GlFrame} {tagOk : Bool} {s : State} {t : State} (h : execGlFrameReceive port f tagOk s = .next t) : t.ctl = s.ctl := by
  cases h
  simp

theorem execGlResendTimeout_ctl {port : Nat} {s : State} {t : State} (h : execGlResendTimeout port s = .next t) : t.ctl = s.ctl := by
  cases h
  repeat' first
    | with_reducible rfl
    | assumption
    | (simp; done)
    | intro _
    | dsimp only
    | split
    | simp

theorem execGlKeepalive_ctl {port : Nat} {s : State} {t : State} (h : execGlKeepalive port s = .next t) : t.ctl = s.ctl := by
  cases h
  simp

@[simp] theorem portDown_ctl (s : State) (p : Nat) : (portDown s p).ctl = s.ctl := by
  simp [portDown]

theorem execGlPortDown_ctl {port : Nat} {s : State} {t : State} (h : execGlPortDown port s = .next t) : t.ctl = s.ctl := by
  cases h
  simp

theorem execReplyHoldExpiry_ctl {seq : Nat} {s : State} {t : State} (h : execReplyHoldExpiry seq s = .next t) : t.ctl = s.ctl := by
  cases h
  split <;> simp

theorem execNop_ctl {h : Hdr} {s : State} {t : State} (h : execNop h s = .next t) : t.ctl = s.ctl := by
  cases h
  simp

theorem execResultRead_ctl {h : Hdr} {target : Nat} {offset : Nat} {readLen : Nat} {s : State} {t : State} (h : execResultRead h target offset readLen s = .next t) : t.ctl = s.ctl := by
  cases h
  repeat' first
    | with_reducible rfl
    | assumption
    | (simp; done)
    | intro _
    | with_reducible refine syncCmd_ctl _ _ _ _ _ _ ?_
    | dsimp only
    | split
    | (simp; refine pair_ctl2 (by assumption) ?_)
    | (simp; refine pair_ctl1 (by assumption) ?_)
    | simp

theorem execResultRelease_ctl {h : Hdr} {target : Nat} {s : State} {t : State} (h : execResultRelease h target s = .next t) : t.ctl = s.ctl := by
  cases h
  simp

theorem execEventRead_ctl {h : Hdr} {fromSeq : Nat} {max : Nat} {s : State} {t : State} (h : execEventRead h fromSeq max s = .next t) : t.ctl = s.ctl := by
  cases h
  simp

end Sys2Proof.Machine
end

