-- ==== Sys2Proof/Laws/FrameSecurity.lean ====
section
/-! SUPPORT. What the functions of Machine/Security.lean leave alone: the control part of a state. -/
namespace Sys2Proof.Machine
set_option linter.unusedTactic false
set_option linter.unreachableTactic false

@[simp] theorem modTenant_ctl (s : State) (t : Nat) (f : Tenant → Tenant) : (modTenant s t f).ctl = s.ctl := rfl

@[simp] theorem storeWrite_ctl (s : State) (seq : Nat) : (storeWrite s seq).ctl = s.ctl := rfl

@[simp] theorem countErase_ctl (s : State) : (countErase s).ctl = s.ctl := rfl

@[simp] theorem retireTenant_ctl (s : State) (t : Tenant) : (retireTenant s t).ctl = s.ctl := by
  simp [retireTenant]

@[simp] theorem retireFlashEpochs_ctl (s : State) : (retireFlashEpochs s).ctl = s.ctl := by
  simp [retireFlashEpochs]

theorem execTenantCreate_ctl {h : Hdr} {tenant : Nat} {s : State} {t : State} (h : execTenantCreate h tenant s = .next t) : t.ctl = s.ctl := by
  cases h
  repeat' first
    | with_reducible rfl
    | assumption
    | (simp; done)
    | intro _
    | with_reducible refine syncCmd_ctl _ _ _ _ _ _ ?_
    | dsimp only
    | split
    | (simp; refine pair_ctl2 (by assumption) ?_)
    | (simp; refine pair_ctl1 (by assumption) ?_)
    | simp

@[simp] theorem installKey_ctl (s : State) (t : Nat) (kind : Nat) (e : Nat) (k : List Byte) : (installKey s t kind e k).ctl = s.ctl := by
  simp [installKey]

@[simp] theorem countInstall_ctl (s : State) : (countInstall s).ctl = s.ctl := rfl

theorem execKeyInstall_ctl {h : Hdr} {keyKind : Nat} {blobLen : Nat} {blob : List Byte} {s : State} {t : State} (h : execKeyInstall h keyKind blobLen blob s = .next t) : t.ctl = s.ctl := by
  cases h
  simp

@[simp] theorem endTenantJob_ctl (s : State) (j : Job) : (endTenantJob s j).ctl = s.ctl := by
  unfold endTenantJob
  repeat' first
    | with_reducible rfl
    | assumption
    | (simp; done)
    | intro _
    | dsimp only
    | split
    | simp

@[simp] theorem dropContexts_ctl (s : State) (t : Nat) : (dropContexts s t).ctl = s.ctl := by
  simp [dropContexts]

@[simp] theorem drainTenant_ctl (s : State) (t : Nat) : (drainTenant s t).ctl = s.ctl := rfl

@[simp] theorem revokeTenant_ctl (s : State) (t : Nat) : (revokeTenant s t).ctl = s.ctl := by
  simp [revokeTenant]

theorem execTenantRemove_ctl {h : Hdr} {tenant : Nat} {s : State} {t : State} (h : execTenantRemove h tenant s = .next t) : t.ctl = s.ctl := by
  cases h
  simp

@[simp] theorem freeTenantSess_ctl (s : State) (t : Nat) : (freeTenantSess s t).ctl = s.ctl := by
  simp [freeTenantSess]

@[simp] theorem freeTenantModels_ctl (s : State) (t : Nat) : (freeTenantModels s t).ctl = s.ctl := by
  simp [freeTenantModels]

@[simp] theorem freeCorpus_ctl (s : State) (c : Nat × Corpus) : (freeCorpus s c).ctl = s.ctl := by
  simp [freeCorpus]

@[simp] theorem freeTenantTables_ctl (s : State) (t : Nat) : (freeTenantTables s t).ctl = s.ctl := by
  simp [freeTenantTables]

@[simp] theorem freeTenant_ctl (s : State) (t : Nat) : (freeTenant s t).ctl = s.ctl := by
  simp [freeTenant]

@[simp] theorem clearGroups_ctl (s : State) (t : Nat) : (clearGroups s t).ctl = s.ctl := by
  unfold clearGroups
  repeat' first
    | with_reducible rfl
    | assumption
    | (simp; done)
    | intro _
    | dsimp only
    | split
    | with_reducible refine (foldl_ctl ?_ _).trans ?_
    | with_reducible refine (foldl_ctl1 ?_ _).trans ?_
    | with_reducible refine (foldl_ctl2 ?_ _).trans ?_
    | simp

@[simp] theorem endRemoval_ctl (s : State) (t : Nat) : (endRemoval s t).ctl = s.ctl := by
  unfold endRemoval
  repeat' first
    | with_reducible rfl
    | assumption
    | (simp; done)
    | intro _
    | dsimp only
    | split
    | simp

@[simp] theorem eraseTenant_ctl (s : State) (t : Nat) : (eraseTenant s t).ctl = s.ctl := by
  simp [eraseTenant]

theorem execKeyStoreWriteDone_ctl {s : State} {t : State} (h : execKeyStoreWriteDone s = .next t) : t.ctl = s.ctl := by
  cases h
  repeat' first
    | with_reducible rfl
    | assumption
    | (simp; done)
    | intro _
    | dsimp only
    | split
    | simp

theorem execFrameClearDone_ctl {die : Nat} {start : Nat} {s : State} {t : State} (h : execFrameClearDone die start s = .next t) : t.ctl = s.ctl := by
  cases h
  simp

@[simp] theorem takeIndex_ctl (s : State) : (takeIndex s).ctl = s.ctl := by
  simp [takeIndex]

theorem execAttest_ctl {h : Hdr} {nonce : List Byte} {s : State} {t : State} (h : execAttest h nonce s = .next t) : t.ctl = s.ctl := by
  cases h
  simp

theorem execFirmwareActivate_ctl {h : Hdr} {version : Nat} {s : State} {t : State} (h : execFirmwareActivate h version s = .next t) : t.ctl = s.ctl := by
  cases h
  simp

end Sys2Proof.Machine
end

