-- ==== Sys2Proof/Laws/FrameRegisters.lean ====
section
/-! SUPPORT. What the functions of Machine/Registers.lean leave alone: the control part of a state. -/
namespace Sys2Proof.Machine
set_option linter.unusedTactic false
set_option linter.unreachableTactic false

@[simp] theorem releaseNmi_ctl (s : State) : (releaseNmi s).ctl = s.ctl := rfl

@[simp] theorem clearSupplyNmi_ctl (s : State) : (clearSupplyNmi s).ctl = s.ctl := by
  simp [clearSupplyNmi]

@[simp] theorem clearAlerts_ctl (s : State) (v : Nat) : (clearAlerts s v).ctl = s.ctl := rfl

theorem execCsrRead_ctl {h : Hdr} {address : Nat} {count : Nat} {s : State} {t : State} (h : execCsrRead h address count s = .next t) : t.ctl = s.ctl := by
  cases h
  simp

@[simp] theorem calApply_ctl (item : Nat) (v : Nat) (s : State) : (calApply item v s).ctl = s.ctl := by
  simp [calApply]

theorem execCalSet_ctl {h : Hdr} {item : Nat} {value : Nat} {s : State} {t : State} (h : execCalSet h item value s = .next t) : t.ctl = s.ctl := by
  cases h
  simp

@[simp] theorem sbAdvance_ctl (s : State) : (sbAdvance s).ctl = s.ctl := rfl

theorem execSbSetAddr_ctl {address : Nat} {len : Nat} {s : State} {t : State} (h : execSbSetAddr address len s = .next t) : t.ctl = s.ctl := by
  cases h
  simp

theorem execSbRead_ctl {s : State} {t : State} (h : execSbRead s = .next t) : t.ctl = s.ctl := by
  cases h
  simp

theorem execSbAlertClear_ctl {mask : Nat} {s : State} {t : State} (h : execSbAlertClear mask s = .next t) : t.ctl = s.ctl := by
  cases h
  simp

end Sys2Proof.Machine
end

