-- ==== Sys2Proof/Laws/FrameFaults.lean ====
section
/-! SUPPORT. What the functions of Machine/Faults.lean leave alone: the control part of a state. -/
namespace Sys2Proof.Machine
set_option linter.unusedTactic false
set_option linter.unreachableTactic false

@[simp] theorem abandonTile_ctl (s : State) (t : Nat) : (abandonTile s t).ctl = s.ctl := by
  unfold abandonTile
  split <;> simp

theorem execSramEccError_ctl {tile : Nat} {double : Bool} {s : State} {t : State} (h : execSramEccError tile double s = .next t) : t.ctl = s.ctl := by
  cases h
  simp

@[simp] theorem dieDegraded_ctl (s : State) (die : Nat) (cause : Nat) (tile : Nat) (sessions : Nat) : (dieDegraded s die cause tile sessions).ctl = s.ctl := by
  simp [dieDegraded]

@[simp] theorem spareTile_ctl (s : State) (t : Nat) : (spareTile s t).ctl = s.ctl := by
  simp [spareTile]

@[simp] theorem removeTile_ctl (s : State) (t : Nat) : (removeTile s t).ctl = s.ctl := by
  simp [removeTile]

theorem execTileSelfTestDone_ctl {tile : Nat} {pass : Bool} {s : State} {t : State} (h : execTileSelfTestDone tile pass s = .next t) : t.ctl = s.ctl := by
  cases h
  simp

@[simp] theorem recoverSess_ctl (s : State) (idx : Nat) (f : Nat) : (recoverSess s idx f).ctl = s.ctl := by
  unfold recoverSess
  split <;> simp

@[simp] theorem recoverNode_ctl (s : State) (id : Nat) (f : Nat) : (recoverNode s id f).ctl = s.ctl := by
  simp [recoverNode]

@[simp] theorem recoverModel_ctl (s : State) (m : Model) (f : Nat) (d : Nat) : (recoverModel s m f d).ctl = s.ctl := by
  simp [recoverModel]

@[simp] theorem loseShards_ctl (s : State) (hit : List (Nat × Run) → Bool) : (loseShards s hit).ctl = s.ctl := rfl

@[simp] theorem loseTables_ctl (s : State) (hit : RowTable → Bool) : (loseTables s hit).ctl = s.ctl := rfl

@[simp] theorem recoverPool_ctl (s : State) (d : Nat) (f : Nat) : (recoverPool s d f).ctl = s.ctl := by
  simp [recoverPool]

@[simp] theorem refetch_ctl (s : State) (g : Segment) : (refetch s g).ctl = s.ctl := by
  simp [refetch]

@[simp] theorem remount_ctl (s : State) : (remount s).ctl = s.ctl := by
  simp [remount]

@[simp] theorem freeResult_ctl (s : State) (q : Nat) : (freeResult s q).ctl = s.ctl := rfl

@[simp] theorem stopDevice_ctl (s : State) (d : Nat) : (stopDevice s d).ctl = s.ctl := by
  simp [stopDevice]

@[simp] theorem readMirror_ctl (s : State) (d : Nat) : (readMirror s d).ctl = s.ctl := by
  simp [readMirror]

@[simp] theorem recoverFixed_ctl (s : State) (d : Nat) (off : Nat) : (recoverFixed s d off).ctl = s.ctl := by
  unfold recoverFixed
  repeat' first
    | with_reducible rfl
    | assumption
    | (simp; done)
    | intro _
    | dsimp only
    | split
    | simp

@[simp] theorem recoverFrame_ctl (s : State) (d : Nat) (f : Nat) : (recoverFrame s d f).ctl = s.ctl := by
  simp [recoverFrame]

@[simp] theorem hbmRepair_ctl (s : State) (kind : Nat) (stack : Nat) (pc : Nat) (row : Nat) (lost : Nat) : (hbmRepair s kind stack pc row lost).ctl = s.ctl := by
  simp [hbmRepair]

@[simp] theorem spareChannel_ctl (s : State) (stack : Nat) (pc : Nat) : (spareChannel s stack pc).ctl = s.ctl := by
  simp [spareChannel]

@[simp] theorem channelRest_ctl (s : State) : (channelRest s).ctl = s.ctl := by
  simp [channelRest]

@[simp] theorem pcFailure_ctl (s : State) (stack : Nat) (pc : Nat) : (pcFailure s stack pc).ctl = s.ctl := by
  simp [pcFailure]

theorem execHbmError_ctl {kind : Nat} {stack : Nat} {pc : Nat} {row : Nat} {frame : Nat} {s : State} {t : State} (h : execHbmError kind stack pc row frame s = .next t) : t.ctl = s.ctl := by
  cases h
  repeat' first
    | with_reducible rfl
    | assumption
    | (simp; done)
    | intro _
    | dsimp only
    | split
    | simp

@[simp] theorem stopGroups_ctl (s : State) (d : Nat) : (stopGroups s d).ctl = s.ctl := by
  unfold stopGroups
  repeat' first
    | with_reducible rfl
    | assumption
    | (simp; done)
    | intro _
    | dsimp only
    | split
    | with_reducible refine (foldl_ctl ?_ _).trans ?_
    | with_reducible refine (foldl_ctl1 ?_ _).trans ?_
    | with_reducible refine (foldl_ctl2 ?_ _).trans ?_
    | simp

@[simp] theorem handOver_ctl (s : State) (l : Tab Sess) : (handOver s l).ctl = s.ctl := by
  simp [handOver]

@[simp] theorem restartRevive_ctl (s : State) (idx : Nat) (d : Nat) : (restartRevive s idx d).ctl = s.ctl := by
  unfold restartRevive
  split <;> simp

@[simp] theorem dropModels_ctl (s : State) (d : Nat) : (dropModels s d).ctl = s.ctl := by
  simp [dropModels]

@[simp] theorem dropNodes_ctl (s : State) (d : Nat) : (dropNodes s d).ctl = s.ctl := rfl

@[simp] theorem dropPool_ctl (s : State) (d : Nat) : (dropPool s d).ctl = s.ctl := rfl

@[simp] theorem dropCap_ctl (s : State) (d : Nat) : (dropCap s d).ctl = s.ctl := by
  unfold dropCap
  repeat' first
    | with_reducible rfl
    | assumption
    | (simp; done)
    | intro _
    | dsimp only
    | split
    | with_reducible refine (foldl_ctl ?_ _).trans ?_
    | with_reducible refine (foldl_ctl1 ?_ _).trans ?_
    | with_reducible refine (foldl_ctl2 ?_ _).trans ?_
    | simp

@[simp] theorem firstDie_ctl (s : State) (d : Nat) : (firstDie s d).ctl = s.ctl := by
  simp [firstDie]

@[simp] theorem secondDie_ctl (s : State) (d : Nat) : (secondDie s d).ctl = s.ctl := by
  simp [secondDie]

theorem execDieLost_ctl {die : Nat} {s : State} {t : State} (h : execDieLost die s = .next t) : t.ctl = s.ctl := by
  cases h
  simp

end Sys2Proof.Machine
end

