-- ==== Sys2Proof/Laws/Mem.lean ====
section
/-! SUPPORT. Memories and tables: what a write changes, and that every operation keeps the canonical form. -/
namespace Sys2Proof.Machine

theorem memAbove_mono {m : Mem} {lo hi : Nat} (h : lo ≤ hi) (w : memAbove hi m = true) : memAbove lo m = true := by
  cases m with
  | nil => rfl
  | cons c m =>
    simp only [memAbove, Bool.and_eq_true, decide_eq_true_eq] at w ⊢
    exact ⟨⟨h.trans w.1.1, w.1.2⟩, w.2⟩

/-- A byte written at or above the lower bound keeps the form. -/
theorem memAbove_mput {m : Mem} {lo a : Nat} (v : Byte) (h : lo ≤ a) (w : memAbove lo m = true) :
    memAbove lo (mput m a v) = true := by
  induction m generalizing lo with
  | nil => unfold mput; split <;> simp_all [memAbove]
  | cons c m ih =>
    simp only [memAbove, Bool.and_eq_true, decide_eq_true_eq] at w
    obtain ⟨⟨w1, w2⟩, w3⟩ := w
    unfold mput
    split
    · rename_i hlt
      split
      · simp only [memAbove, Bool.and_eq_true, decide_eq_true_eq]; exact ⟨⟨w1, w2⟩, w3⟩
      · simp_all [memAbove]
    · split
      · rename_i heq
        split
        · exact memAbove_mono (by omega) w3
        · simp_all [memAbove]
      · simp only [memAbove, Bool.and_eq_true, decide_eq_true_eq]
        exact ⟨⟨w1, w2⟩, ih (by omega) w3⟩

theorem wf_mput {m : Mem} (a : Nat) (v : Byte) (w : Memory.wf m = true) : Memory.wf (mput m a v) = true :=
  memAbove_mput v (Nat.zero_le a) w

theorem wf_mwrite {m : Mem} (a : Nat) (bs : List Byte) (w : Memory.wf m = true) : Memory.wf (mwrite m a bs) = true := by
  induction bs generalizing m a with
  | nil => exact w
  | cons b bs ih => exact ih (a + 1) (wf_mput a b w)

theorem memAbove_filter {m : Mem} {lo : Nat} (p : Host.Cell → Bool) (w : memAbove lo m = true) :
    memAbove lo (m.filter p) = true := by
  induction m generalizing lo with
  | nil => rfl
  | cons c m ih =>
    simp only [memAbove, Bool.and_eq_true, decide_eq_true_eq] at w
    rw [List.filter_cons]
    split
    · simp only [memAbove, Bool.and_eq_true, decide_eq_true_eq]
      exact ⟨w.1, ih w.2⟩
    · exact memAbove_mono (by omega) (ih w.2)

theorem wf_mclear {m : Mem} (a n : Nat) (w : Memory.wf m = true) : Memory.wf (mclear m a n) = true := memAbove_filter _ w

theorem mget_above {m : Mem} {lo a : Nat} (w : memAbove lo m = true) (h : a < lo) : mget m a = 0 := by
  induction m generalizing lo with
  | nil => rfl
  | cons c m ih =>
    simp only [memAbove, Bool.and_eq_true, decide_eq_true_eq] at w
    rw [mget, if_neg (by omega)]
    exact ih w.2 (by omega)

/-- A byte read after a write to the same address is the byte written; every other byte is as before. -/
theorem mget_mput_above {m : Mem} {lo : Nat} (w : memAbove lo m = true) (a b : Nat) (v : Byte) :
    mget (mput m a v) b = if b = a then v else mget m b := by
  induction m generalizing lo with
  | nil =>
    unfold mput
    by_cases hb : b = a
    · subst hb; split <;> simp_all [mget]
    · have hb' : ¬ a = b := fun e => hb e.symm
      split <;> simp [mget, hb']
  | cons c m ih =>
    simp only [memAbove, Bool.and_eq_true, decide_eq_true_eq] at w
    obtain ⟨⟨w1, w2⟩, w3⟩ := w
    unfold mput
    split
    · rename_i hlt
      split
      · rename_i hv
        split
        · rename_i hb
          subst hb hv
          rw [mget, if_neg (by omega)]
          exact mget_above w3 (by omega)
        · rfl
      · rw [mget]
        by_cases hb : b = a
        · rw [if_pos hb, if_pos hb.symm]
        · rw [if_neg hb, if_neg (fun e => hb e.symm)]
    · split
      · rename_i heq
        subst heq
        split
        · rename_i hv
          split
          · rename_i hb
            subst hb hv
            exact mget_above w3 (by omega)
          · rename_i hb
            rw [mget, if_neg (fun e => hb e.symm)]
        · by_cases hb : b = c.1
          · rw [mget, if_pos hb, if_pos hb.symm]
          · have hb' : ¬ c.1 = b := fun e => hb e.symm
            simp only [mget, hb, hb', if_false]
      · rename_i h1 h2
        rw [mget, mget, ih w3]
        split
        · rename_i hb; subst hb; rw [if_neg h2]
        · rfl

theorem mget_mput {m : Mem} (w : Memory.wf m = true) (a b : Nat) (v : Byte) :
    mget (mput m a v) b = if b = a then v else mget m b := mget_mput_above w a b v

/-- Bytes outside those written read as before. -/
theorem mget_mwrite_out {m : Mem} (w : Memory.wf m = true) (a b : Nat) (bs : List Byte) (h : b < a ∨ a + bs.length ≤ b) :
    mget (mwrite m a bs) b = mget m b := by
  induction bs generalizing m a with
  | nil => rfl
  | cons c bs ih =>
    simp only [List.length_cons] at h
    rw [mwrite, ih (wf_mput a c w) (a + 1) (by omega), mget_mput w, if_neg (by omega)]

/-- Bytes written read back. -/
theorem mget_mwrite_in {m : Mem} (w : Memory.wf m = true) (a : Nat) (bs : List Byte) (i : Nat) (h : i < bs.length) :
    mget (mwrite m a bs) (a + i) = bs[i] := by
  induction bs generalizing m a i with
  | nil => simp at h
  | cons c bs ih =>
    rw [mwrite]
    cases i with
    | zero => rw [mget_mwrite_out (wf_mput a c w) _ _ _ (by omega), mget_mput w]; simp
    | succ i =>
      have := ih (wf_mput a c w) (a + 1) i (by simpa using h)
      rw [show a + (i + 1) = a + 1 + i by omega, this]; rfl

/-! ### Tables -/

theorem tget_tput_self {α : Type} (t : Tab α) (k : Nat) (v : α) : tget (tput t k v) k = some v := by
  induction t with
  | nil => simp [tput, tget]
  | cons p t ih =>
    obtain ⟨a, w⟩ := p
    unfold tput
    split
    · simp [tget]
    · split
      · simp [tget]
      · rename_i h; simp [tget, h, ih]

theorem tget_tput_ne {α : Type} (t : Tab α) {k j : Nat} (v : α) (h : j ≠ k) : tget (tput t k v) j = tget t j := by
  induction t with
  | nil => simp [tput, tget, h.symm]
  | cons p t ih =>
    obtain ⟨a, w⟩ := p
    unfold tput
    split
    · simp [tget, h.symm]
    · split
      · rename_i hk; subst hk; simp [tget, h.symm]
      · simp [tget, ih]

theorem tget_tmod {α : Type} (t : Tab α) (k j : Nat) (f : α → α) :
    tget (tmod t k f) j = if j = k then (tget t j).map f else tget t j := by
  induction t with
  | nil => simp [tmod, tget]
  | cons p t ih =>
    obtain ⟨a, w⟩ := p
    simp only [tmod, List.map_cons] at ih ⊢
    by_cases h1 : a = k <;> by_cases h2 : a = j
    · subst h1; subst h2; simp [tget]
    · subst h1; simp only [if_true, tget, h2, if_false, ih]
    · subst h2; simp only [h1, if_false, tget, if_true]
    · simp only [h1, if_false, tget, h2, ih]

end Sys2Proof.Machine
end

