-- ==== Sys2Proof/Laws/Keep.lean ====
section
/-! SUPPORT. Changes that keep the queue and the invariant: the functions that do change the control part of a state. -/
namespace Sys2Proof.Machine

/-- The queue is as before, and the invariant is kept. -/
structure Keeps (c d : Ctl) : Prop where
  queue : d.queue = c.queue
  ok : c.ok = true → d.ok = true

theorem Keeps.refl (c : Ctl) : Keeps c c := ⟨rfl, id⟩

theorem Keeps.of_eq {c d : Ctl} (h : d = c) : Keeps c d := by subst h; exact .refl _

theorem Keeps.trans {c d e : Ctl} (a : Keeps c d) (b : Keeps d e) : Keeps c e := ⟨b.queue.trans a.queue, fun h => b.ok (a.ok h)⟩

/-- A change of HBM alone that keeps its form. -/
theorem Keeps.of_hbm {c : Ctl} {s : State} (m : Mem) (k : Keeps c s.ctl)
    (w : Memory.wf s.mill.hbm = true → Memory.wf m = true) : Keeps c { s.ctl with hbm := m } := by
  refine k.trans ⟨rfl, fun i => ?_⟩
  simp only [Ctl.ok, Bool.and_eq_true, and_assoc] at i ⊢
  exact ⟨w i.1, i.2⟩

theorem foldl_keeps {c : Ctl} {α : Type} {f : State → α → State} {l : List α} {s : State}
    (h : ∀ s a, Keeps c s.ctl → Keeps c (f s a).ctl) (k : Keeps c s.ctl) : Keeps c (l.foldl f s).ctl := by
  induction l generalizing s with
  | nil => exact k
  | cons a l ih => exact ih (h _ _ k)

theorem copyOut_keeps {c : Ctl} {s : State} (k : Keeps c s.ctl) (g : Segment) (e : Entry) (x : CopyEnt) (ds : Desc) (bs : List Byte) : Keeps c (copyOut s g e x ds bs).ctl := by
  unfold copyOut
  split
  · split
    · simpa using k
    · exact k
  · split
    · exact k
    · exact Keeps.of_hbm _ k fun w => wf_mwrite _ _ w
    · split
      · simpa using k
      · exact k
    · exact k
    · exact k

theorem runCopy_keeps {c : Ctl} {s : State} (k : Keeps c s.ctl) (d t0 slot : Nat) (g : Segment) (e : Entry) (i : Nat) : Keeps c (runCopy s d t0 slot g e i).ctl := by
  unfold runCopy
  extract_lets x ds tile home bytes s1
  have k' : Keeps c (crossBridges s d home x.bytes).ctl := by simpa using k
  have k1 : Keeps c s1.ctl := by
    show Keeps c (if _ then crossBridges s home d x.bytes else s).ctl
    split
    · simpa using k
    · exact k
  split
  · exact k
  · split
    · simpa using k1
    · split
      · simpa using k
      · split
        · exact k
        · apply copyOut_keeps
          split
          · exact k'
          · exact k

theorem landFabric_keeps {c : Ctl} {s : State} (k : Keeps c s.ctl) (d t0 : Nat) (g : Segment) (e : Entry) (n : Nat) : Keeps c (landFabric s d t0 g e n).ctl := by
  unfold landFabric
  try dsimp only
  repeat' first
    | with_reducible assumption
    | split
    | with_reducible apply runCopy_keeps
    | with_reducible refine foldl_keeps ?_ ?_
    | intro _
    | simp

theorem runOp_keeps {c : Ctl} {s : State} (k : Keeps c s.ctl) (d t0 vocab : Nat) (g : Segment) (e : Entry) (o : Op) : Keeps c (runOp s d t0 vocab g e o).ctl := by
  unfold runOp
  try dsimp only
  repeat' first
    | with_reducible assumption
    | split
    | with_reducible apply runCopy_keeps
    | with_reducible refine foldl_keeps ?_ ?_
    | intro _
    | simp

theorem runOps_keeps {c : Ctl} {s : State} (k : Keeps c s.ctl) (d t0 vocab : Nat) (g : Segment) (e : Entry) (a b : Nat) : Keeps c (runOps s d t0 vocab g e a b).ctl := by
  unfold runOps
  try dsimp only
  repeat' first
    | with_reducible assumption
    | split
    | with_reducible apply runOp_keeps
    | with_reducible apply landFabric_keeps
    | with_reducible refine foldl_keeps ?_ ?_
    | intro _
    | simp

theorem beginEntry_keeps {c : Ctl} {s : State} (k : Keeps c s.ctl) (i : Nat) (e : Entry) : Keeps c (beginEntry s i e).ctl := by
  unfold beginEntry
  try dsimp only
  repeat' first
    | with_reducible assumption
    | split
    | with_reducible apply landFabric_keeps
    | with_reducible refine foldl_keeps ?_ ?_
    | intro _
    | simp

theorem runChain_keeps {c : Ctl} {s : State} (k : Keeps c s.ctl) (n i avail : Nat) : Keeps c (runChain n s i avail).1.ctl := by
  induction n generalizing s avail with
  | zero => exact k
  | succ n ih =>
    unfold runChain
    dsimp only
    repeat' first
      | with_reducible assumption
      | split
      | apply ih
      | with_reducible apply runOps_keeps
      | with_reducible apply beginEntry_keeps
      | simp

theorem runGroup_keeps {c : Ctl} {s : State} (k : Keeps c s.ctl) (i act : Nat) : Keeps c (runGroup s i act).ctl := by
  unfold runGroup
  try dsimp only
  repeat' first
    | with_reducible assumption
    | split
    | with_reducible apply runChain_keeps
    | with_reducible refine foldl_keeps ?_ ?_
    | intro _
    | simp

theorem suspendChain_keeps {c : Ctl} {s : State} (k : Keeps c s.ctl) (i : Nat) : Keeps c (suspendChain s i).ctl := by
  unfold suspendChain
  try dsimp only
  repeat' first
    | with_reducible assumption
    | split
    | with_reducible apply runOps_keeps
    | with_reducible refine foldl_keeps ?_ ?_
    | intro _
    | simp

theorem applyChoice_keeps {c : Ctl} {s : State} (k : Keeps c s.ctl) (i act : Nat) : Keeps c (applyChoice s i act).ctl := by
  unfold applyChoice
  try dsimp only
  repeat' first
    | with_reducible assumption
    | split
    | with_reducible apply suspendChain_keeps
    | with_reducible refine foldl_keeps ?_ ?_
    | intro _
    | simp

theorem endGroup_keeps {c : Ctl} {s : State} (k : Keeps c s.ctl) (i : Nat) : Keeps c (endGroup s i).ctl := by
  unfold endGroup
  try dsimp only
  repeat' first
    | with_reducible assumption
    | split
    | with_reducible apply suspendChain_keeps
    | with_reducible refine foldl_keeps ?_ ?_
    | intro _
    | simp

theorem runOut_keeps {c : Ctl} {s : State} (k : Keeps c s.ctl) (i : Nat) : Keeps c (runOut s i).ctl := by
  unfold runOut
  try dsimp only
  repeat' first
    | with_reducible assumption
    | split
    | with_reducible apply runChain_keeps
    | with_reducible refine foldl_keeps ?_ ?_
    | intro _
    | simp

theorem relayout_keeps {c : Ctl} {s : State} (k : Keeps c s.ctl) (t : MashTable) : Keeps c (relayout s t).ctl := by
  unfold relayout
  try dsimp only
  repeat' first
    | with_reducible assumption
    | split
    | with_reducible apply endGroup_keeps
    | with_reducible apply runOut_keeps
    | with_reducible refine foldl_keeps ?_ ?_
    | intro _
    | simp

theorem activateTable_keeps {c : Ctl} {s : State} (k : Keeps c s.ctl) (t : MashTable) (seq : Nat) : Keeps c (activateTable s t seq).ctl := by
  unfold activateTable
  try dsimp only
  repeat' first
    | with_reducible assumption
    | split
    | with_reducible apply relayout_keeps
    | with_reducible refine foldl_keeps ?_ ?_
    | intro _
    | simp

theorem endRest_keeps {c : Ctl} {s : State} (k : Keeps c s.ctl) : Keeps c (endRest s).ctl := by
  unfold endRest
  try dsimp only
  repeat' first
    | with_reducible assumption
    | split
    | with_reducible apply runGroup_keeps
    | with_reducible refine foldl_keeps ?_ ?_
    | intro _
    | simp

theorem nextRest_keeps {c : Ctl} {s : State} (k : Keeps c s.ctl) : Keeps c (nextRest s).ctl := by
  unfold nextRest
  try dsimp only
  repeat' first
    | with_reducible assumption
    | split
    | with_reducible apply activateTable_keeps
    | with_reducible refine foldl_keeps ?_ ?_
    | intro _
    | simp

theorem sealRest_keeps {c : Ctl} {s : State} (k : Keeps c s.ctl) : Keeps c (sealRest s).ctl := by
  unfold sealRest
  try dsimp only
  repeat' first
    | with_reducible assumption
    | split
    | with_reducible apply applyChoice_keeps
    | with_reducible refine foldl_keeps ?_ ?_
    | intro _
    | simp

theorem stopTenant_keeps {c : Ctl} {s : State} (k : Keeps c s.ctl) (t : Nat) : Keeps c (stopTenant s t).ctl := by
  unfold stopTenant
  try dsimp only
  repeat' first
    | with_reducible assumption
    | split
    | with_reducible apply suspendChain_keeps
    | with_reducible refine foldl_keeps ?_ ?_
    | intro _
    | simp

theorem removalRest_keeps {c : Ctl} {s : State} (k : Keeps c s.ctl) (t : Tenant) : Keeps c (removalRest s t).ctl := by
  unfold removalRest
  try dsimp only
  repeat' first
    | with_reducible assumption
    | split
    | with_reducible apply stopTenant_keeps
    | with_reducible refine foldl_keeps ?_ ?_
    | intro _
    | simp

theorem tenantRest_keeps {c : Ctl} {s : State} (k : Keeps c s.ctl) : Keeps c (tenantRest s).ctl := by
  unfold tenantRest
  try dsimp only
  repeat' first
    | with_reducible assumption
    | split
    | with_reducible apply removalRest_keeps
    | with_reducible refine foldl_keeps ?_ ?_
    | intro _
    | simp

theorem mashBoundary_keeps {c : Ctl} {s : State} (k : Keeps c s.ctl) : Keeps c (mashBoundary s).ctl := by
  unfold mashBoundary
  try dsimp only
  repeat' first
    | with_reducible assumption
    | split
    | with_reducible apply sealRest_keeps
    | with_reducible apply nextRest_keeps
    | with_reducible apply endRest_keeps
    | with_reducible refine foldl_keeps ?_ ?_
    | intro _
    | simp

theorem workBoundary_keeps {c : Ctl} {s : State} (k : Keeps c s.ctl) : Keeps c (workBoundary s).ctl := by
  unfold workBoundary
  try dsimp only
  repeat' first
    | with_reducible assumption
    | split
    | with_reducible apply tenantRest_keeps
    | with_reducible refine foldl_keeps ?_ ?_
    | intro _
    | simp

/-- The control part right after a cold reset begins, but for the queue and the scan instruction. -/
theorem coldState_ctl (s : State) (cause : Nat) (powered : Bool) :
    (coldState s cause powered).ctl = { State.reset.ctl with queue := s.ctl.queue, jtag := s.ctl.jtag } := rfl

theorem coldState_keeps {c : Ctl} {s : State} (k : Keeps c s.ctl) (cause : Nat) (powered : Bool) : Keeps c (coldState s cause powered).ctl := by
  refine k.trans ⟨rfl, fun i => ?_⟩
  rw [coldState_ctl]
  simp only [Ctl.ok, Bool.and_eq_true, decide_eq_true_eq] at i
  have h : s.ctl.jtag ≤ 3 := by simp_all
  simp only [Ctl.ok, Bool.and_eq_true, decide_eq_true_eq]
  simp only [show Memory.wf State.reset.ctl.hbm = true from rfl, show State.reset.ctl.clk.ok = true from rfl]
  refine ⟨⟨⟨⟨⟨⟨⟨⟨⟨⟨⟨⟨⟨⟨⟨⟨⟨⟨⟨⟨⟨⟨⟨⟨⟨⟨⟨⟨⟨⟨⟨⟨?_, ?_⟩, ?_⟩, ?_⟩, ?_⟩, ?_⟩, ?_⟩, ?_⟩, ?_⟩, ?_⟩, ?_⟩, ?_⟩, ?_⟩, ?_⟩, ?_⟩, ?_⟩, ?_⟩, ?_⟩, ?_⟩, ?_⟩, ?_⟩, ?_⟩, ?_⟩, ?_⟩, ?_⟩, ?_⟩, ?_⟩, ?_⟩, ?_⟩, ?_⟩, ?_⟩, ?_⟩, ?_⟩
  all_goals first
    | exact h
    | decide

theorem bits_lt (v hi lo n : Nat) (h : 2 ^ (hi - lo + 1) ≤ n) : bits v hi lo < n :=
  Nat.lt_of_lt_of_le (Nat.mod_lt _ (by positivity)) h

/-- The control part right after a warm reset begins, but for the queue, the sideband and the clock block. -/
theorem warmState_ctl (s : State) (cause : Nat) :
    (warmState s cause).ctl = { State.reset.ctl with
      queue := s.ctl.queue, jtag := s.ctl.jtag, alertEn := s.ctl.alertEn, clk := warmClocks s.ctl.clk,
      evMask := (default : Gl).evMask } := rfl

theorem warmState_keeps {c : Ctl} {s : State} (k : Keeps c s.ctl) (cause : Nat) : Keeps c (warmState s cause).ctl := by
  refine k.trans ⟨rfl, fun i => ?_⟩
  rw [warmState_ctl]
  simp only [Ctl.ok, Bool.and_eq_true, decide_eq_true_eq] at i
  have h : s.ctl.jtag ≤ 3 := by simp_all
  have h2 : s.ctl.alertEn < 128 := by simp_all
  have h3 : s.ctl.clk.ok = true := by simp_all
  have h4 : (warmClocks s.ctl.clk).ok = true := by
    simp only [Clocks.ok, Bool.and_eq_true, decide_eq_true_eq] at h3 ⊢
    simp_all [warmClocks]
  simp only [Ctl.ok, Bool.and_eq_true, decide_eq_true_eq]
  simp only [show Memory.wf State.reset.ctl.hbm = true from rfl, h4]
  refine ⟨⟨⟨⟨⟨⟨⟨⟨⟨⟨⟨⟨⟨⟨⟨⟨⟨⟨⟨⟨⟨⟨⟨⟨⟨⟨⟨⟨⟨⟨⟨⟨?_, ?_⟩, ?_⟩, ?_⟩, ?_⟩, ?_⟩, ?_⟩, ?_⟩, ?_⟩, ?_⟩, ?_⟩, ?_⟩, ?_⟩, ?_⟩, ?_⟩, ?_⟩, ?_⟩, ?_⟩, ?_⟩, ?_⟩, ?_⟩, ?_⟩, ?_⟩, ?_⟩, ?_⟩, ?_⟩, ?_⟩, ?_⟩, ?_⟩, ?_⟩, ?_⟩, ?_⟩, ?_⟩
  all_goals first
    | exact h
    | exact h2
    | decide

theorem clk_keeps {c : Ctl} {s : State} (k : Keeps c s.ctl) (x : Clocks) (h : s.dev.clk.ok = true → x.ok = true) :
    Keeps c { s.ctl with clk := x } := by
  refine k.trans ⟨rfl, fun i => ?_⟩
  simp only [Ctl.ok, Bool.and_eq_true, decide_eq_true_eq] at i ⊢
  simp_all [State.ctl]

theorem readyParts_keeps {c : Ctl} {s : State} (k : Keeps c s.ctl) : Keeps c (readyParts s).ctl := by
  exact Keeps.of_hbm (s := s) [] k fun _ => rfl

theorem startUp_keeps {c : Ctl} {s : State} (k : Keeps c s.ctl) (cold : Bool) : Keeps c (startUp s cold).ctl := by
  unfold startUp
  try dsimp only
  repeat' first
    | with_reducible assumption
    | split
    | with_reducible apply readyParts_keeps
    | with_reducible refine foldl_keeps ?_ ?_
    | intro _
    | simp

/-- A boundary-scan instruction gives way to BYPASS, or stays. -/
theorem jtag_keeps {c : Ctl} {s : State} (k : Keeps c s.ctl) : Keeps c { s.ctl with jtag := if 2 ≤ s.sb.jtag then 0 else s.sb.jtag } := by
  refine k.trans ⟨rfl, fun i => ?_⟩
  simp only [Ctl.ok, Bool.and_eq_true, decide_eq_true_eq] at i ⊢
  have h : s.sb.jtag ≤ 3 → (if 2 ≤ s.sb.jtag then 0 else s.sb.jtag) ≤ 3 := fun h => by split <;> omega
  simp_all [State.ctl]

theorem lockPll_keeps {c : Ctl} {s : State} (k : Keeps c s.ctl) : Keeps c (lockPll s).ctl := by
  unfold lockPll
  apply startUp_keeps
  exact jtag_keeps (s := { s with dev.clk.pllLocked := true }) (clk_keeps k { s.dev.clk with pllLocked := true } id)

theorem tryLock_keeps {c : Ctl} {s : State} (k : Keeps c s.ctl) : Keeps c (tryLock s).ctl := by
  unfold tryLock
  try dsimp only
  repeat' first
    | with_reducible assumption
    | split
    | with_reducible apply lockPll_keeps
    | with_reducible refine foldl_keeps ?_ ?_
    | intro _
    | simp

theorem warmReset_keeps {c : Ctl} {s : State} (k : Keeps c s.ctl) (cause : Nat) : Keeps c (warmReset s cause).ctl := by
  unfold warmReset
  try dsimp only
  repeat' first
    | with_reducible assumption
    | split
    | with_reducible apply startUp_keeps
    | with_reducible apply warmState_keeps
    | with_reducible refine foldl_keeps ?_ ?_
    | intro _
    | simp

theorem coldReset_keeps {c : Ctl} {s : State} (k : Keeps c s.ctl) (cause : Nat) : Keeps c (coldReset s cause).ctl := by
  unfold coldReset
  try dsimp only
  repeat' first
    | with_reducible assumption
    | split
    | with_reducible apply coldState_keeps
    | with_reducible refine foldl_keeps ?_ ?_
    | intro _
    | simp

theorem clockFail_keeps {c : Ctl} {s : State} (k : Keeps c s.ctl) (cause : Nat) : Keeps c (clockFail s cause).ctl := by
  unfold clockFail
  dsimp only
  rw [raise_ctl, alertSet_ctl]
  exact clk_keeps k { s.dev.clk with clockNmi := true } id

theorem levelNext_le (h : Nat) (up down : Bool) (k : h ≤ 12) : levelNext h up down ≤ 12 := by
  unfold levelNext
  split
  · omega
  · split <;> omega

theorem throttle_keeps {c : Ctl} {s : State} (k : Keeps c s.ctl) (a b : Nat) (ha : s.dev.thr.hThermal ≤ 12 → a ≤ 12)
    (hb : s.dev.thr.hPower ≤ 12 → b ≤ 12) : Keeps c { s.ctl with hThermal := a, hPower := b, level := max a b } := by
  refine k.trans ⟨rfl, fun i => ?_⟩
  simp only [Ctl.ok, Bool.and_eq_true, decide_eq_true_eq] at i ⊢
  simp_all [State.ctl]

theorem resetLow_keeps {c : Ctl} {s : State} (k : Keeps c s.ctl) : Keeps c (resetLow s).ctl := by
  exact k

theorem execResetPin_keeps {c : Ctl} {s t : State} (k : Keeps c s.ctl) (h : execResetPin s = .next t) : Keeps c t.ctl := by
  cases h
  repeat' first
    | with_reducible assumption
    | dsimp only
    | split
    | with_reducible apply resetLow_keeps
    | with_reducible apply coldReset_keeps
    | simp

theorem execGlitchReset_keeps {c : Ctl} {s t : State} (k : Keeps c s.ctl) (h : execGlitchReset s = .next t) : Keeps c t.ctl := by
  cases h
  repeat' first
    | with_reducible assumption
    | dsimp only
    | split
    | with_reducible apply coldReset_keeps
    | simp

theorem powerUp_keeps {c : Ctl} {s : State} (k : Keeps c s.ctl) : Keeps c (powerUp s).ctl := by
  unfold powerUp
  have a := coldState_keeps k s.dev.resetCause true
  exact a

theorem execSupplyQualified_keeps {c : Ctl} {s t : State} {input : Nat} (k : Keeps c s.ctl) (h : execSupplyQualified input s = .next t) : Keeps c t.ctl := by
  cases h
  dsimp only
  split
  · exact k
  · have k2 : ∀ f, Keeps c (modSupply s input f).ctl := fun f => by rw [modSupply_ctl]; exact k
    repeat' first
      | exact k2 _
      | split
      | exact powerUp_keeps (k2 _)
      | (rw [supplySwitched_ctl])

theorem execHoldupEnd_keeps {c : Ctl} {s t : State} (k : Keeps c s.ctl) (h : execHoldupEnd s = .next t) : Keeps c t.ctl := by
  cases h
  repeat' first
    | with_reducible assumption
    | dsimp only
    | split
    | with_reducible apply coldState_keeps
    | simp

theorem execThrottleUpdate_keeps {c : Ctl} {s t : State} (k : Keeps c s.ctl) (h : execThrottleUpdate s = .next t) : Keeps c t.ctl := by
  cases h
  have kk := throttle_keeps k (levelNext s.dev.thr.hThermal (decide (1600 ≤ (hottest s.dev.thr.temps).2))
      (decide ((hottest s.dev.thr.temps).2 ≤ 1552))) (levelNext s.dev.thr.hPower
      (decide (pwrLimit s * s.dev.thr.pinHist.length < s.dev.thr.pinHist.foldl (· + ·) 0))
      (decide (s.dev.thr.pinHist.foldl (· + ·) 0 * 100 < 95 * pwrLimit s * s.dev.thr.pinHist.length)))
      (levelNext_le _ _ _) (levelNext_le _ _ _)
  split
  · exact k
  · dsimp only
    repeat' first
      | split
      | (rw [raise_ctl])
      | (rw [alertSet_ctl])
      | exact kk

theorem alert_ok {c : Ctl} (h : c.ok = true) : c.alertEn < 128 := by
  simp only [Ctl.ok, Bool.and_eq_true, decide_eq_true_eq] at h
  simp_all

theorem alert_keeps {c : Ctl} {s : State} (k : Keeps c s.ctl) (n : Nat) (h : c.ok = true → n < 128) :
    Keeps c { s.ctl with alertEn := n } := by
  refine ⟨k.queue, fun o => ?_⟩
  have i := k.ok o
  have h := h o
  simp only [Ctl.ok, Bool.and_eq_true, decide_eq_true_eq] at i ⊢
  simp_all

theorem execThermtrip_keeps {c : Ctl} {s t : State} (k : Keeps c s.ctl) (h : execThermtrip s = .next t) : Keeps c t.ctl := by
  cases h
  split
  · exact k
  · exact alert_keeps (coldState_keeps k 6 false) s.sb.alertEn fun o => alert_ok (k.ok o)

theorem execOscillatorStable_keeps {c : Ctl} {s t : State} {osc : Nat} (k : Keeps c s.ctl) (h : execOscillatorStable osc s = .next t) : Keeps c t.ctl := by
  cases h
  split
  · exact k
  · split
    · exact tryLock_keeps (clk_keeps k { s.dev.clk with intStable := true } id)
    · split
      · exact tryLock_keeps (clk_keeps k { s.dev.clk with refStable := true } id)
      · split
        · split
          · exact clk_keeps k { s.dev.clk with monStable := true } id
          · exact clk_keeps k { s.dev.clk with monStable := true, monActive := true } id
        · exact k

theorem rootInt_ok {x : Clocks} (h : x.ok = true) : ({ x with rootSrc := 1 } : Clocks).ok = true := by
  simp only [Clocks.ok, Bool.and_eq_true, decide_eq_true_eq] at h ⊢
  simp_all

theorem execRefclkStartTimeout_keeps {c : Ctl} {s t : State} (k : Keeps c s.ctl) (h : execRefclkStartTimeout s = .next t) : Keeps c t.ctl := by
  cases h
  split
  · exact k
  · exact clockFail_keeps (tryLock_keeps (clk_keeps k { s.dev.clk with rootSrc := 1 } rootInt_ok)) 2

theorem countWindow_keeps {c : Ctl} {s : State} (k : Keeps c s.ctl) (count : Nat) : Keeps c (countWindow s count).ctl := by
  unfold countWindow
  exact clk_keeps k { s.dev.clk with lastCount := count, failRun := _ } id

theorem windowEnd_keeps {c : Ctl} {s : State} (k : Keeps c s.ctl) : Keeps c (windowEnd s).ctl := by
  unfold windowEnd
  split
  · exact clockFail_keeps (clk_keeps k { s.dev.clk with rootSrc := 1 } rootInt_ok) 0
  · exact k

theorem execClockMonWindow_keeps {c : Ctl} {s t : State} {count : Nat} (k : Keeps c s.ctl) (h : execClockMonWindow count s = .next t) : Keeps c t.ctl := by
  cases h
  split
  · exact k
  · exact windowEnd_keeps (countWindow_keeps k count)

theorem execMonclkAbsent_keeps {c : Ctl} {s t : State} (k : Keeps c s.ctl) (h : execMonclkAbsent s = .next t) : Keeps c t.ctl := by
  cases h
  split
  · exact k
  · exact clockFail_keeps (clk_keeps k { s.dev.clk with monActive := false, monclkAbsent := true } id) 1

theorem resetFor_keeps {c : Ctl} {s t : State} {cause : Nat} (k : Keeps c s.ctl) (h : resetFor s cause = .next t) : Keeps c t.ctl := by
  rw [resetFor.eq_1] at h
  split at h
  · cases h; exact coldReset_keeps k 2
  · split at h
    · cases h; exact warmReset_keeps k _
    · cases h

theorem execDeferredReset_keeps {c : Ctl} {s t : State} (k : Keeps c s.ctl) (h : execDeferredReset s = .next t) : Keeps c t.ctl := by
  rw [execDeferredReset.eq_1] at h
  split at h
  · cases h; exact k
  · exact resetFor_keeps (by rw [advanceUs_ctl]; exact k) h

theorem admit_keeps {c : Ctl} {s : State} (k : Keeps c s.ctl) (h : Hdr) (cmd : Cmd) (endOff : Nat)
    (params : State → List (Bool × Nat)) (go : State → State)
    (hg : ∀ u, badAtOf h (params u) = none → Keeps c u.ctl → Keeps c (go u).ctl) :
    Keeps c (admit_ s h cmd endOff params go).ctl := by
  unfold admit_
  have k2 : Keeps c (takeFromBuffer s h).ctl := by rw [takeFromBuffer_ctl]; exact k
  split
  · exact k
  · dsimp only
    split
    · rw [resendReply_ctl]; exact k2
    · rw [refuse_ctl]; exact k2
    · split
      · rw [answerEarly_ctl]; exact k2
      · split
        · rw [refuse_ctl]; exact k2
        · split
          · rw [answerEarly_ctl]; exact k2
          · exact hg _ (by assumption) k2

theorem syncCmd_keeps {c : Ctl} {s : State} (k : Keeps c s.ctl) (h : Hdr) (cmd : Cmd) (endOff : Nat)
    (params : State → List (Bool × Nat)) (run : State → State × Ans)
    (hr : ∀ u, badAtOf h (params u) = none → Keeps c u.ctl → Keeps c (run u).1.ctl) :
    Keeps c (syncCmd s h cmd endOff params run).ctl := by
  unfold syncCmd
  refine admit_keeps k h cmd endOff params _ fun u hb ku => ?_
  have kr := hr u hb ku
  dsimp only
  split
  · rw [refuse_ctl]; exact ku
  · split
    · rw [answerSync_ctl]; exact ku
    · rw [answerSync_ctl]; exact kr

theorem minBy_none {α : Type} {key : α → Nat} {l : List α} (h : minBy key l = none) : l = [] := by
  cases l with
  | nil => rfl
  | cons a l =>
    unfold minBy at h
    split at h
    · cases h
    · split at h <;> cases h

/-- With no offending offset, every condition is false. -/
theorem badAtOf_none {h : Hdr} {ps : List (Bool × Nat)} (hb : badAtOf h ps = none) : ∀ p ∈ ps, p.1 = false := by
  have e := minBy_none hb
  rw [List.append_eq_nil_iff, List.map_eq_nil_iff, List.filter_eq_nil_iff] at e
  intro p hp
  simpa using e.1 p hp

theorem clearSupplyNmi_keeps {c : Ctl} {s : State} (k : Keeps c s.ctl) : Keeps c (clearSupplyNmi s).ctl := by
  rw [clearSupplyNmi_ctl]; exact k

theorem clearClockNmi_keeps {c : Ctl} {s : State} (k : Keeps c s.ctl) : Keeps c (clearClockNmi s).ctl := by
  unfold clearClockNmi
  split
  · exact clk_keeps k { s.dev.clk with clockNmi := false } id
  · exact k

theorem mon_keeps {c : Ctl} {s : State} (k : Keeps c s.ctl) (a b : Nat) (ha : a < 128) (hb : b < 16) :
    Keeps c { s.ctl with clk := { s.dev.clk with monTol := a, monDebounce := b } } := by
  refine clk_keeps k _ fun h => ?_
  simp only [Clocks.ok, Bool.and_eq_true, decide_eq_true_eq] at h ⊢
  simp_all

theorem writeClkMon_keeps {c : Ctl} {s : State} (k : Keeps c s.ctl) (v : Nat) : Keeps c (writeClkMon s v).ctl := by
  exact mon_keeps k _ _ (bits_lt _ _ _ _ (by decide)) (bits_lt _ _ _ _ (by decide))

theorem writePwrCtl_keeps {c : Ctl} {s : State} (k : Keeps c s.ctl) (v : Nat) : Keeps c (writePwrCtl s v).ctl := by
  refine k.trans ⟨rfl, fun i => ?_⟩
  unfold State.ctl at i ⊢
  simp only [writePwrCtl, Ctl.ok, Bool.and_eq_true, decide_eq_true_eq] at i ⊢
  simp_all [bits_lt, Nat.mod_lt]

theorem writeDev_keeps {c : Ctl} {s : State} (k : Keeps c s.ctl) (off v : Nat) : Keeps c (writeDev s off v).ctl := by
  unfold writeDev
  try dsimp only
  repeat' first
    | with_reducible assumption
    | split
    | with_reducible apply clearSupplyNmi_keeps
    | with_reducible apply writePwrCtl_keeps
    | with_reducible apply writeClkMon_keeps
    | with_reducible apply clearClockNmi_keeps
    | with_reducible refine foldl_keeps ?_ ?_
    | intro _
    | simp

theorem writeEv_keeps {c : Ctl} {s : State} (k : Keeps c s.ctl) (off v : Nat) : Keeps c (writeEv s off v).ctl := by
  unfold writeEv
  repeat' first
    | with_reducible exact k
    | split
    | (rw [clearAlerts_ctl]; exact k)
    | (rw [startQuiesce_ctl]; exact k)
    | (refine k.trans ⟨rfl, fun i => ?_⟩
       unfold State.ctl at i ⊢
       simp only [Ctl.ok, Bool.and_eq_true, decide_eq_true_eq] at i ⊢
       simp_all [bits_lt, Nat.mod_lt])

theorem writeCellar_keeps {c : Ctl} {s : State} (k : Keeps c s.ctl) (off v : Nat) : Keeps c (writeCellar s off v).ctl := by
  unfold writeCellar
  repeat' first
    | with_reducible exact k
    | split
    | (rw [clearAlerts_ctl]; exact k)
    | (rw [startQuiesce_ctl]; exact k)
    | (refine k.trans ⟨rfl, fun i => ?_⟩
       unfold State.ctl at i ⊢
       simp only [Ctl.ok, Bool.and_eq_true, decide_eq_true_eq] at i ⊢
       simp_all [bits_lt, Nat.mod_lt])

theorem writeLauter_keeps {c : Ctl} {s : State} (k : Keeps c s.ctl) (off v : Nat) : Keeps c (writeLauter s off v).ctl := by
  unfold writeLauter
  repeat' first
    | with_reducible exact k
    | split
    | (rw [clearAlerts_ctl]; exact k)
    | (rw [startQuiesce_ctl]; exact k)
    | (refine k.trans ⟨rfl, fun i => ?_⟩
       unfold State.ctl at i ⊢
       simp only [Ctl.ok, Bool.and_eq_true, decide_eq_true_eq] at i ⊢
       simp_all [bits_lt, Nat.mod_lt])

theorem writeRows_keeps {c : Ctl} {s : State} (k : Keeps c s.ctl) (off v : Nat) : Keeps c (writeRows s off v).ctl := by
  unfold writeRows
  repeat' first
    | with_reducible exact k
    | split
    | (rw [clearAlerts_ctl]; exact k)
    | (rw [startQuiesce_ctl]; exact k)
    | (refine k.trans ⟨rfl, fun i => ?_⟩
       unfold State.ctl at i ⊢
       simp only [Ctl.ok, Bool.and_eq_true, decide_eq_true_eq] at i ⊢
       simp_all [bits_lt, Nat.mod_lt])

theorem writeOast_keeps {c : Ctl} {s : State} (k : Keeps c s.ctl) (off v : Nat) : Keeps c (writeOast s off v).ctl := by
  unfold writeOast
  repeat' first
    | with_reducible exact k
    | split
    | (rw [clearAlerts_ctl]; exact k)
    | (rw [startQuiesce_ctl]; exact k)
    | (refine k.trans ⟨rfl, fun i => ?_⟩
       unfold State.ctl at i ⊢
       simp only [Ctl.ok, Bool.and_eq_true, decide_eq_true_eq] at i ⊢
       simp_all [bits_lt, Nat.mod_lt])

theorem regWrite_keeps {c : Ctl} {s : State} (k : Keeps c s.ctl) (a v : Nat) : Keeps c (regWrite s a v).ctl := by
  unfold regWrite
  repeat' first
    | with_reducible exact k
    | split
    | with_reducible apply writeDev_keeps
    | with_reducible apply writeEv_keeps
    | with_reducible apply writeCellar_keeps
    | with_reducible apply writeLauter_keeps
    | with_reducible apply writeRows_keeps
    | with_reducible apply writeOast_keeps
    | (refine k.trans ⟨rfl, fun i => ?_⟩
       unfold State.ctl at i ⊢
       simp only [Ctl.ok, Bool.and_eq_true, decide_eq_true_eq] at i ⊢
       simp_all [bits_lt])

theorem regWrites_keeps {c : Ctl} {s : State} (k : Keeps c s.ctl) (a : Nat) (vs : List Nat) : Keeps c (regWrites s a vs).ctl := by
  induction vs generalizing s a with
  | nil => exact k
  | cons v vs ih => exact ih (regWrite_keeps k a v) (a + 4)

theorem csrApply_keeps {c : Ctl} {s : State} (k : Keeps c s.ctl) (address : Nat) (values : List Nat) : Keeps c (csrApply address values s).1.ctl := by
  unfold csrApply
  split
  · exact k
  · split
    · split
      · rw [startShutdown_ctl]; exact regWrites_keeps k _ _
      · exact k
    · exact regWrites_keeps k _ _

theorem csrWrites_keeps {c : Ctl} {s : State} (k : Keeps c s.ctl) (h : Hdr) (address count : Nat) (values : List Nat) : Keeps c (csrWrites h address count values s).ctl := by
  exact syncCmd_keeps k _ _ _ _ _ fun u _ ku => csrApply_keeps ku _ _

theorem execCsrWrite_keeps {c : Ctl} {s t : State} {hd : Hdr} {address count : Nat} {values : List Nat} (k : Keeps c s.ctl) (h : execCsrWrite hd address count values s = .next t) : Keeps c t.ctl := by
  cases h
  exact csrWrites_keeps k _ _ _ _

theorem execShutdown_keeps {c : Ctl} {s t : State} {hd : Hdr} (k : Keeps c s.ctl) (h : execShutdown hd s = .next t) : Keeps c t.ctl := by
  cases h
  exact csrWrites_keeps k _ _ _ _

theorem execWarmReset_keeps {c : Ctl} {s t : State} {hd : Hdr} (k : Keeps c s.ctl) (h : execWarmReset hd s = .next t) : Keeps c t.ctl := by
  cases h
  exact csrWrites_keeps k _ _ _ _

theorem execColdReset_keeps {c : Ctl} {s t : State} {hd : Hdr} (k : Keeps c s.ctl) (h : execColdReset hd s = .next t) : Keeps c t.ctl := by
  cases h
  exact csrWrites_keeps k _ _ _ _

theorem execQuiesce_keeps {c : Ctl} {s t : State} {hd : Hdr} (k : Keeps c s.ctl) (h : execQuiesce hd s = .next t) : Keeps c t.ctl := by
  cases h
  exact csrWrites_keeps k _ _ _ _

theorem execClearNmi_keeps {c : Ctl} {s t : State} {hd : Hdr} {clock : Bool} (k : Keeps c s.ctl) (h : execClearNmi hd clock s = .next t) : Keeps c t.ctl := by
  cases h
  exact csrWrites_keeps k _ _ _ _

theorem clockApply_keeps {c : Ctl} {s : State} (k : Keeps c s.ctl) (item v : Nat)
    (hv : ((clockValues item).getD [v]).contains v = true) : Keeps c (clockApply item v s).ctl := by
  unfold clockApply
  unfold clockValues at hv
  split <;> first
    | with_reducible exact k
    | (refine clk_keeps k _ fun h => ?_
       simp [Clocks.ok] at h hv ⊢
       simp_all
       try omega)

theorem execClockSet_keeps {c : Ctl} {s t : State} {hd : Hdr} {item value : Nat} (k : Keeps c s.ctl) (h : execClockSet hd item value s = .next t) : Keeps c t.ctl := by
  cases h
  refine syncCmd_keeps k _ _ _ _ _ fun u hb ku => clockApply_keeps ku _ _ ?_
  have := badAtOf_none hb (_, 28) (by simp; rfl)
  simpa using this

theorem execSbWrite_keeps {c : Ctl} {s t : State} {data : List Byte} (k : Keeps c s.ctl) (h : execSbWrite data s = .next t) : Keeps c t.ctl := by
  cases h
  split
  · exact k
  · split
    · rw [sbAdvance_ctl]; exact regWrites_keeps (s := { s with sb.lastRefused := false }) k _ _
    · exact k

theorem execJtagInstruction_keeps {c : Ctl} {s t : State} {code : Nat} (k : Keeps c s.ctl) (h : execJtagInstruction code s = .next t) : Keeps c t.ctl := by
  cases h
  split
  · exact k
  · refine k.trans ⟨rfl, fun i => ?_⟩
    unfold State.ctl at i ⊢
    simp only [Ctl.ok, Bool.and_eq_true, decide_eq_true_eq] at i ⊢
    have : (if code = 1 then 1 else if (code = 2 ∨ code = 3) ∧ s.dev.pins.resetN = false then code else 0) ≤ 3 := by
      split
      · omega
      · split <;> omega
    simp_all

theorem execRestBoundary_keeps {c : Ctl} {s t : State} (k : Keeps c s.ctl) (h : execRestBoundary s = .next t) : Keeps c t.ctl := by
  cases h
  split
  · exact workBoundary_keeps (mashBoundary_keeps k)
  · exact k

end Sys2Proof.Machine
end

