-- ==== Sys2Proof/Laws/Packet.lean ====
section
/-! SUPPORT. What the shared operations of commands do: leaving the receive buffer, acceptance, refusal, the replies. -/
namespace Sys2Proof.Machine

/-- `u` with the ports of `v`. -/
def withPorts (u v : State) : State := { u with gl := { u.gl with g0 := v.gl.g0, g1 := v.gl.g1 } }

@[simp] theorem withPorts_self (s : State) : withPorts s s = s := rfl

/-! ### The receive buffer (R31) -/

theorem takeFromBuffer_eq (s : State) (h : Hdr) : takeFromBuffer s h = withPorts s (takeFromBuffer s h) := by
  unfold takeFromBuffer modPort withPorts
  split <;> rfl

theorem takeFromBuffer_keyed (s : State) (h : Hdr) (p : Nat) :
    (glPort (takeFromBuffer s h) p).keyed = (glPort s p).keyed ∧ (glPort (takeFromBuffer s h) p).state = (glPort s p).state := by
  unfold takeFromBuffer modPort glPort
  by_cases a : h.port = 0 <;> by_cases b : p = 0 <;> simp only [a, b, if_true, if_false]
  all_goals first
    | exact ⟨trivial, trivial⟩
    | (split <;> exact ⟨rfl, rfl⟩)

@[simp] theorem serving_take (s : State) (h : Hdr) : serving (takeFromBuffer s h) = serving s := by
  rw [takeFromBuffer_eq]; rfl

@[simp] theorem portUp_take (s : State) (h : Hdr) (p : Nat) : portUp (takeFromBuffer s h) p = portUp s p := by
  unfold portUp
  rw [(takeFromBuffer_keyed s h p).1, (takeFromBuffer_keyed s h p).2, serving_take]

@[simp] theorem cmdRec_take (s : State) (h : Hdr) (q : Nat) : cmdRec (takeFromBuffer s h) q = cmdRec s q := by
  rw [takeFromBuffer_eq]; rfl

@[simp] theorem resultBytes_take (s : State) (h : Hdr) : resultBytes (takeFromBuffer s h) = resultBytes s := by
  rw [takeFromBuffer_eq]; rfl

@[simp] theorem deniedByLifecycle_take (s : State) (h k : Hdr) : deniedByLifecycle (takeFromBuffer s h) k = deniedByLifecycle s k := by
  rw [takeFromBuffer_eq]; rfl

@[simp] theorem earlyFault_take (s : State) (h k : Hdr) (c : Cmd) (e : Nat) : earlyFault (takeFromBuffer s h) k c e = earlyFault s k c e := by
  rw [takeFromBuffer_eq]; rfl

/-! ### Sending (R29, R33) -/

/-- `u` with the ports and the command list of `v`. -/
def withSend (u v : State) : State := { u with gl := { u.gl with g0 := v.gl.g0, g1 := v.gl.g1, cmds := v.gl.cmds } }

theorem noteSent_eq (s : State) (c : Content) : noteSent s c = { s with gl.cmds := (noteSent s c).gl.cmds } := by
  unfold noteSent modCmd
  split
  · split <;> rfl
  · rfl

theorem noteSent_reply (s : State) (r : Reply) : noteSent s (.reply r) =
    if r.kind = 0 ∧ failsAcceptance r.status = true then s
    else modCmd s r.seq fun c =>
      { c with reply := some r, phase := if c.phase = 3 ∧ r.kind ≠ 1 then 1 else c.phase
               repliedAt := if c.phase = 3 ∧ r.kind ≠ 1 then s.dev.localCtr else c.repliedAt } := rfl

theorem noteSent_port (s : State) (p : Nat) (f : GlPort → GlPort) (c : Content) :
    (noteSent (modPort s p f) c).gl.cmds = (noteSent s c).gl.cmds ∧ (modPort s p f).gl.cmds = s.gl.cmds := by
  unfold noteSent modPort modCmd
  split <;> split <;> first | (split <;> exact ⟨rfl, rfl⟩) | exact ⟨rfl, rfl⟩

theorem modPort_withPorts (s : State) (p : Nat) (f : GlPort → GlPort) : modPort s p f = withPorts s (modPort s p f) := by
  unfold modPort withPorts
  split <;> rfl

theorem glPort_modPort {s : State} {p : Nat} (f : GlPort → GlPort) : glPort (modPort s p f) p = f (glPort s p) := by
  unfold glPort modPort
  split <;> simp_all

/-- A content sent on a port: only the ports and the command list differ. It is in a frame, and noted as sent, or it waits
for its frame and the command list is as it was. -/
theorem sendOn_spec (s : State) (p : Nat) (r : Bool) (c : Content) :
    sendOn s p r c = withSend s (sendOn s p r c) ∧
    ((c ∈ (glPort (sendOn s p r c) p).unacked.map (·.content) ∧ (sendOn s p r c).gl.cmds = (noteSent s c).gl.cmds) ∨
     (c ∈ (glPort (sendOn s p r c) p).unsent.map (·.2) ∧ (sendOn s p r c).gl.cmds = s.gl.cmds)) := by
  unfold sendOn
  dsimp only
  split
  · refine ⟨?_, .inl ⟨?_, (noteSent_port s p _ c).1⟩⟩
    · rw [noteSent_eq, modPort_withPorts]; rfl
    · have e : ∀ u : State, glPort (noteSent u c) p = glPort u p := by intro u; rw [noteSent_eq]; rfl
      rw [e, glPort_modPort]
      simp
  · refine ⟨?_, .inr ⟨?_, (noteSent_port s p _ c).2⟩⟩
    · conv_lhs => rw [modPort_withPorts]
      unfold withPorts withSend
      rw [(noteSent_port s p _ c).2]
    · rw [glPort_modPort]; simp

theorem sendOn_outbox (s : State) (p : Nat) (r : Bool) (c : Content) : c ∈ outbox (sendOn s p r c) p := by
  unfold outbox
  rw [List.mem_append]
  exact (sendOn_spec s p r c).2.imp And.left And.left

theorem emit_up {s : State} {p : Nat} (h : portUp s p = true) (r : Bool) (c : Content) : emit s p r c = sendOn s p r c := by
  unfold emit
  rw [if_pos h]

theorem outbox_congr {s t : State} (p : Nat) (h0 : t.gl.g0 = s.gl.g0) (h1 : t.gl.g1 = s.gl.g1) : outbox t p = outbox s p := by
  unfold outbox glPort
  rw [h0, h1]

/-! ### Admission (R28, R42, R55) -/

/-- What `Ready` says, for a packet whose envelope is known. -/
structure Fit (s : State) (h : Hdr) (c : Cmd) (e : Nat) : Prop where
  up : portUp s h.port = true
  fresh : cmdRec s h.seq = none
  early : earlyFault s h c e = none
  bad : h.badAt = none
  life : deniedByLifecycle s h = false
  room : resultBytes s ≤ Config.resultHigh

theorem Ready.fit {s : State} {i : Instr} {h : Hdr} {c : Cmd} {e : Nat} (r : Ready s i) (k : envelope s i = some (h, c, e)) :
    Fit s h c e := by
  unfold Ready at r
  rw [k] at r
  exact ⟨r.1, r.2.1, r.2.2.1, r.2.2.2.1, r.2.2.2.2.1, r.2.2.2.2.2⟩

/-- No condition of a list holds, and no reserved byte is set: no offset is reported. -/
theorem badAtOf_clear {h : Hdr} {ps : List (Bool × Nat)} (hb : h.badAt = none) (hp : ∀ p ∈ ps, p.1 = false) : badAtOf h ps = none := by
  unfold badAtOf
  have e : ps.filter (fun p => p.1) = [] := by
    rw [List.filter_eq_nil_iff]
    intro p m
    simp [hp p m]
  rw [hb, e]
  rfl

theorem admit_fit {s : State} {h : Hdr} {c : Cmd} {e : Nat} (f : Fit s h c e) (params : State → List (Bool × Nat)) (go : State → State)
    (hp : ∀ p ∈ params (takeFromBuffer s h), p.1 = false) : admit_ s h c e params go = go (takeFromBuffer s h) := by
  have b := badAtOf_clear f.bad hp
  unfold admit_ seqCheck
  simp [f.up, f.fresh, f.early, f.life, b]

/-- The result store holds no answer of a command that fits. -/
theorem fit_store {s : State} {h : Hdr} {c : Cmd} {e : Nat} (f : Fit s h c e) (code : Nat) (a : Ans) :
    storeHolds (takeFromBuffer s h) h code a = false := by
  have := f.room
  unfold storeHolds
  simp
  intros
  omega

/-! ### Replies (R38 to R40) -/

theorem find_append {l : List CmdRec} {q : Nat} {r : CmdRec} (h : l.find? (fun c => c.seq == q) = none) (e : r.seq = q) :
    (l ++ [r]).find? (fun c => c.seq == q) = some r := by
  rw [List.find?_append, h]
  simp [e]

theorem find_append_ne {l : List CmdRec} {q : Nat} {r : CmdRec} (e : r.seq ≠ q) :
    (l ++ [r]).find? (fun c => c.seq == q) = l.find? (fun c => c.seq == q) := by
  rw [List.find?_append]
  simp [e]

theorem find_map_seq {l : List CmdRec} {q : Nat} {f : CmdRec → CmdRec} (hf : ∀ c, (f c).seq = c.seq) :
    (l.map f).find? (fun c => c.seq == q) = (l.find? (fun c => c.seq == q)).map f := by
  induction l with
  | nil => rfl
  | cons a l ih =>
    simp only [List.map_cons, List.find?_cons, hf]
    split
    · rfl
    · exact ih

theorem countJob_eq (s : State) (tenant code st : Nat) :
    countJob s tenant code st = { s with mash.jobsDone := (countJob s tenant code st).mash.jobsDone } := by
  unfold countJob
  split <;> rfl

theorem portUp_congr {s t : State} (p : Nat) (h0 : t.gl.g0 = s.gl.g0) (h1 : t.gl.g1 = s.gl.g1) (hd : t.dev = s.dev) :
    portUp t p = portUp s p := by
  unfold portUp glPort serving
  rw [h0, h1, hd]

/-- The answer that `finishReply` gives: NO_MEMORY where a retained body would pass the store's bound. -/
def storeAns (s : State) (c : CmdRec) (retain : Bool) (a : Ans) : Ans :=
  if (!neverRetains c.opcode && (retain || decide (Config.replyMax < 24 + a.body.length)) &&
      decide (Config.resultMax < resultBytes s + a.body.length)) = true then { a with status := stNoMemory, detail := 0, body := [] } else a

/-- Whether `finishReply` retains the body. -/
def storeKeeps (s : State) (c : CmdRec) (retain : Bool) (a : Ans) : Bool :=
  !neverRetains c.opcode && (retain || decide (Config.replyMax < 24 + a.body.length)) &&
    !(!neverRetains c.opcode && (retain || decide (Config.replyMax < 24 + a.body.length)) &&
      decide (Config.resultMax < resultBytes s + a.body.length))

/-- The reply that `finishReply` makes. -/
def finalOf (s : State) (c : CmdRec) (kind : Nat) (retain : Bool) (a : Ans) : Reply :=
  let b := storeAns s c retain a
  let keep := storeKeeps s c retain a
  { status := b.status, opcode := c.opcode, seq := c.seq, session := b.handle.getD c.session, kind := kind, retained := keep,
    detail := b.detail, resultLen := if keep then b.body.length else 0, body := if keep then b.body.take 256 else b.body }

/-- The state in which `finishReply` sends its reply. -/
def beforeSend (s : State) (c : CmdRec) (retain : Bool) (a : Ans) : State :=
  let keep := storeKeeps s c retain a
  let s' := modCmd s c.seq fun k => { k with phase := if keep then 2 else 3 }
  let s' := if keep then
      { s' with gl.results := s'.gl.results ++ [{ seq := c.seq, tenant := c.tenant, body := (storeAns s c retain a).body, reads := 0 }] }
    else s'
  countJob s' c.tenant c.opcode (storeAns s c retain a).status

theorem finishReply_eq (s : State) (c : CmdRec) (kind : Nat) (retain : Bool) (a : Ans) :
    finishReply s c kind retain a = emit (beforeSend s c retain a) c.port false (.reply (finalOf s c kind retain a)) := rfl

/-- What sending a last reply may change before it is sent. -/
theorem beforeSend_eq (s : State) (c : CmdRec) (retain : Bool) (a : Ans) :
    beforeSend s c retain a = { s with
      gl.cmds := (modCmd s c.seq fun k => { k with phase := if storeKeeps s c retain a then 2 else 3 }).gl.cmds
      gl.results := (beforeSend s c retain a).gl.results
      mash.jobsDone := (beforeSend s c retain a).mash.jobsDone } := by
  unfold beforeSend
  dsimp only
  rw [countJob_eq]
  split <;> rfl

theorem beforeSend_kept (s : State) (c : CmdRec) (retain : Bool) (a : Ans) :
    ∀ r ∈ s.gl.results, r ∈ (beforeSend s c retain a).gl.results := by
  intro r hr
  unfold beforeSend
  dsimp only
  rw [countJob_eq]
  split
  · simp [modCmd, hr]
  · simpa [modCmd] using hr

theorem beforeSend_jobs (s : State) (c : CmdRec) (retain : Bool) (a : Ans)
    (h : c.tenant = 0 ∨ neverRetains c.opcode = true ∨ countsJob (storeAns s c retain a).status = false) :
    (beforeSend s c retain a).mash.jobsDone = s.mash.jobsDone := by
  unfold beforeSend countJob
  dsimp only
  rw [if_neg (by rcases h with h | h | h <;> simp [h])]
  split <;> rfl

/-- The reply is the one the answer asks for. -/
theorem finalOf_isReply (s : State) (c : CmdRec) (h : Hdr) (kind : Nat) (retain : Bool) (a : Ans) (hs : c.seq = h.seq)
    (hn : c.session = h.session) : isReply h c.opcode kind (storeAns s c retain a) (finalOf s c kind retain a) := by
  unfold isReply finalOf
  refine ⟨hs, rfl, rfl, rfl, rfl, by simp [hn], ?_⟩
  dsimp only
  split <;> simp

theorem storeAns_fit (s : State) (h : Hdr) (c : CmdRec) (a : Ans) : storeAns s c (bit h.flags 0) a = fitAns s h c.opcode a := by
  unfold storeAns fitAns
  refine if_congr ?_ rfl rfl
  simp [and_assoc]

/-- A last reply of a command that is listed, on a port that is up: the command's record, and what differs. -/
theorem finishReply_sent {w : State} {r : CmdRec} {h : Hdr} (kind : Nat) (k : Bool) (a : Ans) (rs : r.seq = h.seq) (rp : r.port = h.port)
    (up : portUp w h.port = true) (ok : kind ≠ 0 ∨ failsAcceptance (storeAns w r k a).status = false) :
    ∃ t, t = finishReply w r kind k a ∧ t = { w with
        gl := { w.gl with g0 := t.gl.g0, g1 := t.gl.g1, cmds := t.gl.cmds, results := (beforeSend w r k a).gl.results }
        mash.jobsDone := (beforeSend w r k a).mash.jobsDone } ∧
      ((.reply (finalOf w r kind k a) ∈ (glPort t h.port).unacked.map (·.content) ∧
          ∃ f : CmdRec → CmdRec, t.gl.cmds = w.gl.cmds.map (fun c => if c.seq = h.seq then f c else c) ∧
            ∀ c, (f c).seq = c.seq ∧ (f c).opcode = c.opcode ∧ (f c).tenant = c.tenant ∧ (f c).reply = some (finalOf w r kind k a)) ∨
       (.reply (finalOf w r kind k a) ∈ (glPort t h.port).unsent.map (·.2) ∧
          ∃ f : CmdRec → CmdRec, t.gl.cmds = w.gl.cmds.map (fun c => if c.seq = h.seq then f c else c) ∧
            ∀ c, (f c).seq = c.seq ∧ (f c).opcode = c.opcode ∧ (f c).tenant = c.tenant ∧ (f c).reply = c.reply)) := by
  refine ⟨_, rfl, ?_⟩
  have e := beforeSend_eq w r k a
  rw [finishReply_eq, rp]
  have up2 : portUp (beforeSend w r k a) h.port = true := by
    rw [portUp_congr (s := w) h.port (by rw [e]) (by rw [e]) (by rw [e])]; exact up
  rw [emit_up up2]
  obtain ⟨e2, m⟩ := sendOn_spec (beforeSend w r k a) h.port false (.reply (finalOf w r kind k a))
  have bc : (beforeSend w r k a).gl.cmds =
      w.gl.cmds.map fun c => if c.seq = h.seq then { c with phase := if storeKeeps w r k a then 2 else 3 } else c := by
    rw [e]; simp only [modCmd, rs]
  refine ⟨?_, ?_⟩
  · conv_lhs => rw [e2]
    unfold withSend
    rw [e]
  · rcases m with ⟨m, mc⟩ | ⟨m, mc⟩
    · refine .inl ⟨m, fun c => { c with
        phase := if (if storeKeeps w r k a then 2 else 3) = 3 ∧ kind ≠ 1 then 1 else if storeKeeps w r k a then 2 else 3
        repliedAt := if (if storeKeeps w r k a then 2 else 3) = 3 ∧ kind ≠ 1 then (beforeSend w r k a).dev.localCtr else c.repliedAt
        reply := some (finalOf w r kind k a) }, ?_, fun c => ⟨rfl, rfl, rfl, rfl⟩⟩
      rw [mc]
      have ne : ¬((finalOf w r kind k a).kind = 0 ∧ failsAcceptance (finalOf w r kind k a).status = true) := by
        rintro ⟨x, y⟩
        rcases ok with o | o
        · exact o x
        · rw [show (finalOf w r kind k a).status = (storeAns w r k a).status from rfl, o] at y; cases y
      rw [noteSent_reply, if_neg ne]
      unfold modCmd
      simp only [bc, List.map_map]
      refine List.map_congr_left fun c _ => ?_
      simp only [Function.comp]
      have fs : (finalOf w r kind k a).seq = h.seq := rs
      have fk : (finalOf w r kind k a).kind = kind := rfl
      rw [fs, fk]
      by_cases q : c.seq = h.seq
      · simp only [q, if_true]
      · simp only [q, if_false]
    · exact .inr ⟨m, fun c => { c with phase := if storeKeeps w r k a then 2 else 3 }, by rw [mc, bc], fun c => ⟨rfl, rfl, rfl, rfl⟩⟩

/-- The FINAL reply of a command listed last. -/
theorem finalOn_answered {u v : State} {h : Hdr} {code : Nat} {a : Ans} (hv : v = withPorts u v)
    (up : portUp v h.port = true) (fresh : cmdRec u h.seq = none) (ok : failsAcceptance a.status = false) :
    Answered u (finalOn v h code a) h code a := by
  unfold finalOn answerSync
  have hc : v.gl.cmds = u.gl.cmds := by rw [hv]; rfl
  have hr : v.gl.results = u.gl.results := by rw [hv]; rfl
  generalize hr' : newRec v h code = r
  have rs : r.seq = h.seq := by rw [← hr']; rfl
  have ro : r.opcode = code := by rw [← hr']; rfl
  have rt : r.tenant = h.tenant := by rw [← hr']; rfl
  have rp : r.port = h.port := by rw [← hr']; rfl
  have rn : r.session = h.session := by rw [← hr']; rfl
  have ry : r.reply = none := by rw [← hr']; rfl
  generalize hw : ({ v with gl.cmds := v.gl.cmds ++ [r], gl.acceptNo := v.gl.acceptNo + 1 } : State) = w
  have wc : w.gl.cmds = u.gl.cmds ++ [r] := by rw [← hw]; simp [hc]
  have wup : portUp w h.port = true := by
    rw [portUp_congr (s := v) h.port (by rw [← hw]) (by rw [← hw]) (by rw [← hw])]; exact up
  have fit : storeAns w r (bit h.flags 0) a = fitAns u h code a := by
    rw [storeAns_fit, ro]
    unfold fitAns resultBytes
    rw [show w.gl.results = u.gl.results by rw [← hw]; exact hr]
  have ok2 : failsAcceptance (storeAns w r (bit h.flags 0) a).status = false := by
    unfold storeAns
    split
    · rfl
    · exact ok
  obtain ⟨t, ht, te, hd⟩ := finishReply_sent (w := w) (h := h) 0 (bit h.flags 0) a rs rp wup (.inr ok2)
  rw [← ht]
  have isr := finalOf_isReply w r h 0 (bit h.flags 0) a rs rn
  rw [fit, ro] at isr
  have rec1 : ∀ f : CmdRec → CmdRec, (∀ c, (f c).seq = c.seq) → t.gl.cmds = w.gl.cmds.map (fun c => if c.seq = h.seq then f c else c) →
      cmdRec t h.seq = some (f r) ∧ ∀ q, q ≠ h.seq → cmdRec t q = cmdRec u q := by
    intro f hf hm
    refine ⟨?_, ?_⟩
    · unfold cmdRec
      rw [hm, wc, find_map_seq (by intro c; split <;> simp [hf]), find_append fresh rs]
      simp [rs]
    · intro q hq
      unfold cmdRec
      rw [hm, wc, find_map_seq (by intro c; split <;> simp [hf]), find_append_ne (by rw [rs]; exact fun x => hq x.symm)]
      cases hq2 : u.gl.cmds.find? (fun c => c.seq == q) with
      | none => rfl
      | some c =>
        have := List.find?_some hq2
        simp only [beq_iff_eq] at this
        simp [this, hq]
  refine ⟨?_, ?_, ?_, ?_, ?_⟩
  · rcases hd with ⟨m, f, hm, hf⟩ | ⟨m, f, hm, hf⟩
    · exact ⟨f r, _, (rec1 f (fun c => (hf c).1) hm).1, by rw [(hf r).2.1, ro], by rw [(hf r).2.2.1, rt], isr, .inl ⟨m, (hf r).2.2.2⟩⟩
    · exact ⟨f r, _, (rec1 f (fun c => (hf c).1) hm).1, by rw [(hf r).2.1, ro], by rw [(hf r).2.2.1, rt], isr,
        .inr ⟨m, by rw [(hf r).2.2.2, ry]⟩⟩
  · rcases hd with ⟨-, f, hm, hf⟩ | ⟨-, f, hm, hf⟩ <;> exact (rec1 f (fun c => (hf c).1) hm).2
  · intro x hx
    rw [te]
    refine beforeSend_kept w r (bit h.flags 0) a x ?_
    rw [← hw]; simpa [hr] using hx
  · intro hj
    rw [te]
    refine (beforeSend_jobs w r (bit h.flags 0) a ?_).trans ?_
    · rw [rt, ro, fit]; exact hj
    · rw [← hw, hv]; rfl
  · rw [te, ← hw, hv]
    rfl

/-- A synchronous command that acceptance takes: its effect, then its FINAL reply. -/
theorem sync_final {s v : State} {h : Hdr} {c : Cmd} {e : Nat} {params : State → List (Bool × Nat)}
    {run : State → State × Ans} {a : Ans} (f : Fit s h c e) (hp : ∀ p ∈ params (takeFromBuffer s h), p.1 = false)
    (hrun : run (takeFromBuffer s h) = (v, a)) (ok : failsAcceptance a.status = false) :
    syncCmd s h c e params run = finalOn v h c.code a := by
  unfold syncCmd
  rw [admit_fit f _ _ hp]
  dsimp only
  rw [hrun]
  dsimp only
  rw [if_neg (by simp [ok]), if_neg (by simp [fit_store f])]
  rfl

/-- A refusal sent on a port that is up. -/
theorem refuse_refused {s v : State} {h : Hdr} (code st d : Nat) (hv : v = withPorts s v) (up : portUp v h.port = true)
    (ok : failsAcceptance st = true ∨ cmdRec v h.seq = none) : Refused s (refuse v h code st d) h code st d := by
  unfold refuse
  rw [emit_up up]
  obtain ⟨e, m⟩ := sendOn_spec v h.port false (.reply (replyOf h code 0 (ansD st d)))
  refine ⟨⟨_, ?_, sendOn_outbox _ _ _ _⟩, ?_⟩
  · exact ⟨rfl, rfl, rfl, rfl, rfl, rfl, by simp [replyOf, ansD]⟩
  · have hc : v.gl.cmds = s.gl.cmds := by rw [hv]; rfl
    have same : (noteSent v (.reply (replyOf h code 0 (ansD st d)))).gl.cmds = v.gl.cmds := by
      rw [noteSent_reply]
      split
      · rfl
      · rename_i n
        rcases ok with o | o
        · exact absurd ⟨rfl, o⟩ n
        · unfold modCmd
          dsimp only
          conv_rhs => rw [← List.map_id v.gl.cmds]
          refine List.map_congr_left fun c hm => ?_
          have := List.find?_eq_none.mp o c hm
          simp only [beq_iff_eq] at this
          rw [show (replyOf h code 0 (ansD st d)).seq = h.seq from rfl, if_neg this]; rfl
    have ec : (sendOn v h.port false (.reply (replyOf h code 0 (ansD st d)))).gl.cmds = s.gl.cmds := by
      rcases m with ⟨-, m⟩ | ⟨-, m⟩
      · rw [m, same, hc]
      · rw [m, hc]
    conv_lhs => rw [e]
    unfold withSend
    rw [ec, hv]
    rfl

theorem firstHit_clear {α : Type} {l : List (Bool × α)} (h : ∀ p ∈ l, p.1 = false) : firstHit l = none := by
  induction l with
  | nil => rfl
  | cons p l ih =>
    obtain ⟨b, a⟩ := p
    have hb : b = false := h _ (List.mem_cons_self ..)
    unfold firstHit
    rw [hb]
    exact ih fun q hq => h q (List.mem_cons_of_mem _ hq)

/-- An asynchronous command that acceptance takes: its INTERIM reply and its job, then what it starts. -/
theorem async_accept {s : State} {h : Hdr} {c : Cmd} {e : Nat} {params : State → List (Bool × Nat)}
    {late : State → List (Bool × Nat × Nat)} {kind : State → JobKind} {start : State → State} (f : Fit s h c e)
    (hp : ∀ p ∈ params (takeFromBuffer s h), p.1 = false) (hl : ∀ p ∈ late (takeFromBuffer s h), p.1 = false) :
    asyncCmd s h c e params late kind start = start (acceptOn (takeFromBuffer s h) h c (kind (takeFromBuffer s h))) := by
  unfold asyncCmd
  rw [admit_fit f _ _ hp]
  dsimp only
  rw [firstHit_clear]
  · rfl
  · intro p hm
    rw [List.mem_append] at hm
    rcases hm with hm | hm
    · exact hl p hm
    · have := f.room
      simp only [List.mem_singleton] at hm
      subst hm
      simpa using this

theorem acceptOn_accepted {s : State} {h : Hdr} (c : Cmd) (kind : JobKind) (hup : portUp s h.port = true)
    (fresh : cmdRec s h.seq = none) : Accepted s (acceptOn (takeFromBuffer s h) h c kind) h c kind := by
  unfold acceptOn heldOn
  have ht := takeFromBuffer_eq s h
  generalize hv : takeFromBuffer s h = v at ht ⊢
  have up : portUp v h.port = true := by rw [← hv, portUp_take]; exact hup
  have hc : v.gl.cmds = s.gl.cmds := by rw [ht]; rfl
  generalize hj : jobOn v h c kind = j
  generalize hr : newRec v h c.code = r
  generalize hw : (if counted c h then
      modSess { v with gl.cmds := v.gl.cmds ++ [r], gl.jobs := v.gl.jobs ++ [j], gl.acceptNo := v.gl.acceptNo + 1 }
        (idxOf h.session) fun x => { x with outstanding := x.outstanding + 1, dwellOn := false }
    else { v with gl.cmds := v.gl.cmds ++ [r], gl.jobs := v.gl.jobs ++ [j], gl.acceptNo := v.gl.acceptNo + 1 }) = w
  have we : w = { v with
      gl.cmds := v.gl.cmds ++ [r], gl.jobs := v.gl.jobs ++ [j], gl.acceptNo := v.gl.acceptNo + 1
      cellar := if counted c h then
        { v.cellar with sess := tmod v.cellar.sess (idxOf h.session) fun x =>
            { x with outstanding := x.outstanding + 1, dwellOn := false } } else v.cellar } := by
    rw [← hw]
    split <;> rfl
  have rs : r.seq = h.seq := by rw [← hr]; rfl
  have up2 : portUp w h.port = true := by
    rw [portUp_congr (s := v) h.port (by rw [we]) (by rw [we]) (by rw [we])]; exact up
  rw [emit_up up2]
  obtain ⟨e2, m⟩ := sendOn_spec w h.port false (.reply (replyOf h c.code 1 (ans stAccepted)))
  have sj := congrArg (fun x : State => x.gl.jobs) e2
  have sl := congrArg (fun x : State => x.cellar) e2
  simp only [withSend] at sj sl
  have wc : w.gl.cmds = s.gl.cmds ++ [r] := by rw [we]; simp [hc]
  have ir : isReply h c.code 1 (ans stAccepted) (replyOf h c.code 1 (ans stAccepted)) :=
    ⟨rfl, rfl, rfl, rfl, rfl, rfl, by simp [replyOf, ans]⟩
  have ns : (noteSent w (.reply (replyOf h c.code 1 (ans stAccepted)))).gl.cmds = w.gl.cmds.map fun k =>
      if k.seq = h.seq then { k with reply := some (replyOf h c.code 1 (ans stAccepted)) } else k := by
    rw [noteSent_reply, if_neg (fun x => by cases x.1)]
    unfold modCmd
    dsimp only
    refine List.map_congr_left fun k _ => ?_
    have k1 : (replyOf h c.code 1 (ans stAccepted)).kind = 1 := rfl
    rw [k1, show (replyOf h c.code 1 (ans stAccepted)).seq = h.seq from rfl]
    simp
  refine ⟨?_, ?_, ⟨j, ?_, ?_⟩, ?_, ?_⟩
  · rcases m with ⟨m, mc⟩ | ⟨m, mc⟩
    · refine ⟨{ r with reply := some (replyOf h c.code 1 (ans stAccepted)) }, _, ?_, ?_, ?_, ir, .inl ⟨m, rfl⟩⟩
      · unfold cmdRec
        rw [mc, ns, wc, find_map_seq (by intro k; split <;> rfl), find_append fresh rs]
        simp [rs]
      · rw [← hr]; rfl
      · rw [← hr]; rfl
    · refine ⟨r, _, ?_, ?_, ?_, ir, .inr ⟨m, ?_⟩⟩
      · unfold cmdRec
        rw [mc, wc, find_append fresh rs]
      · rw [← hr]; rfl
      · rw [← hr]; rfl
      · rw [← hr]; rfl
  · intro q hq
    unfold cmdRec
    rcases m with ⟨-, mc⟩ | ⟨-, mc⟩
    · rw [mc, ns, wc, find_map_seq (by intro k; split <;> rfl), find_append_ne (by rw [rs]; exact fun x => hq x.symm)]
      cases hq2 : s.gl.cmds.find? (fun c => c.seq == q) with
      | none => rfl
      | some k =>
        have := List.find?_some hq2
        simp only [beq_iff_eq] at this
        simp [this, hq]
    · rw [mc, wc, find_append_ne (by rw [rs]; exact fun x => hq x.symm)]
  · rw [sj, we]; simp only; rw [ht]; rfl
  · rw [← hj]
    refine ⟨rfl, rfl, rfl, rfl, rfl, ?_, rfl⟩
    rw [ht]; rfl
  · rw [sl, we]; simp only; rw [ht]; rfl
  · conv_lhs => rw [e2]
    unfold withSend
    rw [sj, sl]
    generalize sendOn w h.port false _ = z
    rw [we, ht]
    rfl

/-- A synchronous command whose reply waits: its job, then what it starts. -/
theorem late_held {s : State} {h : Hdr} {c : Cmd} {e : Nat} {params : State → List (Bool × Nat)}
    {late : State → Option Ans} {kind : State → JobKind} {start : State → State} (f : Fit s h c e)
    (hp : ∀ p ∈ params (takeFromBuffer s h), p.1 = false) (hl : late (takeFromBuffer s h) = none) :
    lateSync s h c e params late kind start = start (heldOn (takeFromBuffer s h) h c (kind (takeFromBuffer s h))) := by
  have room : ¬(bit h.flags 0 = true ∧ Config.resultHigh < resultBytes (takeFromBuffer s h)) := by
    have := f.room
    rw [resultBytes_take]
    omega
  unfold lateSync
  rw [admit_fit f _ _ hp]
  dsimp only
  rw [hl]
  exact if_neg room

theorem heldOn_held {s : State} {h : Hdr} (c : Cmd) (kind : JobKind) (fresh : cmdRec s h.seq = none) :
    Held s (heldOn (takeFromBuffer s h) h c kind) h c kind := by
  unfold heldOn
  have ht := takeFromBuffer_eq s h
  generalize hv : takeFromBuffer s h = v at ht ⊢
  have hc : v.gl.cmds = s.gl.cmds := by rw [ht]; rfl
  have hjobs : s.gl.jobs = v.gl.jobs := by rw [ht]; rfl
  have hd : s.dev = v.dev := by rw [ht]; rfl
  refine ⟨⟨newRec v h c.code, ?_, rfl, rfl, rfl⟩, ?_, ⟨_, by rw [hjobs], rfl, rfl, rfl, rfl, rfl, by rw [hd]; rfl, rfl⟩, ?_⟩
  · unfold cmdRec
    simp only
    rw [hc, find_append fresh rfl]
  · intro q hq
    unfold cmdRec
    simp only
    rw [hc, find_append_ne (fun x => hq x.symm)]
  · simp only; rw [ht]; rfl

/-- A synchronous command answered at once in place of its work. -/
theorem late_final {s : State} {h : Hdr} {c : Cmd} {e : Nat} {params : State → List (Bool × Nat)}
    {late : State → Option Ans} {kind : State → JobKind} {start : State → State} {a : Ans} (f : Fit s h c e)
    (hp : ∀ p ∈ params (takeFromBuffer s h), p.1 = false) (hl : late (takeFromBuffer s h) = some a)
    (ok : failsAcceptance a.status = false) : lateSync s h c e params late kind start = finalOn (takeFromBuffer s h) h c.code a := by
  unfold lateSync
  rw [admit_fit f _ _ hp]
  dsimp only
  rw [hl]
  dsimp only
  rw [if_neg (by simp [ok]), if_neg (by simp [fit_store f])]
  rfl

/-- What acceptance leaves of the state, with the job it lists. -/
theorem acceptOn_jobOf {s : State} {h : Hdr} {c : Cmd} {e : Nat} (kind : JobKind) (f : Fit s h c e)
    (nj : jobOf (takeFromBuffer s h) h.seq = none) :
    ∃ j : Job, jobOf (acceptOn (takeFromBuffer s h) h c kind) h.seq = some j ∧ j.kind = kind ∧ j.seq = h.seq := by
  have a := acceptOn_accepted c kind f.up f.fresh
  obtain ⟨j, e, e1, -, -, -, e2, -⟩ := a.listed
  refine ⟨j, ?_, e2, e1⟩
  unfold jobOf at nj ⊢
  rw [takeFromBuffer_eq] at nj
  rw [e, List.find?_append, show s.gl.jobs.find? (fun j => j.seq == h.seq) = none from nj]
  simp [e1]

/-- Acceptance of a command that its session does not count leaves the sessions alone. -/
theorem acceptOn_cellar {s : State} {h : Hdr} {c : Cmd} {e : Nat} (kind : JobKind) (f : Fit s h c e) (n : counted c h = false) :
    (acceptOn (takeFromBuffer s h) h c kind).cellar = s.cellar := by
  have a := (acceptOn_accepted c kind f.up f.fresh).session
  rw [a, n]
  rfl

/-! ### Every packet goes through one admission -/

theorem csrWrites_packet (h : Hdr) (a n : Nat) (v : List Nat) (s : State) :
    ∃ params go, (.next (csrWrites h a n v s) : Out) = .next (admit_ s h csrWriteCmd (32 + 4 * n) params go) := by
  unfold csrWrites syncCmd
  exact ⟨_, _, rfl⟩

theorem tableCreate_packet (h : Hdr) (table dim rows format opt : Nat) (s : State) :
    ∃ params go, execTableCreate h table dim rows format opt s = .next (admit_ s h (row 0x0401 false 1 0) 40 params go) := by
  unfold execTableCreate
  dsimp only
  cases asksRemoval dim rows format opt
  · rw [if_neg (by simp)]
    exact ⟨_, _, rfl⟩
  · rw [if_pos rfl]
    exact ⟨_, _, rfl⟩

/-- Every command packet is admitted as its envelope says. -/
theorem packet_admit {s : State} {i : Instr} {h : Hdr} {c : Cmd} {e : Nat} (k : envelope s i = some (h, c, e)) :
    ∃ params go, exec i s = .next (admit_ s h c e params go) := by
  cases i <;> simp only [envelope, Option.some.injEq, Prod.mk.injEq, reduceCtorEq] at k <;> obtain ⟨rfl, rfl, rfl⟩ := k <;>
    first
    | exact ⟨_, _, rfl⟩
    | exact csrWrites_packet _ _ _ _ _
    | exact tableCreate_packet _ _ _ _ _ _ _

theorem admit_down {s : State} {h : Hdr} (c : Cmd) (e : Nat) (params : State → List (Bool × Nat)) (go : State → State)
    (d : portUp s h.port = false) : admit_ s h c e params go = s := by
  unfold admit_
  rw [if_pos d]

theorem admit_known {s : State} {h : Hdr} {r : CmdRec} (c : Cmd) (e : Nat) (params : State → List (Bool × Nat)) (go : State → State)
    (u : portUp s h.port = true) (k : cmdRec s h.seq = some r) :
    admit_ s h c e params go = if r.opcode = c.code ∧ r.tenant = h.tenant then resendReply (takeFromBuffer s h) r h.port
      else refuse (takeFromBuffer s h) h c.code stBadParam (min 4 ((headerFault h c e).getD 4)) := by
  unfold admit_ seqCheck
  simp only [u, cmdRec_take, k, Bool.true_eq_false, if_false]
  by_cases b : r.opcode = c.code ∧ r.tenant = h.tenant
  · simp only [if_pos b]
  · simp only [if_neg b]

theorem admit_early {s : State} {h : Hdr} {c : Cmd} {e st d : Nat} (params : State → List (Bool × Nat)) (go : State → State)
    (u : portUp s h.port = true) (k : cmdRec s h.seq = none) (f : earlyFault s h c e = some (st, d)) :
    admit_ s h c e params go = answerEarly (takeFromBuffer s h) h c st d := by
  unfold admit_ seqCheck
  simp [u, k, f]

theorem admit_badAt {s : State} {h : Hdr} {c : Cmd} {e o : Nat} (params : State → List (Bool × Nat)) (go : State → State)
    (u : portUp s h.port = true) (k : cmdRec s h.seq = none) (f : earlyFault s h c e = none)
    (b : badAtOf h (params (takeFromBuffer s h)) = some o) :
    admit_ s h c e params go = refuse (takeFromBuffer s h) h c.code stBadParam o := by
  unfold admit_ seqCheck
  simp [u, k, f, b]

end Sys2Proof.Machine
end

