-- ==== Sys2Proof/Laws/PerInstr.lean ====
section
/-! SUPPORT. Statements about every command, one constructor at a time: the opcode of a command packet lies in one of the ten
groups of R36, at an entry its group has. -/

namespace Sys2Proof

/-- A packet's opcode is 256 times its group, at most 9, plus an entry of the group. -/
def Laws.PacketOpcode.Statement (i : Instr) : Prop :=
  ∀ s h c e, Machine.envelope s i = some (h, c, e) → c.code / 256 ≤ 9 ∧ c.code % 256 ≤ 11

theorem Laws.PacketOpcode.sessionOpen (h : Hdr) (model serviceClass vocab grammar shareClass seed : Nat) : Laws.PacketOpcode.Statement (.sessionOpen h model serviceClass vocab grammar shareClass seed) := by
  intro _ _ _ _ k; cases k; exact ⟨by decide, by decide⟩
theorem Laws.PacketOpcode.sessionAppend (h : Hdr) (inPolicy inMode count : Nat) (tail : List Byte) : Laws.PacketOpcode.Statement (.sessionAppend h inPolicy inMode count tail) := by
  intro _ _ _ _ k; cases k; exact ⟨by decide, by decide⟩
theorem Laws.PacketOpcode.sessionGenerate (h : Hdr) (g : GenParams) : Laws.PacketOpcode.Statement (.sessionGenerate h g) := by
  intro _ _ _ _ k; cases k; exact ⟨by decide, by decide⟩
theorem Laws.PacketOpcode.sessionPark (h : Hdr) : Laws.PacketOpcode.Statement (.sessionPark h) := by
  intro _ _ _ _ k; cases k; exact ⟨by decide, by decide⟩
theorem Laws.PacketOpcode.sessionRevive (h : Hdr) : Laws.PacketOpcode.Statement (.sessionRevive h) := by
  intro _ _ _ _ k; cases k; exact ⟨by decide, by decide⟩
theorem Laws.PacketOpcode.sessionCondense (h : Hdr) (slots : Nat) : Laws.PacketOpcode.Statement (.sessionCondense h slots) := by
  intro _ _ _ _ k; cases k; exact ⟨by decide, by decide⟩
theorem Laws.PacketOpcode.sessionClose (h : Hdr) : Laws.PacketOpcode.Statement (.sessionClose h) := by
  intro _ _ _ _ k; cases k; exact ⟨by decide, by decide⟩
theorem Laws.PacketOpcode.sessionQuery (h : Hdr) : Laws.PacketOpcode.Statement (.sessionQuery h) := by
  intro _ _ _ _ k; cases k; exact ⟨by decide, by decide⟩
theorem Laws.PacketOpcode.sessionMigrateOffer (h : Hdr) (destPeer : Nat) : Laws.PacketOpcode.Statement (.sessionMigrateOffer h destPeer) := by
  intro _ _ _ _ k; cases k; exact ⟨by decide, by decide⟩
theorem Laws.PacketOpcode.sessionMigrateAccept (h : Hdr) (srcPeer epoch digest : Nat) : Laws.PacketOpcode.Statement (.sessionMigrateAccept h srcPeer epoch digest) := by
  intro _ _ _ _ k; cases k; exact ⟨by decide, by decide⟩
theorem Laws.PacketOpcode.bungQuery (h : Hdr) (peer : Nat) : Laws.PacketOpcode.Statement (.bungQuery h peer) := by
  intro _ _ _ _ k; cases k; exact ⟨by decide, by decide⟩
theorem Laws.PacketOpcode.modelRegister (h : Hdr) (model modelKind slice : Nat) (weights : ObjRef) : Laws.PacketOpcode.Statement (.modelRegister h model modelKind slice weights) := by
  intro _ _ _ _ k; cases k; exact ⟨by decide, by decide⟩
theorem Laws.PacketOpcode.modelWarm (h : Hdr) (model : Nat) : Laws.PacketOpcode.Statement (.modelWarm h model) := by
  intro _ _ _ _ k; cases k; exact ⟨by decide, by decide⟩
theorem Laws.PacketOpcode.modelEvict (h : Hdr) (model : Nat) : Laws.PacketOpcode.Statement (.modelEvict h model) := by
  intro _ _ _ _ k; cases k; exact ⟨by decide, by decide⟩
theorem Laws.PacketOpcode.draftBind (h : Hdr) (model draft kMax : Nat) : Laws.PacketOpcode.Statement (.draftBind h model draft kMax) := by
  intro _ _ _ _ k; cases k; exact ⟨by decide, by decide⟩
theorem Laws.PacketOpcode.segmentLoad (h : Hdr) (model phase groupTiles batch : Nat) (segment : ObjRef) : Laws.PacketOpcode.Statement (.segmentLoad h model phase groupTiles batch segment) := by
  intro _ _ _ _ k; cases k; exact ⟨by decide, by decide⟩
theorem Laws.PacketOpcode.vocabLoad (h : Hdr) (vocab : Nat) (table : ObjRef) : Laws.PacketOpcode.Statement (.vocabLoad h vocab table) := by
  intro _ _ _ _ k; cases k; exact ⟨by decide, by decide⟩
theorem Laws.PacketOpcode.grammarLoad (h : Hdr) (grammar vocab : Nat) (table : ObjRef) : Laws.PacketOpcode.Statement (.grammarLoad h grammar vocab table) := by
  intro _ _ _ _ k; cases k; exact ⟨by decide, by decide⟩
theorem Laws.PacketOpcode.lauterQuery (h : Hdr) (q : QueryParams) : Laws.PacketOpcode.Statement (.lauterQuery h q) := by
  intro _ _ _ _ k; cases k; exact ⟨by decide, by decide⟩
theorem Laws.PacketOpcode.corpusInsert (h : Hdr) (corpus shard count pubSeq : Nat) (tail : List Byte) : Laws.PacketOpcode.Statement (.corpusInsert h corpus shard count pubSeq tail) := by
  intro _ _ _ _ k; cases k; exact ⟨by decide, by decide⟩
theorem Laws.PacketOpcode.corpusDelete (h : Hdr) (corpus shard count pubSeq : Nat) (nodes : List Nat) : Laws.PacketOpcode.Statement (.corpusDelete h corpus shard count pubSeq nodes) := by
  intro _ _ _ _ k; cases k; exact ⟨by decide, by decide⟩
theorem Laws.PacketOpcode.corpusPublish (h : Hdr) (corpus shard pubSeq : Nat) : Laws.PacketOpcode.Statement (.corpusPublish h corpus shard pubSeq) := by
  intro _ _ _ _ k; cases k; exact ⟨by decide, by decide⟩
theorem Laws.PacketOpcode.shardMapSet (h : Hdr) (corpus count : Nat) (entries : List ShardEntry) : Laws.PacketOpcode.Statement (.shardMapSet h corpus count entries) := by
  intro _ _ _ _ k; cases k; exact ⟨by decide, by decide⟩
theorem Laws.PacketOpcode.recallProbe (h : Hdr) (corpus shard k beam sample : Nat) : Laws.PacketOpcode.Statement (.recallProbe h corpus shard k beam sample) := by
  intro _ _ _ _ k; cases k; exact ⟨by decide, by decide⟩
theorem Laws.PacketOpcode.tableCreate (h : Hdr) (table dim rows format optimiser : Nat) : Laws.PacketOpcode.Statement (.tableCreate h table dim rows format optimiser) := by
  intro _ _ _ _ k; cases k; exact ⟨by decide, by decide⟩
theorem Laws.PacketOpcode.rowLookup (h : Hdr) (table pooling bags : Nat) (lens idx : List Nat) : Laws.PacketOpcode.Statement (.rowLookup h table pooling bags lens idx) := by
  intro _ _ _ _ k; cases k; exact ⟨by decide, by decide⟩
theorem Laws.PacketOpcode.rowUpdate (h : Hdr) (table count : Nat) (lr : F32) (recs : List (Nat × List H16)) : Laws.PacketOpcode.Statement (.rowUpdate h table count lr recs) := by
  intro _ _ _ _ k; cases k; exact ⟨by decide, by decide⟩
theorem Laws.PacketOpcode.tableReplaceBegin (h : Hdr) (table : Nat) : Laws.PacketOpcode.Statement (.tableReplaceBegin h table) := by
  intro _ _ _ _ k; cases k; exact ⟨by decide, by decide⟩
theorem Laws.PacketOpcode.tableReplaceRows (h : Hdr) (table count firstRow : Nat) (rows : List (List Byte)) : Laws.PacketOpcode.Statement (.tableReplaceRows h table count firstRow rows) := by
  intro _ _ _ _ k; cases k; exact ⟨by decide, by decide⟩
theorem Laws.PacketOpcode.tableReplaceCommit (h : Hdr) (table : Nat) : Laws.PacketOpcode.Statement (.tableReplaceCommit h table) := by
  intro _ _ _ _ k; cases k; exact ⟨by decide, by decide⟩
theorem Laws.PacketOpcode.hotsetSet (h : Hdr) (table refreshUs count : Nat) (rows : List Nat) : Laws.PacketOpcode.Statement (.hotsetSet h table refreshUs count rows) := by
  intro _ _ _ _ k; cases k; exact ⟨by decide, by decide⟩
theorem Laws.PacketOpcode.mashLoad (h : Hdr) (activateAt : Nat) (table : ObjRef) : Laws.PacketOpcode.Statement (.mashLoad h activateAt table) := by
  intro _ _ _ _ k; cases k; exact ⟨by decide, by decide⟩
theorem Laws.PacketOpcode.shareSet (h : Hdr) (shareClass tenant weight rtRests : Nat) : Laws.PacketOpcode.Statement (.shareSet h shareClass tenant weight rtRests) := by
  intro _ _ _ _ k; cases k; exact ⟨by decide, by decide⟩
theorem Laws.PacketOpcode.shaperSet (h : Hdr) (tenant shaper rate burst : Nat) : Laws.PacketOpcode.Statement (.shaperSet h tenant shaper rate burst) := by
  intro _ _ _ _ k; cases k; exact ⟨by decide, by decide⟩
theorem Laws.PacketOpcode.gateListLoad (h : Hdr) (port count activateAt : Nat) (entries : List (Nat × Nat)) : Laws.PacketOpcode.Statement (.gateListLoad h port count activateAt entries) := by
  intro _ _ _ _ k; cases k; exact ⟨by decide, by decide⟩
theorem Laws.PacketOpcode.serviceClassSet (h : Hdr) (cls scFlags pageMaxLog2 dwellMs ttlS condenseSlots : Nat) : Laws.PacketOpcode.Statement (.serviceClassSet h cls scFlags pageMaxLog2 dwellMs ttlS condenseSlots) := by
  intro _ _ _ _ k; cases k; exact ⟨by decide, by decide⟩
theorem Laws.PacketOpcode.sliceSet (h : Hdr) (slice tiles lanes pcs : Nat) : Laws.PacketOpcode.Statement (.sliceSet h slice tiles lanes pcs) := by
  intro _ _ _ _ k; cases k; exact ⟨by decide, by decide⟩
theorem Laws.PacketOpcode.routeSet (h : Hdr) (count : Nat) (entries : List (Nat × Nat)) : Laws.PacketOpcode.Statement (.routeSet h count entries) := by
  intro _ _ _ _ k; cases k; exact ⟨by decide, by decide⟩
theorem Laws.PacketOpcode.buddySet (h : Hdr) (slice buddyPeer : Nat) : Laws.PacketOpcode.Statement (.buddySet h slice buddyPeer) := by
  intro _ _ _ _ k; cases k; exact ⟨by decide, by decide⟩
theorem Laws.PacketOpcode.spareAdopt (h : Hdr) (failedPeer buddyPeer : Nat) : Laws.PacketOpcode.Statement (.spareAdopt h failedPeer buddyPeer) := by
  intro _ _ _ _ k; cases k; exact ⟨by decide, by decide⟩
theorem Laws.PacketOpcode.ckptStart (h : Hdr) (generation gateways : Nat) (peers : List Nat) : Laws.PacketOpcode.Statement (.ckptStart h generation gateways peers) := by
  intro _ _ _ _ k; cases k; exact ⟨by decide, by decide⟩
theorem Laws.PacketOpcode.ckptStatus (h : Hdr) (generation : Nat) : Laws.PacketOpcode.Statement (.ckptStatus h generation) := by
  intro _ _ _ _ k; cases k; exact ⟨by decide, by decide⟩
theorem Laws.PacketOpcode.restoreStart (h : Hdr) (manifest : ObjRef) : Laws.PacketOpcode.Statement (.restoreStart h manifest) := by
  intro _ _ _ _ k; cases k; exact ⟨by decide, by decide⟩
theorem Laws.PacketOpcode.attest (h : Hdr) (nonce : List Byte) : Laws.PacketOpcode.Statement (.attest h nonce) := by
  intro _ _ _ _ k; cases k; exact ⟨by decide, by decide⟩
theorem Laws.PacketOpcode.tenantCreate (h : Hdr) (tenant : Nat) : Laws.PacketOpcode.Statement (.tenantCreate h tenant) := by
  intro _ _ _ _ k; cases k; exact ⟨by decide, by decide⟩
theorem Laws.PacketOpcode.tenantRemove (h : Hdr) (tenant : Nat) : Laws.PacketOpcode.Statement (.tenantRemove h tenant) := by
  intro _ _ _ _ k; cases k; exact ⟨by decide, by decide⟩
theorem Laws.PacketOpcode.keyInstall (h : Hdr) (keyKind blobLen : Nat) (blob : List Byte) : Laws.PacketOpcode.Statement (.keyInstall h keyKind blobLen blob) := by
  intro _ _ _ _ k; cases k; exact ⟨by decide, by decide⟩
theorem Laws.PacketOpcode.csrRead (h : Hdr) (address count : Nat) : Laws.PacketOpcode.Statement (.csrRead h address count) := by
  intro _ _ _ _ k; cases k; exact ⟨by decide, by decide⟩
theorem Laws.PacketOpcode.csrWrite (h : Hdr) (address count : Nat) (values : List Nat) : Laws.PacketOpcode.Statement (.csrWrite h address count values) := by
  intro _ _ _ _ k; cases k; exact ⟨by decide, by decide⟩
theorem Laws.PacketOpcode.calSet (h : Hdr) (item value : Nat) : Laws.PacketOpcode.Statement (.calSet h item value) := by
  intro _ _ _ _ k; cases k; exact ⟨by decide, by decide⟩
theorem Laws.PacketOpcode.clockSet (h : Hdr) (item value : Nat) : Laws.PacketOpcode.Statement (.clockSet h item value) := by
  intro _ _ _ _ k; cases k; exact ⟨by decide, by decide⟩
theorem Laws.PacketOpcode.resultRead (h : Hdr) (target offset readLen : Nat) : Laws.PacketOpcode.Statement (.resultRead h target offset readLen) := by
  intro _ _ _ _ k; cases k; exact ⟨by decide, by decide⟩
theorem Laws.PacketOpcode.resultRelease (h : Hdr) (target : Nat) : Laws.PacketOpcode.Statement (.resultRelease h target) := by
  intro _ _ _ _ k; cases k; exact ⟨by decide, by decide⟩
theorem Laws.PacketOpcode.eventRead (h : Hdr) (fromSeq max : Nat) : Laws.PacketOpcode.Statement (.eventRead h fromSeq max) := by
  intro _ _ _ _ k; cases k; exact ⟨by decide, by decide⟩
theorem Laws.PacketOpcode.firmwareStage (h : Hdr) (image : ObjRef) : Laws.PacketOpcode.Statement (.firmwareStage h image) := by
  intro _ _ _ _ k; cases k; exact ⟨by decide, by decide⟩
theorem Laws.PacketOpcode.firmwareActivate (h : Hdr) (version : Nat) : Laws.PacketOpcode.Statement (.firmwareActivate h version) := by
  intro _ _ _ _ k; cases k; exact ⟨by decide, by decide⟩
theorem Laws.PacketOpcode.nop (h : Hdr) : Laws.PacketOpcode.Statement (.nop h) := by
  intro _ _ _ _ k; cases k; exact ⟨by decide, by decide⟩
theorem Laws.PacketOpcode.shutdown (h : Hdr) : Laws.PacketOpcode.Statement (.shutdown h) := by
  intro _ _ _ _ k; cases k; exact ⟨by decide, by decide⟩
theorem Laws.PacketOpcode.warmReset (h : Hdr) : Laws.PacketOpcode.Statement (.warmReset h) := by
  intro _ _ _ _ k; cases k; exact ⟨by decide, by decide⟩
theorem Laws.PacketOpcode.coldReset (h : Hdr) : Laws.PacketOpcode.Statement (.coldReset h) := by
  intro _ _ _ _ k; cases k; exact ⟨by decide, by decide⟩
theorem Laws.PacketOpcode.deferredReset : Laws.PacketOpcode.Statement (.deferredReset) := by
  intro _ _ _ _ k; cases k
theorem Laws.PacketOpcode.quiesce (h : Hdr) : Laws.PacketOpcode.Statement (.quiesce h) := by
  intro _ _ _ _ k; cases k; exact ⟨by decide, by decide⟩
theorem Laws.PacketOpcode.clearNmi (h : Hdr) (clock : Bool) : Laws.PacketOpcode.Statement (.clearNmi h clock) := by
  intro _ _ _ _ k; cases k; exact ⟨by decide, by decide⟩
theorem Laws.PacketOpcode.sbAlertClear (mask : Nat) : Laws.PacketOpcode.Statement (.sbAlertClear mask) := by
  intro _ _ _ _ k; cases k
theorem Laws.PacketOpcode.sbSetAddr (address len : Nat) : Laws.PacketOpcode.Statement (.sbSetAddr address len) := by
  intro _ _ _ _ k; cases k
theorem Laws.PacketOpcode.sbRead : Laws.PacketOpcode.Statement (.sbRead) := by
  intro _ _ _ _ k; cases k
theorem Laws.PacketOpcode.sbWrite (data : List Byte) : Laws.PacketOpcode.Statement (.sbWrite data) := by
  intro _ _ _ _ k; cases k
theorem Laws.PacketOpcode.jtagInstruction (code : Nat) : Laws.PacketOpcode.Statement (.jtagInstruction code) := by
  intro _ _ _ _ k; cases k
theorem Laws.PacketOpcode.hsHello (port hsFlags : Nat) (nonceC : List Byte) : Laws.PacketOpcode.Statement (.hsHello port hsFlags nonceC) := by
  intro _ _ _ _ k; cases k
theorem Laws.PacketOpcode.hsCt (port : Nat) (ct : List Byte) (macC : List Byte) (newOwner : Option (List Byte)) : Laws.PacketOpcode.Statement (.hsCt port ct macC newOwner) := by
  intro _ _ _ _ k; cases k
theorem Laws.PacketOpcode.handshakeTimeout (port : Nat) : Laws.PacketOpcode.Statement (.handshakeTimeout port) := by
  intro _ _ _ _ k; cases k
theorem Laws.PacketOpcode.glFrameReceive (port : Nat) (f : GlFrame) (tagOk : Bool) : Laws.PacketOpcode.Statement (.glFrameReceive port f tagOk) := by
  intro _ _ _ _ k; cases k
theorem Laws.PacketOpcode.glResendTimeout (port : Nat) : Laws.PacketOpcode.Statement (.glResendTimeout port) := by
  intro _ _ _ _ k; cases k
theorem Laws.PacketOpcode.glKeepalive (port : Nat) : Laws.PacketOpcode.Statement (.glKeepalive port) := by
  intro _ _ _ _ k; cases k
theorem Laws.PacketOpcode.glPortDown (port : Nat) : Laws.PacketOpcode.Statement (.glPortDown port) := by
  intro _ _ _ _ k; cases k
theorem Laws.PacketOpcode.fabFrameReceive (f : FabFrame) (authOk : Bool) : Laws.PacketOpcode.Statement (.fabFrameReceive f authOk) := by
  intro _ _ _ _ k; cases k
theorem Laws.PacketOpcode.fabResendTimeout (peer tclass : Nat) : Laws.PacketOpcode.Statement (.fabResendTimeout peer tclass) := by
  intro _ _ _ _ k; cases k
theorem Laws.PacketOpcode.fabKeepalive (peer : Nat) : Laws.PacketOpcode.Statement (.fabKeepalive peer) := by
  intro _ _ _ _ k; cases k
theorem Laws.PacketOpcode.peerLost (peer : Nat) : Laws.PacketOpcode.Statement (.peerLost peer) := by
  intro _ _ _ _ k; cases k
theorem Laws.PacketOpcode.fabHandshake (peer : Nat) (r : List Byte) (macOk : Bool) : Laws.PacketOpcode.Statement (.fabHandshake peer r macOk) := by
  intro _ _ _ _ k; cases k
theorem Laws.PacketOpcode.fabPortDown (port : Nat) : Laws.PacketOpcode.Statement (.fabPortDown port) := by
  intro _ _ _ _ k; cases k
theorem Laws.PacketOpcode.fabPortUp (port : Nat) (lanes : Nat) : Laws.PacketOpcode.Statement (.fabPortUp port lanes) := by
  intro _ _ _ _ k; cases k
theorem Laws.PacketOpcode.gateListActivate (port : Nat) : Laws.PacketOpcode.Statement (.gateListActivate port) := by
  intro _ _ _ _ k; cases k
theorem Laws.PacketOpcode.restBoundary : Laws.PacketOpcode.Statement (.restBoundary) := by
  intro _ _ _ _ k; cases k
theorem Laws.PacketOpcode.fenceCheck (die tile copy : Nat) : Laws.PacketOpcode.Statement (.fenceCheck die tile copy) := by
  intro _ _ _ _ k; cases k
theorem Laws.PacketOpcode.copyComplete (die tile copy cycle : Nat) : Laws.PacketOpcode.Statement (.copyComplete die tile copy cycle) := by
  intro _ _ _ _ k; cases k
theorem Laws.PacketOpcode.copyAbandon (die tile copy : Nat) : Laws.PacketOpcode.Statement (.copyAbandon die tile copy) := by
  intro _ _ _ _ k; cases k
theorem Laws.PacketOpcode.postRecord (die session entry : Nat) (r : PostRec) : Laws.PacketOpcode.Statement (.postRecord die session entry r) := by
  intro _ _ _ _ k; cases k
theorem Laws.PacketOpcode.stepCommit (item : Nat) : Laws.PacketOpcode.Statement (.stepCommit item) := by
  intro _ _ _ _ k; cases k
theorem Laws.PacketOpcode.rackRecord (src : Nat) (r : RackRec) : Laws.PacketOpcode.Statement (.rackRecord src r) := by
  intro _ _ _ _ k; cases k
theorem Laws.PacketOpcode.rackAck (peer session rackSeq : Nat) : Laws.PacketOpcode.Statement (.rackAck peer session rackSeq) := by
  intro _ _ _ _ k; cases k
theorem Laws.PacketOpcode.fencedReceived (peer slice : Nat) : Laws.PacketOpcode.Statement (.fencedReceived peer slice) := by
  intro _ _ _ _ k; cases k
theorem Laws.PacketOpcode.adoptFreezeRequest (spare failed : Nat) : Laws.PacketOpcode.Statement (.adoptFreezeRequest spare failed) := by
  intro _ _ _ _ k; cases k
theorem Laws.PacketOpcode.handover (src : Nat) (sessions : List Nat) : Laws.PacketOpcode.Statement (.handover src sessions) := by
  intro _ _ _ _ k; cases k
theorem Laws.PacketOpcode.adoptPullDone (seq : Nat) (images : List SessImage) : Laws.PacketOpcode.Statement (.adoptPullDone seq images) := by
  intro _ _ _ _ k; cases k
theorem Laws.PacketOpcode.migrateOfferMsg (src : Nat) (image : SessImage) : Laws.PacketOpcode.Statement (.migrateOfferMsg src image) := by
  intro _ _ _ _ k; cases k
theorem Laws.PacketOpcode.offerReply (src session status : Nat) : Laws.PacketOpcode.Statement (.offerReply src session status) := by
  intro _ _ _ _ k; cases k
theorem Laws.PacketOpcode.migrateEnd (src session digest : Nat) (image : SessImage) : Laws.PacketOpcode.Statement (.migrateEnd src session digest image) := by
  intro _ _ _ _ k; cases k
theorem Laws.PacketOpcode.migrateMatchReply (src session digest : Nat) (isMatch : Bool) : Laws.PacketOpcode.Statement (.migrateMatchReply src session digest isMatch) := by
  intro _ _ _ _ k; cases k
theorem Laws.PacketOpcode.migrateCommitMsg (src session epoch : Nat) : Laws.PacketOpcode.Statement (.migrateCommitMsg src session epoch) := by
  intro _ _ _ _ k; cases k
theorem Laws.PacketOpcode.migrateReleased (src session : Nat) : Laws.PacketOpcode.Statement (.migrateReleased src session) := by
  intro _ _ _ _ k; cases k
theorem Laws.PacketOpcode.migrateAbort (src session epoch : Nat) : Laws.PacketOpcode.Statement (.migrateAbort src session epoch) := by
  intro _ _ _ _ k; cases k
theorem Laws.PacketOpcode.bungAsk (src session epoch : Nat) : Laws.PacketOpcode.Statement (.bungAsk src session epoch) := by
  intro _ _ _ _ k; cases k
theorem Laws.PacketOpcode.bungAnswer (src session : Nat) (committed : Bool) (owner : Nat) : Laws.PacketOpcode.Statement (.bungAnswer src session committed owner) := by
  intro _ _ _ _ k; cases k
theorem Laws.PacketOpcode.bungAskTimeout (session : Nat) : Laws.PacketOpcode.Statement (.bungAskTimeout session) := by
  intro _ _ _ _ k; cases k
theorem Laws.PacketOpcode.revokeNotice (src tenant : Nat) : Laws.PacketOpcode.Statement (.revokeNotice src tenant) := by
  intro _ _ _ _ k; cases k
theorem Laws.PacketOpcode.expertTokens (src model expert : Nat) (payer : Nat × Nat) (tokens : List Nat) : Laws.PacketOpcode.Statement (.expertTokens src model expert payer tokens) := by
  intro _ _ _ _ k; cases k
theorem Laws.PacketOpcode.searchRequest (r : SearchReq) : Laws.PacketOpcode.Statement (.searchRequest r) := by
  intro _ _ _ _ k; cases k
theorem Laws.PacketOpcode.candidateReply (src qid shard status : Nat) (cands : List Cand) : Laws.PacketOpcode.Statement (.candidateReply src qid shard status cands) := by
  intro _ _ _ _ k; cases k
theorem Laws.PacketOpcode.textFetchRequest (src qid tenant corpus shard : Nat) (nodes : List Nat) : Laws.PacketOpcode.Statement (.textFetchRequest src qid tenant corpus shard nodes) := by
  intro _ _ _ _ k; cases k
theorem Laws.PacketOpcode.replicaDeadline (qid shard : Nat) : Laws.PacketOpcode.Statement (.replicaDeadline qid shard) := by
  intro _ _ _ _ k; cases k
theorem Laws.PacketOpcode.mergeDeadline (qid : Nat) : Laws.PacketOpcode.Statement (.mergeDeadline qid) := by
  intro _ _ _ _ k; cases k
theorem Laws.PacketOpcode.textFetchDeadline (qid : Nat) : Laws.PacketOpcode.Statement (.textFetchDeadline qid) := by
  intro _ _ _ _ k; cases k
theorem Laws.PacketOpcode.peerRequestExpire (rid : Nat) : Laws.PacketOpcode.Statement (.peerRequestExpire rid) := by
  intro _ _ _ _ k; cases k
theorem Laws.PacketOpcode.repairSweep (corpus shard : Nat) : Laws.PacketOpcode.Statement (.repairSweep corpus shard) := by
  intro _ _ _ _ k; cases k
theorem Laws.PacketOpcode.objectFetchDone (seq : Nat) (result : Option (List Byte)) : Laws.PacketOpcode.Statement (.objectFetchDone seq result) := by
  intro _ _ _ _ k; cases k
theorem Laws.PacketOpcode.putDone (shardIndex : Nat) : Laws.PacketOpcode.Statement (.putDone shardIndex) := by
  intro _ _ _ _ k; cases k
theorem Laws.PacketOpcode.putFail (shardIndex : Nat) : Laws.PacketOpcode.Statement (.putFail shardIndex) := by
  intro _ _ _ _ k; cases k
theorem Laws.PacketOpcode.dwellExpiry (session : Nat) : Laws.PacketOpcode.Statement (.dwellExpiry session) := by
  intro _ _ _ _ k; cases k
theorem Laws.PacketOpcode.parkComplete (session : Nat) : Laws.PacketOpcode.Statement (.parkComplete session) := by
  intro _ _ _ _ k; cases k
theorem Laws.PacketOpcode.reviveComplete (session : Nat) : Laws.PacketOpcode.Statement (.reviveComplete session) := by
  intro _ _ _ _ k; cases k
theorem Laws.PacketOpcode.condenseCommit (session : Nat) : Laws.PacketOpcode.Statement (.condenseCommit session) := by
  intro _ _ _ _ k; cases k
theorem Laws.PacketOpcode.caskExpiry : Laws.PacketOpcode.Statement (.caskExpiry) := by
  intro _ _ _ _ k; cases k
theorem Laws.PacketOpcode.cellarSecSave : Laws.PacketOpcode.Statement (.cellarSecSave) := by
  intro _ _ _ _ k; cases k
theorem Laws.PacketOpcode.holdExpiry (index : Nat) : Laws.PacketOpcode.Statement (.holdExpiry index) := by
  intro _ _ _ _ k; cases k
theorem Laws.PacketOpcode.reservationGranted (rid : Nat) : Laws.PacketOpcode.Statement (.reservationGranted rid) := by
  intro _ _ _ _ k; cases k
theorem Laws.PacketOpcode.reserveTimeout (rid : Nat) : Laws.PacketOpcode.Statement (.reserveTimeout rid) := by
  intro _ _ _ _ k; cases k
theorem Laws.PacketOpcode.reviveBuddyTimeout (session : Nat) : Laws.PacketOpcode.Statement (.reviveBuddyTimeout session) := by
  intro _ _ _ _ k; cases k
theorem Laws.PacketOpcode.noGroupTimeout (item : Nat) : Laws.PacketOpcode.Statement (.noGroupTimeout item) := by
  intro _ _ _ _ k; cases k
theorem Laws.PacketOpcode.pressureReclaim (die : Nat) : Laws.PacketOpcode.Statement (.pressureReclaim die) := by
  intro _ _ _ _ k; cases k
theorem Laws.PacketOpcode.tokeniseDone (seq : Nat) : Laws.PacketOpcode.Statement (.tokeniseDone seq) := by
  intro _ _ _ _ k; cases k
theorem Laws.PacketOpcode.modelWarmDone (model : Nat) : Laws.PacketOpcode.Statement (.modelWarmDone model) := by
  intro _ _ _ _ k; cases k
theorem Laws.PacketOpcode.modelEvictDone (model : Nat) : Laws.PacketOpcode.Statement (.modelEvictDone model) := by
  intro _ _ _ _ k; cases k
theorem Laws.PacketOpcode.hotRefresh (table : Nat) : Laws.PacketOpcode.Statement (.hotRefresh table) := by
  intro _ _ _ _ k; cases k
theorem Laws.PacketOpcode.flashProgramDone (wid : Nat) (ok : Bool) : Laws.PacketOpcode.Statement (.flashProgramDone wid ok) := by
  intro _ _ _ _ k; cases k
theorem Laws.PacketOpcode.flashEraseDone (lun block : Nat) (ok : Bool) : Laws.PacketOpcode.Statement (.flashEraseDone lun block ok) := by
  intro _ _ _ _ k; cases k
theorem Laws.PacketOpcode.flashReadDone (rid outcome : Nat) : Laws.PacketOpcode.Statement (.flashReadDone rid outcome) := by
  intro _ _ _ _ k; cases k
theorem Laws.PacketOpcode.gcStart (lun : Nat) : Laws.PacketOpcode.Statement (.gcStart lun) := by
  intro _ _ _ _ k; cases k
theorem Laws.PacketOpcode.pslcRecompute : Laws.PacketOpcode.Statement (.pslcRecompute) := by
  intro _ _ _ _ k; cases k
theorem Laws.PacketOpcode.wearGovernorTick : Laws.PacketOpcode.Statement (.wearGovernorTick) := by
  intro _ _ _ _ k; cases k
theorem Laws.PacketOpcode.powerSecSave : Laws.PacketOpcode.Statement (.powerSecSave) := by
  intro _ _ _ _ k; cases k
theorem Laws.PacketOpcode.patrolRead (lun block : Nat) (retried : Bool) : Laws.PacketOpcode.Statement (.patrolRead lun block retried) := by
  intro _ _ _ _ k; cases k
theorem Laws.PacketOpcode.lunTimeout (lun : Nat) : Laws.PacketOpcode.Statement (.lunTimeout lun) := by
  intro _ _ _ _ k; cases k
theorem Laws.PacketOpcode.oastMountDone : Laws.PacketOpcode.Statement (.oastMountDone) := by
  intro _ _ _ _ k; cases k
theorem Laws.PacketOpcode.keyStoreWriteDone : Laws.PacketOpcode.Statement (.keyStoreWriteDone) := by
  intro _ _ _ _ k; cases k
theorem Laws.PacketOpcode.sramEccError (tile : Nat) (double : Bool) : Laws.PacketOpcode.Statement (.sramEccError tile double) := by
  intro _ _ _ _ k; cases k
theorem Laws.PacketOpcode.tileSelfTestDone (tile : Nat) (pass : Bool) : Laws.PacketOpcode.Statement (.tileSelfTestDone tile pass) := by
  intro _ _ _ _ k; cases k
theorem Laws.PacketOpcode.hbmError (kind stack pc row frame : Nat) : Laws.PacketOpcode.Statement (.hbmError kind stack pc row frame) := by
  intro _ _ _ _ k; cases k
theorem Laws.PacketOpcode.dieLost (die : Nat) : Laws.PacketOpcode.Statement (.dieLost die) := by
  intro _ _ _ _ k; cases k
theorem Laws.PacketOpcode.supplyInputChange (input volt : Nat) : Laws.PacketOpcode.Statement (.supplyInputChange input volt) := by
  intro _ _ _ _ k; cases k
theorem Laws.PacketOpcode.supplyQualified (input : Nat) : Laws.PacketOpcode.Statement (.supplyQualified input) := by
  intro _ _ _ _ k; cases k
theorem Laws.PacketOpcode.supplyLost : Laws.PacketOpcode.Statement (.supplyLost) := by
  intro _ _ _ _ k; cases k
theorem Laws.PacketOpcode.holdupEnd : Laws.PacketOpcode.Statement (.holdupEnd) := by
  intro _ _ _ _ k; cases k
theorem Laws.PacketOpcode.sensorSample (vinMain vinBackup pinW : Nat) (temps : List Int) : Laws.PacketOpcode.Statement (.sensorSample vinMain vinBackup pinW temps) := by
  intro _ _ _ _ k; cases k
theorem Laws.PacketOpcode.throttleUpdate : Laws.PacketOpcode.Statement (.throttleUpdate) := by
  intro _ _ _ _ k; cases k
theorem Laws.PacketOpcode.thermtrip : Laws.PacketOpcode.Statement (.thermtrip) := by
  intro _ _ _ _ k; cases k
theorem Laws.PacketOpcode.oscillatorStable (osc : Nat) : Laws.PacketOpcode.Statement (.oscillatorStable osc) := by
  intro _ _ _ _ k; cases k
theorem Laws.PacketOpcode.refclkStartTimeout : Laws.PacketOpcode.Statement (.refclkStartTimeout) := by
  intro _ _ _ _ k; cases k
theorem Laws.PacketOpcode.clockMonWindow (count : Nat) : Laws.PacketOpcode.Statement (.clockMonWindow count) := by
  intro _ _ _ _ k; cases k
theorem Laws.PacketOpcode.monclkAbsent : Laws.PacketOpcode.Statement (.monclkAbsent) := by
  intro _ _ _ _ k; cases k
theorem Laws.PacketOpcode.resetPin : Laws.PacketOpcode.Statement (.resetPin) := by
  intro _ _ _ _ k; cases k
theorem Laws.PacketOpcode.glitchReset : Laws.PacketOpcode.Statement (.glitchReset) := by
  intro _ _ _ _ k; cases k
theorem Laws.PacketOpcode.replyHoldExpiry (seq : Nat) : Laws.PacketOpcode.Statement (.replyHoldExpiry seq) := by
  intro _ _ _ _ k; cases k
theorem Laws.PacketOpcode.gateEntryAdvance (port : Nat) : Laws.PacketOpcode.Statement (.gateEntryAdvance port) := by
  intro _ _ _ _ k; cases k
theorem Laws.PacketOpcode.frameClearDone (die start : Nat) : Laws.PacketOpcode.Statement (.frameClearDone die start) := by
  intro _ _ _ _ k; cases k
theorem Laws.PacketOpcode.abortMarkExpiry (session epoch : Nat) : Laws.PacketOpcode.Statement (.abortMarkExpiry session epoch) := by
  intro _ _ _ _ k; cases k
theorem Laws.PacketOpcode.textFetchReply (src qid : Nat) (texts : List (Nat × Nat × List Byte)) : Laws.PacketOpcode.Statement (.textFetchReply src qid texts) := by
  intro _ _ _ _ k; cases k

end Sys2Proof
end

