-- ==== Sys2Proof/Laws/State.lean ====
section
/-! SUPPORT. What each update of a state leaves alone, one part of the state at a time. -/
namespace Sys2Proof.Machine

@[simp] theorem modSess_dev (s : State) (idx : Nat) (f : Sess → Sess) : (modSess s idx f).dev = s.dev := rfl
@[simp] theorem modSess_sb (s : State) (idx : Nat) (f : Sess → Sess) : (modSess s idx f).sb = s.sb := rfl
@[simp] theorem modSess_gl (s : State) (idx : Nat) (f : Sess → Sess) : (modSess s idx f).gl = s.gl := rfl
@[simp] theorem modSess_mash (s : State) (idx : Nat) (f : Sess → Sess) : (modSess s idx f).mash = s.mash := rfl
@[simp] theorem modSess_mill (s : State) (idx : Nat) (f : Sess → Sess) : (modSess s idx f).mill = s.mill := rfl
@[simp] theorem modSess_models (s : State) (idx : Nat) (f : Sess → Sess) : (modSess s idx f).models = s.models := rfl
@[simp] theorem modSess_copper (s : State) (idx : Nat) (f : Sess → Sess) : (modSess s idx f).copper = s.copper := rfl
@[simp] theorem modSess_lauter (s : State) (idx : Nat) (f : Sess → Sess) : (modSess s idx f).lauter = s.lauter := rfl
@[simp] theorem modSess_rows (s : State) (idx : Nat) (f : Sess → Sess) : (modSess s idx f).rows = s.rows := rfl
@[simp] theorem modSess_oast (s : State) (idx : Nat) (f : Sess → Sess) : (modSess s idx f).oast = s.oast := rfl
@[simp] theorem modSess_fab (s : State) (idx : Nat) (f : Sess → Sess) : (modSess s idx f).fab = s.fab := rfl
@[simp] theorem modSess_rack (s : State) (idx : Nat) (f : Sess → Sess) : (modSess s idx f).rack = s.rack := rfl
@[simp] theorem modSess_ckpt (s : State) (idx : Nat) (f : Sess → Sess) : (modSess s idx f).ckpt = s.ckpt := rfl
@[simp] theorem modSess_sec (s : State) (idx : Nat) (f : Sess → Sess) : (modSess s idx f).sec = s.sec := rfl
@[simp] theorem modSess_free (s : State) (idx : Nat) (f : Sess → Sess) : (modSess s idx f).free = s.free := rfl
@[simp] theorem modSess_pending (s : State) (idx : Nat) (f : Sess → Sess) : (modSess s idx f).pending = s.pending := rfl

@[simp] theorem putSess_dev (s : State) (x : Sess) : (putSess s x).dev = s.dev := rfl
@[simp] theorem putSess_sb (s : State) (x : Sess) : (putSess s x).sb = s.sb := rfl
@[simp] theorem putSess_gl (s : State) (x : Sess) : (putSess s x).gl = s.gl := rfl
@[simp] theorem putSess_mash (s : State) (x : Sess) : (putSess s x).mash = s.mash := rfl
@[simp] theorem putSess_mill (s : State) (x : Sess) : (putSess s x).mill = s.mill := rfl
@[simp] theorem putSess_models (s : State) (x : Sess) : (putSess s x).models = s.models := rfl
@[simp] theorem putSess_copper (s : State) (x : Sess) : (putSess s x).copper = s.copper := rfl
@[simp] theorem putSess_lauter (s : State) (x : Sess) : (putSess s x).lauter = s.lauter := rfl
@[simp] theorem putSess_rows (s : State) (x : Sess) : (putSess s x).rows = s.rows := rfl
@[simp] theorem putSess_oast (s : State) (x : Sess) : (putSess s x).oast = s.oast := rfl
@[simp] theorem putSess_fab (s : State) (x : Sess) : (putSess s x).fab = s.fab := rfl
@[simp] theorem putSess_rack (s : State) (x : Sess) : (putSess s x).rack = s.rack := rfl
@[simp] theorem putSess_ckpt (s : State) (x : Sess) : (putSess s x).ckpt = s.ckpt := rfl
@[simp] theorem putSess_sec (s : State) (x : Sess) : (putSess s x).sec = s.sec := rfl
@[simp] theorem putSess_free (s : State) (x : Sess) : (putSess s x).free = s.free := rfl
@[simp] theorem putSess_pending (s : State) (x : Sess) : (putSess s x).pending = s.pending := rfl

@[simp] theorem modCmd_dev (s : State) (seq : Nat) (f : CmdRec → CmdRec) : (modCmd s seq f).dev = s.dev := rfl
@[simp] theorem modCmd_sb (s : State) (seq : Nat) (f : CmdRec → CmdRec) : (modCmd s seq f).sb = s.sb := rfl
@[simp] theorem modCmd_mash (s : State) (seq : Nat) (f : CmdRec → CmdRec) : (modCmd s seq f).mash = s.mash := rfl
@[simp] theorem modCmd_mill (s : State) (seq : Nat) (f : CmdRec → CmdRec) : (modCmd s seq f).mill = s.mill := rfl
@[simp] theorem modCmd_cellar (s : State) (seq : Nat) (f : CmdRec → CmdRec) : (modCmd s seq f).cellar = s.cellar := rfl
@[simp] theorem modCmd_models (s : State) (seq : Nat) (f : CmdRec → CmdRec) : (modCmd s seq f).models = s.models := rfl
@[simp] theorem modCmd_copper (s : State) (seq : Nat) (f : CmdRec → CmdRec) : (modCmd s seq f).copper = s.copper := rfl
@[simp] theorem modCmd_lauter (s : State) (seq : Nat) (f : CmdRec → CmdRec) : (modCmd s seq f).lauter = s.lauter := rfl
@[simp] theorem modCmd_rows (s : State) (seq : Nat) (f : CmdRec → CmdRec) : (modCmd s seq f).rows = s.rows := rfl
@[simp] theorem modCmd_oast (s : State) (seq : Nat) (f : CmdRec → CmdRec) : (modCmd s seq f).oast = s.oast := rfl
@[simp] theorem modCmd_fab (s : State) (seq : Nat) (f : CmdRec → CmdRec) : (modCmd s seq f).fab = s.fab := rfl
@[simp] theorem modCmd_rack (s : State) (seq : Nat) (f : CmdRec → CmdRec) : (modCmd s seq f).rack = s.rack := rfl
@[simp] theorem modCmd_ckpt (s : State) (seq : Nat) (f : CmdRec → CmdRec) : (modCmd s seq f).ckpt = s.ckpt := rfl
@[simp] theorem modCmd_sec (s : State) (seq : Nat) (f : CmdRec → CmdRec) : (modCmd s seq f).sec = s.sec := rfl
@[simp] theorem modCmd_free (s : State) (seq : Nat) (f : CmdRec → CmdRec) : (modCmd s seq f).free = s.free := rfl
@[simp] theorem modCmd_pending (s : State) (seq : Nat) (f : CmdRec → CmdRec) : (modCmd s seq f).pending = s.pending := rfl

@[simp] theorem modJob_dev (s : State) (seq : Nat) (f : Job → Job) : (modJob s seq f).dev = s.dev := rfl
@[simp] theorem modJob_sb (s : State) (seq : Nat) (f : Job → Job) : (modJob s seq f).sb = s.sb := rfl
@[simp] theorem modJob_mash (s : State) (seq : Nat) (f : Job → Job) : (modJob s seq f).mash = s.mash := rfl
@[simp] theorem modJob_mill (s : State) (seq : Nat) (f : Job → Job) : (modJob s seq f).mill = s.mill := rfl
@[simp] theorem modJob_cellar (s : State) (seq : Nat) (f : Job → Job) : (modJob s seq f).cellar = s.cellar := rfl
@[simp] theorem modJob_models (s : State) (seq : Nat) (f : Job → Job) : (modJob s seq f).models = s.models := rfl
@[simp] theorem modJob_copper (s : State) (seq : Nat) (f : Job → Job) : (modJob s seq f).copper = s.copper := rfl
@[simp] theorem modJob_lauter (s : State) (seq : Nat) (f : Job → Job) : (modJob s seq f).lauter = s.lauter := rfl
@[simp] theorem modJob_rows (s : State) (seq : Nat) (f : Job → Job) : (modJob s seq f).rows = s.rows := rfl
@[simp] theorem modJob_oast (s : State) (seq : Nat) (f : Job → Job) : (modJob s seq f).oast = s.oast := rfl
@[simp] theorem modJob_fab (s : State) (seq : Nat) (f : Job → Job) : (modJob s seq f).fab = s.fab := rfl
@[simp] theorem modJob_rack (s : State) (seq : Nat) (f : Job → Job) : (modJob s seq f).rack = s.rack := rfl
@[simp] theorem modJob_ckpt (s : State) (seq : Nat) (f : Job → Job) : (modJob s seq f).ckpt = s.ckpt := rfl
@[simp] theorem modJob_sec (s : State) (seq : Nat) (f : Job → Job) : (modJob s seq f).sec = s.sec := rfl
@[simp] theorem modJob_free (s : State) (seq : Nat) (f : Job → Job) : (modJob s seq f).free = s.free := rfl
@[simp] theorem modJob_pending (s : State) (seq : Nat) (f : Job → Job) : (modJob s seq f).pending = s.pending := rfl

@[simp] theorem setStage_dev (s : State) (seq st : Nat) : (setStage s seq st).dev = s.dev := rfl
@[simp] theorem setStage_sb (s : State) (seq st : Nat) : (setStage s seq st).sb = s.sb := rfl
@[simp] theorem setStage_mash (s : State) (seq st : Nat) : (setStage s seq st).mash = s.mash := rfl
@[simp] theorem setStage_mill (s : State) (seq st : Nat) : (setStage s seq st).mill = s.mill := rfl
@[simp] theorem setStage_cellar (s : State) (seq st : Nat) : (setStage s seq st).cellar = s.cellar := rfl
@[simp] theorem setStage_models (s : State) (seq st : Nat) : (setStage s seq st).models = s.models := rfl
@[simp] theorem setStage_copper (s : State) (seq st : Nat) : (setStage s seq st).copper = s.copper := rfl
@[simp] theorem setStage_lauter (s : State) (seq st : Nat) : (setStage s seq st).lauter = s.lauter := rfl
@[simp] theorem setStage_rows (s : State) (seq st : Nat) : (setStage s seq st).rows = s.rows := rfl
@[simp] theorem setStage_oast (s : State) (seq st : Nat) : (setStage s seq st).oast = s.oast := rfl
@[simp] theorem setStage_fab (s : State) (seq st : Nat) : (setStage s seq st).fab = s.fab := rfl
@[simp] theorem setStage_rack (s : State) (seq st : Nat) : (setStage s seq st).rack = s.rack := rfl
@[simp] theorem setStage_ckpt (s : State) (seq st : Nat) : (setStage s seq st).ckpt = s.ckpt := rfl
@[simp] theorem setStage_sec (s : State) (seq st : Nat) : (setStage s seq st).sec = s.sec := rfl
@[simp] theorem setStage_free (s : State) (seq st : Nat) : (setStage s seq st).free = s.free := rfl
@[simp] theorem setStage_pending (s : State) (seq st : Nat) : (setStage s seq st).pending = s.pending := rfl

@[simp] theorem setBal_dev (s : State) (sl act cur : Nat) (b : Balance) : (setBal s sl act cur b).dev = s.dev := rfl
@[simp] theorem setBal_sb (s : State) (sl act cur : Nat) (b : Balance) : (setBal s sl act cur b).sb = s.sb := rfl
@[simp] theorem setBal_gl (s : State) (sl act cur : Nat) (b : Balance) : (setBal s sl act cur b).gl = s.gl := rfl
@[simp] theorem setBal_mill (s : State) (sl act cur : Nat) (b : Balance) : (setBal s sl act cur b).mill = s.mill := rfl
@[simp] theorem setBal_cellar (s : State) (sl act cur : Nat) (b : Balance) : (setBal s sl act cur b).cellar = s.cellar := rfl
@[simp] theorem setBal_models (s : State) (sl act cur : Nat) (b : Balance) : (setBal s sl act cur b).models = s.models := rfl
@[simp] theorem setBal_copper (s : State) (sl act cur : Nat) (b : Balance) : (setBal s sl act cur b).copper = s.copper := rfl
@[simp] theorem setBal_lauter (s : State) (sl act cur : Nat) (b : Balance) : (setBal s sl act cur b).lauter = s.lauter := rfl
@[simp] theorem setBal_rows (s : State) (sl act cur : Nat) (b : Balance) : (setBal s sl act cur b).rows = s.rows := rfl
@[simp] theorem setBal_oast (s : State) (sl act cur : Nat) (b : Balance) : (setBal s sl act cur b).oast = s.oast := rfl
@[simp] theorem setBal_fab (s : State) (sl act cur : Nat) (b : Balance) : (setBal s sl act cur b).fab = s.fab := rfl
@[simp] theorem setBal_rack (s : State) (sl act cur : Nat) (b : Balance) : (setBal s sl act cur b).rack = s.rack := rfl
@[simp] theorem setBal_ckpt (s : State) (sl act cur : Nat) (b : Balance) : (setBal s sl act cur b).ckpt = s.ckpt := rfl
@[simp] theorem setBal_sec (s : State) (sl act cur : Nat) (b : Balance) : (setBal s sl act cur b).sec = s.sec := rfl
@[simp] theorem setBal_free (s : State) (sl act cur : Nat) (b : Balance) : (setBal s sl act cur b).free = s.free := rfl
@[simp] theorem setBal_pending (s : State) (sl act cur : Nat) (b : Balance) : (setBal s sl act cur b).pending = s.pending := rfl

@[simp] theorem modClass_dev (s : State) (c : Nat) (f : ShareClass → ShareClass) : (modClass s c f).dev = s.dev := rfl
@[simp] theorem modClass_sb (s : State) (c : Nat) (f : ShareClass → ShareClass) : (modClass s c f).sb = s.sb := rfl
@[simp] theorem modClass_gl (s : State) (c : Nat) (f : ShareClass → ShareClass) : (modClass s c f).gl = s.gl := rfl
@[simp] theorem modClass_mill (s : State) (c : Nat) (f : ShareClass → ShareClass) : (modClass s c f).mill = s.mill := rfl
@[simp] theorem modClass_cellar (s : State) (c : Nat) (f : ShareClass → ShareClass) : (modClass s c f).cellar = s.cellar := rfl
@[simp] theorem modClass_models (s : State) (c : Nat) (f : ShareClass → ShareClass) : (modClass s c f).models = s.models := rfl
@[simp] theorem modClass_copper (s : State) (c : Nat) (f : ShareClass → ShareClass) : (modClass s c f).copper = s.copper := rfl
@[simp] theorem modClass_lauter (s : State) (c : Nat) (f : ShareClass → ShareClass) : (modClass s c f).lauter = s.lauter := rfl
@[simp] theorem modClass_rows (s : State) (c : Nat) (f : ShareClass → ShareClass) : (modClass s c f).rows = s.rows := rfl
@[simp] theorem modClass_oast (s : State) (c : Nat) (f : ShareClass → ShareClass) : (modClass s c f).oast = s.oast := rfl
@[simp] theorem modClass_fab (s : State) (c : Nat) (f : ShareClass → ShareClass) : (modClass s c f).fab = s.fab := rfl
@[simp] theorem modClass_rack (s : State) (c : Nat) (f : ShareClass → ShareClass) : (modClass s c f).rack = s.rack := rfl
@[simp] theorem modClass_ckpt (s : State) (c : Nat) (f : ShareClass → ShareClass) : (modClass s c f).ckpt = s.ckpt := rfl
@[simp] theorem modClass_sec (s : State) (c : Nat) (f : ShareClass → ShareClass) : (modClass s c f).sec = s.sec := rfl
@[simp] theorem modClass_free (s : State) (c : Nat) (f : ShareClass → ShareClass) : (modClass s c f).free = s.free := rfl
@[simp] theorem modClass_pending (s : State) (c : Nat) (f : ShareClass → ShareClass) : (modClass s c f).pending = s.pending := rfl

@[simp] theorem modItem_dev (s : State) (id : Nat) (f : Item → Item) : (modItem s id f).dev = s.dev := rfl
@[simp] theorem modItem_sb (s : State) (id : Nat) (f : Item → Item) : (modItem s id f).sb = s.sb := rfl
@[simp] theorem modItem_gl (s : State) (id : Nat) (f : Item → Item) : (modItem s id f).gl = s.gl := rfl
@[simp] theorem modItem_mill (s : State) (id : Nat) (f : Item → Item) : (modItem s id f).mill = s.mill := rfl
@[simp] theorem modItem_cellar (s : State) (id : Nat) (f : Item → Item) : (modItem s id f).cellar = s.cellar := rfl
@[simp] theorem modItem_models (s : State) (id : Nat) (f : Item → Item) : (modItem s id f).models = s.models := rfl
@[simp] theorem modItem_copper (s : State) (id : Nat) (f : Item → Item) : (modItem s id f).copper = s.copper := rfl
@[simp] theorem modItem_lauter (s : State) (id : Nat) (f : Item → Item) : (modItem s id f).lauter = s.lauter := rfl
@[simp] theorem modItem_rows (s : State) (id : Nat) (f : Item → Item) : (modItem s id f).rows = s.rows := rfl
@[simp] theorem modItem_oast (s : State) (id : Nat) (f : Item → Item) : (modItem s id f).oast = s.oast := rfl
@[simp] theorem modItem_fab (s : State) (id : Nat) (f : Item → Item) : (modItem s id f).fab = s.fab := rfl
@[simp] theorem modItem_rack (s : State) (id : Nat) (f : Item → Item) : (modItem s id f).rack = s.rack := rfl
@[simp] theorem modItem_ckpt (s : State) (id : Nat) (f : Item → Item) : (modItem s id f).ckpt = s.ckpt := rfl
@[simp] theorem modItem_sec (s : State) (id : Nat) (f : Item → Item) : (modItem s id f).sec = s.sec := rfl
@[simp] theorem modItem_free (s : State) (id : Nat) (f : Item → Item) : (modItem s id f).free = s.free := rfl
@[simp] theorem modItem_pending (s : State) (id : Nat) (f : Item → Item) : (modItem s id f).pending = s.pending := rfl

@[simp] theorem modAlloc_dev (s : State) (d : Nat) (f : Alloc → Alloc) : (modAlloc s d f).dev = s.dev := rfl
@[simp] theorem modAlloc_sb (s : State) (d : Nat) (f : Alloc → Alloc) : (modAlloc s d f).sb = s.sb := rfl
@[simp] theorem modAlloc_gl (s : State) (d : Nat) (f : Alloc → Alloc) : (modAlloc s d f).gl = s.gl := rfl
@[simp] theorem modAlloc_mash (s : State) (d : Nat) (f : Alloc → Alloc) : (modAlloc s d f).mash = s.mash := rfl
@[simp] theorem modAlloc_mill (s : State) (d : Nat) (f : Alloc → Alloc) : (modAlloc s d f).mill = s.mill := rfl
@[simp] theorem modAlloc_models (s : State) (d : Nat) (f : Alloc → Alloc) : (modAlloc s d f).models = s.models := rfl
@[simp] theorem modAlloc_copper (s : State) (d : Nat) (f : Alloc → Alloc) : (modAlloc s d f).copper = s.copper := rfl
@[simp] theorem modAlloc_lauter (s : State) (d : Nat) (f : Alloc → Alloc) : (modAlloc s d f).lauter = s.lauter := rfl
@[simp] theorem modAlloc_rows (s : State) (d : Nat) (f : Alloc → Alloc) : (modAlloc s d f).rows = s.rows := rfl
@[simp] theorem modAlloc_oast (s : State) (d : Nat) (f : Alloc → Alloc) : (modAlloc s d f).oast = s.oast := rfl
@[simp] theorem modAlloc_fab (s : State) (d : Nat) (f : Alloc → Alloc) : (modAlloc s d f).fab = s.fab := rfl
@[simp] theorem modAlloc_rack (s : State) (d : Nat) (f : Alloc → Alloc) : (modAlloc s d f).rack = s.rack := rfl
@[simp] theorem modAlloc_ckpt (s : State) (d : Nat) (f : Alloc → Alloc) : (modAlloc s d f).ckpt = s.ckpt := rfl
@[simp] theorem modAlloc_sec (s : State) (d : Nat) (f : Alloc → Alloc) : (modAlloc s d f).sec = s.sec := rfl
@[simp] theorem modAlloc_free (s : State) (d : Nat) (f : Alloc → Alloc) : (modAlloc s d f).free = s.free := rfl
@[simp] theorem modAlloc_pending (s : State) (d : Nat) (f : Alloc → Alloc) : (modAlloc s d f).pending = s.pending := rfl

@[simp] theorem modResv_dev (s : State) (rid : Nat) (f : Resv → Resv) : (modResv s rid f).dev = s.dev := rfl
@[simp] theorem modResv_sb (s : State) (rid : Nat) (f : Resv → Resv) : (modResv s rid f).sb = s.sb := rfl
@[simp] theorem modResv_gl (s : State) (rid : Nat) (f : Resv → Resv) : (modResv s rid f).gl = s.gl := rfl
@[simp] theorem modResv_mash (s : State) (rid : Nat) (f : Resv → Resv) : (modResv s rid f).mash = s.mash := rfl
@[simp] theorem modResv_mill (s : State) (rid : Nat) (f : Resv → Resv) : (modResv s rid f).mill = s.mill := rfl
@[simp] theorem modResv_models (s : State) (rid : Nat) (f : Resv → Resv) : (modResv s rid f).models = s.models := rfl
@[simp] theorem modResv_copper (s : State) (rid : Nat) (f : Resv → Resv) : (modResv s rid f).copper = s.copper := rfl
@[simp] theorem modResv_lauter (s : State) (rid : Nat) (f : Resv → Resv) : (modResv s rid f).lauter = s.lauter := rfl
@[simp] theorem modResv_rows (s : State) (rid : Nat) (f : Resv → Resv) : (modResv s rid f).rows = s.rows := rfl
@[simp] theorem modResv_oast (s : State) (rid : Nat) (f : Resv → Resv) : (modResv s rid f).oast = s.oast := rfl
@[simp] theorem modResv_fab (s : State) (rid : Nat) (f : Resv → Resv) : (modResv s rid f).fab = s.fab := rfl
@[simp] theorem modResv_rack (s : State) (rid : Nat) (f : Resv → Resv) : (modResv s rid f).rack = s.rack := rfl
@[simp] theorem modResv_ckpt (s : State) (rid : Nat) (f : Resv → Resv) : (modResv s rid f).ckpt = s.ckpt := rfl
@[simp] theorem modResv_sec (s : State) (rid : Nat) (f : Resv → Resv) : (modResv s rid f).sec = s.sec := rfl
@[simp] theorem modResv_free (s : State) (rid : Nat) (f : Resv → Resv) : (modResv s rid f).free = s.free := rfl
@[simp] theorem modResv_pending (s : State) (rid : Nat) (f : Resv → Resv) : (modResv s rid f).pending = s.pending := rfl

@[simp] theorem modNode_dev (s : State) (id : Nat) (f : Node → Node) : (modNode s id f).dev = s.dev := rfl
@[simp] theorem modNode_sb (s : State) (id : Nat) (f : Node → Node) : (modNode s id f).sb = s.sb := rfl
@[simp] theorem modNode_gl (s : State) (id : Nat) (f : Node → Node) : (modNode s id f).gl = s.gl := rfl
@[simp] theorem modNode_mash (s : State) (id : Nat) (f : Node → Node) : (modNode s id f).mash = s.mash := rfl
@[simp] theorem modNode_mill (s : State) (id : Nat) (f : Node → Node) : (modNode s id f).mill = s.mill := rfl
@[simp] theorem modNode_models (s : State) (id : Nat) (f : Node → Node) : (modNode s id f).models = s.models := rfl
@[simp] theorem modNode_copper (s : State) (id : Nat) (f : Node → Node) : (modNode s id f).copper = s.copper := rfl
@[simp] theorem modNode_lauter (s : State) (id : Nat) (f : Node → Node) : (modNode s id f).lauter = s.lauter := rfl
@[simp] theorem modNode_rows (s : State) (id : Nat) (f : Node → Node) : (modNode s id f).rows = s.rows := rfl
@[simp] theorem modNode_oast (s : State) (id : Nat) (f : Node → Node) : (modNode s id f).oast = s.oast := rfl
@[simp] theorem modNode_fab (s : State) (id : Nat) (f : Node → Node) : (modNode s id f).fab = s.fab := rfl
@[simp] theorem modNode_rack (s : State) (id : Nat) (f : Node → Node) : (modNode s id f).rack = s.rack := rfl
@[simp] theorem modNode_ckpt (s : State) (id : Nat) (f : Node → Node) : (modNode s id f).ckpt = s.ckpt := rfl
@[simp] theorem modNode_sec (s : State) (id : Nat) (f : Node → Node) : (modNode s id f).sec = s.sec := rfl
@[simp] theorem modNode_free (s : State) (id : Nat) (f : Node → Node) : (modNode s id f).free = s.free := rfl
@[simp] theorem modNode_pending (s : State) (id : Nat) (f : Node → Node) : (modNode s id f).pending = s.pending := rfl

@[simp] theorem modPeer_dev (s : State) (peer : Nat) (f : Peer → Peer) : (modPeer s peer f).dev = s.dev := rfl
@[simp] theorem modPeer_sb (s : State) (peer : Nat) (f : Peer → Peer) : (modPeer s peer f).sb = s.sb := rfl
@[simp] theorem modPeer_gl (s : State) (peer : Nat) (f : Peer → Peer) : (modPeer s peer f).gl = s.gl := rfl
@[simp] theorem modPeer_mash (s : State) (peer : Nat) (f : Peer → Peer) : (modPeer s peer f).mash = s.mash := rfl
@[simp] theorem modPeer_mill (s : State) (peer : Nat) (f : Peer → Peer) : (modPeer s peer f).mill = s.mill := rfl
@[simp] theorem modPeer_cellar (s : State) (peer : Nat) (f : Peer → Peer) : (modPeer s peer f).cellar = s.cellar := rfl
@[simp] theorem modPeer_models (s : State) (peer : Nat) (f : Peer → Peer) : (modPeer s peer f).models = s.models := rfl
@[simp] theorem modPeer_copper (s : State) (peer : Nat) (f : Peer → Peer) : (modPeer s peer f).copper = s.copper := rfl
@[simp] theorem modPeer_lauter (s : State) (peer : Nat) (f : Peer → Peer) : (modPeer s peer f).lauter = s.lauter := rfl
@[simp] theorem modPeer_rows (s : State) (peer : Nat) (f : Peer → Peer) : (modPeer s peer f).rows = s.rows := rfl
@[simp] theorem modPeer_oast (s : State) (peer : Nat) (f : Peer → Peer) : (modPeer s peer f).oast = s.oast := rfl
@[simp] theorem modPeer_rack (s : State) (peer : Nat) (f : Peer → Peer) : (modPeer s peer f).rack = s.rack := rfl
@[simp] theorem modPeer_ckpt (s : State) (peer : Nat) (f : Peer → Peer) : (modPeer s peer f).ckpt = s.ckpt := rfl
@[simp] theorem modPeer_sec (s : State) (peer : Nat) (f : Peer → Peer) : (modPeer s peer f).sec = s.sec := rfl
@[simp] theorem modPeer_free (s : State) (peer : Nat) (f : Peer → Peer) : (modPeer s peer f).free = s.free := rfl
@[simp] theorem modPeer_pending (s : State) (peer : Nat) (f : Peer → Peer) : (modPeer s peer f).pending = s.pending := rfl

@[simp] theorem modStream_dev (s : State) (peer c : Nat) (f : Stream → Stream) : (modStream s peer c f).dev = s.dev := rfl
@[simp] theorem modStream_sb (s : State) (peer c : Nat) (f : Stream → Stream) : (modStream s peer c f).sb = s.sb := rfl
@[simp] theorem modStream_gl (s : State) (peer c : Nat) (f : Stream → Stream) : (modStream s peer c f).gl = s.gl := rfl
@[simp] theorem modStream_mash (s : State) (peer c : Nat) (f : Stream → Stream) : (modStream s peer c f).mash = s.mash := rfl
@[simp] theorem modStream_mill (s : State) (peer c : Nat) (f : Stream → Stream) : (modStream s peer c f).mill = s.mill := rfl
@[simp] theorem modStream_cellar (s : State) (peer c : Nat) (f : Stream → Stream) : (modStream s peer c f).cellar = s.cellar := rfl
@[simp] theorem modStream_models (s : State) (peer c : Nat) (f : Stream → Stream) : (modStream s peer c f).models = s.models := rfl
@[simp] theorem modStream_copper (s : State) (peer c : Nat) (f : Stream → Stream) : (modStream s peer c f).copper = s.copper := rfl
@[simp] theorem modStream_lauter (s : State) (peer c : Nat) (f : Stream → Stream) : (modStream s peer c f).lauter = s.lauter := rfl
@[simp] theorem modStream_rows (s : State) (peer c : Nat) (f : Stream → Stream) : (modStream s peer c f).rows = s.rows := rfl
@[simp] theorem modStream_oast (s : State) (peer c : Nat) (f : Stream → Stream) : (modStream s peer c f).oast = s.oast := rfl
@[simp] theorem modStream_rack (s : State) (peer c : Nat) (f : Stream → Stream) : (modStream s peer c f).rack = s.rack := rfl
@[simp] theorem modStream_ckpt (s : State) (peer c : Nat) (f : Stream → Stream) : (modStream s peer c f).ckpt = s.ckpt := rfl
@[simp] theorem modStream_sec (s : State) (peer c : Nat) (f : Stream → Stream) : (modStream s peer c f).sec = s.sec := rfl
@[simp] theorem modStream_free (s : State) (peer c : Nat) (f : Stream → Stream) : (modStream s peer c f).free = s.free := rfl
@[simp] theorem modStream_pending (s : State) (peer c : Nat) (f : Stream → Stream) : (modStream s peer c f).pending = s.pending := rfl

@[simp] theorem modLun_dev (s : State) (i : Nat) (f : Lun → Lun) : (modLun s i f).dev = s.dev := rfl
@[simp] theorem modLun_sb (s : State) (i : Nat) (f : Lun → Lun) : (modLun s i f).sb = s.sb := rfl
@[simp] theorem modLun_gl (s : State) (i : Nat) (f : Lun → Lun) : (modLun s i f).gl = s.gl := rfl
@[simp] theorem modLun_mash (s : State) (i : Nat) (f : Lun → Lun) : (modLun s i f).mash = s.mash := rfl
@[simp] theorem modLun_mill (s : State) (i : Nat) (f : Lun → Lun) : (modLun s i f).mill = s.mill := rfl
@[simp] theorem modLun_cellar (s : State) (i : Nat) (f : Lun → Lun) : (modLun s i f).cellar = s.cellar := rfl
@[simp] theorem modLun_models (s : State) (i : Nat) (f : Lun → Lun) : (modLun s i f).models = s.models := rfl
@[simp] theorem modLun_copper (s : State) (i : Nat) (f : Lun → Lun) : (modLun s i f).copper = s.copper := rfl
@[simp] theorem modLun_lauter (s : State) (i : Nat) (f : Lun → Lun) : (modLun s i f).lauter = s.lauter := rfl
@[simp] theorem modLun_rows (s : State) (i : Nat) (f : Lun → Lun) : (modLun s i f).rows = s.rows := rfl
@[simp] theorem modLun_fab (s : State) (i : Nat) (f : Lun → Lun) : (modLun s i f).fab = s.fab := rfl
@[simp] theorem modLun_rack (s : State) (i : Nat) (f : Lun → Lun) : (modLun s i f).rack = s.rack := rfl
@[simp] theorem modLun_ckpt (s : State) (i : Nat) (f : Lun → Lun) : (modLun s i f).ckpt = s.ckpt := rfl
@[simp] theorem modLun_sec (s : State) (i : Nat) (f : Lun → Lun) : (modLun s i f).sec = s.sec := rfl
@[simp] theorem modLun_free (s : State) (i : Nat) (f : Lun → Lun) : (modLun s i f).free = s.free := rfl
@[simp] theorem modLun_pending (s : State) (i : Nat) (f : Lun → Lun) : (modLun s i f).pending = s.pending := rfl

@[simp] theorem modBlock_dev (s : State) (l b : Nat) (f : Block → Block) : (modBlock s l b f).dev = s.dev := rfl
@[simp] theorem modBlock_sb (s : State) (l b : Nat) (f : Block → Block) : (modBlock s l b f).sb = s.sb := rfl
@[simp] theorem modBlock_gl (s : State) (l b : Nat) (f : Block → Block) : (modBlock s l b f).gl = s.gl := rfl
@[simp] theorem modBlock_mash (s : State) (l b : Nat) (f : Block → Block) : (modBlock s l b f).mash = s.mash := rfl
@[simp] theorem modBlock_mill (s : State) (l b : Nat) (f : Block → Block) : (modBlock s l b f).mill = s.mill := rfl
@[simp] theorem modBlock_cellar (s : State) (l b : Nat) (f : Block → Block) : (modBlock s l b f).cellar = s.cellar := rfl
@[simp] theorem modBlock_models (s : State) (l b : Nat) (f : Block → Block) : (modBlock s l b f).models = s.models := rfl
@[simp] theorem modBlock_copper (s : State) (l b : Nat) (f : Block → Block) : (modBlock s l b f).copper = s.copper := rfl
@[simp] theorem modBlock_lauter (s : State) (l b : Nat) (f : Block → Block) : (modBlock s l b f).lauter = s.lauter := rfl
@[simp] theorem modBlock_rows (s : State) (l b : Nat) (f : Block → Block) : (modBlock s l b f).rows = s.rows := rfl
@[simp] theorem modBlock_fab (s : State) (l b : Nat) (f : Block → Block) : (modBlock s l b f).fab = s.fab := rfl
@[simp] theorem modBlock_rack (s : State) (l b : Nat) (f : Block → Block) : (modBlock s l b f).rack = s.rack := rfl
@[simp] theorem modBlock_ckpt (s : State) (l b : Nat) (f : Block → Block) : (modBlock s l b f).ckpt = s.ckpt := rfl
@[simp] theorem modBlock_sec (s : State) (l b : Nat) (f : Block → Block) : (modBlock s l b f).sec = s.sec := rfl
@[simp] theorem modBlock_free (s : State) (l b : Nat) (f : Block → Block) : (modBlock s l b f).free = s.free := rfl
@[simp] theorem modBlock_pending (s : State) (l b : Nat) (f : Block → Block) : (modBlock s l b f).pending = s.pending := rfl

@[simp] theorem modQuery_dev (s : State) (seq : Nat) (f : Query → Query) : (modQuery s seq f).dev = s.dev := rfl
@[simp] theorem modQuery_sb (s : State) (seq : Nat) (f : Query → Query) : (modQuery s seq f).sb = s.sb := rfl
@[simp] theorem modQuery_gl (s : State) (seq : Nat) (f : Query → Query) : (modQuery s seq f).gl = s.gl := rfl
@[simp] theorem modQuery_mash (s : State) (seq : Nat) (f : Query → Query) : (modQuery s seq f).mash = s.mash := rfl
@[simp] theorem modQuery_mill (s : State) (seq : Nat) (f : Query → Query) : (modQuery s seq f).mill = s.mill := rfl
@[simp] theorem modQuery_cellar (s : State) (seq : Nat) (f : Query → Query) : (modQuery s seq f).cellar = s.cellar := rfl
@[simp] theorem modQuery_models (s : State) (seq : Nat) (f : Query → Query) : (modQuery s seq f).models = s.models := rfl
@[simp] theorem modQuery_copper (s : State) (seq : Nat) (f : Query → Query) : (modQuery s seq f).copper = s.copper := rfl
@[simp] theorem modQuery_rows (s : State) (seq : Nat) (f : Query → Query) : (modQuery s seq f).rows = s.rows := rfl
@[simp] theorem modQuery_oast (s : State) (seq : Nat) (f : Query → Query) : (modQuery s seq f).oast = s.oast := rfl
@[simp] theorem modQuery_fab (s : State) (seq : Nat) (f : Query → Query) : (modQuery s seq f).fab = s.fab := rfl
@[simp] theorem modQuery_rack (s : State) (seq : Nat) (f : Query → Query) : (modQuery s seq f).rack = s.rack := rfl
@[simp] theorem modQuery_ckpt (s : State) (seq : Nat) (f : Query → Query) : (modQuery s seq f).ckpt = s.ckpt := rfl
@[simp] theorem modQuery_sec (s : State) (seq : Nat) (f : Query → Query) : (modQuery s seq f).sec = s.sec := rfl
@[simp] theorem modQuery_free (s : State) (seq : Nat) (f : Query → Query) : (modQuery s seq f).free = s.free := rfl
@[simp] theorem modQuery_pending (s : State) (seq : Nat) (f : Query → Query) : (modQuery s seq f).pending = s.pending := rfl

@[simp] theorem modCorpus_dev (s : State) (c : Nat) (f : Corpus → Corpus) : (modCorpus s c f).dev = s.dev := rfl
@[simp] theorem modCorpus_sb (s : State) (c : Nat) (f : Corpus → Corpus) : (modCorpus s c f).sb = s.sb := rfl
@[simp] theorem modCorpus_gl (s : State) (c : Nat) (f : Corpus → Corpus) : (modCorpus s c f).gl = s.gl := rfl
@[simp] theorem modCorpus_mash (s : State) (c : Nat) (f : Corpus → Corpus) : (modCorpus s c f).mash = s.mash := rfl
@[simp] theorem modCorpus_mill (s : State) (c : Nat) (f : Corpus → Corpus) : (modCorpus s c f).mill = s.mill := rfl
@[simp] theorem modCorpus_cellar (s : State) (c : Nat) (f : Corpus → Corpus) : (modCorpus s c f).cellar = s.cellar := rfl
@[simp] theorem modCorpus_models (s : State) (c : Nat) (f : Corpus → Corpus) : (modCorpus s c f).models = s.models := rfl
@[simp] theorem modCorpus_copper (s : State) (c : Nat) (f : Corpus → Corpus) : (modCorpus s c f).copper = s.copper := rfl
@[simp] theorem modCorpus_rows (s : State) (c : Nat) (f : Corpus → Corpus) : (modCorpus s c f).rows = s.rows := rfl
@[simp] theorem modCorpus_oast (s : State) (c : Nat) (f : Corpus → Corpus) : (modCorpus s c f).oast = s.oast := rfl
@[simp] theorem modCorpus_fab (s : State) (c : Nat) (f : Corpus → Corpus) : (modCorpus s c f).fab = s.fab := rfl
@[simp] theorem modCorpus_rack (s : State) (c : Nat) (f : Corpus → Corpus) : (modCorpus s c f).rack = s.rack := rfl
@[simp] theorem modCorpus_ckpt (s : State) (c : Nat) (f : Corpus → Corpus) : (modCorpus s c f).ckpt = s.ckpt := rfl
@[simp] theorem modCorpus_sec (s : State) (c : Nat) (f : Corpus → Corpus) : (modCorpus s c f).sec = s.sec := rfl
@[simp] theorem modCorpus_free (s : State) (c : Nat) (f : Corpus → Corpus) : (modCorpus s c f).free = s.free := rfl
@[simp] theorem modCorpus_pending (s : State) (c : Nat) (f : Corpus → Corpus) : (modCorpus s c f).pending = s.pending := rfl

@[simp] theorem modShard_dev (s : State) (c h : Nat) (f : Shard → Shard) : (modShard s c h f).dev = s.dev := rfl
@[simp] theorem modShard_sb (s : State) (c h : Nat) (f : Shard → Shard) : (modShard s c h f).sb = s.sb := rfl
@[simp] theorem modShard_gl (s : State) (c h : Nat) (f : Shard → Shard) : (modShard s c h f).gl = s.gl := rfl
@[simp] theorem modShard_mash (s : State) (c h : Nat) (f : Shard → Shard) : (modShard s c h f).mash = s.mash := rfl
@[simp] theorem modShard_mill (s : State) (c h : Nat) (f : Shard → Shard) : (modShard s c h f).mill = s.mill := rfl
@[simp] theorem modShard_cellar (s : State) (c h : Nat) (f : Shard → Shard) : (modShard s c h f).cellar = s.cellar := rfl
@[simp] theorem modShard_models (s : State) (c h : Nat) (f : Shard → Shard) : (modShard s c h f).models = s.models := rfl
@[simp] theorem modShard_copper (s : State) (c h : Nat) (f : Shard → Shard) : (modShard s c h f).copper = s.copper := rfl
@[simp] theorem modShard_rows (s : State) (c h : Nat) (f : Shard → Shard) : (modShard s c h f).rows = s.rows := rfl
@[simp] theorem modShard_oast (s : State) (c h : Nat) (f : Shard → Shard) : (modShard s c h f).oast = s.oast := rfl
@[simp] theorem modShard_fab (s : State) (c h : Nat) (f : Shard → Shard) : (modShard s c h f).fab = s.fab := rfl
@[simp] theorem modShard_rack (s : State) (c h : Nat) (f : Shard → Shard) : (modShard s c h f).rack = s.rack := rfl
@[simp] theorem modShard_ckpt (s : State) (c h : Nat) (f : Shard → Shard) : (modShard s c h f).ckpt = s.ckpt := rfl
@[simp] theorem modShard_sec (s : State) (c h : Nat) (f : Shard → Shard) : (modShard s c h f).sec = s.sec := rfl
@[simp] theorem modShard_free (s : State) (c h : Nat) (f : Shard → Shard) : (modShard s c h f).free = s.free := rfl
@[simp] theorem modShard_pending (s : State) (c h : Nat) (f : Shard → Shard) : (modShard s c h f).pending = s.pending := rfl

@[simp] theorem modAsked_dev (s : State) (seq shard : Nat) (f : Asked → Asked) : (modAsked s seq shard f).dev = s.dev := rfl
@[simp] theorem modAsked_sb (s : State) (seq shard : Nat) (f : Asked → Asked) : (modAsked s seq shard f).sb = s.sb := rfl
@[simp] theorem modAsked_gl (s : State) (seq shard : Nat) (f : Asked → Asked) : (modAsked s seq shard f).gl = s.gl := rfl
@[simp] theorem modAsked_mash (s : State) (seq shard : Nat) (f : Asked → Asked) : (modAsked s seq shard f).mash = s.mash := rfl
@[simp] theorem modAsked_mill (s : State) (seq shard : Nat) (f : Asked → Asked) : (modAsked s seq shard f).mill = s.mill := rfl
@[simp] theorem modAsked_cellar (s : State) (seq shard : Nat) (f : Asked → Asked) : (modAsked s seq shard f).cellar = s.cellar := rfl
@[simp] theorem modAsked_models (s : State) (seq shard : Nat) (f : Asked → Asked) : (modAsked s seq shard f).models = s.models := rfl
@[simp] theorem modAsked_copper (s : State) (seq shard : Nat) (f : Asked → Asked) : (modAsked s seq shard f).copper = s.copper := rfl
@[simp] theorem modAsked_rows (s : State) (seq shard : Nat) (f : Asked → Asked) : (modAsked s seq shard f).rows = s.rows := rfl
@[simp] theorem modAsked_oast (s : State) (seq shard : Nat) (f : Asked → Asked) : (modAsked s seq shard f).oast = s.oast := rfl
@[simp] theorem modAsked_fab (s : State) (seq shard : Nat) (f : Asked → Asked) : (modAsked s seq shard f).fab = s.fab := rfl
@[simp] theorem modAsked_rack (s : State) (seq shard : Nat) (f : Asked → Asked) : (modAsked s seq shard f).rack = s.rack := rfl
@[simp] theorem modAsked_ckpt (s : State) (seq shard : Nat) (f : Asked → Asked) : (modAsked s seq shard f).ckpt = s.ckpt := rfl
@[simp] theorem modAsked_sec (s : State) (seq shard : Nat) (f : Asked → Asked) : (modAsked s seq shard f).sec = s.sec := rfl
@[simp] theorem modAsked_free (s : State) (seq shard : Nat) (f : Asked → Asked) : (modAsked s seq shard f).free = s.free := rfl
@[simp] theorem modAsked_pending (s : State) (seq shard : Nat) (f : Asked → Asked) : (modAsked s seq shard f).pending = s.pending := rfl

@[simp] theorem modGrp_dev (s : State) (i : Nat) (f : Group → Group) : (modGrp s i f).dev = s.dev := rfl
@[simp] theorem modGrp_sb (s : State) (i : Nat) (f : Group → Group) : (modGrp s i f).sb = s.sb := rfl
@[simp] theorem modGrp_gl (s : State) (i : Nat) (f : Group → Group) : (modGrp s i f).gl = s.gl := rfl
@[simp] theorem modGrp_mash (s : State) (i : Nat) (f : Group → Group) : (modGrp s i f).mash = s.mash := rfl
@[simp] theorem modGrp_cellar (s : State) (i : Nat) (f : Group → Group) : (modGrp s i f).cellar = s.cellar := rfl
@[simp] theorem modGrp_models (s : State) (i : Nat) (f : Group → Group) : (modGrp s i f).models = s.models := rfl
@[simp] theorem modGrp_copper (s : State) (i : Nat) (f : Group → Group) : (modGrp s i f).copper = s.copper := rfl
@[simp] theorem modGrp_lauter (s : State) (i : Nat) (f : Group → Group) : (modGrp s i f).lauter = s.lauter := rfl
@[simp] theorem modGrp_rows (s : State) (i : Nat) (f : Group → Group) : (modGrp s i f).rows = s.rows := rfl
@[simp] theorem modGrp_oast (s : State) (i : Nat) (f : Group → Group) : (modGrp s i f).oast = s.oast := rfl
@[simp] theorem modGrp_fab (s : State) (i : Nat) (f : Group → Group) : (modGrp s i f).fab = s.fab := rfl
@[simp] theorem modGrp_rack (s : State) (i : Nat) (f : Group → Group) : (modGrp s i f).rack = s.rack := rfl
@[simp] theorem modGrp_ckpt (s : State) (i : Nat) (f : Group → Group) : (modGrp s i f).ckpt = s.ckpt := rfl
@[simp] theorem modGrp_sec (s : State) (i : Nat) (f : Group → Group) : (modGrp s i f).sec = s.sec := rfl
@[simp] theorem modGrp_free (s : State) (i : Nat) (f : Group → Group) : (modGrp s i f).free = s.free := rfl
@[simp] theorem modGrp_pending (s : State) (i : Nat) (f : Group → Group) : (modGrp s i f).pending = s.pending := rfl

@[simp] theorem modDie_dev (s : State) (d : Nat) (f : Die → Die) : (modDie s d f).dev = s.dev := rfl
@[simp] theorem modDie_sb (s : State) (d : Nat) (f : Die → Die) : (modDie s d f).sb = s.sb := rfl
@[simp] theorem modDie_gl (s : State) (d : Nat) (f : Die → Die) : (modDie s d f).gl = s.gl := rfl
@[simp] theorem modDie_mash (s : State) (d : Nat) (f : Die → Die) : (modDie s d f).mash = s.mash := rfl
@[simp] theorem modDie_cellar (s : State) (d : Nat) (f : Die → Die) : (modDie s d f).cellar = s.cellar := rfl
@[simp] theorem modDie_models (s : State) (d : Nat) (f : Die → Die) : (modDie s d f).models = s.models := rfl
@[simp] theorem modDie_copper (s : State) (d : Nat) (f : Die → Die) : (modDie s d f).copper = s.copper := rfl
@[simp] theorem modDie_lauter (s : State) (d : Nat) (f : Die → Die) : (modDie s d f).lauter = s.lauter := rfl
@[simp] theorem modDie_rows (s : State) (d : Nat) (f : Die → Die) : (modDie s d f).rows = s.rows := rfl
@[simp] theorem modDie_oast (s : State) (d : Nat) (f : Die → Die) : (modDie s d f).oast = s.oast := rfl
@[simp] theorem modDie_fab (s : State) (d : Nat) (f : Die → Die) : (modDie s d f).fab = s.fab := rfl
@[simp] theorem modDie_rack (s : State) (d : Nat) (f : Die → Die) : (modDie s d f).rack = s.rack := rfl
@[simp] theorem modDie_ckpt (s : State) (d : Nat) (f : Die → Die) : (modDie s d f).ckpt = s.ckpt := rfl
@[simp] theorem modDie_sec (s : State) (d : Nat) (f : Die → Die) : (modDie s d f).sec = s.sec := rfl
@[simp] theorem modDie_free (s : State) (d : Nat) (f : Die → Die) : (modDie s d f).free = s.free := rfl
@[simp] theorem modDie_pending (s : State) (d : Nat) (f : Die → Die) : (modDie s d f).pending = s.pending := rfl

@[simp] theorem modTile_dev (s : State) (t : Nat) (f : Tile → Tile) : (modTile s t f).dev = s.dev := rfl
@[simp] theorem modTile_sb (s : State) (t : Nat) (f : Tile → Tile) : (modTile s t f).sb = s.sb := rfl
@[simp] theorem modTile_gl (s : State) (t : Nat) (f : Tile → Tile) : (modTile s t f).gl = s.gl := rfl
@[simp] theorem modTile_mash (s : State) (t : Nat) (f : Tile → Tile) : (modTile s t f).mash = s.mash := rfl
@[simp] theorem modTile_cellar (s : State) (t : Nat) (f : Tile → Tile) : (modTile s t f).cellar = s.cellar := rfl
@[simp] theorem modTile_models (s : State) (t : Nat) (f : Tile → Tile) : (modTile s t f).models = s.models := rfl
@[simp] theorem modTile_copper (s : State) (t : Nat) (f : Tile → Tile) : (modTile s t f).copper = s.copper := rfl
@[simp] theorem modTile_lauter (s : State) (t : Nat) (f : Tile → Tile) : (modTile s t f).lauter = s.lauter := rfl
@[simp] theorem modTile_rows (s : State) (t : Nat) (f : Tile → Tile) : (modTile s t f).rows = s.rows := rfl
@[simp] theorem modTile_oast (s : State) (t : Nat) (f : Tile → Tile) : (modTile s t f).oast = s.oast := rfl
@[simp] theorem modTile_fab (s : State) (t : Nat) (f : Tile → Tile) : (modTile s t f).fab = s.fab := rfl
@[simp] theorem modTile_rack (s : State) (t : Nat) (f : Tile → Tile) : (modTile s t f).rack = s.rack := rfl
@[simp] theorem modTile_ckpt (s : State) (t : Nat) (f : Tile → Tile) : (modTile s t f).ckpt = s.ckpt := rfl
@[simp] theorem modTile_sec (s : State) (t : Nat) (f : Tile → Tile) : (modTile s t f).sec = s.sec := rfl
@[simp] theorem modTile_free (s : State) (t : Nat) (f : Tile → Tile) : (modTile s t f).free = s.free := rfl
@[simp] theorem modTile_pending (s : State) (t : Nat) (f : Tile → Tile) : (modTile s t f).pending = s.pending := rfl

@[simp] theorem modCopy_dev (s : State) (handle : Nat) (f : RCopy → RCopy) : (modCopy s handle f).dev = s.dev := rfl
@[simp] theorem modCopy_sb (s : State) (handle : Nat) (f : RCopy → RCopy) : (modCopy s handle f).sb = s.sb := rfl
@[simp] theorem modCopy_gl (s : State) (handle : Nat) (f : RCopy → RCopy) : (modCopy s handle f).gl = s.gl := rfl
@[simp] theorem modCopy_mash (s : State) (handle : Nat) (f : RCopy → RCopy) : (modCopy s handle f).mash = s.mash := rfl
@[simp] theorem modCopy_mill (s : State) (handle : Nat) (f : RCopy → RCopy) : (modCopy s handle f).mill = s.mill := rfl
@[simp] theorem modCopy_cellar (s : State) (handle : Nat) (f : RCopy → RCopy) : (modCopy s handle f).cellar = s.cellar := rfl
@[simp] theorem modCopy_models (s : State) (handle : Nat) (f : RCopy → RCopy) : (modCopy s handle f).models = s.models := rfl
@[simp] theorem modCopy_copper (s : State) (handle : Nat) (f : RCopy → RCopy) : (modCopy s handle f).copper = s.copper := rfl
@[simp] theorem modCopy_lauter (s : State) (handle : Nat) (f : RCopy → RCopy) : (modCopy s handle f).lauter = s.lauter := rfl
@[simp] theorem modCopy_rows (s : State) (handle : Nat) (f : RCopy → RCopy) : (modCopy s handle f).rows = s.rows := rfl
@[simp] theorem modCopy_oast (s : State) (handle : Nat) (f : RCopy → RCopy) : (modCopy s handle f).oast = s.oast := rfl
@[simp] theorem modCopy_fab (s : State) (handle : Nat) (f : RCopy → RCopy) : (modCopy s handle f).fab = s.fab := rfl
@[simp] theorem modCopy_ckpt (s : State) (handle : Nat) (f : RCopy → RCopy) : (modCopy s handle f).ckpt = s.ckpt := rfl
@[simp] theorem modCopy_sec (s : State) (handle : Nat) (f : RCopy → RCopy) : (modCopy s handle f).sec = s.sec := rfl
@[simp] theorem modCopy_free (s : State) (handle : Nat) (f : RCopy → RCopy) : (modCopy s handle f).free = s.free := rfl
@[simp] theorem modCopy_pending (s : State) (handle : Nat) (f : RCopy → RCopy) : (modCopy s handle f).pending = s.pending := rfl

@[simp] theorem modOut_dev (s : State) (handle : Nat) (f : MigOut → MigOut) : (modOut s handle f).dev = s.dev := rfl
@[simp] theorem modOut_sb (s : State) (handle : Nat) (f : MigOut → MigOut) : (modOut s handle f).sb = s.sb := rfl
@[simp] theorem modOut_gl (s : State) (handle : Nat) (f : MigOut → MigOut) : (modOut s handle f).gl = s.gl := rfl
@[simp] theorem modOut_mash (s : State) (handle : Nat) (f : MigOut → MigOut) : (modOut s handle f).mash = s.mash := rfl
@[simp] theorem modOut_mill (s : State) (handle : Nat) (f : MigOut → MigOut) : (modOut s handle f).mill = s.mill := rfl
@[simp] theorem modOut_cellar (s : State) (handle : Nat) (f : MigOut → MigOut) : (modOut s handle f).cellar = s.cellar := rfl
@[simp] theorem modOut_models (s : State) (handle : Nat) (f : MigOut → MigOut) : (modOut s handle f).models = s.models := rfl
@[simp] theorem modOut_copper (s : State) (handle : Nat) (f : MigOut → MigOut) : (modOut s handle f).copper = s.copper := rfl
@[simp] theorem modOut_lauter (s : State) (handle : Nat) (f : MigOut → MigOut) : (modOut s handle f).lauter = s.lauter := rfl
@[simp] theorem modOut_rows (s : State) (handle : Nat) (f : MigOut → MigOut) : (modOut s handle f).rows = s.rows := rfl
@[simp] theorem modOut_oast (s : State) (handle : Nat) (f : MigOut → MigOut) : (modOut s handle f).oast = s.oast := rfl
@[simp] theorem modOut_fab (s : State) (handle : Nat) (f : MigOut → MigOut) : (modOut s handle f).fab = s.fab := rfl
@[simp] theorem modOut_ckpt (s : State) (handle : Nat) (f : MigOut → MigOut) : (modOut s handle f).ckpt = s.ckpt := rfl
@[simp] theorem modOut_sec (s : State) (handle : Nat) (f : MigOut → MigOut) : (modOut s handle f).sec = s.sec := rfl
@[simp] theorem modOut_free (s : State) (handle : Nat) (f : MigOut → MigOut) : (modOut s handle f).free = s.free := rfl
@[simp] theorem modOut_pending (s : State) (handle : Nat) (f : MigOut → MigOut) : (modOut s handle f).pending = s.pending := rfl

@[simp] theorem modIn_dev (s : State) (handle : Nat) (f : MigIn → MigIn) : (modIn s handle f).dev = s.dev := rfl
@[simp] theorem modIn_sb (s : State) (handle : Nat) (f : MigIn → MigIn) : (modIn s handle f).sb = s.sb := rfl
@[simp] theorem modIn_gl (s : State) (handle : Nat) (f : MigIn → MigIn) : (modIn s handle f).gl = s.gl := rfl
@[simp] theorem modIn_mash (s : State) (handle : Nat) (f : MigIn → MigIn) : (modIn s handle f).mash = s.mash := rfl
@[simp] theorem modIn_mill (s : State) (handle : Nat) (f : MigIn → MigIn) : (modIn s handle f).mill = s.mill := rfl
@[simp] theorem modIn_cellar (s : State) (handle : Nat) (f : MigIn → MigIn) : (modIn s handle f).cellar = s.cellar := rfl
@[simp] theorem modIn_models (s : State) (handle : Nat) (f : MigIn → MigIn) : (modIn s handle f).models = s.models := rfl
@[simp] theorem modIn_copper (s : State) (handle : Nat) (f : MigIn → MigIn) : (modIn s handle f).copper = s.copper := rfl
@[simp] theorem modIn_lauter (s : State) (handle : Nat) (f : MigIn → MigIn) : (modIn s handle f).lauter = s.lauter := rfl
@[simp] theorem modIn_rows (s : State) (handle : Nat) (f : MigIn → MigIn) : (modIn s handle f).rows = s.rows := rfl
@[simp] theorem modIn_oast (s : State) (handle : Nat) (f : MigIn → MigIn) : (modIn s handle f).oast = s.oast := rfl
@[simp] theorem modIn_fab (s : State) (handle : Nat) (f : MigIn → MigIn) : (modIn s handle f).fab = s.fab := rfl
@[simp] theorem modIn_ckpt (s : State) (handle : Nat) (f : MigIn → MigIn) : (modIn s handle f).ckpt = s.ckpt := rfl
@[simp] theorem modIn_sec (s : State) (handle : Nat) (f : MigIn → MigIn) : (modIn s handle f).sec = s.sec := rfl
@[simp] theorem modIn_free (s : State) (handle : Nat) (f : MigIn → MigIn) : (modIn s handle f).free = s.free := rfl
@[simp] theorem modIn_pending (s : State) (handle : Nat) (f : MigIn → MigIn) : (modIn s handle f).pending = s.pending := rfl

@[simp] theorem modTable_dev (s : State) (t : Nat) (f : RowTable → RowTable) : (modTable s t f).dev = s.dev := rfl
@[simp] theorem modTable_sb (s : State) (t : Nat) (f : RowTable → RowTable) : (modTable s t f).sb = s.sb := rfl
@[simp] theorem modTable_gl (s : State) (t : Nat) (f : RowTable → RowTable) : (modTable s t f).gl = s.gl := rfl
@[simp] theorem modTable_mash (s : State) (t : Nat) (f : RowTable → RowTable) : (modTable s t f).mash = s.mash := rfl
@[simp] theorem modTable_mill (s : State) (t : Nat) (f : RowTable → RowTable) : (modTable s t f).mill = s.mill := rfl
@[simp] theorem modTable_cellar (s : State) (t : Nat) (f : RowTable → RowTable) : (modTable s t f).cellar = s.cellar := rfl
@[simp] theorem modTable_models (s : State) (t : Nat) (f : RowTable → RowTable) : (modTable s t f).models = s.models := rfl
@[simp] theorem modTable_copper (s : State) (t : Nat) (f : RowTable → RowTable) : (modTable s t f).copper = s.copper := rfl
@[simp] theorem modTable_lauter (s : State) (t : Nat) (f : RowTable → RowTable) : (modTable s t f).lauter = s.lauter := rfl
@[simp] theorem modTable_oast (s : State) (t : Nat) (f : RowTable → RowTable) : (modTable s t f).oast = s.oast := rfl
@[simp] theorem modTable_fab (s : State) (t : Nat) (f : RowTable → RowTable) : (modTable s t f).fab = s.fab := rfl
@[simp] theorem modTable_rack (s : State) (t : Nat) (f : RowTable → RowTable) : (modTable s t f).rack = s.rack := rfl
@[simp] theorem modTable_ckpt (s : State) (t : Nat) (f : RowTable → RowTable) : (modTable s t f).ckpt = s.ckpt := rfl
@[simp] theorem modTable_sec (s : State) (t : Nat) (f : RowTable → RowTable) : (modTable s t f).sec = s.sec := rfl
@[simp] theorem modTable_free (s : State) (t : Nat) (f : RowTable → RowTable) : (modTable s t f).free = s.free := rfl
@[simp] theorem modTable_pending (s : State) (t : Nat) (f : RowTable → RowTable) : (modTable s t f).pending = s.pending := rfl

@[simp] theorem modTenant_dev (s : State) (t : Nat) (f : Tenant → Tenant) : (modTenant s t f).dev = s.dev := rfl
@[simp] theorem modTenant_sb (s : State) (t : Nat) (f : Tenant → Tenant) : (modTenant s t f).sb = s.sb := rfl
@[simp] theorem modTenant_gl (s : State) (t : Nat) (f : Tenant → Tenant) : (modTenant s t f).gl = s.gl := rfl
@[simp] theorem modTenant_mash (s : State) (t : Nat) (f : Tenant → Tenant) : (modTenant s t f).mash = s.mash := rfl
@[simp] theorem modTenant_mill (s : State) (t : Nat) (f : Tenant → Tenant) : (modTenant s t f).mill = s.mill := rfl
@[simp] theorem modTenant_cellar (s : State) (t : Nat) (f : Tenant → Tenant) : (modTenant s t f).cellar = s.cellar := rfl
@[simp] theorem modTenant_models (s : State) (t : Nat) (f : Tenant → Tenant) : (modTenant s t f).models = s.models := rfl
@[simp] theorem modTenant_copper (s : State) (t : Nat) (f : Tenant → Tenant) : (modTenant s t f).copper = s.copper := rfl
@[simp] theorem modTenant_lauter (s : State) (t : Nat) (f : Tenant → Tenant) : (modTenant s t f).lauter = s.lauter := rfl
@[simp] theorem modTenant_rows (s : State) (t : Nat) (f : Tenant → Tenant) : (modTenant s t f).rows = s.rows := rfl
@[simp] theorem modTenant_oast (s : State) (t : Nat) (f : Tenant → Tenant) : (modTenant s t f).oast = s.oast := rfl
@[simp] theorem modTenant_fab (s : State) (t : Nat) (f : Tenant → Tenant) : (modTenant s t f).fab = s.fab := rfl
@[simp] theorem modTenant_rack (s : State) (t : Nat) (f : Tenant → Tenant) : (modTenant s t f).rack = s.rack := rfl
@[simp] theorem modTenant_ckpt (s : State) (t : Nat) (f : Tenant → Tenant) : (modTenant s t f).ckpt = s.ckpt := rfl
@[simp] theorem modTenant_free (s : State) (t : Nat) (f : Tenant → Tenant) : (modTenant s t f).free = s.free := rfl
@[simp] theorem modTenant_pending (s : State) (t : Nat) (f : Tenant → Tenant) : (modTenant s t f).pending = s.pending := rfl

@[simp] theorem advanceUs_sb (s : State) (us : Nat) : (advanceUs s us).sb = s.sb := rfl
@[simp] theorem advanceUs_gl (s : State) (us : Nat) : (advanceUs s us).gl = s.gl := rfl
@[simp] theorem advanceUs_mash (s : State) (us : Nat) : (advanceUs s us).mash = s.mash := rfl
@[simp] theorem advanceUs_mill (s : State) (us : Nat) : (advanceUs s us).mill = s.mill := rfl
@[simp] theorem advanceUs_cellar (s : State) (us : Nat) : (advanceUs s us).cellar = s.cellar := rfl
@[simp] theorem advanceUs_models (s : State) (us : Nat) : (advanceUs s us).models = s.models := rfl
@[simp] theorem advanceUs_copper (s : State) (us : Nat) : (advanceUs s us).copper = s.copper := rfl
@[simp] theorem advanceUs_lauter (s : State) (us : Nat) : (advanceUs s us).lauter = s.lauter := rfl
@[simp] theorem advanceUs_rows (s : State) (us : Nat) : (advanceUs s us).rows = s.rows := rfl
@[simp] theorem advanceUs_oast (s : State) (us : Nat) : (advanceUs s us).oast = s.oast := rfl
@[simp] theorem advanceUs_fab (s : State) (us : Nat) : (advanceUs s us).fab = s.fab := rfl
@[simp] theorem advanceUs_rack (s : State) (us : Nat) : (advanceUs s us).rack = s.rack := rfl
@[simp] theorem advanceUs_ckpt (s : State) (us : Nat) : (advanceUs s us).ckpt = s.ckpt := rfl
@[simp] theorem advanceUs_sec (s : State) (us : Nat) : (advanceUs s us).sec = s.sec := rfl
@[simp] theorem advanceUs_free (s : State) (us : Nat) : (advanceUs s us).free = s.free := rfl
@[simp] theorem advanceUs_pending (s : State) (us : Nat) : (advanceUs s us).pending = s.pending := rfl

@[simp] theorem dropItem_dev (s : State) (id : Nat) : (dropItem s id).dev = s.dev := rfl
@[simp] theorem dropItem_sb (s : State) (id : Nat) : (dropItem s id).sb = s.sb := rfl
@[simp] theorem dropItem_gl (s : State) (id : Nat) : (dropItem s id).gl = s.gl := rfl
@[simp] theorem dropItem_mill (s : State) (id : Nat) : (dropItem s id).mill = s.mill := rfl
@[simp] theorem dropItem_cellar (s : State) (id : Nat) : (dropItem s id).cellar = s.cellar := rfl
@[simp] theorem dropItem_models (s : State) (id : Nat) : (dropItem s id).models = s.models := rfl
@[simp] theorem dropItem_copper (s : State) (id : Nat) : (dropItem s id).copper = s.copper := rfl
@[simp] theorem dropItem_lauter (s : State) (id : Nat) : (dropItem s id).lauter = s.lauter := rfl
@[simp] theorem dropItem_rows (s : State) (id : Nat) : (dropItem s id).rows = s.rows := rfl
@[simp] theorem dropItem_oast (s : State) (id : Nat) : (dropItem s id).oast = s.oast := rfl
@[simp] theorem dropItem_fab (s : State) (id : Nat) : (dropItem s id).fab = s.fab := rfl
@[simp] theorem dropItem_rack (s : State) (id : Nat) : (dropItem s id).rack = s.rack := rfl
@[simp] theorem dropItem_ckpt (s : State) (id : Nat) : (dropItem s id).ckpt = s.ckpt := rfl
@[simp] theorem dropItem_sec (s : State) (id : Nat) : (dropItem s id).sec = s.sec := rfl
@[simp] theorem dropItem_free (s : State) (id : Nat) : (dropItem s id).free = s.free := rfl
@[simp] theorem dropItem_pending (s : State) (id : Nat) : (dropItem s id).pending = s.pending := rfl

@[simp] theorem modRestore_dev (s : State) (f : RestoreRun → RestoreRun) : (modRestore s f).dev = s.dev := rfl
@[simp] theorem modRestore_sb (s : State) (f : RestoreRun → RestoreRun) : (modRestore s f).sb = s.sb := rfl
@[simp] theorem modRestore_gl (s : State) (f : RestoreRun → RestoreRun) : (modRestore s f).gl = s.gl := rfl
@[simp] theorem modRestore_mash (s : State) (f : RestoreRun → RestoreRun) : (modRestore s f).mash = s.mash := rfl
@[simp] theorem modRestore_mill (s : State) (f : RestoreRun → RestoreRun) : (modRestore s f).mill = s.mill := rfl
@[simp] theorem modRestore_cellar (s : State) (f : RestoreRun → RestoreRun) : (modRestore s f).cellar = s.cellar := rfl
@[simp] theorem modRestore_models (s : State) (f : RestoreRun → RestoreRun) : (modRestore s f).models = s.models := rfl
@[simp] theorem modRestore_copper (s : State) (f : RestoreRun → RestoreRun) : (modRestore s f).copper = s.copper := rfl
@[simp] theorem modRestore_lauter (s : State) (f : RestoreRun → RestoreRun) : (modRestore s f).lauter = s.lauter := rfl
@[simp] theorem modRestore_rows (s : State) (f : RestoreRun → RestoreRun) : (modRestore s f).rows = s.rows := rfl
@[simp] theorem modRestore_oast (s : State) (f : RestoreRun → RestoreRun) : (modRestore s f).oast = s.oast := rfl
@[simp] theorem modRestore_fab (s : State) (f : RestoreRun → RestoreRun) : (modRestore s f).fab = s.fab := rfl
@[simp] theorem modRestore_rack (s : State) (f : RestoreRun → RestoreRun) : (modRestore s f).rack = s.rack := rfl
@[simp] theorem modRestore_sec (s : State) (f : RestoreRun → RestoreRun) : (modRestore s f).sec = s.sec := rfl
@[simp] theorem modRestore_free (s : State) (f : RestoreRun → RestoreRun) : (modRestore s f).free = s.free := rfl
@[simp] theorem modRestore_pending (s : State) (f : RestoreRun → RestoreRun) : (modRestore s f).pending = s.pending := rfl

@[simp] theorem tick_dev (s : State) : (tick s).dev = s.dev := rfl
@[simp] theorem tick_sb (s : State) : (tick s).sb = s.sb := rfl
@[simp] theorem tick_gl (s : State) : (tick s).gl = s.gl := rfl
@[simp] theorem tick_mash (s : State) : (tick s).mash = s.mash := rfl
@[simp] theorem tick_mill (s : State) : (tick s).mill = s.mill := rfl
@[simp] theorem tick_cellar (s : State) : (tick s).cellar = s.cellar := rfl
@[simp] theorem tick_models (s : State) : (tick s).models = s.models := rfl
@[simp] theorem tick_copper (s : State) : (tick s).copper = s.copper := rfl
@[simp] theorem tick_lauter (s : State) : (tick s).lauter = s.lauter := rfl
@[simp] theorem tick_rows (s : State) : (tick s).rows = s.rows := rfl
@[simp] theorem tick_oast (s : State) : (tick s).oast = s.oast := rfl
@[simp] theorem tick_fab (s : State) : (tick s).fab = s.fab := rfl
@[simp] theorem tick_rack (s : State) : (tick s).rack = s.rack := rfl
@[simp] theorem tick_ckpt (s : State) : (tick s).ckpt = s.ckpt := rfl
@[simp] theorem tick_sec (s : State) : (tick s).sec = s.sec := rfl
@[simp] theorem tick_pending (s : State) : (tick s).pending = s.pending := rfl

/-- `modPort` changes `gl` alone. -/
theorem modPort_frame (s : State) (p : Nat) (f : GlPort → GlPort) : modPort s p f = { s with gl := (modPort s p f).gl } := by
  unfold modPort; split <;> rfl

/-- `charge` changes `mash` alone. -/
theorem charge_frame (s : State) (sl act cur n : Nat) : charge s sl act cur n = { s with mash := (charge s sl act cur n).mash } := by
  unfold charge
  repeat' first | rfl | split

/-- `chargeRx` changes `mash` alone. -/
theorem chargeRx_frame (s : State) (sl act n : Nat) : chargeRx s sl act n = { s with mash := (chargeRx s sl act n).mash } := by
  exact charge_frame _ _ _ _ _

/-- A change of `gl` alone after a change of `gl` alone. -/
theorem gl_frame_trans {a b c : State} (h : b = { a with gl := b.gl }) (k : c = { b with gl := c.gl }) : c = { a with gl := c.gl } := by
  rw [k]
  generalize c.gl = g
  rw [h]

/-- `noteSent` changes `gl` alone. -/
theorem noteSent_frame (s : State) (c : Content) : noteSent s c = { s with gl := (noteSent s c).gl } := by
  unfold noteSent
  split
  · split <;> rfl
  · rfl

/-- `sendOn` changes `gl` alone. -/
theorem sendOn_frame (s : State) (p : Nat) (r : Bool) (c : Content) : sendOn s p r c = { s with gl := (sendOn s p r c).gl } := by
  unfold sendOn
  dsimp only
  split
  · exact gl_frame_trans (modPort_frame _ _ _) (noteSent_frame _ _)
  · exact modPort_frame _ _ _

/-- `emit` changes `gl` alone. -/
theorem emit_frame (s : State) (p : Nat) (r : Bool) (c : Content) : emit s p r c = { s with gl := (emit s p r c).gl } := by
  unfold emit
  split
  · exact sendOn_frame _ _ _ _
  · split
    · exact sendOn_frame _ _ _ _
    · split <;> rfl

/-- `raise` changes `gl` alone. -/
theorem raise_frame (s : State) (code tenant session : Nat) (fields : List (Nat × Nat)) :
    raise s code tenant session fields = { s with gl := (raise s code tenant session fields).gl } := by
  have key : ∀ (s1 : State) (e : EventRec) (nm : Bool), s1 = { s with gl := s1.gl } →
      (if nm = true then if (portUp s1 0 && portUp s1 1) = true then emit (emit s1 0 false (.event e)) 1 false (.event e)
          else emit s1 0 false (.event e)
        else if evMasked s code = true then s1 else emit s1 s.gl.eventPort false (.event e)) =
      { s with gl := (if nm = true then if (portUp s1 0 && portUp s1 1) = true then
            emit (emit s1 0 false (.event e)) 1 false (.event e)
          else emit s1 0 false (.event e)
        else if evMasked s code = true then s1 else emit s1 s.gl.eventPort false (.event e)).gl } := by
    intro s1 e nm h
    split
    · split
      · exact gl_frame_trans (gl_frame_trans h (emit_frame _ _ _ _)) (emit_frame _ _ _ _)
      · exact gl_frame_trans h (emit_frame _ _ _ _)
    · split
      · exact h
      · exact gl_frame_trans h (emit_frame _ _ _ _)
  exact key _ _ _ rfl

@[simp] theorem raise_dev (s : State) (code tenant session : Nat) (fields : List (Nat × Nat)) : (raise s code tenant session fields).dev = s.dev := by rw [raise_frame]
@[simp] theorem raise_sb (s : State) (code tenant session : Nat) (fields : List (Nat × Nat)) : (raise s code tenant session fields).sb = s.sb := by rw [raise_frame]
@[simp] theorem raise_mash (s : State) (code tenant session : Nat) (fields : List (Nat × Nat)) : (raise s code tenant session fields).mash = s.mash := by rw [raise_frame]
@[simp] theorem raise_mill (s : State) (code tenant session : Nat) (fields : List (Nat × Nat)) : (raise s code tenant session fields).mill = s.mill := by rw [raise_frame]
@[simp] theorem raise_cellar (s : State) (code tenant session : Nat) (fields : List (Nat × Nat)) : (raise s code tenant session fields).cellar = s.cellar := by rw [raise_frame]
@[simp] theorem raise_models (s : State) (code tenant session : Nat) (fields : List (Nat × Nat)) : (raise s code tenant session fields).models = s.models := by rw [raise_frame]
@[simp] theorem raise_copper (s : State) (code tenant session : Nat) (fields : List (Nat × Nat)) : (raise s code tenant session fields).copper = s.copper := by rw [raise_frame]
@[simp] theorem raise_lauter (s : State) (code tenant session : Nat) (fields : List (Nat × Nat)) : (raise s code tenant session fields).lauter = s.lauter := by rw [raise_frame]
@[simp] theorem raise_rows (s : State) (code tenant session : Nat) (fields : List (Nat × Nat)) : (raise s code tenant session fields).rows = s.rows := by rw [raise_frame]
@[simp] theorem raise_oast (s : State) (code tenant session : Nat) (fields : List (Nat × Nat)) : (raise s code tenant session fields).oast = s.oast := by rw [raise_frame]
@[simp] theorem raise_fab (s : State) (code tenant session : Nat) (fields : List (Nat × Nat)) : (raise s code tenant session fields).fab = s.fab := by rw [raise_frame]
@[simp] theorem raise_rack (s : State) (code tenant session : Nat) (fields : List (Nat × Nat)) : (raise s code tenant session fields).rack = s.rack := by rw [raise_frame]
@[simp] theorem raise_ckpt (s : State) (code tenant session : Nat) (fields : List (Nat × Nat)) : (raise s code tenant session fields).ckpt = s.ckpt := by rw [raise_frame]
@[simp] theorem raise_sec (s : State) (code tenant session : Nat) (fields : List (Nat × Nat)) : (raise s code tenant session fields).sec = s.sec := by rw [raise_frame]
@[simp] theorem raise_free (s : State) (code tenant session : Nat) (fields : List (Nat × Nat)) : (raise s code tenant session fields).free = s.free := by rw [raise_frame]
@[simp] theorem raise_pending (s : State) (code tenant session : Nat) (fields : List (Nat × Nat)) : (raise s code tenant session fields).pending = s.pending := by rw [raise_frame]

@[simp] theorem alertSet_gl (s : State) (b : Nat) : (alertSet s b).gl = s.gl := by unfold alertSet; split <;> rfl
@[simp] theorem alertSet_mash (s : State) (b : Nat) : (alertSet s b).mash = s.mash := by unfold alertSet; split <;> rfl
@[simp] theorem alertSet_mill (s : State) (b : Nat) : (alertSet s b).mill = s.mill := by unfold alertSet; split <;> rfl
@[simp] theorem alertSet_cellar (s : State) (b : Nat) : (alertSet s b).cellar = s.cellar := by unfold alertSet; split <;> rfl
@[simp] theorem alertSet_models (s : State) (b : Nat) : (alertSet s b).models = s.models := by unfold alertSet; split <;> rfl
@[simp] theorem alertSet_copper (s : State) (b : Nat) : (alertSet s b).copper = s.copper := by unfold alertSet; split <;> rfl
@[simp] theorem alertSet_lauter (s : State) (b : Nat) : (alertSet s b).lauter = s.lauter := by unfold alertSet; split <;> rfl
@[simp] theorem alertSet_rows (s : State) (b : Nat) : (alertSet s b).rows = s.rows := by unfold alertSet; split <;> rfl
@[simp] theorem alertSet_oast (s : State) (b : Nat) : (alertSet s b).oast = s.oast := by unfold alertSet; split <;> rfl
@[simp] theorem alertSet_fab (s : State) (b : Nat) : (alertSet s b).fab = s.fab := by unfold alertSet; split <;> rfl
@[simp] theorem alertSet_rack (s : State) (b : Nat) : (alertSet s b).rack = s.rack := by unfold alertSet; split <;> rfl
@[simp] theorem alertSet_ckpt (s : State) (b : Nat) : (alertSet s b).ckpt = s.ckpt := by unfold alertSet; split <;> rfl
@[simp] theorem alertSet_sec (s : State) (b : Nat) : (alertSet s b).sec = s.sec := by unfold alertSet; split <;> rfl
@[simp] theorem alertSet_free (s : State) (b : Nat) : (alertSet s b).free = s.free := by unfold alertSet; split <;> rfl
@[simp] theorem alertSet_pending (s : State) (b : Nat) : (alertSet s b).pending = s.pending := by unfold alertSet; split <;> rfl

end Sys2Proof.Machine
end

