-- ==== Sys2Proof/WellFormed.lean ====
section
/-! DEFINITION. Well-formed commands: every number fits the width its packet, record or pin gives it, and every list has
the length the packet's counts give it (R3, R27, R35 to R37, R46, R50, R51). What a command's meaning itself refuses (a
value out of range that draws BAD_PARAM) is well-formed. -/
namespace Sys2Proof

/-- A number of at most `n` bits. -/
def fits (n v : Nat) : Bool := decide (v < 2 ^ n)

/-- Every number of a list has at most `n` bits. -/
def allFit (n : Nat) (l : List Nat) : Bool := l.all (fits n)

/-- A command header: the fields of R35 and the port, G0 or G1. -/
def Hdr.wf (h : Hdr) : Bool :=
  fits 1 h.port && fits 16 h.tenant && fits 32 h.seq && fits 32 h.session && fits 32 h.length && fits 16 h.flags &&
  (match h.badAt with
   | none => true
   | some o => decide (o < 65536))

/-- An object reference (R37). -/
def ObjRef.wf (o : ObjRef) : Bool := fits 16 o.gateway && fits 64 o.len && fits 128 o.id && fits 256 o.digest

/-- The parameters of R50: as many stop strings as `stop_count` says, each with a one-byte length. -/
def GenParams.wf (g : GenParams) : Bool :=
  fits 32 g.maxTokens && fits 16 g.topK && fits 16 g.grammar && fits 8 g.specK && fits 8 g.outMode && fits 8 g.stopCount &&
  fits 8 g.genFlags && g.stops.length == g.stopCount && g.stops.all fun t => decide (t.length < 256)

/-- The parameters of LAUTER_QUERY (R46). -/
def QueryParams.wf (q : QueryParams) : Bool :=
  fits 32 q.corpus && fits 8 q.vocab && fits 8 q.qFlags && fits 16 q.k && fits 16 q.beam && fits 16 q.rerankN &&
  fits 32 q.tokenBudget && fits 32 q.deadlineUs && fits 64 q.snapshot && fits 64 q.attrAnd && fits 64 q.attrOr &&
  allFit 32 [q.num0Lo, q.num0Hi, q.num1Lo, q.num1Hi] && fits 16 q.postLen && fits 16 q.queryLen &&
  q.post.length == q.postLen && q.text.length == q.queryLen

/-- A Grenlink frame as received (R27). -/
def GlFrame.wf (f : GlFrame) : Bool :=
  fits 8 f.ftype && fits 8 f.fflags && fits 16 f.credit && fits 32 f.seq && fits 32 f.ack && decide (f.payload.length ≤ 65536)

/-- A fabric frame header as received (R320). -/
def FabFrame.wf (f : FabFrame) : Bool :=
  fits 3 f.port && fits 8 f.fkind && fits 3 f.tclass && allFit 16 [f.src, f.dst, f.tenant, f.keyEpoch] && fits 4 f.slice &&
  fits 32 f.payloadLen && fits 64 f.ctr && allFit 32 [f.streamSeq, f.ackSeq] && fits 16 f.msgType &&
  (match f.busy with
   | none => true
   | some n => fits 32 n)

/-- The body of a POST record (R187). -/
def PostRec.wf : PostRec → Bool
  | .stepResult t f g => fits 32 t && fits 16 f && fits 32 g
  | .chunkDone p n r => fits 32 p && fits 32 n && (match r with
      | none => true
      | some (t, f, g) => fits 32 t && fits 16 f && fits 32 g)
  | .verifyResult a l g => fits 8 a && decide (l.length ≤ 9) && allFit 32 l && fits 32 g
  | .condenseDone n g => fits 16 n && fits 16 g
  | .other k => fits 16 k

/-- A session's state in a record or a transfer (R329, R337, R344). -/
def SessImage.wf (i : SessImage) : Bool :=
  fits 32 i.handle && fits 16 i.tenant && fits 8 i.serviceClass && fits 12 i.shareClass && fits 8 i.vocab && fits 16 i.grammar &&
  fits 32 i.model && fits 256 i.modelDigest && fits 32 i.epoch && decide (i.state ≤ 4) && fits 32 i.position &&
  fits 32 i.released && fits 32 i.lastSeq && fits 32 i.kvShift && fits 128 i.seed && fits 96 i.rng && fits 64 i.expirySec &&
  allFit 32 i.ring && (match i.gen with
    | none => true
    | some g => g.wf)

def RackRec.wf (r : RackRec) : Bool :=
  allFit 32 [r.session, r.epoch] && fits 64 r.rackSeq && fits 8 r.rkind && fits 8 r.rflags && fits 4 r.slice && fits 16 r.tenant &&
  allFit 32 [r.kvBytes, r.descBytes, r.position] && r.image.wf

def SearchReq.wf (r : SearchReq) : Bool :=
  allFit 16 [r.src, r.tenant, r.shard, r.beam] && allFit 32 [r.qid, r.corpus, r.num0Lo, r.num0Hi, r.num1Lo, r.num1Hi, r.remainingUs] &&
  allFit 64 [r.snapshot, r.attrAnd, r.attrOr]

def Cand.wf (c : Cand) : Bool :=
  fits 32 c.node && fits 16 c.shard && fits 64 c.attr && allFit 32 [c.num0, c.num1] && allFit 64 c.ext && fits 16 c.fromPeer

def ShardEntry.wf (e : ShardEntry) : Bool := allFit 16 [e.shard, e.owner, e.replica]

/-- A number a peer, a session handle and a sequence carry. -/
def peerOk (v : Nat) : Bool := fits 16 v
def handleOk (v : Nat) : Bool := fits 32 v

/-- Whether a command is one its packet, record or event can spell. -/
def Instr.wf : Instr → Bool
  | .sessionOpen h model serviceClass vocab grammar shareClass seed =>
    h.wf && fits 32 model && fits 8 serviceClass && fits 8 vocab && fits 16 grammar && fits 16 shareClass && fits 128 seed
  | .sessionAppend h inPolicy inMode count _ => h.wf && fits 8 inPolicy && fits 8 inMode && fits 32 count
  | .sessionGenerate h g => h.wf && g.wf
  | .sessionPark h => h.wf
  | .sessionRevive h => h.wf
  | .sessionCondense h slots => h.wf && fits 16 slots
  | .sessionClose h => h.wf
  | .sessionQuery h => h.wf
  | .sessionMigrateOffer h destPeer => h.wf && peerOk destPeer
  | .sessionMigrateAccept h srcPeer epoch digest => h.wf && peerOk srcPeer && fits 32 epoch && fits 256 digest
  | .bungQuery h peer => h.wf && peerOk peer
  | .modelRegister h model modelKind slice weights => h.wf && fits 32 model && fits 8 modelKind && fits 8 slice && weights.wf
  | .modelWarm h model => h.wf && fits 32 model
  | .modelEvict h model => h.wf && fits 32 model
  | .draftBind h model draft kMax => h.wf && allFit 32 [model, draft] && fits 8 kMax
  | .segmentLoad h model phase groupTiles batch segment =>
    h.wf && fits 32 model && allFit 8 [phase, groupTiles] && fits 16 batch && segment.wf
  | .vocabLoad h vocab table => h.wf && fits 8 vocab && table.wf
  | .grammarLoad h grammar vocab table => h.wf && fits 16 grammar && fits 8 vocab && table.wf
  | .lauterQuery h q => h.wf && q.wf
  | .corpusInsert h corpus shard count pubSeq _ => h.wf && fits 32 corpus && allFit 16 [shard, count] && fits 64 pubSeq
  | .corpusDelete h corpus shard count pubSeq nodes =>
    h.wf && fits 32 corpus && allFit 16 [shard, count] && fits 64 pubSeq && allFit 32 nodes && nodes.length == count
  | .corpusPublish h corpus shard pubSeq => h.wf && fits 32 corpus && fits 16 shard && fits 64 pubSeq
  | .shardMapSet h corpus count entries =>
    h.wf && fits 32 corpus && fits 16 count && entries.length == count && entries.all (·.wf)
  | .recallProbe h corpus shard k beam sample => h.wf && fits 32 corpus && allFit 16 [shard, k, beam, sample]
  | .tableCreate h table dim rows format optimiser =>
    h.wf && allFit 16 [table, dim] && fits 32 rows && allFit 8 [format, optimiser]
  | .rowLookup h table pooling bags lens idx =>
    h.wf && fits 16 table && fits 8 pooling && fits 16 bags && lens.length == bags && allFit 16 lens && allFit 32 idx
  | .rowUpdate h table count _ recs =>
    h.wf && allFit 16 [table, count] && recs.length == count && recs.all fun r => fits 32 r.1
  | .tableReplaceBegin h table => h.wf && fits 16 table
  | .tableReplaceRows h table count firstRow rows => h.wf && allFit 16 [table, count] && fits 32 firstRow && rows.length == count
  | .tableReplaceCommit h table => h.wf && fits 16 table
  | .hotsetSet h table refreshUs count rows =>
    h.wf && fits 16 table && allFit 32 [refreshUs, count] && rows.length == count && allFit 32 rows
  | .mashLoad h activateAt table => h.wf && fits 64 activateAt && table.wf
  | .shareSet h shareClass tenant weight rtRests => h.wf && allFit 16 [shareClass, tenant, rtRests] && fits 32 weight
  | .shaperSet h tenant shaper rate burst => h.wf && fits 16 tenant && fits 8 shaper && allFit 64 [rate, burst]
  | .gateListLoad h port count activateAt entries =>
    h.wf && fits 8 port && fits 16 count && fits 64 activateAt && entries.length == count &&
    entries.all fun e => fits 32 e.1 && fits 8 e.2
  | .serviceClassSet h cls scFlags pageMaxLog2 dwellMs ttlS condenseSlots =>
    h.wf && allFit 8 [cls, scFlags, pageMaxLog2] && allFit 32 [dwellMs, ttlS] && fits 16 condenseSlots
  | .sliceSet h slice tiles lanes pcs => h.wf && fits 8 slice && allFit 64 [tiles, lanes] && fits 1536 pcs
  | .routeSet h count entries =>
    h.wf && fits 16 count && entries.length == count && entries.all fun e => fits 16 e.1 && fits 8 e.2
  | .buddySet h slice buddyPeer => h.wf && fits 8 slice && peerOk buddyPeer
  | .spareAdopt h failedPeer buddyPeer => h.wf && peerOk failedPeer && peerOk buddyPeer
  | .ckptStart h generation gateways peers =>
    h.wf && fits 32 generation && fits 16 gateways && peers.length == gateways && peers.all peerOk
  | .ckptStatus h generation => h.wf && fits 32 generation
  | .restoreStart h manifest => h.wf && manifest.wf
  | .attest h nonce => h.wf && nonce.length == 32
  | .tenantCreate h tenant => h.wf && fits 16 tenant
  | .tenantRemove h tenant => h.wf && fits 16 tenant
  | .keyInstall h keyKind blobLen blob => h.wf && fits 8 keyKind && fits 32 blobLen && blob.length == blobLen
  | .csrRead h address count => h.wf && fits 32 address && fits 16 count
  | .csrWrite h address count values =>
    h.wf && fits 32 address && fits 16 count && values.length == count && allFit 32 values
  | .calSet h item value => h.wf && fits 16 item && fits 32 value
  | .clockSet h item value => h.wf && fits 16 item && fits 32 value
  | .resultRead h target offset readLen => h.wf && allFit 32 [target, offset, readLen]
  | .resultRelease h target => h.wf && fits 32 target
  | .eventRead h fromSeq max => h.wf && fits 32 fromSeq && fits 16 max
  | .firmwareStage h image => h.wf && image.wf
  | .firmwareActivate h version => h.wf && fits 32 version
  | .nop h => h.wf
  | .shutdown h => h.wf
  | .warmReset h => h.wf
  | .coldReset h => h.wf
  | .deferredReset => true
  | .quiesce h => h.wf
  | .clearNmi h _ => h.wf
  | .sbAlertClear mask => fits 32 mask
  | .sbSetAddr address len => fits 32 address && fits 8 len
  | .sbRead => true
  | .sbWrite data => decide (data.length ≤ 255)
  | .jtagInstruction code => fits 8 code
  | .hsHello port hsFlags nonceC => fits 1 port && fits 8 hsFlags && nonceC.length == 32
  | .hsCt port ct macC newOwner =>
    fits 1 port && ct.length == 1088 && macC.length == 32 && (match newOwner with
      | none => true
      | some k => k.length == 40)
  | .handshakeTimeout port => fits 1 port
  | .glFrameReceive port f _ => fits 1 port && f.wf
  | .glResendTimeout port => fits 1 port
  | .glKeepalive port => fits 1 port
  | .glPortDown port => fits 1 port
  | .fabFrameReceive f _ => f.wf
  | .fabResendTimeout peer tclass => peerOk peer && fits 3 tclass
  | .fabKeepalive peer => peerOk peer
  | .peerLost peer => peerOk peer
  | .fabHandshake peer r _ => peerOk peer && r.length == 32
  | .fabPortDown port => fits 3 port
  | .fabPortUp port lanes => fits 3 port && fits 8 lanes
  | .gateListActivate port => fits 3 port
  | .restBoundary => true
  | .fenceCheck die tile copy => fits 2 die && fits 4 tile && fits 32 copy
  | .copyComplete die tile copy cycle => fits 2 die && fits 4 tile && fits 32 copy && fits 64 cycle
  | .copyAbandon die tile copy => fits 2 die && fits 4 tile && fits 32 copy
  | .postRecord die session entry r => fits 2 die && handleOk session && fits 64 entry && r.wf
  | .stepCommit item => fits 64 item
  | .rackRecord src r => peerOk src && r.wf
  | .rackAck peer session rackSeq => peerOk peer && handleOk session && fits 64 rackSeq
  | .fencedReceived peer slice => peerOk peer && fits 4 slice
  | .adoptFreezeRequest spare failed => peerOk spare && peerOk failed
  | .handover src sessions => peerOk src && sessions.all handleOk
  | .adoptPullDone seq images => fits 32 seq && images.all (·.wf)
  | .migrateOfferMsg src image => peerOk src && image.wf
  | .offerReply src session status => peerOk src && handleOk session && fits 16 status
  | .migrateEnd src session digest image => peerOk src && handleOk session && fits 256 digest && image.wf
  | .migrateMatchReply src session digest _ => peerOk src && handleOk session && fits 256 digest
  | .migrateCommitMsg src session epoch => peerOk src && handleOk session && fits 32 epoch
  | .migrateReleased src session => peerOk src && handleOk session
  | .migrateAbort src session epoch => peerOk src && handleOk session && fits 32 epoch
  | .bungAsk src session epoch => peerOk src && handleOk session && fits 32 epoch
  | .bungAnswer src session _ owner => peerOk src && handleOk session && peerOk owner
  | .bungAskTimeout session => handleOk session
  | .revokeNotice src tenant => peerOk src && fits 16 tenant
  | .expertTokens src model expert payer tokens =>
    peerOk src && fits 32 model && fits 16 expert && fits 12 payer.1 && (payer.2 == 1 || payer.2 == 2) && allFit 32 tokens
  | .searchRequest r => r.wf
  | .candidateReply src qid shard status cands =>
    peerOk src && fits 32 qid && allFit 16 [shard, status] && cands.all (·.wf)
  | .textFetchRequest src qid tenant corpus shard nodes =>
    peerOk src && fits 32 qid && allFit 16 [tenant, shard] && fits 32 corpus && allFit 32 nodes
  | .replicaDeadline qid shard => fits 32 qid && fits 16 shard
  | .mergeDeadline qid => fits 32 qid
  | .textFetchDeadline qid => fits 32 qid
  | .peerRequestExpire rid => fits 64 rid
  | .repairSweep corpus shard => fits 32 corpus && fits 16 shard
  | .objectFetchDone seq _ => fits 33 seq
  | .putDone shardIndex => fits 64 shardIndex
  | .putFail shardIndex => fits 64 shardIndex
  | .dwellExpiry session => handleOk session
  | .parkComplete session => handleOk session
  | .reviveComplete session => handleOk session
  | .condenseCommit session => handleOk session
  | .caskExpiry => true
  | .cellarSecSave => true
  | .holdExpiry index => fits 24 index
  | .reservationGranted rid => fits 64 rid
  | .reserveTimeout rid => fits 64 rid
  | .reviveBuddyTimeout session => handleOk session
  | .noGroupTimeout item => fits 64 item
  | .pressureReclaim die => fits 2 die
  | .tokeniseDone seq => fits 32 seq
  | .modelWarmDone model => fits 32 model
  | .modelEvictDone model => fits 32 model
  | .hotRefresh table => fits 16 table
  | .flashProgramDone wid _ => fits 64 wid
  | .flashEraseDone lun block _ => fits 16 lun && fits 32 block
  | .flashReadDone rid outcome => fits 64 rid && decide (outcome ≤ 2)
  | .gcStart lun => fits 16 lun
  | .pslcRecompute => true
  | .wearGovernorTick => true
  | .powerSecSave => true
  | .patrolRead lun block _ => fits 16 lun && fits 32 block
  | .lunTimeout lun => fits 16 lun
  | .oastMountDone => true
  | .keyStoreWriteDone => true
  | .sramEccError tile _ => fits 6 tile
  | .tileSelfTestDone tile _ => fits 6 tile
  | .hbmError kind stack pc row frame => decide (kind ≤ 3) && decide (stack < 24) && fits 6 pc && fits 32 row && fits 32 frame
  | .dieLost die => fits 2 die
  | .supplyInputChange input volt => fits 1 input && fits 16 volt
  | .supplyQualified input => fits 1 input
  | .supplyLost => true
  | .holdupEnd => true
  | .sensorSample vinMain vinBackup pinW temps => allFit 32 [vinMain, vinBackup, pinW] && temps.length == 24
  | .throttleUpdate => true
  | .thermtrip => true
  | .oscillatorStable osc => decide (osc ≤ 2)
  | .refclkStartTimeout => true
  | .clockMonWindow count => fits 16 count
  | .monclkAbsent => true
  | .resetPin => true
  | .glitchReset => true
  | .replyHoldExpiry seq => fits 32 seq
  | .gateEntryAdvance port => fits 3 port
  | .frameClearDone die start => fits 2 die && fits 32 start
  | .abortMarkExpiry session epoch => handleOk session && fits 32 epoch
  | .textFetchReply src qid texts => peerOk src && fits 32 qid && texts.all fun t => fits 16 t.1 && fits 32 t.2.1

end Sys2Proof
end

