-- ==== Sys2Proof/Tests/Slice0.lean ====
section
/-! SUPPORT. Tests: ill-formed commands refused, small steps whose results the spec states, and for every statement with
hypotheses states and operands that meet them. -/
namespace Sys2Proof.Tests
set_option exponentiation.threshold 2000
open Sys2Proof.Machine

/-! ### States the tests start from -/

/-- A tenant with no keys. -/
def tenant1 : Tenant := { (default : Tenant) with id := 1 }

/-- A device that serves: powered, locked, READY, the array mounted, both ports handshaken, tenant 1 live. -/
def up : State :=
  { State.reset with
    dev.powered := true, dev.clk.pllLocked := true, dev.devState := 4, dev.startStep := 10, dev.vinMain.volt := 6000
    gl.g0.keyed := true, gl.g0.state := 2, gl.g1.keyed := true, gl.g1.state := 2, oast.mountState := 2
    sec.tenants := [(1, tenant1)], fab.self := 7, fab.routes := [(7, 1), (9, 2)]
    fab.ports := (List.range 8).map fun _ => { (default : FabPort) with state := 2 } }

/-- A packet on G0. -/
def pkt (seq tenant session length : Nat) : Hdr :=
  { port := 0, tenant := tenant, seq := seq, session := session, length := length, flags := 0, badAt := none }

/-- What `Ready` asks, computed. -/
theorem ready_of {s : State} {i : Instr} {h : Hdr} {c : Cmd} {e : Nat} (k : envelope s i = some (h, c, e))
    (b : (portUp s h.port && (cmdRec s h.seq).isNone && (earlyFault s h c e).isNone && h.badAt.isNone &&
      !deniedByLifecycle s h && decide (resultBytes s ≤ Config.resultHigh)) = true) : Ready s i := by
  unfold Ready
  rw [k]
  simp only [Bool.and_eq_true, Option.isNone_iff_eq_none, Bool.not_eq_true', decide_eq_true_eq] at b
  exact ⟨b.1.1.1.1.1, b.1.1.1.1.2, b.1.1.1.2, b.1.1.2, b.1.2, b.2⟩

theorem up_serves : serving up = true ∧ running up = true ∧ portUp up 0 = true ∧ portUp up 1 = true ∧ up.dev.powered = true := by
  decide

/-- A mash table of one rest: on die 0 the groups at tiles 0, 4, 8 and 12 run PREFILL, DECODE, RETRIEVE and ROWS. -/
def table1 : MashTable :=
  { restCount := 1, sliceMask := 1, layout := (List.range 64).map fun i => if i % 4 = 0 then 4 else 0
    rests := [{ act := (List.range 64).map fun i => if i = 0 then 1 else if i = 4 then 2 else if i = 8 then 4 else if i = 12 then 11 else 0, rt := [] }]
    budgets := [(0, List.replicate 12 { tileRests := none, hbm := none, flash := none, fabric := none })], gov := [], digest := 1
    builtin := false }

def hdr1 : ModelHdr := { (default : ModelHdr) with vocabSize := 2, maxContext := 4096, eos := 1 }

/-- Models of tenant 1: 10 is RESIDENT on die 0, 11 REGISTERED, 12 a RESIDENT draft model. -/
def models1 : Tab Model :=
  [(10, { (default : Model) with id := 10, tenant := 1, digest := 100, hdr := hdr1, st := 2, bytes := 65536 }),
   (11, { (default : Model) with id := 11, tenant := 1, digest := 101, hdr := hdr1, st := 0, bytes := 65536 }),
   (12, { (default : Model) with id := 12, tenant := 1, digest := 102, hdr := { hdr1 with kind := 2 }, st := 2, bytes := 65536 })]

/-- A WARM session of tenant 1, model 10, at index 3 with generation 1: handle 0x0100_0003. -/
def sess1 : Sess := { Sess.zero with idx := 3, gen := 1, state := stWARM, tenant := 1, model := 10, epoch := 1, dwellOn := true }

def seg1 (phase : Nat) : Segment := { (default : Segment) with model := 10, tenant := 1, phase := phase, groupTiles := 4, digest := 500 + phase }

/-- `up` with the session, its models, a vocabulary, a grammar, segments and the table. -/
def host : State :=
  { up with
    cellar.sess := [(3, sess1)], cellar.indexBase := 1, cellar.indexLimit := 16
    cellar.allocs := List.replicate 4 { (default : Alloc) with total := 1024, free := [(0, 10)] }
    cellar.classes := [(0, { dwellMs := 2000, ttlS := 86400, pageMaxLog2 := 11, flags := 2, condenseSlots := 256 })]
    models.models := models1, mash.table := table1, mill.segs := [(1, seg1 0), (2, seg1 1)]
    copper.vocabs := [(0, { (default : Vocab) with digest := 200, toks := [default, default] })]
    copper.grammars := [(4, { (default : Grammar) with tenant := 1, vocab := 0, digest := 300 })] }

def hnd : Nat := 16777219

/-- A reference served by the gateway, peer 9. -/
def obj (d : Nat) : ObjRef := { gateway := 9, len := 4096, id := 1, digest := d }

/-! ### Packets that are taken -/

theorem witness_SessionOpenRuns : Ready host (.sessionOpen (pkt 5 1 0 56) 10 0 0 0 0 0) ∧
    ((modelOf host 10).map fun m => (m.tenant, m.st, m.hdr.kind, m.hdr.vocabSize)) = some (1, 2, 0, 2) ∧
    ((vocabOf host 0).map fun x => x.toks.length) = some 2 ∧ issueIndex host = some (1, 0) ∧
    ((takeRuns host 0 1 0 [2, 0]).map fun r => r.1.length) = some 2 ∧ (classOf host 0).tenant = 0 :=
  ⟨ready_of rfl (by decide), by decide, by decide, by decide, by decide +kernel, by decide⟩

theorem witness_SessionCommandsTaken :
    Ready host (.sessionAppend (pkt 5 1 hnd 36) 1 0 4 [72, 105, 33, 33]) ∧ Ready host (.sessionAppend (pkt 5 1 hnd 36) 0 1 1 [1, 0, 0, 0]) ∧
    noGroupFor host (pkt 5 1 hnd 36) 0 = false ∧
    Ready host (.sessionPark (pkt 5 1 hnd 24)) ∧ stateIs host (pkt 5 1 hnd 24) stEXTRACT = false ∧
    Ready host (.sessionCondense (pkt 5 1 hnd 28) 1024) ∧ condensable host sess1 = true ∧ sess1.state ≠ stEXTRACT ∧
    Ready host (.sessionMigrateOffer (pkt 5 1 hnd 28) 9) ∧ peerOk 9 = true ∧ 9 ≠ host.fab.self ∧
    Ready host (.sessionRevive (pkt 5 1 hnd 24)) :=
  ⟨ready_of rfl (by decide), ready_of rfl (by decide), by decide, ready_of rfl (by decide), by decide, ready_of rfl (by decide),
   by decide, by decide, ready_of rfl (by decide), by decide, by decide, ready_of rfl (by decide)⟩

def gen1 : GenParams :=
  { maxTokens := 1, temperature := 0, topP := 0x3F800000, minP := 0, repPenalty := 0x3F800000, topK := 256, grammar := 0, specK := 0,
    outMode := 2, stopCount := 1, genFlags := 1, stops := [[65]] }

theorem witness_SessionGenerate : Ready host (.sessionGenerate (pkt 5 1 hnd 60) gen1) ∧ sessAt host (idxOf hnd) = some sess1 ∧
    Clear (genParamsBad host (pkt 5 1 hnd 60) gen1) ∧ noGroupFor host (pkt 5 1 hnd 60) 1 = false ∧ jobOf host 5 = none :=
  ⟨ready_of rfl (by decide), rfl, by unfold Clear; decide, by decide, by decide⟩

/-- A migration that came in from peer 9: session 0x0100_0004 of tenant 1 at epoch 2, its transfer checked. -/
def img1 : SessImage := { (default : SessImage) with handle := 16777220, tenant := 1, model := 10, modelDigest := 100, epoch := 2, offeredFrom := 1, state := 4 }
def inn1 : MigIn := { src := 9, img := img1, digest := 77, stage := 2, resv := 0 }
def incoming : State := { host with rack.inn := [inn1], cellar.sess := [(3, sess1), (4, { sess1 with idx := 4, incoming := true, state := 5, offeredFrom := 1 })] }

theorem witness_CloseQueryAndMigrationPackets :
    Ready host (.sessionClose (pkt 5 1 hnd 24)) ∧ Ready host (.sessionQuery (pkt 5 1 hnd 24)) ∧ sessAt host (idxOf hnd) = some sess1 ∧
    Ready host (.sessionMigrateAccept (pkt 5 1 hnd 64) 9 1 0) ∧ acceptDone host (pkt 5 1 hnd 64) 1 = true ∧
    acceptEntry host (pkt 5 1 hnd 64) 9 1 = none ∧ Ready incoming (.sessionMigrateAccept (pkt 5 1 16777220 64) 9 2 77) ∧
    acceptDone incoming (pkt 5 1 16777220 64) 2 = false ∧ acceptEntry incoming (pkt 5 1 16777220 64) 9 2 = some inn1 ∧
    Ready host (.bungQuery (pkt 5 1 hnd 28) 65534) :=
  ⟨ready_of rfl (by decide), ready_of rfl (by decide), rfl, ready_of rfl (by decide), by decide, by decide,
   ready_of rfl (by decide), by decide, by decide, ready_of rfl (by decide)⟩

/-- The same with no session, so that no model is in use. -/
def idle : State := { host with cellar.sess := [] }

theorem witness_ModelCommands :
    Ready host (.modelWarm (pkt 5 1 0 28) 10) ∧ Ready host (.modelWarm (pkt 5 1 0 28) 11) ∧ Ready idle (.modelEvict (pkt 5 1 0 28) 10) ∧
    evictWrong idle 10 = false ∧ ((modelOf host 10).map fun m => (m.tenant, m.st)) = some (1, 2) ∧
    Ready host (.draftBind (pkt 5 1 0 40) 10 12 8) ∧ ((modelOf host 12).map fun m => (m.tenant, m.hdr.kind, m.hdr.vocabSize, m.hdr.eos)) = some (1, 2, 2, 1) :=
  ⟨ready_of rfl (by decide), ready_of rfl (by decide), ready_of rfl (by decide), by decide, by decide, ready_of rfl (by decide), by decide⟩

theorem witness_ObjectLoadsFetch : gatewayOk host (obj 7) = true ∧
    Ready host (.modelRegister (pkt 5 1 0 96) 13 4 15 (obj 7)) ∧ modelOf host 13 = none ∧ regJob host 13 = none ∧
    host.models.models.length < Config.modelMax ∧ Ready host (.segmentLoad (pkt 5 1 0 96) 10 5 16 (256 + 20 * 512) (obj 7)) ∧
    (host.mill.segs.find? fun g => g.2.digest == 7 && g.2.tenant == 1 && !g.2.replaced) = none ∧
    Ready host (.vocabLoad (pkt 5 0 0 96) 63 (obj 7)) ∧ ObjRefEmpty (obj 7) = false ∧ vocabWrong host 63 (obj 7) = false ∧
    vocabSame host 63 (obj 7) = false ∧ Ready host (.grammarLoad (pkt 5 1 0 96) 65535 0 (obj 7)) ∧ (vocabOf host 0).isSome = true ∧
    grammarOf host 65535 = none ∧ host.copper.grammars.length < Config.grammarMax ∧ Ready host (.mashLoad (pkt 5 0 0 96) 0 (obj 7)) ∧
    host.mash.pendingTab = none ∧ Ready host (.firmwareStage (pkt 5 0 0 88) (obj 7)) :=
  ⟨by decide, ready_of rfl (by decide), by decide, by decide, by decide, ready_of rfl (by decide), by decide,
   ready_of rfl (by decide), by decide, by decide, by decide, ready_of rfl (by decide), by decide, by decide, by decide,
   ready_of rfl (by decide), rfl, ready_of rfl (by decide)⟩

def noObj : ObjRef := { gateway := 0, len := 0, id := 0, digest := 0 }

theorem witness_LoadedObjectsComplete :
    Ready host (.modelRegister (pkt 5 1 0 96) 10 0 0 (obj 100)) ∧ ((modelOf host 10).map fun m => (m.tenant, m.digest)) = some (1, 100) ∧
    Ready host (.vocabLoad (pkt 5 0 0 96) 0 (obj 200)) ∧ ((vocabOf host 0).map (·.digest)) = some 200 ∧
    Ready idle (.vocabLoad (pkt 5 0 0 96) 0 noObj) ∧ ObjRefEmpty noObj = true ∧ vocabWrong { idle with copper.grammars := [] } 0 noObj = false ∧
    Ready idle (.grammarLoad (pkt 5 1 0 96) 4 0 noObj) ∧ ((grammarOf idle 4).map (·.tenant)) = some 1 ∧ grammarWrong idle 4 noObj = false :=
  ⟨ready_of rfl (by decide), by decide, ready_of rfl (by decide), by decide, ready_of rfl (by decide), by decide, by decide,
   ready_of rfl (by decide), by decide, by decide⟩

/-- A corpus 30 of tenant 1 with a shard 2 that holds nodes 0 and 1, published at 5; its encoder is model 10. -/
def shard1 : Shard :=
  { (default : Shard) with maxItems := 64, ph := 5, nextId := 2, nodes := [(0, { (default : LNode) with adj := [1], ins := 1 }), (1, { (default : LNode) with adj := [0], ins := 2 })] }
def corpus1 : Corpus :=
  { (default : Corpus) with id := 30, tenant := 1, declared := true, pc := 5, shards := [(2, shard1)], cfg := { (default : CorpusCfg) with encoder := 10, dim := 8, degree := 4 } }
def lau : State := { host with lauter.corpora := [(30, corpus1)] }

def query1 : QueryParams :=
  { corpus := 30, vocab := 0, qFlags := 0, k := 1, beam := 16, rerankN := 0, tokenBudget := 0, deadlineUs := 0, snapshot := 0, attrAnd := 0,
    attrOr := 0, num0Lo := 0, num0Hi := 0, num1Lo := 0, num1Hi := 0, postLen := 0, queryLen := 4, post := [], text := [72, 105, 33, 33] }

theorem witness_QueriesInsertsAndProbes : Ready lau (.lauterQuery (pkt 5 1 0 100) query1) ∧
    Clear (queryParams lau (pkt 5 1 0 100) query1) ∧ queryWrong lau query1 = false ∧
    Ready lau (.recallProbe (pkt 5 1 0 40) 30 2 1 16 1) ∧ Ready lau (.recallProbe (pkt 5 1 0 40) 30 2 1024 1024 256) ∧
    ((corpusOf lau 30).map (·.tenant)) = some 1 ∧ (tget corpus1.shards 2).isSome = true :=
  ⟨ready_of rfl (by decide), by unfold Clear; decide, by decide, ready_of rfl (by decide), ready_of rfl (by decide), by decide, by decide⟩

theorem witness_CorpusCommandsAnswer : Ready lau (.corpusPublish (pkt 5 1 0 40) 30 2 5) ∧ Ready lau (.corpusPublish (pkt 5 1 0 40) 30 65535 5) ∧
    Ready lau (.shardMapSet (pkt 5 1 0 40) 30 1 [{ shard := 65534, owner := 7, replica := 9 }]) ∧
    Ready lau (.corpusDelete (pkt 5 1 0 48) 30 2 2 6 [0, 9]) ∧ ((shardOf lau 30 2).map (·.ph)) = some 5 ∧
    (tget shard1.nodes 0).isSome = true ∧ tget shard1.nodes 9 = none :=
  ⟨ready_of rfl (by decide), ready_of rfl (by decide), ready_of rfl (by decide), ready_of rfl (by decide), by decide, by decide, by decide⟩

/-- A row table 6 of tenant 1 on die 0: 4 rows of 2 INT8 elements. -/
def tab1 : RowTable := { (default : RowTable) with tenant := 1, dim := 2, rows := 4, format := 0x0D }
def rowsUp : State := { host with rows.tables := [(6, tab1)], rows.hotKib := 64 }
def swapping : State := { host with rows.tables := [(6, { tab1 with shadow := some [] })] }

theorem witness_TablesCreated : Ready host (.tableCreate (pkt 5 1 0 40) 65535 2 4 0x0D 2) ∧ tableOf host 65535 = none ∧
    Ready rowsUp (.tableCreate (pkt 5 1 0 40) 6 2 4 0x0D 0) ∧ tableOf rowsUp 6 = some tab1 ∧ removing rowsUp 6 = false ∧
    Ready rowsUp (.tableCreate (pkt 5 1 0 40) 6 0 0 0 0) ∧ tableDie host 0 = some 0 ∧ tableDie up 0 = none ∧
    ((takeRuns host 0 1 0 (tableOrders 4 (strideOf 0x0D 2 0))).isSome = true) ∧ takeRuns up 0 1 0 (tableOrders 4 (strideOf 0x0D 2 0)) = none :=
  ⟨ready_of rfl (by decide), by decide, ready_of rfl (by decide), by decide, by decide, ready_of rfl (by decide), by decide +kernel,
   by decide +kernel, by decide +kernel, by decide +kernel⟩

theorem witness_RowWorkTaken : tableLate rowsUp (pkt 5 1 0 40) 6 true = none ∧ tableOf rowsUp 6 = some tab1 ∧
    Ready rowsUp (.rowLookup (pkt 5 1 0 40) 6 2 1 [1] [3]) ∧ sumOver 0 0 [1] = none ∧ Ready rowsUp (.rowUpdate (pkt 5 1 0 40) 6 1 0x3F800000 [(3, [0, 0])]) ∧
    bits (0x3F800000 : F32).toNat 30 23 ≠ 255 ∧ Ready rowsUp (.hotsetSet (pkt 5 1 0 44) 6 100 1 [3]) ∧ hotFits rowsUp 6 tab1 1 = true :=
  ⟨by decide +kernel, by decide, ready_of rfl (by decide), by decide, ready_of rfl (by decide), by decide, ready_of rfl (by decide), by decide +kernel⟩

theorem witness_TableReplacement : Ready rowsUp (.tableReplaceBegin (pkt 5 1 0 32) 6) ∧ tableLate rowsUp (pkt 5 1 0 32) 6 false = none ∧
    tab1.commit = none ∧ tab1.shadow = none ∧ (takeRuns rowsUp 0 1 0 (weightOrders (4 * roundUp (4 * ceilDiv (rowBytes 0x0D 2) 4) 64 + ceilDiv 4 8))).isSome = true ∧
    Ready swapping (.tableReplaceRows (pkt 5 1 0 40) 6 1 3 [List.replicate 8 0]) ∧ tableLate swapping (pkt 5 1 0 40) 6 true = none ∧
    Ready swapping (.tableReplaceCommit (pkt 5 1 0 32) 6) :=
  ⟨ready_of rfl (by decide), by decide, rfl, rfl, by decide +kernel, ready_of rfl (by decide), by decide +kernel, ready_of rfl (by decide)⟩

/-- A configuration record: encoder 14, codes of kind 0, degree 16, 64 dimensions, 1 item, its codebook at the gateway. -/
def rec1 : List Byte :=
  leBytes 4 128 ++ [1, 0, 0, 16] ++ leBytes 2 64 ++ [0, 0] ++ leBytes 4 14 ++ leBytes 4 0 ++ leBytes 4 1 ++ List.replicate 40 0 ++
    leBytes 2 9 ++ List.replicate 6 0 ++ leBytes 8 (bookBytes { (default : CorpusCfg) with dim := 64 }) ++ List.replicate 48 0
def encoders : State := { lau with models.models := models1 ++ [(14, { (default : Model) with id := 14, tenant := 1, hdr := { hdr1 with kind := 3 }, st := 2 })] }

theorem witness_CorpusInsert :
    Ready lau (.corpusInsert (pkt 5 1 0 48) 30 2 1 6 [8, 0, 0, 0, 2, 0, 0, 0]) ∧ pubLow lau 30 2 6 = false ∧
    insertLate lau (pkt 5 1 0 48) 30 2 1 [8, 0, 0, 0, 2, 0, 0, 0] = none ∧ fld [8, 0, 0, 0, 2, 0, 0, 0] 4 1 = 2 ∧
    Ready encoders (.corpusInsert (pkt 5 1 0 168) 31 2 1 6 rec1) ∧ pubLow encoders 31 2 6 = false ∧ fld rec1 4 1 = 1 :=
  ⟨ready_of rfl (by decide), by decide, by decide, by decide, ready_of rfl (by decide +kernel), by decide +kernel, by decide⟩

/-! ### Scheduling, fabric, checkpoint, security -/

theorem witness_ServiceClassWritten : Ready up (.serviceClassSet (pkt 5 0 0 40) 255 3 4 0xFFFFFFFF 2592000 1024) ∧
    Ready up (.serviceClassSet (pkt 5 0 0 40) 0 0 11 3600000 1 0) ∧ Ready up (.serviceClassSet (pkt 5 0 0 40) 0 0 12 3600000 1 0) :=
  ⟨ready_of rfl (by decide), ready_of rfl (by decide), ready_of rfl (by decide)⟩

def shaped : State := { up with mash.shapers := [(2, { rate := 1000000, burst := 65536, tokens := 5, frac := 0, removing := false })] }

theorem witness_SchedulerTables : Ready host (.shareSet (pkt 5 0 0 40) 4095 1 1048576 1024) ∧ Ready host (.shareSet (pkt 5 0 0 40) 0 2 1 0) ∧
    Ready up (.shaperSet (pkt 5 0 0 48) 1 1 2000000000000 (2 ^ 40)) ∧ tget up.mash.shapers 3 = none ∧
    Ready shaped (.shaperSet (pkt 5 0 0 48) 1 0 1000000 65536) ∧ (tget shaped.mash.shapers 2).isSome = true ∧ Ready shaped (.shaperSet (pkt 5 0 0 48) 1 0 0 0) ∧
    Ready up (.gateListLoad (pkt 5 0 0 48) 7 1 1 [(512, 127)]) ∧ (∀ c, c < 7 → tooNarrow [(512, 127)] c = false) ∧
    Ready up (.gateListLoad (pkt 5 0 0 48) 0 1 0 [(512, 127)]) :=
  ⟨ready_of rfl (by decide), ready_of rfl (by decide), ready_of rfl (by decide), by decide, ready_of rfl (by decide), by decide,
   ready_of rfl (by decide), ready_of rfl (by decide), by decide, ready_of rfl (by decide)⟩

theorem witness_SlicesRoutesBuddies : Ready up (.sliceSet (pkt 5 0 0 240) 15 0 0 0) ∧
    Ready up (.routeSet (pkt 5 0 0 40) 2 [(7, 0), (9, 2)]) ∧ routeScan 0 [] false [(7, 0), (9, 2)] = (none, true) ∧
    ownPeer [(7, 0), (9, 2)] = up.fab.self ∧ Ready up (.buddySet (pkt 5 0 0 32) 15 0) ∧
    Ready { up with fab.routes := [(7, 1), (9, 0)] } (.buddySet (pkt 5 0 0 32) 0 9) ∧
    routeOf { up with fab.routes := [(7, 1), (9, 0)] } 9 = some 0 ∧ upPorts { up with fab.routes := [(7, 1), (9, 0)] } 0 = [] ∧
    lget up.fab.buddies 0 0 ≠ 9 ∧ Ready up (.spareAdopt (pkt 5 0 0 32) 8 9) ∧ peerOk 8 = true ∧ peerOk 9 = true :=
  ⟨ready_of rfl (by decide), ready_of rfl (by decide), by decide, by decide, ready_of rfl (by decide), ready_of rfl (by decide),
   by decide, by decide, by decide, ready_of rfl (by decide), by decide, by decide⟩

theorem witness_CheckpointCommands : Ready up (.ckptStart (pkt 5 0 0 36) 0xFFFEFFFF 1 [9]) ∧ up.ckpt.lastStarted < 0xFFFEFFFF ∧
    up.ckpt.lastDone < 0xFFFEFFFF ∧ hasDup [9] = false ∧ (routeOf up 9).isSome = true ∧ up.ckpt.run = none ∧ up.ckpt.restore = none ∧
    up.mill.dies.any (·.lost) = false ∧ Ready up (.ckptStatus (pkt 5 0 0 32) 1) ∧ Ready up (.restoreStart (pkt 5 0 0 88) (obj 7)) ∧
    gatewayOk up (obj 7) = true ∧ reachable up 9 = true :=
  ⟨ready_of rfl (by decide), by decide, by decide, by decide, by decide, by decide, by decide, by decide, ready_of rfl (by decide),
   ready_of rfl (by decide), by decide, by decide⟩

theorem witness_SecurityCommands : Ready up (.attest (pkt 5 0 0 56) (List.replicate 32 7)) ∧ up.sec.sigNext < 1073741824 ∧
    Ready up (.tenantCreate (pkt 5 0 0 32) 65535) ∧ tenantOf up 65535 = none ∧ up.sec.tenants.length < 16384 ∧
    Ready up (.tenantCreate (pkt 5 0 0 32) 1) ∧ tenantOf up 1 = some tenant1 ∧ Ready up (.tenantRemove (pkt 5 0 0 32) 1) ∧
    tenant1.removing = false ∧ Ready up (.keyInstall (pkt 5 1 0 112) 1 80 (List.replicate 80 0)) ∧ Ready up (.keyInstall (pkt 5 1 0 80) 3 48 (List.replicate 48 0)) ∧
    (∀ p ∈ (blobFaults (retireFlashEpochs up) (pkt 5 1 0 112) 1 (List.replicate 80 0)).take 2, p.1 = false) ∧
    (∀ p ∈ (blobFaults (retireFlashEpochs up) (pkt 5 1 0 80) 3 (List.replicate 48 0)).take 2, p.1 = false) :=
  ⟨ready_of rfl (by decide), by decide, ready_of rfl (by decide), by decide, by decide, ready_of rfl (by decide), by decide,
   ready_of rfl (by decide), by decide, ready_of rfl (by decide), ready_of rfl (by decide),
   fun p hp => by simp [blobFaults, List.take] at hp; rcases hp with h | h <;> subst h <;> decide,
   fun p hp => by simp [blobFaults, List.take] at hp; rcases hp with h | h <;> subst h <;> decide⟩

/-! ### Registers, results, platform, sideband -/

def result1 : Result := { seq := 9, tenant := 1, body := [1, 2, 3], reads := 0 }
/-- Sequence 9 has a retained result; 8 runs. -/
def replied : State :=
  { up with
    gl.results := [result1]
    gl.cmds := [{ (default : CmdRec) with seq := 9, tenant := 1, phase := 2 }, { (default : CmdRec) with seq := 8, tenant := 1 }] }

theorem witness_RegistersResultsAndNop :
    blockEnd 0x400000 = some 0x40FFFF ∧ Ready up (.csrRead (pkt 5 0 0 32) 0x400000 5) ∧ Ready up (.csrWrite (pkt 5 0 0 40) 0x400000 2 [1, 2]) ∧
    Ready up (.csrWrite (pkt 5 0 0 36) 0x01C 1 [1]) ∧ setsShutdown 0x01C [1] = true ∧
    Ready replied (.resultRead (pkt 5 1 0 40) 9 3 65480) ∧ targetBad replied (pkt 5 1 0 40) 9 = false ∧ resultOf replied 9 = some result1 ∧
    Ready replied (.resultRead (pkt 5 1 0 40) 8 0 0) ∧ targetBad replied (pkt 5 1 0 40) 8 = false ∧ resultOf replied 8 = none ∧
    Ready replied (.resultRelease (pkt 5 1 0 32) 9) ∧ Ready replied (.resultRelease (pkt 5 1 0 32) 8) ∧
    ((cmdRec replied 9).map (·.phase)) = some 2 ∧ ((cmdRec replied 8).map (·.phase)) = some 0 ∧
    Ready up (.eventRead (pkt 5 0 0 32) 0 1000) ∧ Ready up (.nop (pkt 5 0 0 24)) :=
  ⟨by decide, ready_of rfl (by decide), ready_of rfl (by decide), ready_of rfl (by decide), by decide, ready_of rfl (by decide), by decide,
   by decide, ready_of rfl (by decide), by decide, by decide, ready_of rfl (by decide), ready_of rfl (by decide), by decide, by decide,
   ready_of rfl (by decide), ready_of rfl (by decide)⟩

theorem witness_ClocksAndCalibrationSet : Ready up (.clockSet (pkt 5 0 0 32) 1 4) ∧ Ready up (.clockSet (pkt 5 0 0 32) 0x11 15) ∧
    Ready up (.clockSet (pkt 5 0 0 32) 0x10 101) ∧ Ready up (.clockSet (pkt 5 0 0 32) 4 0) ∧ Ready up (.calSet (pkt 5 0 0 32) 0x400 20) ∧
    calListed 0x400 = true ∧ calInRange 0x400 20 = true ∧ Ready up (.calSet (pkt 5 0 0 32) 0x402 0) ∧ calListed 0x402 = false ∧
    Ready up (.calSet (pkt 5 0 0 32) 0x400 21) ∧ calInRange 0x400 21 = false :=
  ⟨ready_of rfl (by decide), ready_of rfl (by decide), ready_of rfl (by decide), ready_of rfl (by decide), ready_of rfl (by decide),
   by decide, by decide, ready_of rfl (by decide), by decide, ready_of rfl (by decide), by decide⟩

def stagedUp : State := { up with sec.staged := some 1, sec.slots := [(0, 0, 0), (3, 12, 1), (0, 0, 0)] }

theorem witness_PlatformAndFirmware : up.dev.pwrLimit < 4096 ∧ Ready up (.warmReset (pkt 5 0 0 36)) ∧ Ready up (.coldReset (pkt 5 0 0 36)) ∧
    Ready up (.shutdown (pkt 5 0 0 36)) ∧ mayShut up = true ∧ Ready up (.quiesce (pkt 5 0 0 36)) ∧ Ready up (.clearNmi (pkt 5 0 0 36) true) ∧
    Ready up (.clearNmi (pkt 5 0 0 36) false) ∧ Ready stagedUp (.firmwareActivate (pkt 5 0 0 32) 12) ∧ stagedImage stagedUp = some (3, 12, 1) ∧
    Ready up (.firmwareActivate (pkt 5 0 0 32) 12) ∧ stagedImage up = none :=
  ⟨by decide, ready_of rfl (by decide), ready_of rfl (by decide), ready_of rfl (by decide), by decide, ready_of rfl (by decide),
   ready_of rfl (by decide), ready_of rfl (by decide), ready_of rfl (by decide), by decide, ready_of rfl (by decide), by decide⟩

def sbUp : State := { up with sb.addr := 0x400000, sb.len := 4 }

theorem witness_SidebandAndBoundaryScan : sbAnswers State.reset = false ∧ sbAnswers sbUp = true ∧ sbUp.dev.thr.tripped = false ∧
    sbUp.sb.badAddr = false ∧ sbTakes sbUp [1, 2, 3] = false ∧ sbTakes { sbUp with sb.addr := 0x01C } [0, 0, 0, 0] = true ∧
    sbUp.dev.powered = true ∧ 2 ≤ sbUp.dev.startStep := by
  decide

/-! ### Every packet, replies, events -/

theorem witness_EmptyQueueCountsOneCycle : State.reset.pending = [] ∧ up.pending = [] := ⟨rfl, rfl⟩
theorem witness_StepKeepsInvariant : up.Inv ∧ ∃ t, step up = .next t := ⟨by unfold State.Inv; decide, _, rfl⟩
theorem witness_StepTakesFrontCommand : ∃ t, step { up with pending := [.jtagInstruction 1, .jtagInstruction 2] } = .next t := ⟨_, rfl⟩
theorem witness_ControlPartLeftAlone : changesControl .powerSecSave = false ∧ ∃ t, exec .powerSecSave up = .next t :=
  ⟨by decide, _, rfl⟩
/-- EXTEST takes effect while RESET_N stands low (R432). -/
theorem test_extest_in_reset : (match exec .resetPin up with
    | .next t => (match exec (.jtagInstruction 3) t with
      | .next u => (t.dev.pins.resetN, u.sb.jtag)
      | _ => (true, 0))
    | _ => (true, 0)) = (false, 3) := by decide

theorem witness_OnlyClockLimitsStop : Completes (exec (.jtagInstruction 1) up) := ⟨_, rfl⟩

theorem witness_RefusedPacketsHaveNoEffect : ∃ c e, envelope up (.nop (pkt 5 0 0 24)) = some (pkt 5 0 0 24, c, e) ∧
    portUp State.reset 0 = false ∧ portUp up 0 = true ∧ cmdRec up 5 = none ∧ (pkt 5 0 0 24).badAt = none ∧
    earlyFault up (pkt 5 0 0 28) c e = some (0x0011, 12) ∧ earlyFault up { pkt 5 0 0 24 with badAt := some 20 } c e = some (0x0011, 20) ∧
    earlyFault up { pkt 5 0 0 24 with badAt := some 60000 } c e = none :=
  ⟨_, _, rfl, by decide, by decide, by decide, rfl, by decide, by decide, by decide⟩

theorem witness_CreditsReturned : (glPort { up with gl.g0.rxBuf := [(5, 2)] } 0).rxBuf.find? (fun c => c.1 == 5) = some (5, 2) := by decide

theorem witness_SequenceInUse : ∃ c e, envelope replied (.nop (pkt 8 1 0 24)) = some (pkt 8 1 0 24, c, e) ∧ portUp replied 0 = true ∧
    ((cmdRec replied 8).map fun r => (r.opcode, r.tenant)) = some (c.code, 1) ∧
    ((cmdRec replied 8).map (·.tenant)) ≠ some (pkt 8 0 0 24).tenant := ⟨_, _, rfl, by decide, by decide, by decide⟩

theorem witness_RepliesSentAndJobsListed : portUp up 0 = true ∧ cmdRec up 5 = none := by decide

def job1 : Job := { (default : Job) with seq := 8, tenant := 1, kind := .park }
def running1 : State :=
  { host with gl.jobs := [{ job1 with session := hnd }], gl.cmds := [{ (default : CmdRec) with seq := 8, tenant := 1, session := hnd }] }

theorem witness_CompletionReplySent : (jobOf running1 8).isSome = true ∧
    ((cmdRec running1 8).map fun c => (c.tenant, c.port, c.session)) = some (1, 0, hnd) ∧ portUp running1 0 = true := by decide

theorem witness_EventsLogged : up.gl.log.length ≤ 65536 ∧ portUp up 0 = true ∧ portUp up 1 = true ∧ up.gl.eventPort < 2 ∧
    evMasked up 0x10 = false ∧ evMasked { up with gl.evMask := 2 ^ 64 - 1 } 0x10 = true := by decide

/-! ### Grenlink and the fabric -/

def sent1 : State := { up with gl.g0.unacked := [{ ctr := 0, resent := false, credit := 0, ack := 0, sentAt := 10, content := .link }] }
def frame1 : GlFrame := { ftype := 5, fflags := 0, credit := 0, seq := 0, ack := 0, payload := [] }

theorem witness_GrenlinkFramesAndTimers : portUp up 0 = true ∧ frame1.seq = nextRx (glPort up 0) % 2 ^ 32 ∧
    ({ frame1 with seq := 1 }).seq ≠ nextRx (glPort up 0) % 2 ^ 32 ∧ portUp sent1 0 = true ∧ (glPort sent1 0).unacked ≠ [] ∧
    (glPort up 0).unacked = [] ∧ (glPort sent1 0).unacked.length < 4096 ∧ portUp State.reset 0 = false ∧ (cmdRec replied 8).isSome = true := by
  decide

def shaking (enrol : Bool) (slots : List (List Byte)) : State :=
  { up with gl.g0.hs := some { nonceD := 0, transcript := [], startedAt := 0, enrol := enrol }, sec.ownerSlots := slots }

theorem witness_HandshakeMessages : serving up = true ∧ (glPort (shaking false [[7]]) 0).hs.isSome = true ∧ serving (shaking false [[7]]) = true ∧
    (shaking false [[7]]).dev.localCtr ≤ 0 + 3000000 ∧ ownerKey (shaking false [[7]]) = some [7] ∧ (shaking false [[7]]).sec.lifecycle ≠ 2 ∧
    ((glPort (shaking true []) 0).hs.map (·.enrol)) = some true ∧ ownerKey (shaking true []) = none ∧ (shaking true []).sec.ownerSlots.length < 4 := by
  decide

def fab1 : FabFrame :=
  { port := 1, fkind := 1, tclass := 0, src := 9, dst := 7, tenant := 0, keyEpoch := 0, slice := 0, payloadLen := 8, ctr := 1, streamSeq := 1,
    ackSeq := 0, msgType := 0, busy := none }
/-- Peer 9 is the buddy of slice 0, with a message of stream 0 not acknowledged. -/
def paired : State :=
  { up with fab.buddies := [9], fab.peers := [(9, { (default : Peer) with streams := [(0, { (default : Stream) with unacked := [default] })] })] }

theorem witness_FabricFramesAndPorts : running up = true ∧ fabPortUp up 1 = true ∧ frameKeyed up fab1 = true ∧ frameKeyed up { fab1 with dst := 8 } = false ∧
    (streamOf paired 9 0).unacked ≠ [] ∧ reachable paired 9 = true ∧ watched paired 9 = true ∧ (peerOf paired 9).lost = false ∧ 9 ≠ paired.fab.self := by
  decide

theorem witness_FabricKeys : running up = true ∧ hasPath up 9 = true ∧ 9 ≠ up.fab.self := by decide

/-! ### Rests, gates, copies, records -/

def gated : State :=
  { up with mash.gates := [{ (default : Gate) with pending := some { entries := [(512, 1)], activateAt := 9 } }, { (default : Gate) with active := some [(512, 1), (600, 2)] }] }

theorem witness_RestsAndGates : (serving up && running up) = true ∧ (serving State.reset && running State.reset) = false ∧
    (lget gated.mash.gates 0 default).pending = some { entries := [(512, 1)], activateAt := 9 } ∧ (lget gated.mash.gates 0 default).active = none ∧
    (lget gated.mash.gates 1 default).active = some [(512, 1), (600, 2)] ∧ (lget gated.mash.gates 1 default).pending = none ∧ running gated = true := by
  decide

def entry1 : Entry := { (default : Entry) with id := 1, seg := 1, items := [5] }
/-- The group at tile 0 of die 0 runs an entry of segment 1, whose first copy has its fence at cycle 100. -/
def withCopies (l : List OpenCopy) : State :=
  { host with
    mill.segs := [(1, { seg1 0 with copies := [{ (default : CopyEnt) with fence := 100 }] })]
    mill.groups := [{ (default : Group) with size := 4, chain := [{ entry1 with copies := l }] }] }

theorem witness_CopiesAndFences : (fenceAhead (withCopies []) 0 0 0).isSome = true ∧ copyNoted (withCopies []) 0 0 = none ∧
    (let k : OpenCopy := { idx := 0, fence := 100, complete := true, missedAt := none }
     (fenceAhead (withCopies [k]) 0 0 0).isSome = true ∧ copyNoted (withCopies [k]) 0 0 = some k) ∧
    (let k : OpenCopy := { idx := 0, fence := 100, complete := false, missedAt := some 0 }
     (fenceAhead (withCopies [k]) 0 0 0).isSome = true ∧ copyNoted (withCopies [k]) 0 0 = some k ∧
     (let s := { withCopies [k] with mash.arith := 1032193 }
      (fenceAhead s 0 0 0).isSome = true ∧ 0 + 1048576 < s.mash.arith + 16384)) := by
  decide +kernel

def item1 (k : ItemKind) : Item := { (default : Item) with id := 5, sess := 3, seq := 8, tenant := 1, kind := k, entry := some 1, ended := true, result := some (.stepResult 0 0 0) }
def working (k : ItemKind) : State := { host with mash.items := [item1 k], mill.groups := [{ (default : Group) with size := 4, chain := [entry1] }] }
def waiting1 : State := { working .decode with mash.items := [{ item1 .decode with result := none }] }

theorem witness_RecordsAndCommits : running host = true ∧ recordItem host 0 hnd 0 = none ∧ (recordItem waiting1 0 hnd 0).isSome = true ∧
    itemOf (working .decode) 5 = some (item1 .decode) ∧ itemOf (working (.embed 8)) 5 = some (item1 (.embed 8)) ∧
    itemOf (working (.rerank 8)) 5 = some (item1 (.rerank 8)) ∧ itemOf (working (.expert 10 0 1)) 5 = some (item1 (.expert 10 0 1)) ∧
    sessAt (working .decode) 3 = some sess1 := by
  decide

/-! ### Racking, adoption, migration -/

def rec2 : RackRec := { (default : RackRec) with session := hnd, epoch := 1, rackSeq := 2, tenant := 1, slice := 0 }
def copy1 : RCopy := { (default : RCopy) with owner := 9, img := { (default : SessImage) with handle := hnd, epoch := 1 }, rackSeq := 2 }
def racked : State := { up with rack.copies := [copy1] }
def racking : State := { host with cellar.sess := [(3, { sess1 with rackSeq := 3, rackAcked := 1 })], fab.buddies := [9] }
def adopting : State := { up with rack.adoptions := [{ seq := 8, failed := 5, buddy := 9 }] }

theorem witness_RacksAndAdoptions : running up = true ∧ tenantLive up 1 = true ∧ tenantLive up 2 = false ∧ fencedFor up 9 rec2 = false ∧
    fencedFor { up with rack.fenced := [9] } 9 rec2 = true ∧ abortMarked up hnd 1 = false ∧ aheadOf up hnd 1 = false ∧ copyOf up hnd = none ∧
    aheadOf racked hnd 0 = true ∧ fencedFor racked 9 rec2 = false ∧ copyOf racked hnd = some copy1 ∧ aheadOf racked hnd 1 = false ∧
    (let x := { sess1 with rackSeq := 3, rackAcked := 1 }
     sessByHandle racking hnd = some x ∧ buddyOf racking x = 9 ∧ x.rackAcked < 3 ∧ 3 ≤ x.rackSeq) ∧
    lget racking.fab.buddies 0 0 = 9 ∧ (adopting.rack.adoptions.find? fun a => a.seq == 8).isSome = true ∧
    [img1] ≠ [] ∧ (∀ i ∈ [img1], imgSlice up i = 0) := by
  decide

def offered : State :=
  { host with cellar.sess := [(3, { sess1 with state := stOFFERED, offeredFrom := 1 })], rack.out := [{ (default : MigOut) with handle := hnd, dest := 9, seq := 8, attempts := 1, stage := 1 }]
              rack.bung := [{ handle := hnd, peer := 9, seq := 8 }], gl.jobs := [job1] }
def offer1 : SessImage := { img1 with state := 4, pages := [] }
def parkedOffer : SessImage := { img1 with offeredFrom := 2 }
def flashy : State :=
  { host with sec.tenants := [(1, { tenant1 with flash := [(1, [7])] })]
              oast.luns := [{ (default : Lun) with blockBytes := 65536, blocks := List.replicate 4 default }] }

theorem witness_MigrationReceived : running host = true ∧ aheadOf host offer1.handle 2 = false ∧ offerFault host offer1 = none ∧ offer1.offeredFrom ≠ 2 ∧
    dieFor host 10 = some 0 ∧ offerFault host { offer1 with tenant := 2 } = some stNoTenant ∧ aheadOf flashy parkedOffer.handle 2 = false ∧
    offerFault flashy parkedOffer = none ∧ (migIn incoming 16777220) = some inn1 ∧ (sessByHandle incoming 16777220).isSome = true ∧
    aheadOf { host with rack.copies := [{ copy1 with img := { img1 with epoch := 3 } }] } offer1.handle 2 = true := by
  decide +kernel

theorem witness_OffersAndBung : (offerWith offered 9 hnd).isSome = true ∧ (openBung offered 9 hnd).isSome = true ∧
    ((sessByHandle offered hnd).map fun x => (x.state, x.epoch, unsettled offered x)) = some (4, 1, true) ∧ bungView host hnd 1 = some 7 ∧
    bungView offered hnd 2 = none ∧ migIn offered hnd = none ∧ (migIn incoming 16777220).isSome = true ∧ bungView incoming 16777220 2 = none ∧
    (jobOf offered 8).isSome = true ∧ running offered = true := by
  decide

/-! ### Events of the Lauter, fetches, checkpoints -/

def experts : State :=
  { host with models.models := [(10, { (default : Model) with id := 10, tenant := 1, st := 2, hdr := { hdr1 with expertMap := [(7, 4096)] } })] }
def search1 : SearchReq := { (default : SearchReq) with src := 9, qid := 3, tenant := 1, corpus := 30, shard := 2, snapshot := 5, remainingUs := 100 }
def asked1 : Asked := { shard := 2, owner := 9, replica := 0, replicaAsked := false, done := false }
def querying (stage : Nat) : State := { lau with lauter.queries := [{ (default : Query) with seq := 8, tenant := 1, p := query1, stage := stage, asked := [asked1] }] }

theorem witness_LauterEvents : running experts = true ∧ ((modelOf experts 10).map fun m => (m.st, m.hdr.expertMap[0]?)) = some (2, some (7, 4096)) ∧
    experts.fab.self = 7 ∧ running lau = true ∧ shardStatus lau search1 = 0 ∧ lau.lauter.reqs.length < Config.peerReqMax ∧
    shardStatus lau { search1 with tenant := 2 } = 4 ∧ shardStatus lau { search1 with shard := 3 } = 1 ∧
    shardStatus { lau with lauter.corpora := [(30, { corpus1 with shards := [(2, { shard1 with removedSeq := 6 })] })] } search1 = 3 ∧
    queryOf lau 8 = none ∧ ((queryOf (querying 2) 8).map (·.stage)) = some 2 ∧
    ([asked1].find? fun a => a.shard == 2 && !a.done && (a.owner == 9 || (a.replica == 9 && a.replicaAsked))) = some asked1 ∧
    corpusOf lau 30 = some corpus1 ∧ tget corpus1.shards 2 = some shard1 ∧ ((queryOf (querying 3) 8).map (·.stage)) = some 3 ∧
    lau.lauter.repairEn = true ∧ hasBal lau 0 12 0 = true ∧ hasBal lau 0 5 1 = true ∧
    (({ lau with lauter.reqs := [{ (default : PeerReq) with rid := 4 }] } : State).lauter.reqs.find? fun r => r.rid == 4).isSome = true := by
  decide

def emptyObj : ObjRef := { gateway := 9, len := 0, id := 1, digest := sha256Nat [] }
def fetching : State :=
  { up with gl.jobs := [{ job1 with stage := 1, kind := .vocab 0 emptyObj }], gl.cmds := [{ (default : CmdRec) with seq := 8 }] }
def shd1 : Shd := { (default : Shd) with idx := 0, gw := 9, sent := true }
def ckpt1 : CkptRun :=
  { generation := 1, seq := 8, gateways := [9, 5], full := true, base := 0, phase := 1, point := 0, cellarSec := 0, shards := [shd1], recSess := [],
    recNodes := [], nodesAt := [], recShards := [], rowMarks := [], pageMarks := [], recTables := [], forced := false, staged := [],
    stagedBytes := 0, manifest := [] }

theorem witness_FetchesAndPuts : serving fetching = true ∧ ((jobOf fetching 8).bind (fetchRef fetching)) = some emptyObj ∧ digestOk emptyObj [] = true ∧
    digestOk emptyObj [1] = false ∧ (ckpt1.shards.find? fun d => d.idx == 0 && d.sent && !d.done) = some shd1 ∧
    ((ckpt1.gateways.drop ((ckpt1.gateways.takeWhile (· != shd1.gw)).length + 1) ++ ckpt1.gateways.take (ckpt1.gateways.takeWhile (· != shd1.gw)).length).find?
      fun g => !(shd1.gw :: shd1.tried).contains g) = some 5 := by
  decide +kernel

/-! ### Events of the cellar -/

theorem witness_SessionsMove : ((sessByHandle host hnd).map fun x => (x.state, x.dwellOn, x.outstanding, x.parking, x.condensing, x.parkWait)) =
      some (stWARM, true, 0, false, false, false) ∧ running host = true ∧ (serviceOf host 0).dwellMs ≠ 0xFFFFFFFF ∧
    (sessByHandle running1 hnd).isSome = true := by
  decide

def aged : State := { host with cellar.sess := [(3, { sess1 with state := stEXPIRED })], cellar.pressureEn := true }

theorem witness_CellarSeconds : running up = true ∧ running State.reset = false ∧
    ((sessAt aged 3).map fun x => (x.incoming, x.state, x.expirySec)) = some (false, stEXPIRED, 0) ∧ aged.cellar.sec = 0 ∧ running aged = true ∧
    aged.cellar.pressureEn = true := by
  decide

def resv1 : Resv := { (default : Resv) with id := 4, seq := 8, sess := 3, tenant := 1, orders := [0] }
def reserving : State :=
  { host with cellar.resvs := [resv1, { resv1 with id := 5, seq := noSeq }], cellar.sess := [(3, { sess1 with state := stPARKED, reviving := true, reviveSrc := 3, caskPeer := 5 })]
              gl.jobs := [{ job1 with session := hnd, kind := .generate gen1 1 }], mash.cycleCnt := 2 ^ 40
              mash.items := [{ item1 .decode with noGroup := 2 ^ 40, entry := none }] }

theorem witness_ReservationsEnd : resvOf reserving 4 = some resv1 ∧ resv1.granted = false ∧ firstWaiting reserving resv1 = true ∧ dieUp reserving 0 = true ∧
    (takeRuns reserving 0 1 0 [0]).isSome = true ∧ reserving.rack.inn = [] ∧ (jobOf reserving 8).isSome = true ∧
    ((sessByHandle reserving hnd).map fun x => (x.reviving, x.reviveSrc, x.caskPeer)) = some (true, 3, 5) ∧ (resvBySeq reserving noSeq 3).isSome = true ∧
    0 + reserveWait reserving ≤ reserving.mash.cycleCnt ∧ reachable reserving 5 = false ∧ reserveWait reserving ≤ 2 ^ 40 ∧
    (itemOf reserving 5).isSome = true ∧ (jobOf (dropItem reserving 5) 8).isSome = true := by
  decide +kernel

theorem witness_NoGroup : ((sessAt (dropItem { reserving with cellar.sess := [(3, { sess1 with run := some default })] } 5) 3).bind (·.run)).isSome = true := by decide

def evicting : State := { up with models.models := [(11, { (default : Model) with id := 11, st := 3 }), (10, { (default : Model) with id := 10, st := 1 })] }

theorem witness_EnginesAndModels : (queryOf (querying 0) 8).isSome = true ∧ ({ querying 0 with copper.engines := [8], copper.waiting := [6] } : State).copper.engines.contains 8 = true ∧
    queryDead (leaveEngine (querying 0) 8) { (default : Query) with tenant := 1, p := query1 } = false ∧ queryDead (querying 0) { (default : Query) with tenant := 2, p := query1 } = true ∧
    queryOf running1 8 = none ∧ (jobOf running1 8).isSome = true ∧ ((modelOf evicting 10).map (·.st)) = some 1 ∧ evicting.oast.reads = [] ∧
    ((modelOf evicting 11).map (·.st)) = some 3 ∧ modelInUse evicting 11 = false ∧ (tableOf rowsUp 6).isSome = true := by
  decide

/-! ### Events of the Oast -/

def lun1 : Lun := { (default : Lun) with blockBytes := 65536, blocks := [{ (default : Block) with st := 2 }, { (default : Block) with st := 0 }] }
def array : State :=
  { up with oast.luns := [lun1, { lun1 with failed := true }], oast.writes := [{ (default : FWrite) with id := 4, what := .image }]
            oast.reads := [{ (default : FRead) with id := 6, what := .patrol }], oast.gcStart := 1000 }

theorem witness_FlashAndLuns : array.dev.powered = true ∧ (array.oast.writes.find? fun w => w.id == 4).isSome = true ∧ erasable array 0 0 = true ∧
    erasable array 0 1 = false ∧ ((array.oast.reads.find? fun r => r.id == 6).map (·.what)) = some .patrol ∧ array.oast.mountState = 2 ∧
    ((lunAt array 0).blocks[0]?.map (·.st)) = some 2 ∧ ((lunAt array 0).blocks[1]?.map (·.st)) = some 0 ∧ hasBal array 0 9 2 = true ∧ lunUsable array 0 = true := by
  decide

theorem witness_OastHousekeeping : array.dev.powered = true ∧ array.oast.mountState = 2 ∧ 0 < array.oast.luns.length ∧ array.oast.quiescing = false ∧
    (lunAt array 0).failed = false ∧ freeBlocks (lunAt array 0) * 1000 < array.oast.gcStart * goodBlocks (lunAt array 0) ∧ (lunAt array 1).failed = true := by
  decide

def mounting : State := { up with oast.mountState := 1, dev.devState := 3, dev.startStep := 8 }
def storing : State := { up with sec.storePending := [8], gl.jobs := [job1], gl.cmds := [{ (default : CmdRec) with seq := 8, tenant := 1 }] }
def erasing : State := { up with sec.storePending := [8], sec.tenants := [(1, { tenant1 with removing := true, step := 4 })], gl.jobs := [{ job1 with kind := .removeTenant 1 }] }

theorem witness_MountAndStores : serving mounting = true ∧ mounting.oast.mountState = 1 ∧ mounting.dev.devState = 3 ∧ mounting.dev.startStep < 10 ∧
    up.oast.mountState ≠ 1 ∧ storing.dev.powered = true ∧ (jobOf storing 8).isSome = true ∧
    (storing.sec.tenants.find? fun t => t.2.step == 4 && (((removeJobs storing t.1).head?.map (·.seq)).getD noSeq) == 8) = none ∧
    (erasing.sec.tenants.find? fun t => t.2.step == 4 && (((removeJobs erasing t.1).head?.map (·.seq)).getD noSeq) == 8).isSome = true ∧
    up.sec.storePending = [] ∧ (up.sec.tenants.find? fun t => t.2.step == 5 && t.2.clearRuns.contains (0, 0)) = none := by
  decide

/-! ### Faults, power, clocks, resets, budgets, grammars -/

def testing : State := modTile up 63 fun x => { x with selfTest := true }
def oneDie : State := modDie up 0 fun d => { d with lost := true }

theorem witness_HardwareFaults : running up = true ∧ (tileAt up 63).inService = true ∧ (tileAt up 63).selfTest = false ∧ (tileAt testing 63).selfTest = true ∧
    bit testing.dev.spareLeft (63 / 16) = true ∧ bit ({ testing with dev.spareLeft := 7 } : State).dev.spareLeft (63 / 16) = false ∧
    (lget up.mill.dies (23 / 6) default).lost = false ∧ (lget oneDie.mill.dies 0 default).lost = true ∧ lget up.mill.pcSpared 23 0 < 2 ∧
    up.mill.dies.any (fun x => x.lost) = false ∧ oneDie.mill.dies.any (fun x => x.lost) = true ∧ (lget oneDie.mill.dies 3 default).lost = false ∧ running oneDie = true := by
  decide

def good : Supply := { volt := 5600, disconnected := false, qualified := true }
def twoIn : State := { up with dev.vinMain := good, dev.vinBackup := good }

theorem witness_SuppliesChange :
    (let u := modSupply twoIn 0 fun x => { volt := 100, disconnected := false, qualified := x.qualified && decide (5200 ≤ 100) && decide (100 ≤ 7000) }
     inputDown u.dev.vinMain = true ∧ inputDown u.dev.vinBackup = false ∧ u.dev.onBackup = false ∧ u.dev.vinBackup.qualified = true) ∧
    inputDown State.reset.dev.vinMain = true ∧ inputDown State.reset.dev.vinBackup = true ∧ State.reset.dev.thr.tripped = false ∧
    inputDown ({ twoIn with dev.vinBackup := default } : State).dev.vinBackup = true ∧
    5400 ≤ (supplyOf twoIn 1).volt ∧ (supplyOf twoIn 1).volt ≤ 6800 ∧ ({ twoIn with dev.powered := false } : State).dev.supplyIsLost = false ∧
    (supplyOf State.reset 0).volt < 5400 ∧ inputDown ({ up with dev.vinMain := default } : State).dev.vinMain = true ∧ up.dev.powered = true ∧
    up.dev.supplyIsLost = false ∧ inputDown twoIn.dev.vinMain = false := by
  decide

theorem witness_ThrottleAndSensors : running up = true ∧ running State.reset = false ∧ standby up = true ∧ standby State.reset = false ∧ up.dev.powered = true := by
  decide

theorem witness_ClocksChange : up.dev.powered = true ∧ up.dev.clk.pllLocked = true ∧ ({ up with dev.clk.monActive := true } : State).dev.clk.monActive = true ∧
    up.dev.clk.monActive = false := by
  decide

theorem witness_ResetsTaken : ({ up with dev.supplyIsLost := true } : State).dev.supplyIsLost = true ∧ up.dev.supplyIsLost = false ∧ up.dev.thr.tripped = false ∧
    up.dev.powered = true ∧ State.reset.dev.powered = false ∧ up.dev.deferred = none ∧ ({ up with dev.deferred := some 3 } : State).dev.deferred = some 3 ∧
    clockLimitsOk up.dev.clk = true := by
  decide

theorem witness_BalancesRefilled : host.mash.pendingTab = none ∧ host.mash.table.restCount ≤ host.mash.rest + 1 ∧
    budgetCur (budgetOf up 15 12) 3 = some 0 ∧ budgetCur (budgetOf up 0 12) 0 = some 0 := by
  decide

def gram1 : Grammar := { (default : Grammar) with states := [(1, 2)], ctxs := [default, { (default : GramCtx) with top := 0xFFFF }, { (default : GramCtx) with top := 6 }] }

theorem witness_GrammarContextFound : gram1.states[0]? = some (1, 2) ∧ findCtx gram1 0 [6] = some 2 ∧ findCtx gram1 0 [] = some 1 ∧ findCtx gram1 0 [8] = some 1 := by
  decide

/-! ### Further witnesses: the other clauses of the statements -/

/-- `host` with session 3 marked lost. -/
def lostSess : State := { host with cellar.sess := [(3, { sess1 with lostMark := true })] }

theorem witness_SessionLostAnswered : ∃ c e, envelope lostSess (.sessionQuery (pkt 5 1 hnd 24)) = some (pkt 5 1 hnd 24, c, e) ∧
    portUp lostSess 0 = true ∧ cmdRec lostSess 5 = none ∧ (earlyFault lostSess (pkt 5 1 hnd 24) c e).map (·.1) = some 0x0041 ∧
    c.isAsync = false ∧ failsAcceptance 0x0041 = false ∧ failsAcceptance 0x0011 = true :=
  ⟨_, _, rfl, by decide, by decide, by decide, by decide, by decide, by decide⟩

/-- Sequence 8 is answered, and its reply is not yet in a frame. -/
def answered : State :=
  { up with gl.cmds := [{ (default : CmdRec) with seq := 8, tenant := 1, phase := 3, reply := some { (default : Reply) with seq := 8, kind := 2 } }] }
def interim : State :=
  { up with gl.cmds := [{ (default : CmdRec) with seq := 8, tenant := 1, reply := some { (default : Reply) with seq := 8, kind := 1 } }] }

theorem witness_RepliesOfSequenceInUse : ((cmdRec interim 8).bind (·.reply)).map (fun p => (p.seq, p.kind)) = some (8, 1) ∧
    ((cmdRec answered 8).bind (·.reply)).map (fun p => (p.seq, p.kind)) = some (8, 2) ∧
    ((cmdRec { answered with gl.cmds := answered.gl.cmds.map fun c => { c with phase := 1 } } 8).map (·.phase)) = some 1 ∧
    ((cmdRec replied 8).map (·.reply)) = some none := by decide

theorem witness_RepliesSent : failsAcceptance 0 = false ∧ (jobOf running1 8).map (fun j => bit j.opcode 16) = some (bit (pkt 8 1 hnd 24).flags 0) := by decide

theorem witness_ModelRegistered : host.models.models.length + (runningIds host).length < Config.modelMax ∧
    Ready host (.modelRegister (pkt 5 1 0 96) 11 4 15 (obj 7)) ∧ regJob host 11 = none ∧ regJob host 10 = none ∧
    ((modelOf host 11).map fun m => (m.tenant, m.digest, m.st)) = some (1, 101, 0) ∧ modelHasSess host 11 = false ∧
    ((grammarOf host 4).map (·.tenant)) = some 1 ∧ grammarSame host 4 (obj 7) = false ∧ grammarInUse host 4 = false ∧
    Ready host (.grammarLoad (pkt 5 1 0 96) 4 0 (obj 7)) ∧ reachable host 9 = true ∧ reachable host 5 = false :=
  ⟨by decide, ready_of rfl (by decide), by decide, by decide, by decide, by decide, by decide, by decide, by decide,
   ready_of rfl (by decide), by decide, by decide⟩

theorem witness_LoadedAgain : Ready host (.segmentLoad (pkt 5 1 0 96) 10 0 4 (1 + 4 * 512) (obj 500)) ∧ gatewayOk host (obj 500) = true ∧
    (host.mill.segs.find? fun g => g.2.digest == 500 && g.2.tenant == 1 && !g.2.replaced).isSome = true ∧
    Ready host (.grammarLoad (pkt 5 1 0 96) 4 0 (obj 300)) ∧ grammarSame host 4 (obj 300) = true :=
  ⟨ready_of rfl (by decide), by decide, by decide, ready_of rfl (by decide), by decide⟩

/-- Slice 1 owns tile 0; peer 8 has a path that no port serves. -/
def sliced : State := { up with fab.slices := [default, { tiles := 1, lanes := 0, pcs := 0 }], fab.routes := [(7, 1), (9, 2), (8, 0)] }

theorem witness_SlicesRoutesBuddiesEdges : Ready sliced (.sliceSet (pkt 5 0 0 240) 0 2 0 0) ∧
    (∀ o, o < 16 → o ≠ 0 → (lget sliced.fab.slices o default).tiles &&& 2 = 0 ∧ (lget sliced.fab.slices o default).lanes &&& 0 = 0 ∧
      (lget sliced.fab.slices o default).pcs &&& 0 = 0) ∧
    Ready sliced (.sliceSet (pkt 5 0 0 240) 16 0 0 0) ∧ (lget sliced.fab.slices 1 default).tiles &&& 1 ≠ 0 ∧
    Ready sliced (.sliceSet (pkt 5 0 0 240) 0 1 0 0) ∧ Ready up (.routeSet (pkt 5 0 0 32) 0 []) ∧
    Ready up (.routeSet (pkt 5 0 0 36) 1 [(9, 2)]) ∧ routeScan 0 [] false [(9, 2)] ≠ (none, true) ∧
    Ready up (.buddySet (pkt 5 0 0 32) 0 9) ∧ 9 ≠ up.fab.self ∧ (routeOf up 9).any (fun m => upPorts up m != []) = true ∧
    Ready up (.buddySet (pkt 5 0 0 32) 0 7) ∧ up.fab.self = 7 ∧ Ready up (.buddySet (pkt 5 0 0 32) 16 0) ∧ routeOf up 5 = none ∧
    Ready up (.buddySet (pkt 5 0 0 32) 0 5) :=
  ⟨ready_of rfl (by decide), by decide, ready_of rfl (by decide), by decide, ready_of rfl (by decide), ready_of rfl (by decide),
   ready_of rfl (by decide), by decide, ready_of rfl (by decide), by decide, by decide, ready_of rfl (by decide), by decide,
   ready_of rfl (by decide), by decide, ready_of rfl (by decide)⟩

theorem witness_CheckpointEdges : Ready up (.ckptStart (pkt 5 0 0 36) 0xFFFF0000 1 [9]) ∧ up.ckpt.lastStarted < 0xFFFF0000 ∧
    Ready up (.ckptStatus (pkt 5 0 0 32) 4294967295) ∧ Ready { up with fab.ports := [] } (.restoreStart (pkt 5 0 0 88) (obj 7)) ∧
    gatewayOk { up with fab.ports := [] } (obj 7) = true ∧ reachable { up with fab.ports := [] } 9 = false :=
  ⟨ready_of rfl (by decide), by decide, ready_of rfl (by decide), ready_of rfl (by decide), by decide, by decide⟩

theorem witness_FabricBusyFrames : fab1.busy = none ∧ fab1.streamSeq = ((streamOf up fab1.src fab1.tclass).rxSeq + 1) % 2 ^ 32 ∧
    ({ fab1 with streamSeq := 2 }).streamSeq ≠ ((streamOf up fab1.src fab1.tclass).rxSeq + 1) % 2 ^ 32 ∧ hasPath up 5 = false ∧
    (let s := { up with fab.buddies := [5] }; watched s 5 = true ∧ (peerOf s 5).lost = false ∧ hasPath s 5 = false ∧ 5 ≠ s.fab.self) := by
  decide

theorem witness_CopyAbandoned : fenceAhead host 1 0 0 = none ∧
    (let k : OpenCopy := { idx := 0, fence := 100, complete := false, missedAt := some 0 }
     grpIdx (withCopies [k]) 0 0 = some 0 ∧ copyNoted (withCopies [k]) 0 0 = some k ∧ running (withCopies [k]) = true ∧
     ¬(0 + 1048576 < (withCopies [k]).mash.arith + 16384) ∧
     (let s := { withCopies [k] with mash.arith := 1032193 }
      grpIdx s 0 0 = some 0 ∧ copyNoted s 0 0 = some k ∧ 0 + 1048576 < s.mash.arith + 16384)) := by
  decide +kernel

/-- Die 0 holds a record posted for the session and entry 0. -/
def posting (r : PostRec) : State := modDie waiting1 0 fun d => { d with posted := [(hnd, 0, r)] }

theorem witness_RecordsPosted : (takePosted (posting (.stepResult 1 0 0)) 0 hnd 0).isSome = true ∧ takePosted waiting1 0 hnd 0 = none ∧
    ((takePosted (posting (.other 9)) 0 hnd 0).map (·.1)) = some (.other 9) ∧ recordFits (item1 .decode) (.stepResult 1 0 0xFFFFFFFF) = true ∧
    recordFits (item1 .decode) (.condenseDone 1 1) = false ∧ itemOf { host with mash.items := [{ item1 .decode with ended := false }] } 5 ≠ none ∧
    itemOf waiting1 5 = some { item1 .decode with result := none } ∧ needsRecord .decode = true ∧ needsRecord (.condense 0) = false ∧
    (([{ (default : Delta) with isStep := true, rackSeq := 2, ent := 7 }].any fun d =>
      d.isStep && decide (d.rackSeq > 1) && d.ent != (item1 .decode).entry.getD 0)) = true := by decide

theorem witness_RackRecordsAborted : (let s := { up with rack.aborts := [(hnd, 1, 60)] }
     abortMarked s hnd 1 = true ∧ fencedFor s 9 rec2 = false ∧ bit ({ rec2 with rflags := 1 }).rflags 0 = true ∧ ({ rec2 with rkind := 9 }).rkind = 9 ∧
     bit rec2.rflags 0 = false ∧ rec2.rkind ≠ 9) ∧
    (copy1.owner = 9 ∧ rec2.rackSeq ≤ copy1.rackSeq ∧ copy1.pendingPark = none) ∧ ¬(({ rec2 with rackSeq := 3 }).rackSeq ≤ copy1.rackSeq) := by
  decide

/-- The offer of an EXTRACT session of model 10. -/
def extractOffer : SessImage := { offer1 with offeredFrom := 3 }

theorem witness_ExtractOffered : aheadOf host extractOffer.handle 2 = false ∧ offerFault host extractOffer = none ∧ extractOffer.offeredFrom = 3 ∧
    dieFor host extractOffer.model = some 0 ∧ dieFor { host with fab.slices := [] } 11 = none ∧ offerFault { host with fab.slices := [] } { extractOffer with model := 11, modelDigest := 101 } = none ∧
    inn1.stage = 2 ∧ inn1.src = 9 ∧ img1.epoch ≤ inn1.img.epoch ∧ Config.streamDigest img1 + 1 ≠ Config.streamDigest img1 ∧
    ((sessByHandle incoming 16777220).map (·.offeredFrom)) = some 1 ∧ abortMarked { up with rack.aborts := [(hnd, 1, 0)] } hnd 1 = true :=
  ⟨by decide, by decide +kernel, rfl, by decide +kernel, by decide +kernel, by decide +kernel, rfl, rfl, by decide, Nat.succ_ne_self _, by decide, by decide⟩

theorem witness_LauterEventEdges : ((modelOf { experts with fab.self := 9 } 10).map fun m => m.hdr.expertMap[0]?) = some (some (7, 4096)) ∧ (7 : Nat) ≠ ({ experts with fab.self := 9 } : State).fab.self ∧
    ({ search1 with remainingUs := 0 }).remainingUs = 0 ∧ search1.remainingUs ≠ 0 ∧
    (querying 0).dev.localCtr < 0 + deadlineOf (querying 0) ({ (default : Query) with seq := 8, tenant := 1, p := query1 }) * 3000 ∧
    ¬(({ querying 0 with dev.localCtr := 2 ^ 60 } : State).dev.localCtr < 0 + deadlineOf (querying 0) ({ (default : Query) with p := query1 }) * 3000) ∧
    ((queryOf (querying 0) 8).map (·.stage)) = some 0 ∧ corpusOf lau 31 = none ∧ shardOf lau 30 3 = none ∧ (shardOf lau 30 2).isSome = true ∧
    hasBal up 0 12 0 = false ∧ hasBal { lau with mash.table := { table1 with budgets := [(0, List.replicate 12 { tileRests := none, hbm := some 1, flash := none, fabric := none })] } } 0 5 1 = false ∧ ({ lau with lauter.repairEn := false } : State).lauter.repairEn = false := by
  decide

/-- A restore that has asked for its manifest. -/
def restoring : State :=
  { fetching with
    gl.jobs := [{ job1 with stage := 1, kind := .restore emptyObj }]
    ckpt.restore := some { generation := 0, seq := 8, queue := [.manifest emptyObj], tried := [], chain := [], applied := 0, bytes := 0,
                           cellarSec := 0, imgs := [], madeShards := [], madeTables := [] } }

theorem witness_FetchesAndPutsEdges : ((jobOf fetching 8).map fun j => match j.kind with | .restore _ => true | _ => false) = some false ∧
    ((jobOf restoring 8).map fun j => match j.kind with | .restore _ => true | _ => false) = some true ∧
    (jobOf restoring 8).bind (fetchRef restoring) = some emptyObj ∧ serving restoring = true ∧
    (jobOf up 8).bind (fetchRef up) = none ∧ ({ up with ckpt.run := some ckpt1 } : State).ckpt.run = some ckpt1 ∧ up.ckpt.run = none ∧
    (ckpt1.shards.find? fun d => d.idx == 1 && d.sent && !d.done) = none ∧
    (({ ckpt1 with shards := [{ shd1 with idx := 0xFFFFFFFF }] } : CkptRun).shards.find? fun d => d.idx == 0xFFFFFFFF && d.sent && !d.done).isSome = true ∧
    (([9].drop (([9].takeWhile (· != 9)).length + 1) ++ [9].take ([9].takeWhile (· != 9)).length).find? fun g => !([9].contains g)) = (none : Option Nat) :=
  ⟨by decide, by decide, by decide +kernel, by decide, by decide, rfl, rfl, by decide, by decide, by decide⟩

theorem witness_ParkFinishes : sessAt { host with cellar.sess := [(3, { sess1 with parkSeq := noSeq, parking := true })] } 3 =
      some { sess1 with parkSeq := noSeq, parking := true } ∧
    ((sessByHandle { host with cellar.sess := [(3, { sess1 with parking := true, parkProgs := true, parkAcked := true })] } hnd).map fun x =>
      (x.parking, x.parkProgs, x.parkAcked, x.parkCancelled)) = some (true, true, true, false) ∧
    ((sessByHandle { host with cellar.sess := [(3, { sess1 with condensing := true, condDone := true })] } hnd).map fun x =>
      (x.condensing, x.condDone, decide (x.rackSeq ≤ x.rackAcked))) = some (true, true, true) := by decide

/-- Model 10 was asked for and nothing of it is still read; segment 1 of model 10 runs. -/
def warmed : State := { up with models.models := [(10, { (default : Model) with id := 10, st := 1, asked := true })] }

theorem witness_EnginesAndModelsEdges : ((modelOf warmed 10).map fun x => (x.st, x.asked)) = some (1, true) ∧
    warmed.oast.reads.any (fun r => r.what == .warm 10) = false ∧
    ({ warmed with oast.reads := [{ (default : FRead) with what := .warm 10 }] } : State).oast.reads.any (fun r => r.what == .warm 10) = true ∧
    ({ querying 0 with copper.engines := [] } : State).copper.engines.contains 8 = false ∧ queryOf up 8 = none ∧ jobOf up 8 = none ∧
    modelInUse (working .decode) 10 = true ∧ rowsFree rowsUp tab1 = true ∧ rowsFree { rowsUp with mash.table := { table1 with rests := [{ act := [], rt := [] }] } } tab1 = false ∧
    (∀ j ∈ evicting.gl.jobs, j.kind ≠ .evict 11 ∧ j.kind ≠ .warm 11) ∧ (∀ p ∈ evicting.cellar.sess, p.2.model ≠ 11 ∨ p.2.reviving = false) := by
  decide +kernel

theorem witness_FlashAndLunsEdges : ((array.oast.writes.find? fun w => w.id == 4).map (·.what)) = some .image ∧
    (array.oast.writes.find? fun w => w.id == 5) = none ∧ (array.oast.reads.find? fun r => r.id == 7) = none ∧ lunUsable array 1 = false ∧
    hasBal { array with mash.table := { table1 with budgets := [(0, List.replicate 12 { tileRests := none, hbm := none, flash := some 1, fabric := none })] } } 0 9 2 = false := by
  decide

theorem witness_MountAndStoresEdges : 10 ≤ ({ up with oast.mountState := 1 } : State).dev.startStep ∧ serving { up with oast.mountState := 1 } = true ∧
    serving State.reset = false ∧ ¬(mounting.dev.clean = true ∧ mounting.oast.cfg.commit = true ∧ mounting.oast.cfg.marker = false) ∧
    jobOf { storing with gl.jobs := [] } 8 = none ∧
    (let a : Alloc := { (default : Alloc) with total := 1024, clearing := [(0, 3)] }
     let s := { up with cellar.allocs := [a] }
     0 < s.cellar.allocs.length ∧ tget (sortBy (fun (x y : Nat × Nat) => decide (x.1 < y.1)) (alloc s 0).clearing) 0 = some 3) ∧
    ({ up with sec.tenants := [(1, { tenant1 with removing := true, step := 5, clearRuns := [(0, 0)] })] } : State).sec.tenants.filter
      (fun t => t.2.step == 5 && t.2.clearRuns.contains (0, 0)) = [(1, { tenant1 with removing := true, step := 5, clearRuns := [(0, 0)] })] := by
  decide +kernel

/-- A table in whose one rest die 3 runs MAINT at tile 48, with or without a budget for it. -/
def maintTable (b : Option Nat) : MashTable :=
  { table1 with rests := [{ act := (List.range 64).map fun i => if i = 48 then 12 else 0, rt := [] }]
                budgets := [(0, List.replicate 12 { tileRests := b, hbm := none, flash := none, fabric := none })] }

theorem witness_HardwareFaultsEdges : maintRest { testing with mash.table := maintTable none } 3 = true ∧ maintRest { testing with mash.table := table1 } 3 = false ∧
    hasBal { testing with mash.table := maintTable none } ((groupSlice testing 3 15 1).getD 0) 12 0 = true ∧
    hasBal { testing with mash.table := maintTable (some 1) } ((groupSlice testing 3 15 1).getD 0) 12 0 = false ∧
    up.mill.pcLost.contains (23, 63) = false ∧ up.mill.pcWait.contains (23, 63) = false ∧
    lget up.mill.pcSpared 23 0 + countBy (fun p => p.1 == 23) up.mill.pcWait < 2 ∧ hasBal { up with mash.table := maintTable none } (slicePc up 23 63) 12 1 = true := by
  decide

theorem witness_BalancesAhead : host.mash.ahead = [] := by decide

/-! ### Ill-formed commands are refused, and well-formed ones are not -/

def badHdrs : List Hdr :=
  let h := pkt 5 1 hnd 24
  [{ h with port := 2 }, { h with tenant := 65536 }, { h with seq := 4294967296 }, { h with session := 4294967296 },
   { h with length := 4294967296 }, { h with flags := 65536 }, { h with badAt := some 65536 }]

theorem test_wf_header : (badHdrs.all fun h => !(Instr.nop h).wf && !(Instr.sessionClose h).wf && !(Instr.csrRead h 0 1).wf) = true ∧
    (Instr.nop (pkt 5 0 0 24)).wf = true ∧ (Instr.nop { pkt 5 0 0 24 with badAt := some 22 }).wf = true := by decide +kernel

theorem test_wf_object : ([{ obj 1 with gateway := 65536 }, { obj 1 with len := 2 ^ 64 }, { obj 1 with id := 2 ^ 128 }, { obj 1 with digest := 2 ^ 256 }].all
    fun o => !(Instr.firmwareStage (pkt 5 0 0 88) o).wf && !(Instr.modelRegister (pkt 5 1 0 96) 10 0 0 o).wf && !(Instr.restoreStart (pkt 5 0 0 88) o).wf) = true ∧
    (Instr.firmwareStage (pkt 5 0 0 88) (obj 1)).wf = true := by decide +kernel

theorem test_wf_generate : ([{ gen1 with maxTokens := 4294967296 }, { gen1 with topK := 65536 }, { gen1 with grammar := 65536 }, { gen1 with specK := 256 },
      { gen1 with outMode := 256 }, { gen1 with stopCount := 2 }, { gen1 with genFlags := 256 }, { gen1 with stops := [] },
      { gen1 with stops := [List.replicate 256 65] }].all fun g => !(Instr.sessionGenerate (pkt 5 1 hnd 60) g).wf) = true ∧
    (Instr.sessionGenerate (pkt 5 1 hnd 60) gen1).wf = true := by decide +kernel

def wfQuery1 : QueryParams :=
  { corpus := 1, vocab := 0, qFlags := 0, k := 8, beam := 64, rerankN := 0, tokenBudget := 0, deadlineUs := 1000, snapshot := 0, attrAnd := 0,
    attrOr := 0, num0Lo := 0, num0Hi := 0, num1Lo := 0, num1Hi := 0, postLen := 0, queryLen := 2, post := [], text := [104, 105] }

theorem test_wf_query : ([{ wfQuery1 with corpus := 2 ^ 32 }, { wfQuery1 with vocab := 256 }, { wfQuery1 with qFlags := 256 }, { wfQuery1 with k := 65536 },
      { wfQuery1 with beam := 65536 }, { wfQuery1 with rerankN := 65536 }, { wfQuery1 with tokenBudget := 2 ^ 32 }, { wfQuery1 with deadlineUs := 2 ^ 32 },
      { wfQuery1 with snapshot := 2 ^ 64 }, { wfQuery1 with attrAnd := 2 ^ 64 }, { wfQuery1 with attrOr := 2 ^ 64 }, { wfQuery1 with num1Hi := 2 ^ 32 },
      { wfQuery1 with postLen := 1 }, { wfQuery1 with queryLen := 1 }, { wfQuery1 with text := [104] }].all
      fun q => !(Instr.lauterQuery (pkt 5 1 0 112) q).wf) = true ∧ (Instr.lauterQuery (pkt 5 1 0 112) wfQuery1).wf = true := by decide +kernel

theorem test_wf_counts :
    ([.corpusDelete (pkt 5 1 0 44) 1 0 2 1 [7], .shardMapSet (pkt 5 1 0 36) 1 1 [], .rowLookup (pkt 5 1 0 36) 1 0 2 [1] [0],
      .rowUpdate (pkt 5 1 0 32) 1 1 0 [], .tableReplaceRows (pkt 5 1 0 32) 1 1 0 [], .hotsetSet (pkt 5 1 0 40) 1 0 1 [],
      .gateListLoad (pkt 5 0 0 36) 0 1 0 [], .routeSet (pkt 5 0 0 28) 1 [], .ckptStart (pkt 5 0 0 32) 1 1 [],
      .keyInstall (pkt 5 1 0 32) 1 2 [0], .csrWrite (pkt 5 0 0 36) 0 1 [], .attest (pkt 5 0 0 56) [], .hsHello 0 0 [],
      .hsCt 0 [] [] none, .hsCt 0 (List.replicate 1088 0) (List.replicate 32 0) (some []), .sensorSample 0 0 0 [],
      .fabHandshake 9 [] true, .sbWrite (List.replicate 256 0)] : List Instr).all (fun i => !i.wf) = true ∧
    ([.shardMapSet (pkt 5 1 0 36) 1 1 [{ shard := 0, owner := 7, replica := 0 }], .rowLookup (pkt 5 1 0 36) 1 0 2 [1, 1] [0, 1],
      .csrWrite (pkt 5 0 0 36) 0 1 [4294967295], .hsCt 0 (List.replicate 1088 0) (List.replicate 32 0) (some (List.replicate 40 0)),
      .sensorSample 0 0 0 (List.replicate 24 400), .sbWrite (List.replicate 255 0)] : List Instr).all (fun i => i.wf) = true := by decide +kernel

theorem test_wf_widths :
    ([.sessionOpen (pkt 5 1 0 56) 10 256 0 0 0 0, .sessionAppend (pkt 5 1 hnd 36) 256 0 0 [], .sessionMigrateOffer (pkt 5 1 hnd 28) 65536,
      .sessionMigrateAccept (pkt 5 1 hnd 64) 9 1 (2 ^ 256), .segmentLoad (pkt 5 1 0 96) 10 256 4 1 (obj 1), .draftBind (pkt 5 1 0 40) 10 12 256,
      .tableCreate (pkt 5 1 0 40) 1 65536 1 0 0, .shaperSet (pkt 5 0 0 48) 1 256 1 1, .sliceSet (pkt 5 0 0 224) 0 0 0 (2 ^ 1536),
      .serviceClassSet (pkt 5 0 0 40) 256 0 0 0 0 0, .gateListLoad (pkt 5 0 0 36) 0 1 0 [(0, 256)], .resultRead (pkt 5 0 0 36) 0 (2 ^ 32) 0,
      .csrWrite (pkt 5 0 0 36) 0 1 [2 ^ 32], .clockSet (pkt 5 0 0 32) 65536 0, .sbSetAddr 0 256, .jtagInstruction 256, .glKeepalive 2,
      .fabResendTimeout 9 8, .fabPortUp 8 0, .fabPortDown 8, .gateListActivate 8, .fenceCheck 4 0 0, .copyComplete 0 16 0 0, .copyAbandon 0 0 (2 ^ 32),
      .fencedReceived 9 16, .expertTokens 9 1 1 (4096, 1) [], .flashReadDone 1 3, .sramEccError 64 false, .hbmError 4 0 0 0 0, .hbmError 0 24 0 0 0,
      .hbmError 0 0 64 0 0, .dieLost 4, .supplyInputChange 2 0, .oscillatorStable 3, .clockMonWindow 65536, .objectFetchDone (2 ^ 33) none,
      .lunTimeout 65536, .frameClearDone 4 0, .sbAlertClear (2 ^ 32)] : List Instr).all (fun i => !i.wf) = true ∧
    ([.fenceCheck 3 15 0, .dieLost 3, .hbmError 3 23 63 0 0, .fabPortUp 7 8, .sramEccError 63 true, .flashReadDone 1 2, .oscillatorStable 2,
      .expertTokens 9 1 1 (4095, 1) [0]] : List Instr).all (fun i => i.wf) = true := by decide +kernel

def wfFrame1 : GlFrame := { ftype := 1, fflags := 0, credit := 0, seq := 1, ack := 0, payload := [] }
def wfFab1 : FabFrame :=
  { port := 0, fkind := 0, tclass := 0, src := 9, dst := 7, tenant := 0, keyEpoch := 0, slice := 0, payloadLen := 0, ctr := 0, streamSeq := 0,
    ackSeq := 0, msgType := 0, busy := none }
def wfRec1 : RackRec :=
  { session := hnd, epoch := 1, rackSeq := 1, rkind := 0, rflags := 0, slice := 0, tenant := 1, kvBytes := 0, descBytes := 0, position := 0,
    image := img1 }
def wfSearch1 : SearchReq :=
  { src := 9, qid := 1, tenant := 1, corpus := 1, shard := 0, vector := [], beam := 64, snapshot := 0, attrAnd := 0, attrOr := 0, num0Lo := 0,
    num0Hi := 0, num1Lo := 0, num1Hi := 0, rescore := false, remainingUs := 100 }

theorem test_wf_frames :
    ([{ wfFrame1 with ftype := 256 }, { wfFrame1 with fflags := 256 }, { wfFrame1 with credit := 65536 }, { wfFrame1 with seq := 2 ^ 32 },
      { wfFrame1 with ack := 2 ^ 32 }].all fun f => !(Instr.glFrameReceive 0 f true).wf) = true ∧ (Instr.glFrameReceive 1 wfFrame1 true).wf = true ∧
    ([{ wfFab1 with port := 8 }, { wfFab1 with fkind := 256 }, { wfFab1 with tclass := 8 }, { wfFab1 with src := 65536 }, { wfFab1 with dst := 65536 },
      { wfFab1 with tenant := 65536 }, { wfFab1 with keyEpoch := 65536 }, { wfFab1 with slice := 16 }, { wfFab1 with payloadLen := 2 ^ 32 },
      { wfFab1 with ctr := 2 ^ 64 }, { wfFab1 with streamSeq := 2 ^ 32 }, { wfFab1 with msgType := 65536 }, { wfFab1 with busy := some (2 ^ 32) }].all
      fun f => !(Instr.fabFrameReceive f true).wf) = true ∧ (Instr.fabFrameReceive wfFab1 true).wf = true := by decide +kernel

theorem test_wf_records :
    ([.stepResult (2 ^ 32) 0 0, .stepResult 0 65536 0, .chunkDone 0 (2 ^ 32) none, .chunkDone 0 0 (some (0, 65536, 0)), .verifyResult 256 [] 0,
      .verifyResult 0 (List.replicate 10 0) 0, .verifyResult 0 [2 ^ 32] 0, .condenseDone 65536 0, .other 65536].all
      fun r => !(Instr.postRecord 0 hnd 0 r).wf) = true ∧ (Instr.postRecord 0 hnd 0 (.verifyResult 8 (List.replicate 9 0) 0)).wf = true ∧
    ([{ img1 with handle := 2 ^ 32 }, { img1 with tenant := 65536 }, { img1 with serviceClass := 256 }, { img1 with shareClass := 4096 },
      { img1 with vocab := 256 }, { img1 with grammar := 65536 }, { img1 with model := 2 ^ 32 }, { img1 with modelDigest := 2 ^ 256 },
      { img1 with epoch := 2 ^ 32 }, { img1 with state := 5 }, { img1 with position := 2 ^ 32 }, { img1 with released := 2 ^ 32 },
      { img1 with lastSeq := 2 ^ 32 }, { img1 with kvShift := 2 ^ 32 }, { img1 with seed := 2 ^ 128 }, { img1 with rng := 2 ^ 96 },
      { img1 with expirySec := 2 ^ 64 }, { img1 with ring := [2 ^ 32] }, { img1 with gen := some { gen1 with topK := 65536 } }].all
      fun m => !(Instr.migrateOfferMsg 9 m).wf && !(Instr.rackRecord 9 { wfRec1 with image := m }).wf && !(Instr.adoptPullDone 1 [m]).wf) = true ∧
    ([{ wfRec1 with session := 2 ^ 32 }, { wfRec1 with rackSeq := 2 ^ 64 }, { wfRec1 with rkind := 256 }, { wfRec1 with rflags := 256 }, { wfRec1 with slice := 16 },
      { wfRec1 with tenant := 65536 }, { wfRec1 with kvBytes := 2 ^ 32 }].all fun r => !(Instr.rackRecord 9 r).wf) = true ∧
    (Instr.rackRecord 9 wfRec1).wf = true ∧
    ([{ wfSearch1 with beam := 65536 }, { wfSearch1 with qid := 2 ^ 32 }, { wfSearch1 with snapshot := 2 ^ 64 }].all fun r => !(Instr.searchRequest r).wf) = true ∧
    (Instr.searchRequest wfSearch1).wf = true ∧
    ([{ (default : Cand) with node := 2 ^ 32 }, { (default : Cand) with shard := 65536 }, { (default : Cand) with attr := 2 ^ 64 },
      { (default : Cand) with num0 := 2 ^ 32 }, { (default : Cand) with ext := [2 ^ 64] }, { (default : Cand) with fromPeer := 65536 }].all
      fun c => !(Instr.candidateReply 9 1 0 0 [c]).wf) = true ∧
    (Instr.shardMapSet (pkt 5 1 0 36) 1 1 [{ shard := 65536, owner := 7, replica := 0 }]).wf = false := by decide +kernel

/-! ### Values that the spec's worked examples, and the published test vectors of the algorithms it names, state -/

/-- The example under R77: a block whose largest magnitude is 5.3, with 0.2 in it, and one of 7.9, to MXFP4. -/
theorem test_mx_example : toMx 0x01 [0x40A9999A, 0x3E4CCCCD, 0] = (0x7F, [7, 0, 0], 0) ∧ toMx 0x01 [0x40FCCCCD] = (0x7F, [7], 1) ∧
    toMx 0x01 [0] = (0, [0], 0) := by decide +kernel

/-- The example of an attention op: 4 query heads a KV head, D = 64, INT4 codes, 16 bands, N = 36. -/
theorem test_attend_duration : attDuration [0, 4, 16, 0, 36, 0, 4, 3] = 9256 := by decide

/-- The example under R113: the switch of 6,291,456 and 2,097,152 live bytes, and of none. -/
theorem test_switch_cycles : moveCycles 6291456 = 24672 ∧ moveCycles 2097152 = 8288 ∧ moveCycles 0 = 96 := by decide

def refHdr : ModelHdr := { (default : ModelHdr) with layers := 16, layersPerGroup := 1, kvHeads := 4, headDim := 64, kvBits := 4 }

/-- The example under R159: ten pages for 6,276 positions, 511 frames a layer group, a page list of order 2. -/
theorem test_page_growth : pageKs 11 20 4 0 6276 = [4, 5, 6, 7, 8, 9, 10, 11, 11, 11] ∧ posBytes refHdr = 256 ∧
    sumBy (fun k => 2 ^ pageOrder refHdr k) [4, 5, 6, 7, 8, 9, 10, 11, 11, 11] = 511 ∧ listOrder refHdr 10 = 2 := by decide

/-- The example under R277: a row of 256 INT8 codes under Adam, and without state. -/
theorem test_row_stride : strideOf 0x0D 256 2 = 1344 ∧ strideOf 0x0D 256 0 = 320 := by decide

/-- The example under R282: the row (0, -0.5, 0.5625, -1.0) takes an update with lr 0.5. -/
theorem test_row_update :
    let r : RowRec := { ver := 4, s := 0x3C00, o := 0xBF80, payload := [128, 64, 200, 0], st := [] }
    let g : List H16 := [0x3E80, 0xBF80, 0x3F00, 0]
    let new := (List.range 4).map fun d =>
      (stepElem up.rows.beta1 up.rows.beta2 up.rows.eps 0x3F000000 0 (element 0x0D r d) (bf16To32 (lget g d 0).toNat) 0 0).1
    new = [0xBE000000, 0, 0x3EA00000, 0xBF800000] ∧ storeRow 0x0D new = (0x3BA9, 0xBF80, [170, 194, 254, 0], 0, 0) := by decide +kernel

/-- The example under R218: F0 9F 98 waits as carry; then 98 41, or E0 80 41. -/
theorem test_text_repair : repairText [0xF0, 0x9F, 0x98] = ([], [0xF0, 0x9F, 0x98], 0) ∧
    repairText [0xF0, 0x9F, 0x98, 0x98, 0x41] = ([0xF0, 0x9F, 0x98, 0x98, 0x41], [], 0) ∧
    repairText [0xF0, 0x9F, 0x98, 0xE0, 0x80, 0x41] = (replacement ++ replacement ++ replacement ++ [0x41], [], 3) := by decide

/-- The example under R220: the stop string "</call>" after "Result: 4", "2</", "ca" and "ll>" with a line feed. -/
theorem test_stop_string :
    let stop : List Byte := [60, 47, 99, 97, 108, 108, 62]
    (let d := detok [stop] [] [] [50, 60, 47]; (d.out, d.held, d.stop)) = ([50], [60, 47], none) ∧
    (let d := detok [stop] [60, 47] [] [99, 97]; (d.out, d.held, d.stop)) = ([], [60, 47, 99, 97], none) ∧
    (let d := detok [stop] [60, 47, 99, 97] [] [108, 108, 62, 10]; (d.out, d.held, d.stop)) = ([], [], some (0, 8)) := by decide

/-- The example under R452: slice 1's DECODE tile-rest balance of -168 tile-rests. -/
theorem test_balance_register :
    regReads (setBal up 1 2 0 { (default : Balance) with bal := -2752512 }) 0x00101208 2 = [0xFFD60000, 0xFFFFFFFF] := by decide +kernel

/-- The example under R442: FAB_RACK_REDO lies at 0x0045_01A8 and FAB_CFG at 0x0045_0004. -/
theorem test_register_places : regWord { up with fab.cnt.rackRedo := 5 } 0x004501A8 = 5 ∧ regWord up 0x00450004 % 65536 = 0x3E8 := by
  decide +kernel

/-- The example under R457: PWR_STATUS and THROTTLE_STATUS over the sideband. -/
theorem test_status_words :
    pwrStatusWord { State.reset.dev with pinW := 2590, onBackup := false, vinMain.qualified := false, vinBackup.qualified := false } = 0x0A1E0000 ∧
    throttleWord { State.reset.dev.thr with level := 1, hThermal := 1, hPower := 0, tjMax := 98, tjSensor := 6 } = 0x00066211 := by decide

/-- The registers of R424 right after reset. -/
theorem test_reset_words : clkDivWord State.reset.dev.clk = 0x04320432 ∧ pwrCtlWord State.reset.dev = 0x0A280000 ∧
    clkMonWord State.reset.dev.clk = 0x20A ∧ devCapWord State.reset.dev = 0x000FFC40 := by decide

/-- The example of the governor: P_prefill infinite at first, then 1.46 against 1.25 times 0.73, then 1.10. -/
theorem test_governor_pressures : pressureOver 6000 0 9000 20480 0x140 = true ∧ pressureOver 9000 12288 6000 4096 0x140 = false ∧
    pressureOver 6000 4096 9000 12288 0x140 = true ∧ pressureOver 9000 8192 6000 8192 0x140 = true := by decide

/-- Throttle level h holds h rests of every 16 (R403), one in four at h = 4. -/
theorem test_throttle_holds : ((List.range 16).filter (holdFollows 4)) = [3, 7, 11, 15] ∧ ((List.range 16).filter (holdFollows 12)).length = 12 := by decide

/-- The published vectors of Philox-4x32-10 (counter and key zero) and of SHA-256 ("abc"). -/
theorem test_algorithms : (List.range 4).map (philoxWord 0 0) = [0x6627E8D5, 0xE169C58D, 0xBC57AC4C, 0x9B00DBD8] ∧
    sha256Nat [97, 98, 99] = 0xBA7816BF8F01CFEA414140DE5DAE2223B00361A396177A9CB410FF61F20015AD := by decide +kernel

end Sys2Proof.Tests
end

section
/-! PROOF. SESSION_OPEN taken (O15): its parameters pass, its entry is written, its FINAL reply goes out (R146, R150, R165,
R192). -/
namespace Sys2Proof.Machine

/-- A model id below 2^20 sets none of the reserved bits of its field (R36). -/
theorem modelBits_clear {model : Nat} (off : Nat) (hid : model < 1048576) : Clear (modelBits off model) := by
  have hbits : bits model 23 20 = 0 := by
    unfold bits
    omega
  have htop : ¬ model ≥ 16777216 := by omega
  simp [Clear, modelBits, hbits, htop]

/-- The parameters of SESSION_OPEN that pass its checks: a model of kind below 2, a vocabulary of the model's size, no
grammar or one that fits, a share class of the tenant or of none (R131, R146, R202, R211, R228). -/
theorem openParams_clear {v : State} {h : Hdr} {model vocab grammar share : Nat} {m : Model} {x : Vocab}
    (hid : model < 1048576) (hm : modelOf v model = some m) (hkind : m.hdr.kind < 2) (hx : vocabOf v vocab = some x)
    (hsize : x.toks.length = m.hdr.vocabSize) (hg : grammar = 0 ∨ grammarFits v h.tenant vocab grammar = true)
    (hshare : share < 4096) (hclass : (classOf v share).tenant = 0 ∨ (classOf v share).tenant = h.tenant) :
    Clear (openParams v h model vocab grammar share) := by
  intro p hp
  unfold openParams at hp
  rcases List.mem_append.mp hp with hbits | hrest
  · exact modelBits_clear 24 hid p hbits
  · simp only [hm, hx, List.mem_cons, List.not_mem_nil, or_false] at hrest
    rcases hrest with rfl | rfl | rfl | rfl
    · simpa using hkind
    · simpa using hsize
    · simpa [or_iff_not_imp_left] using hg
    · simpa [hshare, or_iff_not_imp_left] using hclass

/-- The seed of a session opened at `w`: the command's, or a drawn one where the command gives 0 (R192). -/
def openSeed (w : State) (seed : Nat) : Nat := if seed = 0 then Config.random w.free % 2 ^ 128 else seed

/-- `w` after the draw that a seed of 0 takes (R192). -/
def afterSeed (w : State) (seed : Nat) : State := if seed = 0 then tick w else w

/-- A session's entry written under its index, whose generation is now in force and which is free no longer (R4, R146). -/
def enterSess (w : State) (y : Sess) : State :=
  { w with
    cellar.sess := tput w.cellar.sess y.idx y, cellar.gens := tput w.cellar.gens y.idx y.gen,
    cellar.freed := w.cellar.freed.erase y.idx }

/-- The session just entered starts its grammar and its OPEN record is racked (R150, R228, R329). -/
def openRacked (w : State) (y : Sess) : State :=
  rack (if y.grammar ≠ 0 then gramStart w y.idx y.grammar false else w) y.idx 1 0 plainDelta

/-- The answer of a SESSION_OPEN that made the entry `y`: its handle, epoch and home die (R146). -/
def openAns (y : Sess) : Ans :=
  { status := stOk, detail := 0, body := lay [(4, 1), (1, y.homeDie), (3, 0)], handle := some (handleOf y) }

/-- SESSION_OPEN of a RESIDENT model of the tenant with an index and two runs to give. -/
theorem openSession_runs {v w : State} {h : Hdr} {model idx gen : Nat} (cls vocab grammar share seed : Nat) {m : Model}
    {sb pl : Run} {rest : List Run} (hm : modelOf v model = some m) (hten : m.tenant = h.tenant) (hst : m.st = 2)
    (hidx : issueIndex v = some (idx, gen)) (hruns : takeRuns v m.homeDie h.tenant m.slice [2, 0] = some (sb :: pl :: rest, w)) :
    let y : Sess := { Sess.zero with
      idx := idx, gen := gen, state := 1, cls := cls, vocab := vocab, tenant := h.tenant, share := share, model := model, epoch := 1
      homeDie := m.homeDie, linked := true, grammar := grammar, pageList := [pl], stateBlock := [sb]
      seed := openSeed w seed
      dwellSince := w.dev.localCtr, dwellOn := true, warmSince := w.dev.localCtr }
    openSession v h model cls vocab grammar share seed = (openRacked (enterSess (afterSeed w seed) y) y, openAns y) := by
  unfold openSession
  simp only [hm, hten, hst, hidx, hruns, ne_eq, not_true_eq_false, if_false]
  by_cases hseed : seed = 0
  · simp only [hseed, openSeed, afterSeed, if_true]
    rfl
  · simp only [hseed, openSeed, afterSeed, if_false]
    rfl

/-- Settles O15: the packet fits and its parameters are clear, so its effect is what `openSession_runs` says, answered OK. -/
theorem sessionOpenRuns : Obligations.SessionOpenRuns := by
  unfold Obligations.SessionOpenRuns
  intro s v w h model cls vocab grammar share seed idx gen m x sb pl rest hready hv hid hm hkind hx hsize hg hshare hclass
    hten hst hidx hruns
  subst hv
  rw [exec_sessionOpen]
  exact congrArg Host.Outcome.next (sync_final (hready.fit rfl) (openParams_clear hid hm hkind hx hsize hg hshare hclass)
    (openSession_runs cls vocab grammar share seed hm hten hst hidx hruns) rfl)

end Sys2Proof.Machine
end

section
/-! PROOF. What the statements about commands share: one port at a time, the latest reply of a command, the least offset
reported, and what acceptance leaves alone. -/
namespace Sys2Proof.Machine

/-! ### Ports (R29) -/

theorem glPort_modPort_ne {s : State} {p q : Nat} (f : GlPort → GlPort) (hp : p < 2) (hq : q < 2) (hne : q ≠ p) :
    glPort (modPort s p f) q = glPort s q := by
  obtain ⟨rfl, rfl⟩ | ⟨rfl, rfl⟩ : p = 0 ∧ q = 1 ∨ p = 1 ∧ q = 0 := by omega
  · rfl
  · rfl

theorem modPort_modPort (s : State) (p : Nat) (f g : GlPort → GlPort) :
    modPort (modPort s p f) p g = modPort s p fun x => g (f x) := by
  by_cases hp : p = 0 <;> simp only [modPort, hp, if_true, if_false]

theorem glPort_noteSent (s : State) (c : Content) (q : Nat) : glPort (noteSent s c) q = glPort s q := by
  rw [noteSent_eq]
  rfl

/-- Sending on one port leaves the other as it was. -/
theorem glPort_sendOn_ne {s : State} {p q : Nat} (r : Bool) (c : Content) (hp : p < 2) (hq : q < 2) (hne : q ≠ p) :
    glPort (sendOn s p r c) q = glPort s q := by
  unfold sendOn
  dsimp only
  split
  · rw [glPort_noteSent, glPort_modPort_ne _ hp hq hne]
  · rw [glPort_modPort_ne _ hp hq hne]

theorem outbox_sendOn_ne {s : State} {p q : Nat} (r : Bool) (c : Content) (hp : p < 2) (hq : q < 2) (hne : q ≠ p) :
    outbox (sendOn s p r c) q = outbox s q := by
  unfold outbox
  rw [glPort_sendOn_ne r c hp hq hne]

theorem portUp_lt {s : State} {p : Nat} (h : portUp s p = true) : p < 2 := by
  simp only [portUp, Bool.and_eq_true, decide_eq_true_eq] at h
  exact h.1.1.1

theorem glPort_keyed_modPort {s : State} {p q : Nat} {f : GlPort → GlPort} (hk : ∀ g, (f g).keyed = g.keyed ∧ (f g).state = g.state) :
    (glPort (modPort s p f) q).keyed = (glPort s q).keyed ∧ (glPort (modPort s p f) q).state = (glPort s q).state := by
  unfold glPort modPort
  by_cases hp : p = 0 <;> by_cases hq : q = 0 <;> simp [hp, hq, hk]

/-- Sending takes no port down. -/
theorem portUp_sendOn (s : State) (p : Nat) (r : Bool) (c : Content) (q : Nat) : portUp (sendOn s p r c) q = portUp s q := by
  have hserve : serving (sendOn s p r c) = serving s := by
    rw [sendOn_frame]
    rfl
  have hport : (glPort (sendOn s p r c) q).keyed = (glPort s q).keyed ∧ (glPort (sendOn s p r c) q).state = (glPort s q).state := by
    unfold sendOn
    dsimp only
    split
    · rw [glPort_noteSent]
      exact glPort_keyed_modPort fun g => ⟨rfl, rfl⟩
    · exact glPort_keyed_modPort fun g => ⟨rfl, rfl⟩
  unfold portUp
  rw [hserve, hport.1, hport.2]

/-! ### The command list (R42) -/

/-- The commands of sequence `q` are changed in a list in which the first of them is `r`: it is now `f r`, and what any
other sequence finds is as before. -/
theorem cmdRec_map_seq {s t : State} {q : Nat} {r : CmdRec} {f : CmdRec → CmdRec} (hf : ∀ c, (f c).seq = c.seq)
    (hl : t.gl.cmds = s.gl.cmds.map fun c => if c.seq = q then f c else c) (hr : cmdRec s q = some r) :
    cmdRec t q = some (f r) ∧ ∀ k, k ≠ q → cmdRec t k = cmdRec s k := by
  have hseq : ∀ c : CmdRec, (if c.seq = q then f c else c).seq = c.seq := by
    intro c
    split
    · exact hf c
    · rfl
  have hfind (k : Nat) : cmdRec t k = (cmdRec s k).map fun c => if c.seq = q then f c else c := by
    unfold cmdRec
    rw [hl, find_map_seq hseq]
  refine ⟨?_, fun k hk => ?_⟩
  · have : r.seq = q := by simpa using List.find?_some hr
    rw [hfind, hr, Option.map_some, if_pos this]
  · rw [hfind]
    cases hc : cmdRec s k with
    | none => rfl
    | some c =>
      have : c.seq = k := by simpa using List.find?_some hc
      rw [Option.map_some, if_neg (by omega)]

/-! ### The least offset (R38) -/

/-- A list with an element below a bound has its least below it. -/
theorem minBy_id_le {l : List Nat} {o : Nat} (h : o ∈ l) : ∃ d, minBy id l = some d ∧ d ≤ o := by
  induction l with
  | nil => cases h
  | cons a l ih =>
    unfold minBy
    cases hm : minBy id l with
    | none =>
      have hl : l = [] := minBy_none hm
      subst hl
      simp only [List.mem_singleton] at h
      exact ⟨a, rfl, by omega⟩
    | some b =>
      have hb : o ∈ l → b ≤ o := fun ho => by
        obtain ⟨d, hd, hle⟩ := ih ho
        rw [hm] at hd
        cases hd
        exact hle
      simp only [id]
      rcases List.mem_cons.mp h with rfl | ho
      · split
        · exact ⟨b, rfl, by omega⟩
        · exact ⟨_, rfl, by omega⟩
      · have := hb ho
        split
        · exact ⟨b, rfl, by omega⟩
        · exact ⟨a, rfl, by omega⟩

theorem minBy_id_mem {l : List Nat} {d : Nat} (h : minBy id l = some d) : d ∈ l := by
  induction l generalizing d with
  | nil => cases h
  | cons a l ih =>
    unfold minBy at h
    cases hm : minBy id l with
    | none =>
      rw [hm] at h
      cases h
      exact List.mem_cons_self ..
    | some b =>
      rw [hm] at h
      simp only [id] at h
      split at h
      · cases h
        exact List.mem_cons_of_mem _ (ih hm)
      · cases h
        exact List.mem_cons_self ..

/-! ### Conditions that do not hold -/

@[simp] theorem clear_nil {α : Type} : Clear ([] : List (Bool × α)) := fun _ h => nomatch h

@[simp] theorem clear_cons {α : Type} (p : Bool × α) (l : List (Bool × α)) : Clear (p :: l) ↔ p.1 = false ∧ Clear l := by
  simp [Clear]

@[simp] theorem clear_append {α : Type} (k l : List (Bool × α)) : Clear (k ++ l) ↔ Clear k ∧ Clear l := by
  simp [Clear, or_imp, forall_and]

/-! ### What acceptance leaves alone (R39) -/

/-- Acceptance changes Grenlink and the sessions alone. -/
theorem acceptOn_frame (v : State) (h : Hdr) (c : Cmd) (kind : JobKind) :
    acceptOn v h c kind = { v with gl := (acceptOn v h c kind).gl, cellar := (acceptOn v h c kind).cellar } := by
  unfold acceptOn
  rw [emit_frame]
  split <;> rfl

@[simp] theorem modelOf_acceptOn (v : State) (h : Hdr) (c : Cmd) (kind : JobKind) (m : Nat) :
    modelOf (acceptOn v h c kind) m = modelOf v m := by
  rw [acceptOn_frame]
  rfl

@[simp] theorem vocabOf_acceptOn (v : State) (h : Hdr) (c : Cmd) (kind : JobKind) (k : Nat) :
    vocabOf (acceptOn v h c kind) k = vocabOf v k := by
  rw [acceptOn_frame]
  rfl

@[simp] theorem grammarOf_acceptOn (v : State) (h : Hdr) (c : Cmd) (kind : JobKind) (g : Nat) :
    grammarOf (acceptOn v h c kind) g = grammarOf v g := by
  rw [acceptOn_frame]
  rfl

@[simp] theorem vocabSame_acceptOn (v : State) (h : Hdr) (c : Cmd) (kind : JobKind) (k : Nat) (o : ObjRef) :
    vocabSame (acceptOn v h c kind) k o = vocabSame v k o := by
  unfold vocabSame
  rw [vocabOf_acceptOn]

@[simp] theorem grammarSame_acceptOn (v : State) (h : Hdr) (c : Cmd) (kind : JobKind) (g : Nat) (o : ObjRef) :
    grammarSame (acceptOn v h c kind) g o = grammarSame v g o := by
  unfold grammarSame
  rw [grammarOf_acceptOn]

@[simp] theorem mill_acceptOn (v : State) (h : Hdr) (c : Cmd) (kind : JobKind) : (acceptOn v h c kind).mill = v.mill := by
  rw [acceptOn_frame]

end Sys2Proof.Machine
end

section
/-! PROOF. Packets refused (O10), a sequence in use (O11), the replies that are sent (O12, O13). -/
namespace Sys2Proof.Machine

/-! ### Refusals before the parameters (R10, R28, R55) -/

/-- A packet refused before its parameters, as an asynchronous command or with a status that fails acceptance (R39). -/
theorem answerEarly_refused {s : State} {h : Hdr} {c : Cmd} (st d : Nat) (up : portUp s h.port = true)
    (fails : c.isAsync = true ∨ failsAcceptance st = true) (fresh : cmdRec s h.seq = none) :
    Refused s (answerEarly (takeFromBuffer s h) h c st d) h c.code st d := by
  unfold answerEarly
  rw [if_pos (by simpa using fails)]
  exact refuse_refused c.code st d (takeFromBuffer_eq s h) (by rw [portUp_take, up]) (.inr (by rw [cmdRec_take, fresh]))

/-- A synchronous command answered before its parameters with a status that does not fail acceptance (R39). -/
theorem answerEarly_answered {s : State} {h : Hdr} {c : Cmd} {st : Nat} (d : Nat) (up : portUp s h.port = true)
    (sync : c.isAsync = false) (ok : failsAcceptance st = false) (fresh : cmdRec s h.seq = none) :
    Answered s (answerEarly (takeFromBuffer s h) h c st d) h c.code (ansD st d) := by
  unfold answerEarly
  rw [if_neg (by simp [sync, ok])]
  exact finalOn_answered (takeFromBuffer_eq s h) (by rw [portUp_take, up]) fresh ok

/-- A reserved byte of the header is reported no later than where it stands. -/
theorem headerFault_le_badAt {h : Hdr} {o : Nat} (c : Cmd) (e : Nat) (hb : h.badAt = some o) (ho : o < 24) :
    ∃ d, headerFault h c e = some d ∧ d ≤ o := by
  apply minBy_id_le
  simp [hb, ho]

/-- A header fault lies in the header. -/
theorem headerFault_lt {h : Hdr} {c : Cmd} {e d : Nat} (hf : headerFault h c e = some d) : d < 24 := by
  have hm := minBy_id_mem hf
  simp only [List.mem_append, List.mem_ite_nil_right, List.mem_singleton] at hm
  rcases hm with (((hflags | hreserved) | ⟨-, rfl⟩) | ⟨-, rfl⟩) | ⟨-, rfl⟩
  · grind
  · grind
  all_goals decide

/-- No check of a session's handle answers BAD_PARAM. -/
theorem handleFault_ne_badParam {s : State} {h : Hdr} {code : Nat} {f : Nat × Nat} (hf : handleFault s h code = some f) :
    f.1 ≠ stBadParam := by
  intro hbad
  unfold handleFault at hf
  split at hf
  · cases hf
    cases hbad
  · repeat' split at hf
    all_goals cases hf
    all_goals cases hbad

/-- Of the refusals before the parameters only a header fault is BAD_PARAM (R54, R55). -/
theorem headerFault_of_badParam {s : State} {h : Hdr} {c : Cmd} {e d : Nat} (hf : earlyFault s h c e = some (stBadParam, d)) :
    headerFault h c e = some d := by
  unfold earlyFault at hf
  split at hf
  · cases hf
    assumption
  · dsimp only at hf
    split at hf
    · cases hf
    split at hf
    · cases hf
    split at hf
    · rename_i f hh
      cases hf
      split at hh
      · exact absurd rfl (handleFault_ne_badParam hh)
      · cases hh
    · repeat' split at hf
      all_goals cases hf

theorem headerFault_of_early {s : State} {h : Hdr} {c : Cmd} {e : Nat} (hf : earlyFault s h c e = none) :
    headerFault h c e = none := by
  unfold earlyFault at hf
  split at hf
  · cases hf
  · assumption

/-- A reserved byte past the header is reported no later than where it stands (R10, R38). -/
theorem badAtOf_le_badAt {h : Hdr} {o : Nat} (params : List (Bool × Nat)) (hb : h.badAt = some o) (ho : 24 ≤ o) :
    ∃ d, badAtOf h params = some d ∧ d ≤ o := by
  apply minBy_id_le
  simp [hb, ho]

/-- A packet with a reserved byte set, refused BAD_PARAM or not refused before its parameters: it is refused BAD_PARAM, at
an offset not above that byte's. -/
theorem reservedByte_refused {s : State} {h : Hdr} {c : Cmd} {e o : Nat} (params : State → List (Bool × Nat)) (go : State → State)
    (up : portUp s h.port = true) (fresh : cmdRec s h.seq = none) (hb : h.badAt = some o)
    (hf : (∃ d, earlyFault s h c e = some (stBadParam, d)) ∨ earlyFault s h c e = none) :
    ∃ d, d ≤ o ∧ Refused s (admit_ s h c e params go) h c.code stBadParam d := by
  rcases hf with ⟨d, hd⟩ | hnone
  · refine ⟨d, ?_, ?_⟩
    · have hh := headerFault_of_badParam hd
      by_cases ho : o < 24
      · obtain ⟨k, hk, hle⟩ := headerFault_le_badAt c e hb ho
        rw [hk] at hh
        cases hh
        exact hle
      · have := headerFault_lt hh
        omega
    · rw [admit_early params go up fresh hd]
      exact answerEarly_refused _ d up (.inr rfl) fresh
  · have ho : 24 ≤ o := by
      by_contra hlt
      obtain ⟨d, hd, -⟩ := headerFault_le_badAt c e hb (by omega)
      rw [headerFault_of_early hnone] at hd
      cases hd
    obtain ⟨d, hd, hle⟩ := badAtOf_le_badAt (params (takeFromBuffer s h)) hb ho
    refine ⟨d, hle, ?_⟩
    rw [admit_badAt params go up fresh hnone hd]
    exact refuse_refused c.code _ d (takeFromBuffer_eq s h) (by rw [portUp_take, up]) (.inl rfl)

/-! ### The receive buffer (R31) -/

/-- A packet's own entry leaves the buffer of its port, and its credits are owed. -/
theorem takeFromBuffer_port {s : State} {h : Hdr} {n : Nat}
    (hf : (glPort s h.port).rxBuf.find? (fun c => c.1 == h.seq) = some (h.seq, n)) :
    glPort (takeFromBuffer s h) h.port = { glPort s h.port with
      rxBuf := (glPort s h.port).rxBuf.erase (h.seq, n), creditOwed := (glPort s h.port).creditOwed + n } := by
  unfold takeFromBuffer
  rw [glPort_modPort, hf]

/-- Settles O10: every packet goes through one admission (`packet_admit`), which drops it on a port that is down, answers
an early fault with a refusal or a FINAL reply, and reports a reserved byte at the latest where it stands. -/
theorem refusedPacketsHaveNoEffect : Obligations.RefusedPacketsHaveNoEffect := by
  unfold Obligations.RefusedPacketsHaveNoEffect
  refine ⟨fun s i h c e henv hdown => ?_, fun s i h c e st d henv hup hfresh hearly => ?_,
    fun s i h c e o henv hup hfresh hbad hearly => ?_, fun s h n hfind hport => ?_⟩
  · obtain ⟨params, go, hexec⟩ := packet_admit henv
    rw [hexec, admit_down c e params go hdown]
  · obtain ⟨params, go, hexec⟩ := packet_admit henv
    rw [admit_early params go hup hfresh hearly] at hexec
    exact ⟨_, hexec, fun hfails => answerEarly_refused st d hup hfails hfresh,
      fun hsync hok => answerEarly_answered d hup hsync hok hfresh⟩
  · obtain ⟨params, go, hexec⟩ := packet_admit henv
    obtain ⟨d, hle, href⟩ := reservedByte_refused params go hup hfresh hbad hearly
    exact ⟨_, d, hle, hexec, href⟩
  · have hown := takeFromBuffer_port hfind
    exact ⟨by rw [hown], by rw [hown], fun p hp hne => glPort_modPort_ne _ hport hp hne, takeFromBuffer_eq s h⟩

/-! ### A sequence in use (R42) -/

/-- The latest reply sent again is noted as it was, unless it is the last reply of a sequence whose hold it starts. -/
theorem noteSent_again {s t : State} {q : Nat} {r : CmdRec} {p : Reply} (hr : cmdRec s q = some r) (hp : r.reply = some p)
    (hq : p.seq = q) (hk : p.kind = 1 ∨ r.phase ≠ 3) (ht : t.gl.cmds = (noteSent s (.reply p)).gl.cmds) :
    cmdRec t q = some r ∧ ∀ k, k ≠ q → cmdRec t k = cmdRec s k := by
  rw [noteSent_reply] at ht
  split at ht
  · unfold cmdRec at hr ⊢
    rw [ht]
    exact ⟨hr, fun k _ => rfl⟩
  · rw [hq] at ht
    obtain ⟨hsame, hother⟩ := cmdRec_map_seq (fun _ => by rfl) ht hr
    have hstay : ¬(r.phase = 3 ∧ p.kind ≠ 1) := by tauto
    simp only [hstay, if_false, ← hp] at hsame
    exact ⟨hsame, hother⟩

/-- A duplicate: the original's latest reply goes out again, and beside the ports only the command list may differ (R42). -/
theorem resendReply_spec {s : State} {h : Hdr} {r : CmdRec} (hup : portUp s h.port = true) (hr : cmdRec s h.seq = some r) :
    let t := resendReply (takeFromBuffer s h) r h.port
    t = withSend s t ∧ (r.reply = none → t.gl.cmds = s.gl.cmds) ∧ ∀ p, r.reply = some p → .reply p ∈ outbox t h.port ∧
      (p.seq = h.seq → p.kind = 1 ∨ r.phase ≠ 3 → cmdRec t h.seq = some r ∧ ∀ q, q ≠ h.seq → cmdRec t q = cmdRec s q) := by
  have htake := takeFromBuffer_eq s h
  have hcmds : (takeFromBuffer s h).gl.cmds = s.gl.cmds := by
    rw [htake]
    rfl
  unfold resendReply
  cases hp : r.reply with
  | none =>
    refine ⟨?_, fun _ => hcmds, fun p hsome => (nomatch hsome)⟩
    dsimp only
    unfold withSend
    rw [hcmds]
    exact htake
  | some p =>
    dsimp only
    rw [emit_up (by rw [portUp_take, hup])]
    obtain ⟨hframe, hsent⟩ := sendOn_spec (takeFromBuffer s h) h.port true (.reply p)
    refine ⟨?_, fun hnone => (nomatch hnone), fun p' hsome => ?_⟩
    · conv_lhs => rw [hframe]
      generalize sendOn (takeFromBuffer s h) h.port true (.reply p) = t
      rw [htake]
      rfl
    · cases hsome
      refine ⟨sendOn_outbox _ _ _ _, fun hseq hkind => ?_⟩
      rcases hsent with ⟨-, hnoted⟩ | ⟨-, hkept⟩
      · obtain ⟨hsame, hother⟩ := noteSent_again (by rw [cmdRec_take, hr]) hp hseq hkind hnoted
        exact ⟨hsame, fun q hq => by rw [hother q hq, cmdRec_take]⟩
      · unfold cmdRec at hr ⊢
        rw [hkept, hcmds]
        exact ⟨hr, fun q _ => rfl⟩

/-- Settles O11: admission of a sequence in use (`admit_known`) is the resend of a duplicate or the refusal of a conflict. -/
theorem sequenceInUse : Obligations.SequenceInUse := by
  unfold Obligations.SequenceInUse
  intro s i h c e r henv hup hr
  obtain ⟨params, go, hexec⟩ := packet_admit henv
  rw [admit_known c e params go hup hr] at hexec
  refine ⟨_, hexec, fun hdup => ?_, fun hconflict => ?_⟩
  · rw [if_pos hdup]
    exact resendReply_spec hup hr
  · rw [if_neg hconflict]
    exact refuse_refused c.code _ _ (takeFromBuffer_eq s h) (by rw [portUp_take, hup]) (.inl rfl)

/-! ### Replies (R38 to R40) -/

/-- Settles O12: what the FINAL reply, acceptance and a held command leave is said once in `finalOn_answered`,
`acceptOn_accepted` and `heldOn_held`. -/
theorem repliesSentAndJobsListed : Obligations.RepliesSentAndJobsListed := by
  unfold Obligations.RepliesSentAndJobsListed
  exact ⟨fun v h code a hup hfresh hok => finalOn_answered (withPorts_self v).symm hup hfresh hok,
    fun s h c kind hup hfresh => ⟨acceptOn_accepted c kind hup hfresh, heldOn_held c kind hfresh⟩⟩

/-- The state in which a completing command's COMPLETION reply is sent: its job is gone and its session counts it no more
(R147, R24). -/
def jobEnded (s : State) (j : Job) (seq : Nat) : State :=
  let w : State := { s with gl.jobs := s.gl.jobs.filter fun k => k.seq != seq }
  if jobIsSess j then
    dwellStart (modSess w (idxOf j.session) fun x => { x with outstanding := x.outstanding - 1 }) (idxOf j.session)
  else w

theorem complete_found {s : State} {seq : Nat} {j : Job} {r : CmdRec} (a : Ans) (hj : jobOf s seq = some j)
    (hr : cmdRec s seq = some r) : complete s seq a = finishReply (jobEnded s j seq) r 2 (bit j.opcode 16) a := by
  unfold complete
  rw [hj, hr]
  rfl

theorem jobEnded_frame (s : State) (j : Job) (seq : Nat) :
    jobEnded s j seq = { s with gl.jobs := s.gl.jobs.filter fun k => k.seq != seq, cellar := (jobEnded s j seq).cellar } := by
  unfold jobEnded
  dsimp only
  split <;> rfl

theorem jobEnded_cellar (s : State) (j : Job) (seq : Nat) :
    (jobEnded s j seq).cellar = if jobIsSess j then
      (dwellStart (modSess s (idxOf j.session) fun x => { x with outstanding := x.outstanding - 1 }) (idxOf j.session)).cellar
      else s.cellar := by
  unfold jobEnded
  dsimp only
  split <;> rfl

/-- Settles O13: a completion is the last reply of its command (`finishReply_sent`) in the state without its job. -/
theorem completionReplySent : Obligations.CompletionReplySent := by
  unfold Obligations.CompletionReplySent
  intro s j c h a hj hc htenant hport hsession hup hretain
  have hseq : c.seq = h.seq := by simpa using List.find?_some hc
  have hframe := jobEnded_frame s j h.seq
  have hcell := jobEnded_cellar s j h.seq
  generalize hw : jobEnded s j h.seq = w at hframe hcell
  have hcmds : w.gl.cmds = s.gl.cmds := by rw [hframe]
  have hwup : portUp w h.port = true := by
    rw [portUp_congr (s := s) h.port (by rw [hframe]) (by rw [hframe]) (by rw [hframe]), hup]
  have hfit : storeAns w c (bit h.flags 0) a = fitAns s h c.opcode a := by
    rw [storeAns_fit]
    unfold fitAns resultBytes
    rw [show w.gl.results = s.gl.results by rw [hframe]]
  obtain ⟨t, ht, hte, hsent⟩ := finishReply_sent (w := w) (h := h) 2 (bit h.flags 0) a hseq hport hwup (.inl (by decide))
  have hreply := finalOf_isReply w c h 2 (bit h.flags 0) a hseq hsession
  rw [hfit] at hreply
  have hrec {f : CmdRec → CmdRec} (hf : ∀ k, (f k).seq = k.seq)
      (hl : t.gl.cmds = w.gl.cmds.map fun k => if k.seq = h.seq then f k else k) :
      cmdRec t h.seq = some (f c) ∧ ∀ q, q ≠ h.seq → cmdRec t q = cmdRec s q :=
    cmdRec_map_seq hf (by rw [hl, hcmds]) hc
  refine ⟨t, by rw [ht, complete_found a hj hc, hretain, hw], ?_, ?_, ?_, ?_⟩
  · rcases hsent with ⟨hm, f, hl, hf⟩ | ⟨hm, f, hl, hf⟩ <;> obtain ⟨-, hopcode, htenant', hlatest⟩ := hf c
    · exact ⟨f c, _, (hrec (fun k => (hf k).1) hl).1, hopcode, htenant'.trans htenant, hreply, .inl ⟨hm, hlatest⟩⟩
    · exact ⟨f c, _, (hrec (fun k => (hf k).1) hl).1, hopcode, htenant'.trans htenant, hreply, .inr ⟨hm, hlatest⟩⟩
  · rw [hte, hframe]
  · rcases hsent with ⟨-, f, hl, hf⟩ | ⟨-, f, hl, hf⟩ <;> exact (hrec (fun k => (hf k).1) hl).2
  · rw [hte]
    exact hcell

end Sys2Proof.Machine
end

section
/-! PROOF. Events (O14). -/
namespace Sys2Proof.Machine

/-- The record of an event raised at `s` (R57). -/
def eventOf (s : State) (code tenant session : Nat) (fields : List (Nat × Nat)) : EventRec :=
  { code := code, nonMaskable := decide (code ≤ 2), gap := false, seq := s.gl.nextSeq, time := s.dev.localCtr, tenant := tenant
    session := session, payload := (pack fields ++ List.replicate 40 0).take 40 }

/-- `s` with a record written to its log, before the record is sent (R58). -/
def logged (s : State) (e : EventRec) : State :=
  { s with
    gl.log := if (s.gl.log ++ [e]).length > Config.eventLogLen then (s.gl.log ++ [e]).drop 1 else s.gl.log ++ [e]
    gl.nextSeq := (s.gl.nextSeq + 1) % two32 }

@[simp] theorem portUp_logged (s : State) (e : EventRec) (p : Nat) : portUp (logged s e) p = portUp s p := rfl

/-- The log is a ring: of a log no longer than 65,536 and one more record, the last 65,536. -/
theorem logged_log {s : State} (e : EventRec) (hlen : s.gl.log.length ≤ 65536) :
    (logged s e).gl.log = (s.gl.log ++ [e]).drop (s.gl.log.length + 1 - 65536) := by
  have hring : Config.eventLogLen = 65536 := rfl
  unfold logged
  dsimp only
  rw [List.length_append, List.length_singleton, hring]
  split
  · rw [show s.gl.log.length + 1 - 65536 = 1 by omega]
  · rw [show s.gl.log.length + 1 - 65536 = 0 by omega, List.drop_zero]

theorem logged_log_length {s : State} (e : EventRec) (hlen : s.gl.log.length ≤ 65536) : (logged s e).gl.log.length ≤ 65536 := by
  rw [logged_log e hlen, List.length_drop, List.length_append, List.length_singleton]
  omega

theorem sendOn_log (s : State) (p : Nat) (r : Bool) (c : Content) : (sendOn s p r c).gl.log = s.gl.log := by
  rw [(sendOn_spec s p r c).1]
  rfl

/-- An event that cannot be masked, with both ports up, is sent on both (R58). -/
theorem raise_nonMaskable {s : State} {code : Nat} (tenant session : Nat) (fields : List (Nat × Nat)) (hcode : code ≤ 2)
    (h0 : portUp s 0 = true) (h1 : portUp s 1 = true) : raise s code tenant session fields =
      sendOn (sendOn (logged s (eventOf s code tenant session fields)) 0 false (.event (eventOf s code tenant session fields))) 1 false
        (.event (eventOf s code tenant session fields)) := by
  rw [← emit_up (p := 1) (by rw [portUp_sendOn]; exact h1), ← emit_up (s := logged s _) h0]
  unfold raise
  dsimp only
  rw [if_pos (by simpa using hcode)]
  exact if_pos (Bool.and_eq_true_iff.mpr ⟨h0, h1⟩)

/-- A masked event is logged and not sent (R58). -/
theorem raise_masked {s : State} {code : Nat} (tenant session : Nat) (fields : List (Nat × Nat)) (hcode : 2 < code)
    (hmask : evMasked s code = true) : raise s code tenant session fields = logged s (eventOf s code tenant session fields) := by
  unfold raise
  dsimp only
  rw [if_neg (by simpa using hcode), if_pos hmask]
  rfl

/-- An event not masked is sent on the event port (R58). -/
theorem raise_unmasked {s : State} {code : Nat} (tenant session : Nat) (fields : List (Nat × Nat)) (hcode : 2 < code)
    (hmask : evMasked s code = false) (hup : portUp s s.gl.eventPort = true) : raise s code tenant session fields =
      sendOn (logged s (eventOf s code tenant session fields)) s.gl.eventPort false (.event (eventOf s code tenant session fields)) := by
  rw [← emit_up (s := logged s _) hup]
  unfold raise
  dsimp only
  rw [if_neg (by simpa using hcode), if_neg (by simp [hmask])]
  rfl

/-- Settles O14: the record is logged, and then sent on both ports, on the event port, or not at all. -/
theorem eventsLogged : Obligations.EventsLogged := by
  unfold Obligations.EventsLogged
  intro s code tenant session fields hlen h0 h1 hport
  have hup : portUp s s.gl.eventPort = true := by
    obtain hp | hp : s.gl.eventPort = 0 ∨ s.gl.eventPort = 1 := by omega
    · rw [hp, h0]
    · rw [hp, h1]
  have hlog : (raise s code tenant session fields).gl.log = (logged s (eventOf s code tenant session fields)).gl.log := by
    by_cases hcode : code ≤ 2
    · rw [raise_nonMaskable _ _ _ hcode h0 h1, sendOn_log, sendOn_log]
    · cases hmask : evMasked s code with
      | true => rw [raise_masked _ _ _ (by omega) hmask]
      | false => rw [raise_unmasked _ _ _ (by omega) hmask hup, sendOn_log]
  refine ⟨_, eventOf s code tenant session fields, rfl, rfl, rfl, rfl, rfl, rfl, ?_, ?_, ?_, fun hboth => ?_, fun hone => ?_,
    fun hnone => ?_⟩
  · simp [eventOf]
  · rw [hlog, logged_log _ hlen]
  · rw [hlog]
    exact logged_log_length _ hlen
  · rw [raise_nonMaskable _ _ _ (by omega) h0 h1]
    refine ⟨?_, sendOn_outbox _ _ _ _⟩
    rw [outbox_sendOn_ne _ _ (by omega) (by omega) (by omega)]
    exact sendOn_outbox _ _ _ _
  · rw [raise_unmasked _ _ _ hone.1 hone.2 hup]
    exact sendOn_outbox _ _ _ _
  · rw [raise_masked _ _ _ hnone.1 hnone.2]
    exact ⟨rfl, rfl⟩

end Sys2Proof.Machine
end

section
/-! PROOF. Commands that load an object (O19, O20): each is accepted, and what it starts then completes it or asks its
gateway. -/
namespace Sys2Proof.Machine

/-! ### What an accepted load starts -/

/-- The other registrations of a model id that are listed (R200). -/
def otherRegisters (u : State) (model seq : Nat) : List Job :=
  u.gl.jobs.filter fun j => match j.kind with
    | .register k _ _ _ => k == model && j.seq != seq
    | _ => false

/-- What an accepted MODEL_REGISTER starts (R200). -/
def registerStart (h : Hdr) (model slice : Nat) (o : ObjRef) (u : State) : State :=
  match modelOf u model with
  | some m => if m.digest = o.digest then complete u h.seq (ansB (lay [(8, m.bytes)])) else fetchObj u h.seq slice h.tenant o
  | none =>
    if otherRegisters u model h.seq ≠ [] then setStage u h.seq 5
    else fetchObj u h.seq slice h.tenant o

/-- What an accepted SEGMENT_LOAD starts (R104). -/
def segmentStart (h : Hdr) (model : Nat) (o : ObjRef) (u : State) : State :=
  match u.mill.segs.find? fun g => g.2.digest == o.digest && g.2.tenant == h.tenant && !g.2.replaced with
  | some g => complete u h.seq (ansB (segBody g.2))
  | none => fetchObj u h.seq (((modelOf u model).map (·.slice)).getD 0) h.tenant o

/-- What an accepted VOCAB_LOAD starts (R210). -/
def vocabStart (h : Hdr) (vocab : Nat) (o : ObjRef) (u : State) : State :=
  if ObjRefEmpty o then
    let w := freeTable u (vocabRuns u vocab)
    complete { w with copper.vocabs := tdel w.copper.vocabs vocab } h.seq (ansB (lay [(4, 0)]))
  else if vocabSame u vocab o then complete u h.seq (ansB (lay [(4, ((vocabOf u vocab).map (·.toks.length)).getD 0)]))
  else fetchObj u h.seq 0 0 o

/-- What an accepted GRAMMAR_LOAD starts (R227). -/
def grammarStart (h : Hdr) (grammar : Nat) (o : ObjRef) (u : State) : State :=
  if ObjRefEmpty o then
    let w := freeTable u (grammarRuns u grammar)
    complete { w with copper.grammars := tdel w.copper.grammars grammar } h.seq (ansB (lay [(4, 0)]))
  else if grammarSame u grammar o then
    complete u h.seq (ansB (lay [(4, ((grammarOf u grammar).map (·.states.length)).getD 0)]))
  else fetchObj u h.seq 0 h.tenant o

theorem registerStart_new {h : Hdr} {model : Nat} {u : State} (slice : Nat) (o : ObjRef) (hm : modelOf u model = none) :
    registerStart h model slice o u =
      if otherRegisters u model h.seq ≠ [] then setStage u h.seq 5 else fetchObj u h.seq slice h.tenant o := by
  unfold registerStart
  rw [hm]

theorem registerStart_known {h : Hdr} {model : Nat} {u : State} {m : Model} (slice : Nat) (o : ObjRef) (hm : modelOf u model = some m) :
    registerStart h model slice o u =
      if m.digest = o.digest then complete u h.seq (ansB (lay [(8, m.bytes)])) else fetchObj u h.seq slice h.tenant o := by
  unfold registerStart
  rw [hm]

/-! ### Acceptance -/

theorem gatewayBad_clear {v : State} {o : ObjRef} (off : Nat) (hg : gatewayOk v o = true) : Clear (gatewayBad v o off) := by
  simp [gatewayBad, hg]

/-- A reference that may be empty: only one that names an object needs a gateway. -/
theorem tableBad_clear {v : State} {o : ObjRef} (hg : ObjRefEmpty o = false → gatewayOk v o = true) :
    Clear (if ObjRefEmpty o then [] else gatewayBad v o 32) := by
  cases he : ObjRefEmpty o with
  | true => exact clear_nil
  | false => exact gatewayBad_clear 32 (hg he)

theorem modelRegister_accepted {s : State} {h : Hdr} {model kind slice : Nat} {o : ObjRef}
    (hready : Ready s (.modelRegister h model kind slice o)) (hg : gatewayOk (takeFromBuffer s h) o = true) (hpos : 0 < model)
    (hid : model < 1048576) (hkind : kind ≤ 4) (hslice : slice ≤ 15) (hlate : Clear (registerLate (takeFromBuffer s h) h model o)) :
    exec (.modelRegister h model kind slice o) s = .next (registerStart h model slice o
      (acceptOn (takeFromBuffer s h) h (row 0x0201 true 1 0) (.register model kind slice o))) := by
  have hparams : Clear (modelBits 24 model ++ [(model == 0, 24), (decide (kind > 4), 28), (decide (slice > 15), 29)] ++
      gatewayBad (takeFromBuffer s h) o 32) := by
    simp only [clear_append, clear_cons, clear_nil, and_true]
    exact ⟨⟨modelBits_clear 24 hid, by simpa using hpos.ne', by simpa using hkind, by simpa using hslice⟩, gatewayBad_clear 32 hg⟩
  rw [exec_modelRegister]
  exact congrArg Host.Outcome.next (async_accept (hready.fit rfl) hparams hlate)

theorem segmentLoad_accepted {s : State} {h : Hdr} {model phase tiles batch : Nat} {o : ObjRef} {x : Model}
    (hready : Ready s (.segmentLoad h model phase tiles batch o)) (hg : gatewayOk (takeFromBuffer s h) o = true)
    (hid : model < 1048576) (hm : modelOf (takeFromBuffer s h) model = some x) (hten : x.tenant = h.tenant) (hphase : phase ≤ 5)
    (htiles : [1, 2, 4, 8, 16].contains tiles = true) (hbatch : batch < 16384) (hlo : 1 ≤ bits batch 8 0) (hhi : bits batch 8 0 ≤ 256)
    (hblo : 4 ≤ bits batch 13 9) (hbhi : bits batch 13 9 ≤ 20) :
    exec (.segmentLoad h model phase tiles batch o) s = .next (segmentStart h model o
      (acceptOn (takeFromBuffer s h) h (row 0x0205 true 1 0) (.segment model phase tiles batch o))) := by
  have hbatches : (bits batch 8 0 == 0 || decide (bits batch 8 0 > 256) || decide (bits batch 13 9 < 4) ||
      decide (bits batch 13 9 > 20) || decide (batch ≥ 16384)) = false := by
    simp only [Bool.or_eq_false_iff, beq_eq_false_iff_ne, decide_eq_false_iff_not]
    omega
  have hparams : Clear (modelBits 24 model ++ modelMissing (takeFromBuffer s h) model ++
      [(decide (phase > 5), 28), (!([1, 2, 4, 8, 16].contains tiles), 29),
       (bits batch 8 0 == 0 || decide (bits batch 8 0 > 256) || decide (bits batch 13 9 < 4) || decide (bits batch 13 9 > 20) ||
        decide (batch ≥ 16384), 30)] ++ gatewayBad (takeFromBuffer s h) o 32) := by
    simp only [clear_append, clear_cons, clear_nil, and_true]
    exact ⟨⟨⟨modelBits_clear 24 hid, by simp [modelMissing, hm]⟩, by simpa using hphase, by rw [htiles]; rfl, hbatches⟩,
      gatewayBad_clear 32 hg⟩
  have hlate : Clear [(modelForeign (takeFromBuffer s h) h model, (stDenied, 0))] := by
    simp [modelForeign, hm, hten]
  rw [exec_segmentLoad]
  exact congrArg Host.Outcome.next (async_accept (hready.fit rfl) hparams hlate)

theorem vocabLoad_accepted {s : State} {h : Hdr} {vocab : Nat} {o : ObjRef} (hready : Ready s (.vocabLoad h vocab o))
    (hg : ObjRefEmpty o = false → gatewayOk (takeFromBuffer s h) o = true) (hid : vocab ≤ 63)
    (hwrong : vocabWrong (takeFromBuffer s h) vocab o = false) :
    exec (.vocabLoad h vocab o) s = .next (vocabStart h vocab o
      (acceptOn (takeFromBuffer s h) h (row 0x0206 true 0 0) (.vocab vocab o))) := by
  have hparams : Clear ([(decide (vocab > 63), 24)] ++ (if ObjRefEmpty o then [] else gatewayBad (takeFromBuffer s h) o 32)) := by
    rw [clear_append]
    exact ⟨by simpa using hid, tableBad_clear hg⟩
  have hlate : Clear [(vocabWrong (takeFromBuffer s h) vocab o, (stWrongState, 0))] := by
    simp [hwrong]
  rw [exec_vocabLoad]
  exact congrArg Host.Outcome.next (async_accept (hready.fit rfl) hparams hlate)

theorem grammarLoad_accepted {s : State} {h : Hdr} {grammar vocab : Nat} {o : ObjRef} (hready : Ready s (.grammarLoad h grammar vocab o))
    (hg : ObjRefEmpty o = false → gatewayOk (takeFromBuffer s h) o = true) (hpos : 0 < grammar) (hid : vocab ≤ 63)
    (hten : ∀ x, grammarOf (takeFromBuffer s h) grammar = some x → x.tenant = h.tenant)
    (hwrong : grammarWrong (takeFromBuffer s h) grammar o = false)
    (hroom : ObjRefEmpty o = false → grammarOf (takeFromBuffer s h) grammar = none →
      (takeFromBuffer s h).copper.grammars.length < Config.grammarMax) :
    exec (.grammarLoad h grammar vocab o) s = .next (grammarStart h grammar o
      (acceptOn (takeFromBuffer s h) h (row 0x0207 true 1 0) (.grammar grammar vocab o))) := by
  rw [exec_grammarLoad]
  refine congrArg Host.Outcome.next (async_accept (hready.fit rfl) ?_ ?_)
  · change Clear ([(grammar == 0, 24), (decide (vocab > 63), 26)] ++ (if ObjRefEmpty o then [] else gatewayBad (takeFromBuffer s h) o 32))
    simp only [clear_append, clear_cons, clear_nil, and_true]
    exact ⟨⟨by simpa using hpos.ne', by simpa using hid⟩, tableBad_clear hg⟩
  · change Clear [_, _, _]
    simp only [clear_cons, clear_nil, and_true]
    refine ⟨?_, hwrong, ?_⟩
    · cases hx : grammarOf (takeFromBuffer s h) grammar with
      | none => rfl
      | some x => simpa using hten x hx
    · cases he : ObjRefEmpty o with
      | true => rfl
      | false =>
        cases hx : grammarOf (takeFromBuffer s h) grammar with
        | none => simpa using hroom he hx
        | some x => rfl

theorem mashLoad_accepted {s : State} {h : Hdr} {at_ : Nat} {o : ObjRef} (hready : Ready s (.mashLoad h at_ o))
    (hg : gatewayOk (takeFromBuffer s h) o = true) (hp : (takeFromBuffer s h).mash.pendingTab = none) :
    exec (.mashLoad h at_ o) s = .next (fetchObj (acceptOn (takeFromBuffer s h) h (row 0x0501 true 0 0) (.mash at_ o)) h.seq 0 0 o) := by
  have hlate : Clear [((takeFromBuffer s h).mash.pendingTab.isSome, (stWrongState, 0))] := by
    simp [hp]
  rw [exec_mashLoad]
  exact congrArg Host.Outcome.next (async_accept (hready.fit rfl) (gatewayBad_clear 32 hg) hlate)

theorem firmwareStage_accepted {s : State} {h : Hdr} {o : ObjRef} (hready : Ready s (.firmwareStage h o))
    (hg : gatewayOk (takeFromBuffer s h) o = true) : exec (.firmwareStage h o) s =
      .next (fetchObj (acceptOn (takeFromBuffer s h) h (row 0x0908 true 0 0) (.fwStage o)) h.seq 0 0 o) := by
  rw [exec_firmwareStage]
  exact congrArg Host.Outcome.next (async_accept (hready.fit rfl) (gatewayBad_clear 24 hg) clear_nil)

/-! ### The refusals of MODEL_REGISTER that do not apply (R200) -/

/-- A model id that is neither registered nor being registered, with room in the table. -/
theorem registerLate_new {v : State} {h : Hdr} {model : Nat} {o : ObjRef} (hreg : regJob v model = none) (hm : modelOf v model = none)
    (hroom : v.models.models.length + (runningIds v).length < Config.modelMax) : Clear (registerLate v h model o) := by
  simp [registerLate, hreg, hm, hroom]

/-- A registered model of the tenant, with the same digest or neither warm nor used. -/
theorem registerLate_known {v : State} {h : Hdr} {model : Nat} {o : ObjRef} {m : Model} (hreg : regJob v model = none)
    (hm : modelOf v model = some m) (hten : m.tenant = h.tenant)
    (hfree : m.digest = o.digest ∨ m.st = 0 ∧ modelHasSess v model = false) : Clear (registerLate v h model o) := by
  rcases hfree with hd | ⟨hst, hs⟩
  · simp [registerLate, hreg, hm, hten, hd]
  · simp [registerLate, hreg, hm, hten, hst, hs]

/-! ### The statements -/

theorem fetchObj_eq (s : State) (seq sl tenant : Nat) (o : ObjRef) :
    fetchObj s seq sl tenant o = if reachable s o.gateway = true then
      sendMsg (setStage s seq 1) o.gateway 6 sl 12 tenant false (.fetch o)
    else complete s seq { status := 0x0003, detail := 0, body := [], handle := none } := rfl

/-- Settles O19: the command is accepted (`…_accepted`), and its start finds no such object, so it fetches. -/
theorem objectLoadsFetch : Obligations.ObjectLoadsFetch := by
  unfold Obligations.ObjectLoadsFetch
  refine ⟨?_, fetchObj_eq⟩
  rintro s v h o rfl hg
  refine ⟨fun model kind slice hready hpos hid hkind hslice hreg => ⟨fun hm hroom => ?_, fun m hm hten hd hst hs => ?_⟩,
    fun model phase tiles batch x hready hid hm hten hphase htiles hbatch hlo hhi hblo hbhi hseg => ?_,
    fun vocab hready hid hobj hwrong hsame => ?_,
    fun grammar vocab hready hpos hid hobj => ⟨fun hx hroom => ?_, fun x hx hten hsame huse => ?_⟩,
    fun at_ hready hp => mashLoad_accepted hready hg hp, fun hready => firmwareStage_accepted hready hg⟩
  · rw [modelRegister_accepted hready hg hpos hid hkind hslice (registerLate_new hreg hm hroom)]
    exact congrArg Host.Outcome.next (registerStart_new slice o (by rw [modelOf_acceptOn, hm]))
  · rw [modelRegister_accepted hready hg hpos hid hkind hslice (registerLate_known hreg hm hten (.inr ⟨hst, hs⟩)),
      registerStart_known slice o (by rw [modelOf_acceptOn, hm]), if_neg hd]
  · rw [segmentLoad_accepted hready hg hid hm hten hphase htiles hbatch hlo hhi hblo hbhi]
    unfold segmentStart
    rw [mill_acceptOn, hseg, modelOf_acceptOn, hm]
    rfl
  · rw [vocabLoad_accepted hready (fun _ => hg) hid hwrong]
    simp [vocabStart, hobj, hsame]
  · rw [grammarLoad_accepted hready (fun _ => hg) hpos hid (by simp [hx]) (by simp [grammarWrong, hx]) (fun _ _ => hroom)]
    simp [grammarStart, hobj, grammarSame, hx]
  · rw [grammarLoad_accepted hready (fun _ => hg) hpos hid (by simp [hx, hten]) (by simp [grammarWrong, huse]) (by simp [hx])]
    simp [grammarStart, hobj, hsame]

/-- Settles O20: the command is accepted (`…_accepted`), and its start finds the object loaded, or none to load. -/
theorem loadedObjectsComplete : Obligations.LoadedObjectsComplete := by
  unfold Obligations.LoadedObjectsComplete
  rintro s v h o rfl
  refine ⟨fun model kind slice m hready hg hpos hid hkind hslice hm hten hd hreg => ?_,
    fun model phase tiles batch x g hready hg hid hm hten hphase htiles hbatch hlo hhi hblo hbhi hseg => ?_,
    fun vocab x hready hg hid hobj hx hd => ?_, fun grammar vocab x hready hg hpos hid hobj hx hten hsame => ?_,
    fun vocab hready hid hobj hwrong => ?_, fun grammar vocab hready hpos hid hobj hten hwrong => ?_⟩
  · rw [modelRegister_accepted hready hg hpos hid hkind hslice (registerLate_known hreg hm hten (.inl hd)),
      registerStart_known slice o (by rw [modelOf_acceptOn, hm]), if_pos hd]
  · rw [segmentLoad_accepted hready hg hid hm hten hphase htiles hbatch hlo hhi hblo hbhi]
    unfold segmentStart
    rw [mill_acceptOn, hseg]
  · rw [vocabLoad_accepted hready (fun _ => hg) hid (by simp [vocabWrong, vocabSame, hobj, hx, hd])]
    simp [vocabStart, vocabSame, hobj, hx, hd]
  · rw [grammarLoad_accepted hready (fun _ => hg) hpos hid (by simp [hx, hten]) (by simp [grammarWrong, hobj, hsame]) (by simp [hx])]
    simp [grammarStart, hobj, hsame, hx]
  · rw [vocabLoad_accepted hready (by simp [hobj]) hid hwrong]
    exact congrArg Host.Outcome.next (if_pos hobj)
  · rw [grammarLoad_accepted hready (by simp [hobj]) hpos hid hten hwrong (by simp [hobj])]
    exact congrArg Host.Outcome.next (if_pos hobj)

end Sys2Proof.Machine
end

section
/-! PROOF. Grenlink's frames and timers (O35). -/
namespace Sys2Proof.Machine

/-! ### Arriving frames (R28, R29, R30) -/

/-- The next frame in order, of a type a control node sends: the receive counter moves, what it acknowledges leaves, frames
of the unsent list go out in its place, and a COMMAND frame's packet is taken. -/
def frameTaken (s : State) (p : Nat) (f : GlFrame) : State :=
  let u := modPort s p fun g => { g with
    rxCtr := nextRx g, rxAny := true, lastRx := s.dev.localCtr, rxGen := nextRx g / 2 ^ 48, unacked := dropAcked g.unacked f.ack }
  let w := drainPort (glPort u p).unsent.length u p
  if f.ftype = 1 then takePacket w p f.payload else w

theorem glFrameReceive_forged {s : State} {p : Nat} (f : GlFrame) (hup : portUp s p = true) :
    execGlFrameReceive p f false s = .next (modPort s p fun g => { g with authFail := ctrAdd g.authFail 1 }) := by
  unfold execGlFrameReceive
  rw [if_neg (by simp [hup]), if_pos rfl]

/-- An authentic frame restarts the port's 100 µs, and only the next in order, of type COMMAND or LINK, does more. -/
theorem glFrameReceive_authentic {s : State} {p : Nat} (f : GlFrame) (hup : portUp s p = true) :
    execGlFrameReceive p f true s = .next (
      if (f.ftype ≠ 1 ∧ f.ftype ≠ 5) ∨ f.seq ≠ nextRx (glPort s p) % 2 ^ 32 then modPort s p fun g => { g with lastRx := s.dev.localCtr }
      else frameTaken s p f) := by
  unfold execGlFrameReceive
  rw [if_neg (by simp [hup]), if_neg (by decide)]
  dsimp only
  rw [glPort_modPort, modPort_modPort]
  rfl

/-! ### Timers (R29, R30, R33, R42) -/

theorem glResendTimeout_oldest {s : State} {p : Nat} {f : Frame} {l : List Frame} (hup : portUp s p = true)
    (hl : (glPort s p).unacked = f :: l) :
    execGlResendTimeout p s = .next (modPort (advanceTo s (f.sentAt + 150000)) p fun g => { g with
      unacked := g.unacked.map fun k => { k with sentAt := (advanceTo s (f.sentAt + 150000)).dev.localCtr, ack := g.rxCtr }
      lastTx := (advanceTo s (f.sentAt + 150000)).dev.localCtr }) := by
  unfold execGlResendTimeout
  rw [if_neg (by simp [hup]), hl]
  rfl

theorem glResendTimeout_none {s : State} {p : Nat} (hn : portUp s p = false ∨ (glPort s p).unacked = []) :
    execGlResendTimeout p s = .next s := by
  unfold execGlResendTimeout
  split
  · rfl
  · rw [hn.resolve_left ‹_›]

theorem glKeepalive_sends {s : State} {p : Nat} (hup : portUp s p = true) (hroom : (glPort s p).unacked.length < 4096) :
    execGlKeepalive p s = .next (sendOn (advanceTo s ((glPort s p).lastTx + 30000)) p false .link) := by
  have hwindow : Config.glWindow = 4096 := rfl
  unfold execGlKeepalive
  rw [if_neg (by rw [hup, hwindow]; simpa using hroom)]
  rfl

theorem glKeepalive_none {s : State} {p : Nat} (hn : portUp s p = false ∨ 4096 ≤ (glPort s p).unacked.length) :
    execGlKeepalive p s = .next s := by
  unfold execGlKeepalive
  exact congrArg Host.Outcome.next (if_pos hn)

theorem glPortDown_moves {s : State} {p : Nat} (hup : portUp s p = true) :
    execGlPortDown p s = .next (portDown (advanceTo s ((glPort s p).lastRx + 300000)) p) := by
  unfold execGlPortDown
  rw [if_neg (by simp [hup])]
  rfl

theorem glPortDown_none {s : State} {p : Nat} (hdown : portUp s p = false) : execGlPortDown p s = .next s := by
  unfold execGlPortDown
  rw [if_pos hdown]

theorem replyHoldExpiry_known {s : State} {q : Nat} {c : CmdRec} (hc : cmdRec s q = some c) :
    execReplyHoldExpiry q s = .next (if c.phase = 1 then
      { advanceTo s (c.repliedAt + 750000000) with gl.cmds := s.gl.cmds.filter fun k => k.seq != q } else s) := by
  unfold execReplyHoldExpiry
  rw [hc]
  rfl

/-- Settles O35: one rule for each way a frame arrives and for each timer. -/
theorem grenlinkFramesAndTimers : Obligations.GrenlinkFramesAndTimers := by
  unfold Obligations.GrenlinkFramesAndTimers
  refine ⟨fun s p f hup => ⟨glFrameReceive_forged f hup, fun hother => ?_, fun htype hseq => ?_⟩,
    fun s => ⟨fun p hup => ⟨fun f l hl => glResendTimeout_oldest hup hl, fun hnil => glResendTimeout_none (.inr hnil),
      fun hroom => glKeepalive_sends hup hroom, fun hfull => glKeepalive_none (.inr hfull), glPortDown_moves hup⟩,
      fun p hdown => ⟨glResendTimeout_none (.inl hdown), glKeepalive_none (.inl hdown), glPortDown_none hdown⟩,
      fun q c hc => replyHoldExpiry_known hc⟩⟩
  · rw [exec_glFrameReceive, glFrameReceive_authentic f hup, if_pos hother]
  · rw [exec_glFrameReceive, glFrameReceive_authentic f hup, if_neg (by omega)]
    rfl

end Sys2Proof.Machine
end

section
/-! PROOF. Fetches that end, and the shards of a checkpoint (O46). -/
namespace Sys2Proof.Machine

/-! ### OBJECT_FETCH_DONE (R37) -/

/-- The end of a fetch, as its command sees it: its job is `j`, fetching `o`. -/
theorem objectFetchDone_found {s : State} {seq : Nat} {j : Job} {o : ObjRef} (r : Option (List Byte)) (hs : serving s = true)
    (hj : jobOf s seq = some j) (ho : fetchRef s j = some o) :
    (∀ k, j.kind = .restore k → execObjectFetchDone seq r s = .next (restoreFetched s r)) ∧
    ((∀ k, j.kind ≠ .restore k) → execObjectFetchDone seq r s = .next (
      match r with
      | none => failFetch s j (ans stRetry)
      | some bs =>
        if digestOk o bs then useObject (chargeRx s (fetchSlice s j) 12 bs.length) j bs
        else failFetch (chargeRx s (fetchSlice s j) 12 bs.length) j (ansD stBadParam 0xFFFF))) := by
  unfold execObjectFetchDone
  rw [if_neg (by simp [hs]), hj]
  dsimp only
  rw [ho]
  refine ⟨fun k hk => ?_, fun hk => ?_⟩
  · simp only [hk]
  · dsimp only
    split
    · exact absurd ‹_› (hk _)
    · cases r <;> rfl

theorem objectFetchDone_none {s : State} {seq : Nat} (r : Option (List Byte)) (hn : (jobOf s seq).bind (fetchRef s) = none) :
    execObjectFetchDone seq r s = .next s := by
  unfold execObjectFetchDone
  split
  · rfl
  · cases hj : jobOf s seq with
    | none => rfl
    | some j =>
      rw [hj, Option.bind_some] at hn
      dsimp only
      rw [hn]

/-! ### Shards of a checkpoint (R358, R360) -/

/-- `complete` changes the sessions, Grenlink and the counts of the mash alone. -/
theorem complete_ckpt (s : State) (seq : Nat) (a : Ans) : (complete s seq a).ckpt = s.ckpt := by
  unfold complete
  split
  · rw [finishReply_eq, emit_frame, beforeSend_eq]
    dsimp only
    split <;> rfl
  · rfl

/-- A completed checkpoint: its generation heads the phases as done, and is the last one done (R360). -/
theorem ckptComplete_ckpt (s : State) (r : CkptRun) :
    (ckptComplete s r).ckpt.phases.head?.map (fun x => (x.1, x.2.1)) = some (r.generation, 3) ∧
    (ckptComplete s r).ckpt.lastDone = r.generation := by
  unfold ckptComplete
  dsimp only
  rw [complete_ckpt]
  exact ⟨rfl, rfl⟩

/-- An index that is not out changes nothing. -/
theorem put_notOut {s : State} {i : Nat}
    (hn : ∀ r, s.ckpt.run = some r → r.shards.find? (fun d => d.idx == i && d.sent && !d.done) = none) :
    execPutDone i s = .next s ∧ execPutFail i s = .next s := by
  unfold execPutDone execPutFail putAgain
  cases hr : s.ckpt.run with
  | none => exact ⟨rfl, rfl⟩
  | some r =>
    dsimp only
    rw [hn r hr]
    exact ⟨rfl, rfl⟩

theorem putDone_out {s : State} {i : Nat} {r : CkptRun} {d : Shd} (hr : s.ckpt.run = some r)
    (hd : r.shards.find? (fun d => d.idx == i && d.sent && !d.done) = some d) :
    let q := { r with shards := r.shards.map fun k => if k.idx = i then { k with done := true } else k }
    let u := { s with ckpt.run := some q }
    execPutDone i s = .next (if i = 0xFFFFFFFF then ckptComplete u q
      else ckptAdvance (ckptPump (setPhase u r.generation 1 (countBy (·.done) q.shards) (sumBy (·.bytes) (q.shards.filter (·.done)))))) := by
  unfold execPutDone
  rw [hr]
  dsimp only
  rw [hd]

/-- A manifest its gateway failed is put again (log entry 115). -/
theorem putFail_manifest {s : State} {r : CkptRun} {d : Shd} (hr : s.ckpt.run = some r)
    (hd : r.shards.find? (fun d => d.idx == 0xFFFFFFFF && d.sent && !d.done) = some d) :
    execPutFail 0xFFFFFFFF s = .next (sendManifest { s with ckpt.putRetry := ctrAdd s.ckpt.putRetry 1 } (d.gw :: d.tried)) := by
  unfold execPutFail putAgain
  rw [hr]
  dsimp only
  rw [hd]
  exact congrArg Host.Outcome.next (if_pos rfl)

/-- The gateways listed, in the order in which a shard that `gw` failed tries them (R358). -/
def gatewaysAfter (r : CkptRun) (gw : Nat) : List Nat :=
  r.gateways.drop ((r.gateways.takeWhile (· != gw)).length + 1) ++ r.gateways.take (r.gateways.takeWhile (· != gw)).length

/-- A shard its gateway failed: the next gateway that has not takes it, and with none left the checkpoint fails. -/
theorem putFail_shard {s : State} {i : Nat} {r : CkptRun} {d : Shd} (hr : s.ckpt.run = some r)
    (hd : r.shards.find? (fun d => d.idx == i && d.sent && !d.done) = some d) (hi : i ≠ 0xFFFFFFFF) :
    execPutFail i s = .next (match (gatewaysAfter r d.gw).find? fun g => !(d.gw :: d.tried).contains g with
      | none => ckptFail s
      | some g => sendMsg { s with
          ckpt.putRetry := ctrAdd s.ckpt.putRetry 1
          ckpt.run := some { r with shards := r.shards.map fun k => if k.idx = i then { k with gw := g, tried := d.gw :: d.tried } else k } }
          g 5 d.slice 8 0 false (.put d.idx d.bytes)) := by
  unfold execPutFail putAgain
  rw [hr]
  dsimp only
  rw [hd]
  exact congrArg Host.Outcome.next (if_neg hi)

/-- Settles O46: one rule for each way a fetch or a put ends. -/
theorem fetchesAndPuts : Obligations.FetchesAndPuts := by
  unfold Obligations.FetchesAndPuts
  refine ⟨fun s seq j o hs hj ho => ⟨fun k r hk => (objectFetchDone_found r hs hj ho).1 k hk, fun hk => ⟨?_, fun bs => ⟨fun hok => ?_,
      fun hbad => ?_⟩⟩⟩, fun s seq hn r => objectFetchDone_none r hn,
    fun s i r hr => ⟨fun hn => ?_, fun d hd => ⟨putDone_out hr hd, (ckptComplete_ckpt _ _).1, (ckptComplete_ckpt _ _).2, fun hi => ?_,
      fun hi => ⟨fun hnone => ?_, fun g hsome => ?_⟩⟩⟩, fun s i hr => put_notOut (by simp [hr])⟩
  · exact (objectFetchDone_found none hs hj ho).2 hk
  · rw [exec_objectFetchDone, (objectFetchDone_found (some bs) hs hj ho).2 hk]
    exact congrArg Host.Outcome.next (if_pos hok)
  · rw [exec_objectFetchDone, (objectFetchDone_found (some bs) hs hj ho).2 hk]
    exact congrArg Host.Outcome.next (if_neg (by simp [hbad]))
  · exact put_notOut fun k hk => by
      rw [hr] at hk
      cases hk
      exact hn
  · subst hi
    exact putFail_manifest hr hd
  · rw [exec_putFail, putFail_shard hr hd hi, show (gatewaysAfter r d.gw).find? _ = none from hnone]
  · rw [exec_putFail, putFail_shard hr hd hi, show (gatewaysAfter r d.gw).find? _ = some g from hsome]

end Sys2Proof.Machine
end

section
/-! PROOF. Copies and fences (O40). -/
namespace Sys2Proof.Machine

/-! ### What is asked of a copy whose fence is to come (R98) -/

theorem copyComplete_notAhead {s : State} {die tile copy : Nat} (cycle : Nat) (hn : fenceAhead s die tile copy = none) :
    execCopyComplete die tile copy cycle s = .next s := by
  unfold execCopyComplete
  rw [hn]

theorem fenceCheck_notAhead {s : State} {die tile copy : Nat} (hn : fenceAhead s die tile copy = none) :
    execFenceCheck die tile copy s = .next s := by
  unfold execFenceCheck
  rw [hn]

theorem copyComplete_ahead {s : State} {die tile copy i : Nat} {e : Entry} {c : CopyEnt} (cycle : Nat)
    (ha : fenceAhead s die tile copy = some (i, e, c)) :
    (copyNoted s i copy = none → execCopyComplete die tile copy cycle s = .next (modHead s i fun x => { x with
      copies := x.copies ++ [{ idx := copy, fence := c.fence, complete := true, missedAt := none }] })) ∧
    (∀ k, copyNoted s i copy = some k → execCopyComplete die tile copy cycle s =
      .next (if k.complete then s else stallEnds s die i copy cycle e k)) := by
  unfold execCopyComplete
  rw [ha]
  refine ⟨fun hk => ?_, fun k hk => ?_⟩
  all_goals
    dsimp only
    rw [hk]

theorem fenceCheck_ahead {s : State} {die tile copy i : Nat} {e : Entry} {c : CopyEnt}
    (ha : fenceAhead s die tile copy = some (i, e, c)) :
    (copyNoted s i copy = none → execFenceCheck die tile copy s = .next (fenceMissed s die i copy e c)) ∧
    (∀ k, copyNoted s i copy = some k → execFenceCheck die tile copy s = .next (if k.complete ∧ k.missedAt = none then
      modHead s i fun x => { x with copies := x.copies.filter fun k => k.idx != copy } else s)) := by
  unfold execFenceCheck
  rw [ha]
  refine ⟨fun hk => ?_, fun k hk => ?_⟩
  all_goals
    dsimp only
    rw [hk]

/-! ### A late copy is noted, and its stall ends (R98) -/

/-- A missed fence is noted at the group's head and counted at the die; of the rest only the share classes may differ. -/
theorem fenceMissed_eq (s : State) (die i copy : Nat) (e : Entry) (c : CopyEnt) :
    fenceMissed s die i copy e c =
      { modDie (modHead s i fun x => { x with
          copies := x.copies ++ [{ idx := copy, fence := c.fence, complete := false, missedAt := some (arithAt s (grpAt s i) e c.fence) }] })
          die fun d => { d with copyLate := ctrAdd d.copyLate 1 } with
        mash.classes := (fenceMissed s die i copy e c).mash.classes } := by
  unfold fenceMissed
  dsimp only
  split <;> rfl

/-- A stall from cycle `m` that ends at `cycle`: the group and the copy's note take its cycles, the die counts them; of the
rest only the items differ. -/
theorem stallEnds_eq {s : State} {die i copy cycle m : Nat} {e : Entry} {k : OpenCopy} (hm : k.missedAt = some m) :
    stallEnds s die i copy cycle e k =
      { modDie (modHead (modGrp s i fun x => { x with stall := x.stall + (cycle - m) }) i fun x => { x with
          copies := x.copies.map fun q =>
            if q.idx = copy then { q with complete := true, missedAt := some (cycle - max m s.mash.arith) } else q })
          die fun d => { d with copyStall := ctrAdd d.copyStall (cycle - m) } with
        mash.items := (stallEnds s die i copy cycle e k).mash.items } := by
  unfold stallEnds
  rw [hm]
  rfl

/-! ### A copy that is never complete (R99, R346) -/

theorem copyAbandon_missed {s : State} {die tile copy i m : Nat} {k : OpenCopy} (hr : running s = true)
    (hi : grpIdx s die tile = some i) (hk : copyNoted s i copy = some k) (hc : k.complete = false) (hm : k.missedAt = some m) :
    execCopyAbandon die tile copy s = .next (if s.mash.arith + 16384 ≤ m + 1048576 then s
      else (grpTiles (grpAt s i)).foldl askSelfTest (abandonChain s i)) := by
  have hrest : Config.restLen = 16384 := rfl
  have hlimit : Config.abandonCycles = 1048576 := rfl
  unfold execCopyAbandon
  rw [hi]
  dsimp only
  rw [hk]
  dsimp only
  rw [if_neg (by simp [hc, hm]), hm, hr, hrest, hlimit]
  simp only [Bool.true_eq_false, false_or, Option.getD_some]

/-- Settles O40: each copy instruction goes by what is noted of the copy (`copyComplete_ahead`, `fenceCheck_ahead`,
`copyAbandon_missed`), and a missed fence and an ended stall change what `fenceMissed_eq` and `stallEnds_eq` name. -/
theorem copiesAndFences : Obligations.CopiesAndFences := by
  unfold Obligations.CopiesAndFences
  refine ⟨fun s die tile copy cycle hn => ⟨copyComplete_notAhead cycle hn, fenceCheck_notAhead hn⟩,
    fun s die tile copy i e c ha => ⟨fun hk => ?unnoted, fun k hk hc => ?complete, fun k m cycle hk hc hm => ?late⟩,
    fun s die tile copy i k m hr hi hk hc hm => ?abandon⟩
  case unnoted =>
    refine ⟨fun cycle => (copyComplete_ahead cycle ha).1 hk, _, (fenceCheck_ahead ha).1 hk, ?_, ?_, ?_⟩
    all_goals
      rw [fenceMissed_eq]
      rfl
  case complete =>
    refine ⟨fun cycle => ?_, ?_⟩
    · rw [exec_copyComplete, (copyComplete_ahead cycle ha).2 k hk, if_pos hc]
    · rw [exec_fenceCheck, (fenceCheck_ahead ha).2 k hk]
      simp only [hc, true_and]
  case late =>
    have hopen : ¬k.complete = true := by simp [hc]
    refine ⟨?_, stallEnds s die i copy cycle e k, ?_, ?_, ?_, ?_⟩
    · rw [exec_fenceCheck, (fenceCheck_ahead ha).2 k hk, if_neg fun h => hopen h.1]
    · rw [exec_copyComplete, (copyComplete_ahead cycle ha).2 k hk, if_neg hopen]
    all_goals
      rw [stallEnds_eq hm]
      rfl
  case abandon =>
    rw [exec_copyAbandon, copyAbandon_missed hr hi hk hc hm]
    simp only [← Nat.not_le, ite_not]

end Sys2Proof.Machine
end

section
/-! PROOF. The boundary that begins rest 0 (O59): every balance is refilled once, by the budget and the balance of the cycle
that ended (R125, R126). -/
namespace Sys2Proof.Machine

/-! ### The triples that keep a balance -/

theorem balTriples_eq_product : balTriples = List.range 16 ×ˢ (List.range' 1 12 ×ˢ List.range 4) := by decide +kernel

theorem mem_balTriples {k : Nat × Nat × Nat} : k ∈ balTriples ↔ k.1 < 16 ∧ (1 ≤ k.2.1 ∧ k.2.1 < 13) ∧ k.2.2 < 4 := by
  rw [balTriples_eq_product, List.mem_product, List.mem_product, List.mem_range, List.mem_range'_1, List.mem_range]

theorem balTriples_nodup : balTriples.Nodup := by
  rw [balTriples_eq_product]
  exact List.nodup_range.product (List.Nodup.product List.nodup_range' List.nodup_range)

/-- Two triples of the list have two keys. -/
theorem balKey_ne {j k : Nat × Nat × Nat} (hj : j ∈ balTriples) (hk : k ∈ balTriples) (hne : j ≠ k) :
    balKey j.1 j.2.1 j.2.2 ≠ balKey k.1 k.2.1 k.2.2 := by
  obtain ⟨sl, act, cur⟩ := j
  obtain ⟨sl', act', cur'⟩ := k
  rw [mem_balTriples] at hj hk
  simp only [ne_eq, Prod.mk.injEq] at hj hk hne
  unfold balKey
  dsimp only
  omega

theorem balOf_setBal_self (s : State) (sl act cur : Nat) (b : Balance) : balOf (setBal s sl act cur b) sl act cur = b := by
  simp [balOf, setBal, tdef, tget_tput_self]

theorem balOf_setBal_ne {s : State} {sl act cur sl' act' cur' : Nat} (b : Balance)
    (hne : balKey sl' act' cur' ≠ balKey sl act cur) : balOf (setBal s sl act cur b) sl' act' cur' = balOf s sl' act' cur' := by
  simp [balOf, setBal, tdef, tget_tput_ne _ _ hne]

/-! ### What changes balances and nothing else -/

/-- `t` is `s` with other balances. -/
def OnlyBalances (s t : State) : Prop := ∃ b, t = { s with mash.balances := b }

theorem OnlyBalances.refl (s : State) : OnlyBalances s s := ⟨_, rfl⟩

theorem OnlyBalances.trans {s t u : State} (hst : OnlyBalances s t) (htu : OnlyBalances t u) : OnlyBalances s u := by
  obtain ⟨b, rfl⟩ := hst
  obtain ⟨c, rfl⟩ := htu
  exact ⟨c, rfl⟩

theorem OnlyBalances.foldl {α : Type} {f : State → α → State} (hf : ∀ s a, OnlyBalances s (f s a)) (l : List α) (s : State) :
    OnlyBalances s (l.foldl f s) :=
  List.foldlRecOn l f (OnlyBalances.refl s) fun t ht a _ => ht.trans (hf t a)

theorem OnlyBalances.budgetOf {s t : State} (h : OnlyBalances s t) (sl act : Nat) : budgetOf t sl act = budgetOf s sl act := by
  obtain ⟨b, rfl⟩ := h
  rfl

theorem setBal_onlyBalances (s : State) (sl act cur : Nat) (b : Balance) : OnlyBalances s (setBal s sl act cur b) := ⟨_, rfl⟩

theorem charge_onlyBalances (s : State) (sl act cur n : Nat) : OnlyBalances s (charge s sl act cur n) := by
  unfold charge
  split
  · exact .refl s
  · split
    · exact .refl s
    · exact setBal_onlyBalances _ _ _ _ _

/-- Charges made ahead fall to the cycle that begins: beside the balances, only their list changes (R126). -/
theorem payAhead_onlyBalances (s : State) : OnlyBalances { s with mash.ahead := [] } (payAhead s) := by
  unfold payAhead
  split
  next hnone => exact ⟨s.mash.balances, by rw [← hnone]⟩
  next => exact .foldl (fun t k => charge_onlyBalances t _ _ _ _) _ _

theorem payAhead_none {s : State} (hnone : s.mash.ahead = []) : payAhead s = s := by
  unfold payAhead
  exact if_pos hnone

/-! ### The refill (R125) -/

/-- The refill of one triple, the step of `refillBal`. -/
def refillOne (s : State) (k : Nat × Nat × Nat) : State :=
  match budgetCur (budgetOf s k.1 k.2.1) k.2.2 with
  | none => s
  | some m =>
    if m = 0 ∧ thas s.mash.balances (balKey k.1 k.2.1 k.2.2) = false then s
    else setBal s k.1 k.2.1 k.2.2 { balOf s k.1 k.2.1 k.2.2 with bal := min (m : Int) ((balOf s k.1 k.2.1 k.2.2).bal + m) }

theorem refillBal_eq_foldl (s : State) : refillBal s = balTriples.foldl refillOne s := rfl

theorem refillOne_onlyBalances (s : State) (k : Nat × Nat × Nat) : OnlyBalances s (refillOne s k) := by
  unfold refillOne
  split
  · exact .refl s
  · split
    · exact .refl s
    · exact setBal_onlyBalances _ _ _ _ _

/-- A budget of 0 leaves a triple that has no entry without one, which reads as the balance 0. -/
theorem balOf_refillOne_self {s : State} {k : Nat × Nat × Nat} {m : Nat}
    (hm : budgetCur (budgetOf s k.1 k.2.1) k.2.2 = some m) :
    (balOf (refillOne s k) k.1 k.2.1 k.2.2).bal = min (m : Int) ((balOf s k.1 k.2.1 k.2.2).bal + m) := by
  unfold refillOne
  rw [hm]
  dsimp only
  split
  next hzero =>
    obtain ⟨rfl, hno⟩ := hzero
    have hbal : (balOf s k.1 k.2.1 k.2.2).bal = 0 := by
      unfold balOf tdef
      rw [Option.isSome_eq_false_iff.mp hno |> Option.isNone_iff_eq_none.mp]
      rfl
    rw [hbal]
    rfl
  next => rw [balOf_setBal_self]

theorem balOf_refillOne_ne {s : State} {j k : Nat × Nat × Nat} (hj : j ∈ balTriples) (hk : k ∈ balTriples) (hne : k ≠ j) :
    balOf (refillOne s j) k.1 k.2.1 k.2.2 = balOf s k.1 k.2.1 k.2.2 := by
  unfold refillOne
  split
  · rfl
  · split
    · rfl
    · exact balOf_setBal_ne _ (balKey_ne hk hj hne)

theorem balOf_foldl_refillOne {l : List (Nat × Nat × Nat)} {k : Nat × Nat × Nat} (hl : l ⊆ balTriples) (hk : k ∈ balTriples)
    (hnot : k ∉ l) (s : State) : balOf (l.foldl refillOne s) k.1 k.2.1 k.2.2 = balOf s k.1 k.2.1 k.2.2 :=
  List.foldlRecOn (motive := fun t => balOf t k.1 k.2.1 k.2.2 = balOf s k.1 k.2.1 k.2.2) l refillOne rfl
    fun _ ht _ hj => (balOf_refillOne_ne (hl hj) hk fun heq => hnot (heq ▸ hj)).trans ht

/-- The refill reaches every triple once: before its turn and after it, its balance stays. -/
theorem balOf_refillBal {s : State} {k : Nat × Nat × Nat} {m : Nat} (hk : k ∈ balTriples)
    (hm : budgetCur (budgetOf s k.1 k.2.1) k.2.2 = some m) :
    (balOf (refillBal s) k.1 k.2.1 k.2.2).bal = min (m : Int) ((balOf s k.1 k.2.1 k.2.2).bal + m) := by
  obtain ⟨before, after, hsplit⟩ := List.append_of_mem hk
  have hnodup := balTriples_nodup
  rw [hsplit, List.nodup_middle, List.nodup_cons, List.mem_append, not_or] at hnodup
  obtain ⟨⟨hbefore, hafter⟩, -⟩ := hnodup
  have hsub : before ⊆ balTriples ∧ after ⊆ balTriples := by
    rw [hsplit]
    exact ⟨List.subset_append_left _ _, List.subset_append_of_subset_right _ (List.subset_cons_self _ _)⟩
  have hbudget := (OnlyBalances.foldl refillOne_onlyBalances before s).budgetOf k.1 k.2.1
  rw [refillBal_eq_foldl, hsplit, List.foldl_append, List.foldl_cons, balOf_foldl_refillOne hsub.2 hk hafter,
    balOf_refillOne_self (by rw [hbudget, hm]), balOf_foldl_refillOne hsub.1 hk hbefore]

/-! ### The cycle that begins -/

/-- `t` is `s` with other ports, events and share classes. -/
def OnlyWindows (s t : State) : Prop := ∃ g c, t = { s with gl := g, mash.classes := c }

theorem OnlyWindows.refl (s : State) : OnlyWindows s s := ⟨_, _, rfl⟩

theorem OnlyWindows.modClass {s t : State} (h : OnlyWindows s t) (c : Nat) (f : ShareClass → ShareClass) :
    OnlyWindows s (modClass t c f) := by
  obtain ⟨g, l, rfl⟩ := h
  exact ⟨_, _, rfl⟩

theorem OnlyWindows.raiseSlow {s t : State} (h : OnlyWindows s t) (c : Nat) (k : ShareClass) (reason slow : Nat)
    (causes : List Nat) : OnlyWindows s (raiseSlow t c k reason slow causes) := by
  obtain ⟨g, l, rfl⟩ := h
  unfold Machine.raiseSlow
  rw [raise_frame]
  exact ⟨_, _, rfl⟩

theorem OnlyWindows.ite {s t u : State} {p : Prop} [Decidable p] (ht : OnlyWindows s t) (hu : OnlyWindows s u) :
    OnlyWindows s (if p then t else u) := by
  split
  · exact ht
  · exact hu

theorem endWindows_onlyWindows (s : State) : OnlyWindows s (endWindows s) := by
  unfold endWindows
  refine List.foldlRecOn _ _ (.refl s) fun t ht p _ => ?_
  refine .ite ?_ (.ite (.modClass ?_ _ _)
    (.ite (.raiseSlow (.modClass (.modClass ?_ _ _) _ _) _ _ _ _ _) (.modClass (.modClass ?_ _ _) _ _)))
  all_goals exact .modClass (.ite (.raiseSlow ht _ _ _ _ _) ht) _ _

theorem tget_map {α : Type} (t : Tab α) (f : α → α) (k : Nat) : tget (t.map fun p => (p.1, f p.2)) k = (tget t k).map f := by
  induction t with
  | nil => rfl
  | cons p t ih =>
    simp only [List.map_cons, tget, ih]
    split <;> rfl

/-- A balance without its mark of the cycle (R129). -/
def unmarked (b : Balance) : Balance := { b with heldNow := false }

/-- What the boundary that begins rest 0 does before the refill leaves the table, the slices, the charges made ahead, and of
every balance all but its mark of R129. -/
theorem beginCycle_keeps (s : State) :
    (beginCycle s).mash.table = s.mash.table ∧ (beginCycle s).fab.slices = s.fab.slices ∧
    (beginCycle s).mash.ahead = s.mash.ahead ∧
    (beginCycle s).mash.balances = s.mash.balances.map fun p => (p.1, unmarked p.2) := by
  obtain ⟨g, c, hwin⟩ := endWindows_onlyWindows (countNoGroup s)
  unfold beginCycle
  rw [hwin]
  exact ⟨rfl, rfl, rfl, rfl⟩

/-- The state that is refilled: the cycle has begun and its rest is 0. -/
def cycleBegun (s : State) : State := { beginCycle s with mash.rest := 0 }

theorem budgetOf_cycleBegun (s : State) (sl act : Nat) : budgetOf (cycleBegun s) sl act = budgetOf s sl act := by
  obtain ⟨htable, hslices, -, -⟩ := beginCycle_keeps s
  unfold budgetOf sliceDefined cycleBegun
  dsimp only
  rw [htable, hslices]

theorem bal_cycleBegun (s : State) (sl act cur : Nat) : (balOf (cycleBegun s) sl act cur).bal = (balOf s sl act cur).bal := by
  obtain ⟨-, -, -, hbal⟩ := beginCycle_keeps s
  unfold balOf tdef cycleBegun
  dsimp only
  rw [hbal, tget_map]
  cases tget s.mash.balances (balKey sl act cur) <;> rfl

/-- Without a pending table, the rest after the last of the table begins a cycle (R122, R125). -/
theorem nextRest_cycle {s : State} (hpend : s.mash.pendingTab = none) (hlast : s.mash.table.restCount ≤ s.mash.rest + 1) :
    nextRest s = payAhead (refillBal (cycleBegun s)) := by
  unfold nextRest
  rw [hpend]
  exact if_pos hlast

/-- Without a pending table, a rest that is not the last of the table is followed by the next (R115, R122). -/
theorem nextRest_next {s : State} (hpend : s.mash.pendingTab = none) (hmore : s.mash.rest + 1 < s.mash.table.restCount) :
    nextRest s = { s with mash.rest := s.mash.rest + 1 } := by
  unfold nextRest
  rw [hpend]
  exact if_neg (by omega)

/-- Settles O59: the new cycle's state (`nextRest_cycle`) has the budgets and balances of the old one, each is refilled once
(`balOf_refillBal`), and what was charged ahead changes no more than balances (`payAhead_onlyBalances`). -/
theorem balancesRefilled : Obligations.BalancesRefilled := by
  unfold Obligations.BalancesRefilled
  refine ⟨fun s hpend hlast => ?_, fun b => ⟨rfl, rfl, rfl, rfl⟩⟩
  have hnext := nextRest_cycle hpend hlast
  obtain ⟨bals, hrefill⟩ := OnlyBalances.foldl refillOne_onlyBalances balTriples (cycleBegun s)
  rw [← refillBal_eq_foldl] at hrefill
  refine ⟨hnext, ?rest, fun hahead => ?unpaid, fun sl act cur m hsl hact hact' hcur hm => ?balance⟩
  case rest =>
    obtain ⟨paid, hpaid⟩ := payAhead_onlyBalances (refillBal (cycleBegun s))
    rw [hnext, hpaid, hrefill]
    rfl
  case unpaid =>
    obtain ⟨-, -, hkept, -⟩ := beginCycle_keeps s
    rw [hnext]
    exact payAhead_none (by rw [hrefill]; exact hkept.trans hahead)
  case balance =>
    rw [← bal_cycleBegun s]
    rw [← budgetOf_cycleBegun s] at hm
    exact balOf_refillBal (k := (sl, act, cur)) (mem_balTriples.mpr ⟨hsl, ⟨hact, Nat.lt_succ_of_le hact'⟩, hcur⟩) hm

end Sys2Proof.Machine
end

section
/-! PROOF. Share classes, shapers and gate lists set by commands (O27), and the rest boundary and the gate lists' own events
(O39). -/
namespace Sys2Proof.Machine

/-! ### Parameters that pass -/

theorem shareParams_clear {c weight rt : Nat} (hc : c < 4096) (hlow : 1 ≤ weight) (hhigh : weight ≤ 1048576) (hrt : rt ≤ 1024) :
    Clear [(decide (c ≥ 4096), 24), (decide (weight = 0 ∨ weight > 1048576), 28), (decide (rt > 1024), 32)] := by
  simp only [Clear, List.forall_mem_cons, List.not_mem_nil, false_imp_iff, implies_true, and_true, decide_eq_false_iff_not]
  omega

/-- A shaper is removed with rate and burst 0, or has both in range (R138). -/
theorem shaperParams_clear {tenant k rate burst : Nat} (htenant : tenant ≠ 0) (hk : k ≤ 1)
    (hrange : rate = 0 ∧ burst = 0 ∨ (1000000 ≤ rate ∧ rate ≤ 2000000000000) ∧ 65536 ≤ burst ∧ burst ≤ 2 ^ 40) :
    Clear [(tenant == 0, 24), (decide (k > 1), 26),
      (decide (¬(rate = 0 ∧ burst = 0) ∧ (rate < 1000000 ∨ 2000000000000 < rate)), 32),
      (decide (¬(rate = 0 ∧ burst = 0) ∧ (burst < 65536 ∨ 2 ^ 40 < burst)), 40)] := by
  simp only [Clear, List.forall_mem_cons, List.not_mem_nil, false_imp_iff, implies_true, and_true, decide_eq_false_iff_not,
    beq_eq_false_iff_ne]
  omega

/-- A gate list passes if every class it opens has its window and no entry is of duration 0 (R140). -/
theorem gateParams_clear {port count : Nat} {es : List (Nat × Nat)} (hport : port ≤ 7) (hcount : count ≤ 256)
    (hwide : ∀ c, c < 7 → tooNarrow es c = false) (hdur : ∀ e ∈ es, e.1 ≠ 0) :
    Clear ([(decide (port > 7), 24), (decide (count > 256), 26), ((List.range 7).any (tooNarrow es), 40)] ++
      (List.range es.length).map fun i => (decide ((lget es i (1, 0)).1 = 0), 40 + 8 * i)) := by
  intro p hp
  rcases List.mem_append.mp hp with hfixed | hentry
  · simp only [List.mem_cons, List.not_mem_nil, or_false] at hfixed
    rcases hfixed with rfl | rfl | rfl
    · simpa using hport
    · simpa using hcount
    · simpa using hwide
  · obtain ⟨i, hi, rfl⟩ := List.mem_map.mp hentry
    rw [List.mem_range] at hi
    have hget : lget es i (1, 0) = es[i] := by simp [lget, hi]
    simpa [hget] using hdur _ (List.getElem_mem hi)

/-! ### The commands (R131, R138, R48) -/

/-- Settles O27: each command's parameters pass, so its reply is that of the branch its state takes (`sync_final`). -/
theorem schedulerTables : Obligations.SchedulerTables := by
  unfold Obligations.SchedulerTables
  rintro s v h rfl
  refine ⟨fun c tenant weight rt hready hc hlow hhigh hrt => congrArg Host.Outcome.next ?share,
    fun tenant k rate burst hready htenant hk hrate hrate' hburst hburst' => ?shaper,
    fun tenant k hready htenant hk => congrArg Host.Outcome.next ?removal,
    fun port count at_ es hready hport hcount hwide hdur => congrArg Host.Outcome.next ?gates⟩
  case share =>
    have hclear := shareParams_clear hc hlow hhigh hrt
    refine Eq.symm (ite_eq_iff'.mpr ⟨fun hused => Eq.symm ?_, fun hfree => Eq.symm ?_⟩)
    · exact sync_final (hready.fit rfl) hclear (if_pos hused) rfl
    · exact sync_final (hready.fit rfl) hclear (if_neg hfree) rfl
  case shaper =>
    have hclear := shaperParams_clear htenant hk (.inr ⟨⟨hrate, hrate'⟩, hburst, hburst'⟩)
    have hon : rate ≠ 0 := by omega
    refine ⟨fun hnone => congrArg Host.Outcome.next (sync_final (hready.fit rfl) hclear ?_ rfl),
      fun b hsome => congrArg Host.Outcome.next (sync_final (hready.fit rfl) hclear ?_ rfl)⟩
    · simp only [hon, hnone, if_false]
    · simp only [hon, hsome, if_false]
  case removal =>
    exact sync_final (hready.fit rfl) (shaperParams_clear htenant hk (.inl ⟨rfl, rfl⟩)) (if_pos rfl) rfl
  case gates =>
    have hclear := gateParams_clear hport hcount hwide hdur
    split
    next hlate => exact sync_final (hready.fit rfl) hclear (if_pos hlate) rfl
    next htime => exact sync_final (hready.fit rfl) hclear (if_neg htime) rfl

/-! ### The rest boundary (R115, R138) -/

/-- A bucket after a rest: it gained the bytes of its rate, up to its burst (R138). -/
def shaperAfterRest (b : Shaper) : Shaper :=
  { b with
    tokens := min b.burst (b.tokens + (b.rate * 16384 + b.frac) / 3000000000)
    frac := (b.rate * 16384 + b.frac) % 3000000000 }

/-- The refill keeps the buckets that are not marked for removal. -/
theorem mem_refillShapers {s : State} {q : Nat × Shaper} : q ∈ (refillShapers s).mash.shapers ↔
    ∃ p ∈ s.mash.shapers, p.2.removing = false ∧ q = (p.1, shaperAfterRest p.2) := by
  have hlen : Config.restLen = 16384 := rfl
  simp only [refillShapers, List.mem_filterMap, hlen]
  refine exists_congr fun p => and_congr_right fun _ => ?_
  by_cases hmark : p.2.removing = true
  · simp [hmark]
  · rw [if_neg hmark, Option.some.injEq, Bool.eq_false_iff, and_iff_right hmark]
    exact eq_comm

theorem restBoundary_idle {s : State} (hidle : (serving s && running s) = false) : execRestBoundary s = .next s := by
  unfold execRestBoundary
  rw [if_neg (by simp [hidle])]

theorem restBoundary_serving {s : State} (hserve : (serving s && running s) = true) :
    execRestBoundary s = .next (workBoundary (sealRest (refillShapers (nextRest (stepHold (endRest s)))))) := by
  unfold execRestBoundary mashBoundary
  rw [if_pos hserve]

/-! ### Gate lists (R140, R141) -/

theorem gateListActivate_none {s : State} {p : Nat} (hnone : (lget s.mash.gates p default).pending = none) :
    execGateListActivate p s = .next s := by
  unfold execGateListActivate
  rw [hnone]

theorem gateEntryAdvance_none {s : State} {p : Nat} (hnone : (lget s.mash.gates p default).active = none) :
    execGateEntryAdvance p s = .next s := by
  unfold execGateEntryAdvance
  rw [hnone]

/-- A pending list takes over at its time with entry 0 (R141). -/
theorem gateListActivate_pending {s : State} {p : Nat} {g : GateList} (hrun : running s = true)
    (hpend : (lget s.mash.gates p default).pending = some g) :
    execGateListActivate p s = .next (gateRelease { advanceTo s g.activateAt with
      mash.gates := lmod s.mash.gates p fun x =>
        { x with active := if g.entries = [] then none else some g.entries, entry := 0, entrySince := g.activateAt
                 pending := none } } p) := by
  unfold execGateListActivate
  rw [hpend]
  dsimp only
  rw [if_neg (by simp [hrun])]
  rfl

/-- The time at which the current entry of a port's list `l` ends (R140). -/
def gateEntryEnds (s : State) (p : Nat) (l : List (Nat × Nat)) : Nat :=
  (lget s.mash.gates p default).entrySince + localOfFab s (lget l (lget s.mash.gates p default).entry (0, 0)).1

/-- The current entry ends after its duration, and the next one begins, entry 0 after the last (R140). -/
theorem gateEntryAdvance_active {s : State} {p : Nat} {l : List (Nat × Nat)} (hrun : running s = true)
    (hactive : (lget s.mash.gates p default).active = some l) :
    execGateEntryAdvance p s = .next (gateRelease { advanceTo s (gateEntryEnds s p l) with
      mash.gates := lmod s.mash.gates p fun x =>
        { x with entry := (x.entry + 1) % max 1 l.length, entrySince := gateEntryEnds s p l } } p) := by
  unfold execGateEntryAdvance
  rw [hactive]
  dsimp only
  rw [if_neg (by simp [hrun])]
  rfl

/-- Settles O39: the boundary's parts in their order (`restBoundary_serving`), the next rest of the table (`nextRest_next`),
the buckets that are refilled (`mem_refillShapers`), and the two events of a gate list. -/
theorem restsAndGates : Obligations.RestsAndGates := by
  unfold Obligations.RestsAndGates
  refine ⟨fun s => ⟨fun hidle => ?idle, fun hserve => ⟨?serving, rfl, nextRest_next, ?gains, ?kept⟩⟩,
    fun s p hrun => ⟨fun g hpend => ?takesOver, fun l hactive => ?advances, fun hnone => ?noPending, fun hnone => ?noActive⟩⟩
  case idle => rw [exec_restBoundary, restBoundary_idle hidle]
  case serving => rw [exec_restBoundary, restBoundary_serving hserve]
  case gains => exact fun p hp hstays => mem_refillShapers.mpr ⟨p, hp, hstays, rfl⟩
  case kept =>
    intro p hp
    obtain ⟨q, hq, hstays, rfl⟩ := mem_refillShapers.mp hp
    exact ⟨q, hq, rfl, hstays⟩
  case takesOver =>
    rw [exec_gateListActivate, gateListActivate_pending hrun hpend]
    rfl
  case advances =>
    rw [exec_gateEntryAdvance, gateEntryAdvance_active hrun hactive]
    rfl
  case noPending => rw [exec_gateListActivate, gateListActivate_none hnone]
  case noActive => rw [exec_gateEntryAdvance, gateEntryAdvance_none hnone]

end Sys2Proof.Machine
end

section
/-! PROOF. Service classes (O26): a parameter out of range refuses the packet, and a class written is the only one that
changes (R148). -/
namespace Sys2Proof.Machine

/-! ### A parameter out of range (R38, R55) -/

/-- A parameter out of range is reported at its offset or a lower one. -/
theorem badAtOf_le_param {params : List (Bool × Nat)} {o : Nat} (h : Hdr) (hm : (true, o) ∈ params) :
    ∃ d, badAtOf h params = some d ∧ d ≤ o :=
  minBy_id_le (List.mem_append_left _ (List.mem_map.mpr ⟨_, List.mem_filter.mpr ⟨hm, rfl⟩, rfl⟩))

/-- A synchronous command of which some parameter is out of range is refused BAD_PARAM. -/
theorem sync_badParam {s : State} {h : Hdr} {c : Cmd} {e : Nat} {params : State → List (Bool × Nat)}
    (run : State → State × Ans) (f : Fit s h c e) (hbad : ¬Clear (params (takeFromBuffer s h))) :
    ∃ d, Refused s (syncCmd s h c e params run) h c.code stBadParam d := by
  obtain ⟨o, ho⟩ : ∃ o, (true, o) ∈ params (takeFromBuffer s h) := by simpa [Clear] using hbad
  obtain ⟨d, hd, -⟩ := badAtOf_le_param h ho
  refine ⟨d, ?_⟩
  unfold syncCmd
  rw [admit_badAt params _ f.up f.fresh f.early hd]
  exact refuse_refused c.code _ d (takeFromBuffer_eq s h) (by rw [portUp_take, f.up]) (.inl rfl)

/-! ### SERVICE_CLASS_SET (R148) -/

/-- The parameters of SERVICE_CLASS_SET with their offsets. -/
def serviceParams (flags page dwell ttl slots : Nat) : List (Bool × Nat) :=
  [(decide (flags ≥ 4), 25), (decide (page < 4 ∨ 11 < page), 26),
   (decide ((dwell < 1 ∨ 3600000 < dwell) ∧ dwell ≠ 0xFFFFFFFF), 28), (decide (ttl < 1 ∨ 2592000 < ttl), 32),
   (!([0, 64, 128, 256, 512, 1024].contains slots), 36)]

/-- They pass exactly in their ranges. -/
theorem serviceParams_clear_iff {flags page dwell ttl slots : Nat} : Clear (serviceParams flags page dwell ttl slots) ↔
    flags < 4 ∧ 4 ≤ page ∧ page ≤ 11 ∧ ((1 ≤ dwell ∧ dwell ≤ 3600000) ∨ dwell = 0xFFFFFFFF) ∧ 1 ≤ ttl ∧ ttl ≤ 2592000 ∧
      slots ∈ [0, 64, 128, 256, 512, 1024] := by
  simp only [serviceParams, clear_cons, clear_nil, and_true, decide_eq_false_iff_not, Bool.not_eq_false', List.contains_iff_mem]
  by_cases hlisted : slots ∈ [0, 64, 128, 256, 512, 1024]
  · simp only [hlisted, and_true]
    omega
  · simp only [hlisted, and_false]

/-- `v` with one service class written. -/
def withClass (v : State) (cls : Nat) (c : ServiceClass) : State := { v with cellar.classes := tput v.cellar.classes cls c }

theorem serviceOf_withClass_self (v : State) (cls : Nat) (c : ServiceClass) : serviceOf (withClass v cls c) cls = c := by
  simp [serviceOf, withClass, tdef, tget_tput_self]

theorem serviceOf_withClass_ne {k cls : Nat} (v : State) (c : ServiceClass) (hne : k ≠ cls) :
    serviceOf (withClass v cls c) k = serviceOf v k := by
  simp [serviceOf, withClass, tdef, tget_tput_ne _ _ hne]

/-- Settles O26: in their ranges the parameters pass and one class is written (`serviceOf_withClass_self`), otherwise the
packet is refused (`sync_badParam`); a cold reset leaves no class set. -/
theorem serviceClassWritten : Obligations.ServiceClassWritten := by
  unfold Obligations.ServiceClassWritten
  refine ⟨?_, fun s cause k => rfl⟩
  rintro s v h cls flags page dwell ttl slots hready rfl
  dsimp only
  rw [← serviceParams_clear_iff]
  refine ⟨fun hclear => ?written, fun hbad => ?refused⟩
  case written =>
    exact ⟨_, congrArg Host.Outcome.next (sync_final (hready.fit rfl) hclear rfl rfl), rfl,
      fun k hne => serviceOf_withClass_ne _ _ hne, serviceOf_withClass_self _ _ _⟩
  case refused =>
    obtain ⟨d, hd⟩ := sync_badParam (params := fun _ => serviceParams flags page dwell ttl slots) _ (hready.fit rfl) hbad
    exact ⟨_, d, exec_serviceClassSet .., hd⟩

end Sys2Proof.Machine
end

section
/-! PROOF. The reset values of the registers (O3). -/
namespace Sys2Proof.Machine

/-- Settles O3: each register of the list is evaluated in the reset state. -/
theorem resetRegisterValues : Obligations.ResetRegisterValues := by
  unfold Obligations.ResetRegisterValues
  decide

end Sys2Proof.Machine
end

section
/-! PROOF. The asynchronous session commands taken (O16): their parameters pass and nothing later refuses them, so each is
accepted (`async_accept`) and starts (R147, R151, R152). -/
namespace Sys2Proof.Machine

/-! ### Acceptance -/

/-- An asynchronous command that acceptance takes and that starts with `t`. -/
theorem async_taken {s t : State} {h : Hdr} {c : Cmd} {e : Nat} {params : State → List (Bool × Nat)}
    {late : State → List (Bool × Nat × Nat)} {kind : State → JobKind} {start : State → State} (f : Fit s h c e)
    (hp : Clear (params (takeFromBuffer s h))) (hl : Clear (late (takeFromBuffer s h)))
    (hstart : start (acceptOn (takeFromBuffer s h) h c (kind (takeFromBuffer s h))) = t) :
    (.next (asyncCmd s h c e params late kind start) : Out) = .next t := by
  rw [async_accept f hp hl, hstart]

theorem clear_singleton {α : Type} {b : Bool} {a : α} (hb : b = false) : Clear [(b, a)] := by
  simp [hb]

theorem appendParams_clear {policy mode : Nat} (hpolicy : policy ≤ 1) (hmode : mode ≤ 1) :
    Clear [(decide (policy > 1), 24), (decide (mode > 1), 25)] := by
  simp only [clear_cons, clear_nil, and_true, decide_eq_false_iff_not]
  omega

/-- No later refusal of CONDENSE applies to a session that may be condensed and is no EXTRACT (R151). -/
theorem condenseLate_clear {v : State} {x : Sess} (hstate : x.state ≠ stEXTRACT) (hallowed : condensable v x = true) :
    Clear [((x.state == stWARM || x.state == stPARKED) && !condensable v x, (stDenied, 0)),
      (x.state == stEXTRACT, (stWrongState, 0))] := by
  simp [hallowed, hstate]

/-! ### The commands -/

/-- What an APPEND does in its place: token ids are checked, text joins the tokeniser engines (R212 to R218). -/
def appendStart (seq mode : Nat) (u : State) : State :=
  if mode = 1 then (match jobOf u seq with
    | some j => appendTokens u j
    | none => u)
  else enqueueInput u seq

theorem appendStart_text (seq : Nat) (u : State) : appendStart seq 0 u = enqueueInput u seq := if_neg Nat.zero_ne_one

theorem appendStart_ids (seq : Nat) (u : State) : appendStart seq 1 u = ((jobOf u seq).map (appendTokens u)).getD u := by
  unfold appendStart
  rw [if_pos rfl]
  cases jobOf u seq <;> rfl

/-- An accepted APPEND takes its place and starts. -/
theorem sessionAppend_accepted {s : State} {h : Hdr} {policy mode count : Nat} {tail : List Byte}
    (hready : Ready s (.sessionAppend h policy mode count tail)) (hpolicy : policy ≤ 1) (hmode : mode ≤ 1)
    (hgroup : noGroupFor (takeFromBuffer s h) h 0 = false) :
    exec (.sessionAppend h policy mode count tail) s = .next (appendStart h.seq mode (takePlace
      (acceptOn (takeFromBuffer s h) h (row 0x0102 true 1 1) (.append policy mode tail none 0 0)) (idxOf h.session) h.seq true)) := by
  rw [exec_sessionAppend]
  refine async_taken (hready.fit rfl) (appendParams_clear hpolicy hmode) (clear_singleton hgroup) ?_
  dsimp only
  generalize takePlace _ _ _ _ = u
  rfl

/-- What a REVIVE that is accepted and has cancelled a park does (R151, R152). -/
def reviveStart (idx seq : Nat) (u : State) : State :=
  match sessAt u idx, jobOf u seq with
  | some x, some j =>
    if x.state = stWARM ∨ x.state = stACTIVE then pump (reviveNow u idx j) idx else pump (beginRevive u idx) idx
  | _, _ => u

theorem reviveStart_found {u : State} {idx seq : Nat} {x : Sess} {j : Job} (hx : sessAt u idx = some x)
    (hj : jobOf u seq = some j) : reviveStart idx seq u =
      pump (if x.state = stWARM ∨ x.state = stACTIVE then reviveNow u idx j else beginRevive u idx) idx := by
  unfold reviveStart
  rw [hx, hj]
  exact (apply_ite (pump · idx) _ _ _).symm

/-- An accepted REVIVE cancels a park or condense that is not its own, and begins or ends. -/
theorem sessionRevive_accepted {s : State} {h : Hdr} (hready : Ready s (.sessionRevive h)) :
    exec (.sessionRevive h) s = .next (reviveStart (idxOf h.session) h.seq (cancelParkCondense
      (acceptOn (takeFromBuffer s h) h (row 0x0105 true 1 1) .revive) (idxOf h.session) h.seq)) := by
  rw [exec_sessionRevive]
  refine async_taken (hready.fit rfl) clear_nil clear_nil ?_
  dsimp only
  generalize cancelParkCondense _ _ _ = u
  rfl

/-- Settles O16: each command is accepted (`async_taken`), and what it starts is read off its own description; a GENERATE
finds its job listed with the positions to reserve (`acceptOn_jobOf`). -/
theorem sessionCommandsTaken : Obligations.SessionCommandsTaken := by
  unfold Obligations.SessionCommandsTaken
  rintro s v h rfl
  refine ⟨fun policy count tail hready hpolicy hgroup => ?text, fun policy count tail hready hpolicy hgroup => ?ids,
    fun g x hready hx hparams hgroup hjob => ?generate, fun hready hstate => ?park,
    fun slots x hready hslots hx hstate hallowed => ?condense, fun dest hready hpeer hself => ?offer, fun x j hready => ?revive⟩
  case text => rw [sessionAppend_accepted hready hpolicy (Nat.zero_le 1) hgroup, appendStart_text]
  case ids =>
    intro u
    rw [sessionAppend_accepted hready hpolicy le_rfl hgroup, appendStart_ids]
  case generate =>
    intro n
    obtain ⟨j, hj, hkind, -⟩ := acceptOn_jobOf (c := row 0x0103 true 1 1) (.generate g n) (hready.fit rfl) hjob
    refine async_taken (hready.fit rfl) hparams (clear_singleton hgroup) ?_
    simp only [hx, Option.getD_some]
    rw [hj, Option.map_some, hkind]
  case park => exact async_taken (hready.fit rfl) clear_nil (clear_singleton hstate) rfl
  case condense =>
    refine async_taken (hready.fit rfl) (clear_singleton (by rw [hslots]; rfl)) ?_ rfl
    rw [hx]
    exact condenseLate_clear hstate hallowed
  case offer => exact async_taken (hready.fit rfl) (clear_singleton (by simp [hpeer, hself])) clear_nil rfl
  case revive =>
    intro u hx hj
    rw [sessionRevive_accepted hready, reviveStart_found hx hj]
    rfl

end Sys2Proof.Machine
end

section
/-! PROOF. SESSION_CLOSE, SESSION_QUERY, SESSION_MIGRATE_ACCEPT and BUNG_QUERY (O17): R153, R337 to R339. -/
namespace Sys2Proof.Machine

/-! ### SESSION_MIGRATE_ACCEPT (R337) -/

/-- SESSION_MIGRATE_ACCEPT does not count in its session, so its acceptance changes no session. -/
theorem acceptDone_acceptOn {s : State} {h : Hdr} {e : Nat} (kind : JobKind) (f : Fit s h (row 0x010A true 1 3) e) (epoch : Nat) :
    acceptDone (acceptOn (takeFromBuffer s h) h (row 0x010A true 1 3) kind) h epoch = acceptDone (takeFromBuffer s h) h epoch := by
  unfold acceptDone sessByHandle sessAt
  rw [acceptOn_cellar kind f rfl, takeFromBuffer_eq]
  rfl

/-- What an accepted SESSION_MIGRATE_ACCEPT does: of a session committed here it completes, otherwise it goes on. -/
def acceptStart (h : Hdr) (epoch : Nat) (u : State) : State :=
  if acceptDone u h epoch then complete u h.seq (ansB (lay [(4, epoch)]))
  else match jobOf u h.seq with
    | some j => tryAccept u j
    | none => u

theorem acceptStart_done {u : State} {h : Hdr} {epoch : Nat} (hdone : acceptDone u h epoch = true) :
    acceptStart h epoch u = complete u h.seq (ansB (lay [(4, epoch)])) := if_pos hdone

theorem acceptStart_incoming {u : State} {h : Hdr} {epoch : Nat} {j : Job} (hdone : acceptDone u h epoch = false)
    (hj : jobOf u h.seq = some j) : acceptStart h epoch u = tryAccept u j := by
  unfold acceptStart
  rw [if_neg (by simp [hdone]), hj]

/-- An ACCEPT of an incoming entry with its digest, or with none, or of a session committed here is accepted. -/
theorem sessionMigrateAccept_accepted {s : State} {h : Hdr} {src epoch digest : Nat}
    (hready : Ready s (.sessionMigrateAccept h src epoch digest))
    (hdigest : ∀ m, acceptEntry (takeFromBuffer s h) h src epoch = some m → digest = 0 ∨ digest = m.digest)
    (hknown : (acceptEntry (takeFromBuffer s h) h src epoch).isSome = true ∨ acceptDone (takeFromBuffer s h) h epoch = true) :
    exec (.sessionMigrateAccept h src epoch digest) s = .next (acceptStart h epoch
      (acceptOn (takeFromBuffer s h) h (row 0x010A true 1 3) (.accept src epoch digest))) := by
  rw [exec_sessionMigrateAccept]
  refine async_taken (hready.fit rfl) ?params (clear_singleton ?late) ?start
  case params =>
    cases hm : acceptEntry (takeFromBuffer s h) h src epoch with
    | none => exact clear_nil
    | some m => rcases hdigest m hm with hzero | hsame <;> exact clear_singleton (by simp [*])
  case late =>
    rcases hknown with hentry | hdone
    · rw [← Option.not_isSome, hentry]
      rfl
    · rw [hdone, Bool.not_true, Bool.and_false]
  case start =>
    generalize acceptOn _ _ _ _ = u
    rfl

/-! ### The statement -/

/-- Settles O17: CLOSE and QUERY answer at once (`sync_final`), ACCEPT is accepted (`sessionMigrateAccept_accepted`), and
BUNG_QUERY is held (`late_held`). -/
theorem closeQueryAndMigrationPackets : Obligations.CloseQueryAndMigrationPackets := by
  unfold Obligations.CloseQueryAndMigrationPackets
  constructor
  · rintro s v h rfl
    refine ⟨fun hready => congrArg Host.Outcome.next (sync_final (hready.fit rfl) clear_nil rfl rfl),
      fun x hready hx => congrArg Host.Outcome.next (sync_final (hready.fit rfl) clear_nil ?_ rfl)⟩
    rw [hx]
    rfl
  · rintro s v h rfl
    refine ⟨fun src epoch digest hready hdone hnone => ?done, fun src epoch digest m j hready hdone hm hdigest => ?incoming,
      fun peer hready hpeer => congrArg Host.Outcome.next (late_held (hready.fit rfl) (clear_singleton ?peer) rfl)⟩
    case done =>
      rw [sessionMigrateAccept_accepted hready (by simp [hnone]) (.inr hdone),
        acceptStart_done (by rw [acceptDone_acceptOn _ (hready.fit rfl), hdone])]
    case incoming =>
      intro u hj
      rw [sessionMigrateAccept_accepted hready (by simpa [hm] using hdigest) (.inl (by rw [hm]; rfl)),
        acceptStart_incoming (by rw [acceptDone_acceptOn _ (hready.fit rfl), hdone]) hj]
    case peer => simpa using hpeer

end Sys2Proof.Machine
end

section
/-! PROOF. The seconds of the Cellar, its holds and its pressure (O48): R154, R163, R171, R466. -/
namespace Sys2Proof.Machine

/-- The summary of expiries changes Grenlink alone. -/
theorem secondEnds_frame (s : State) : secondEnds s =
    { s with gl := (secondEnds s).gl, cellar.sec := ctrAdd s.cellar.sec 1, cellar.expiredThisSec := 0, cellar.expiredExtra := 0 } := by
  unfold secondEnds
  dsimp only
  split
  · rw [raise_frame]
  · rfl

/-- While the device does not run, no second passes and none is saved. -/
theorem seconds_notRunning {s : State} (hrun : running s = false) :
    execCaskExpiry s = .next s ∧ execCellarSecSave s = .next s := by
  unfold execCaskExpiry execCellarSecSave
  simp only [hrun, Bool.false_eq_true, if_false, and_self]

theorem caskExpiry_running {s : State} (hrun : running s = true) :
    execCaskExpiry s = .next ((secondEnds s).cellar.sess.foldl (fun s p =>
      if p.2.state = stPARKED ∧ p.2.reviving = false ∧ p.2.expirySec ≤ s.cellar.sec then expireSession s p.1 else s) (secondEnds s)) :=
  congrArg Host.Outcome.next (if_pos hrun)

theorem cellarSecSave_running {s : State} (hrun : running s = true) :
    execCellarSecSave s = .next { s with oast.cfg.cellarSec := s.cellar.sec } :=
  congrArg Host.Outcome.next (if_pos hrun)

theorem freeIndex_found {s : State} {i : Nat} {x : Sess} (hx : sessAt s i = some x) : freeIndex s i = { s with
    cellar.sess := tdel s.cellar.sess i, cellar.gens := tput s.cellar.gens i x.gen, cellar.freed := s.cellar.freed ++ [i] } := by
  unfold freeIndex
  rw [hx]

/-- A hold ends by its second (R154). -/
theorem holdExpiry_found {s : State} {i : Nat} {x : Sess} (hx : sessAt s i = some x) :
    execHoldExpiry i s = .next (
      if (x.state = stABSENT ∨ x.state = stEXPIRED) ∧ x.incoming = false ∧ x.expirySec ≤ s.cellar.sec then freeIndex s i else s) := by
  unfold execHoldExpiry
  rw [hx]

theorem underPressure_iff {s : State} {d : Nat} :
    underPressure s d = true ↔ poolFree s d < lowMark s d ∨ waitingFrames s d ≠ 0 := by
  simp only [underPressure, Bool.or_eq_true, decide_eq_true_eq]

/-- A die under pressure reclaims memory where the cellar may (R163). -/
theorem pressureReclaim_enabled {s : State} {d : Nat} (hd : d < 4) (hrun : running s = true) (hen : s.cellar.pressureEn = true) :
    execPressureReclaim d s = .next (if underPressure s d then reclaim s d else s) := by
  unfold execPressureReclaim
  simp only [hrun, hen, hd, true_and]

/-- Settles O48: one rule for each event of the Cellar's seconds and for its pressure. -/
theorem cellarSeconds : Obligations.CellarSeconds := by
  unfold Obligations.CellarSeconds
  refine fun s => ⟨fun hrun => ⟨secondEnds s, rfl, ?sec, ?count, ?expiries⟩, fun hrun => ?save, fun hrun => ?stopped,
    fun i x hx hincoming => ⟨fun hstate hdue => ?freed, fun hearly => ?held⟩, fun d hd hrun hen => ?pressure⟩
  case sec => rw [secondEnds_frame]
  case count => rw [secondEnds_frame]
  case expiries => rw [exec_caskExpiry, caskExpiry_running hrun]
  case save => rw [exec_cellarSecSave, cellarSecSave_running hrun]
  case stopped =>
    rw [exec_caskExpiry, exec_cellarSecSave]
    exact seconds_notRunning hrun
  case freed => rw [exec_holdExpiry, holdExpiry_found hx, if_pos ⟨hstate, hincoming, hdue⟩, freeIndex_found hx]
  case held => rw [exec_holdExpiry, holdExpiry_found hx, if_neg fun hends => absurd hends.2.2 (Nat.not_le.mpr hearly)]
  case pressure =>
    rw [exec_pressureReclaim, pressureReclaim_enabled hd hrun hen]
    simp only [underPressure_iff]

end Sys2Proof.Machine
end

section
/-! PROOF. Frame reservations, revives and items that wait too long (O49): R161, R162, R175, R182. -/
namespace Sys2Proof.Machine

/-! ### Reservations (R161, R162) -/

/-- A reservation is granted when it is the first waiting one of its die and its runs are free. -/
theorem grantRuns_some {s w : State} {r : Resv} {rs : List Run} (hwaits : r.granted = false) (hfirst : firstWaiting s r = true)
    (hdie : dieUp s r.die = true) (hruns : takeRuns s r.die r.tenant r.slice r.orders = some (rs, w)) :
    grantRuns s r = some (modResv w r.id fun k => { k with runs := rs, granted := true }) := by
  unfold grantRuns
  rw [if_neg (by simp [hwaits, hfirst, hdie]), hruns]

theorem grantRuns_none {s : State} {r : Resv}
    (hn : r.granted = true ∨ firstWaiting s r = false ∨ takeRuns s r.die r.tenant r.slice r.orders = none) :
    grantRuns s r = none := by
  unfold grantRuns
  split
  · rfl
  next hopen =>
    have hruns : takeRuns s r.die r.tenant r.slice r.orders = none := by tauto
    rw [hruns]

theorem reservationGranted_found {s : State} {rid : Nat} {r : Resv} (hr : resvOf s rid = some r) :
    (grantRuns s r = none → execReservationGranted rid s = .next s) ∧
    (∀ w, grantRuns s r = some w → execReservationGranted rid s = .next (pump (afterGrant w r) r.sess)) := by
  unfold execReservationGranted
  rw [hr]
  dsimp only
  refine ⟨fun hnone => ?_, fun w hsome => ?_⟩
  · rw [hnone]
  · rw [hsome]

theorem reserveTimeout_found {s : State} {rid : Nat} {r : Resv} (hr : resvOf s rid = some r) :
    execReserveTimeout rid s = .next (if r.granted = false ∧ r.sinceCycle + reserveWait s ≤ s.mash.cycleCnt then
      pump (failReservation s r) r.sess else s) := by
  unfold execReserveTimeout
  rw [hr]

/-- A command other than a condense whose frames never came ends NO_MEMORY (R162). -/
theorem failReservation_job {s : State} {r : Resv} {j : Job} (hin : s.rack.inn.find? (fun m => m.resv == r.id) = none)
    (hj : jobOf s r.seq = some j) (hkind : ∀ k, j.kind ≠ .condense k) : failReservation s r =
      failJob (dropResv { s with cellar.cnt.noMem := ctrAdd s.cellar.cnt.noMem 1 } r.id) r.sess r.seq (ans stNoMemory) := by
  unfold failReservation
  dsimp only
  rw [hin]
  dsimp only
  rw [show jobOf { s with cellar.cnt.noMem := ctrAdd s.cellar.cnt.noMem 1 } r.seq = some j from hj]
  dsimp only
  split
  next k hk => exact absurd hk (hkind k)
  next => rfl

/-! ### Revives from a buddy (R175) -/

theorem reviveBuddyTimeout_due {s : State} {session : Nat} {x : Sess} {r : Resv} (hx : sessByHandle s session = some x)
    (hreviving : x.reviving = true) (hsrc : x.reviveSrc = 3) (hr : resvBySeq s noSeq x.idx = some r)
    (hdue : r.sinceCycle + reserveWait s ≤ s.mash.cycleCnt)
    (hpeer : reachable s (if x.caskPeer ≠ 0 then x.caskPeer else buddyOf s x) = false) :
    execReviveBuddyTimeout session s = .next (pump (failRevive s x.idx stNoMemory) x.idx) := by
  unfold execReviveBuddyTimeout
  rw [hx]
  dsimp only
  rw [hr]
  exact congrArg Host.Outcome.next (if_pos ⟨hreviving, hsrc, hpeer, decide_eq_true hdue⟩)

/-! ### Items that no group takes (R182) -/

theorem noGroupTimeout_stays {s : State} {item : Nat} {it : Item} (hit : itemOf s item = some it)
    (hstays : it.noGroup < reserveWait s ∨ it.entry.isSome = true) : execNoGroupTimeout item s = .next s := by
  unfold execNoGroupTimeout
  rw [hit]
  exact congrArg Host.Outcome.next (if_pos (by tauto))

/-- A generate whose item no group took ends: WRONG_STATE before its first step, with reason 6 after it. -/
theorem noGroupTimeout_generate {s : State} {item n : Nat} {it : Item} {j : Job} {r : GenRun} {g : GenParams}
    (hit : itemOf s item = some it) (hwait : reserveWait s ≤ it.noGroup) (hentry : it.entry = none)
    (hcondense : ∀ k, it.kind ≠ .condense k) (hexpert : ∀ m e n, it.kind ≠ .expert m e n)
    (hj : jobOf (dropItem s item) it.seq = some j) (hkind : j.kind = .generate g n)
    (hr : ((sessAt (dropItem s item) it.sess).bind (·.run)) = some r) :
    execNoGroupTimeout item s = .next (
      if r.steps = 0 then pump (failJob (dropItem s item) it.sess j.seq (ans stWrongState)) it.sess
      else pump (endGenerate (dropItem s item) it.sess 6) it.sess) := by
  unfold execNoGroupTimeout
  rw [hit]
  dsimp only
  split
  next hk => exact absurd hk (hexpert _ _ _)
  next =>
    rw [if_neg (by simp [hentry, hwait])]
    split
    next hk => exact absurd hk (hcondense _)
    next hk => exact absurd hk (hcondense _)
    next =>
      rw [hj]
      dsimp only
      rw [hkind]
      dsimp only
      rw [hr]

/-- Settles O49: one rule for each way a reservation, a revive from a buddy and an item without a group end. -/
theorem reservationsEnd : Obligations.ReservationsEnd := by
  unfold Obligations.ReservationsEnd
  refine fun s => ⟨fun rid r hr => ⟨fun rs w hwaits hfirst hdie hruns =>
      (reservationGranted_found hr).2 _ (grantRuns_some hwaits hfirst hdie hruns),
      fun hn => (reservationGranted_found hr).1 (grantRuns_none hn), reserveTimeout_found hr,
      fun j hin hj hkind => failReservation_job hin hj hkind⟩,
    fun session x r hx hreviving hsrc hr hdue hpeer => reviveBuddyTimeout_due hx hreviving hsrc hr hdue hpeer,
    fun item it hit => ⟨fun hstays => noGroupTimeout_stays hit hstays,
      fun j r g n hwait hentry hcondense hexpert hj hkind hr =>
        noGroupTimeout_generate hit hwait hentry hcondense hexpert hj hkind hr⟩⟩

end Sys2Proof.Machine
end

section
/-! PROOF. MODEL_WARM, MODEL_EVICT and DRAFT_BIND (O18): R194, R201, R203. -/
namespace Sys2Proof.Machine

/-! ### Parameters that pass -/

/-- The parameters of a command on a registered model: its id fits its field and is known (R36, R201). -/
theorem modelParams_clear {v : State} {model : Nat} {x : Model} (hid : model < 1048576) (hm : modelOf v model = some x) :
    Clear (modelBits 24 model ++ modelMissing v model) := by
  rw [clear_append]
  exact ⟨modelBits_clear 24 hid, clear_singleton (by rw [hm]; rfl)⟩

/-- A model of the command's tenant is not foreign to it. -/
theorem modelForeign_own {v : State} {h : Hdr} {model : Nat} {x : Model} (hm : modelOf v model = some x) (hten : x.tenant = h.tenant) :
    modelForeign v h model = false := by
  simp [modelForeign, hm, hten]

/-! ### The commands -/

/-- MODEL_WARM of a model of the tenant goes by the model's state (R201). -/
theorem modelWarm_taken {s : State} {h : Hdr} {model : Nat} {x : Model} (hready : Ready s (.modelWarm h model))
    (hid : model < 1048576) (hm : modelOf (takeFromBuffer s h) model = some x) (hten : x.tenant = h.tenant) :
    let u := acceptOn (takeFromBuffer s h) h (row 0x0202 true 1 0) (.warm model)
    execModelWarm h model s = .next (
      if x.st = 2 then complete u h.seq (ansB (lay [(1, x.homeDie), (3, 0), (4, 0)]))
      else if x.st = 0 then tryWarm u h.seq model else setStage u h.seq 2) := by
  refine async_taken (hready.fit rfl) (modelParams_clear hid hm) (clear_singleton (modelForeign_own hm hten)) ?_
  rw [modelOf_acceptOn, hm]

/-- MODEL_EVICT of a model of the tenant that nothing uses: a REGISTERED one has nothing to free (R203). -/
theorem modelEvict_taken {s : State} {h : Hdr} {model : Nat} {x : Model} (hready : Ready s (.modelEvict h model))
    (hid : model < 1048576) (hm : modelOf (takeFromBuffer s h) model = some x) (hten : x.tenant = h.tenant)
    (hfree : evictWrong (takeFromBuffer s h) model = false) :
    let u := acceptOn (takeFromBuffer s h) h (row 0x0203 true 1 0) (.evict model)
    execModelEvict h model s = .next (
      if x.st = 0 then complete u h.seq (ansB [])
      else dropDraftKv (setStage { u with models.models := tmod u.models.models model fun y => { y with st := 3 } } h.seq 2) model) := by
  refine async_taken (hready.fit rfl) (modelParams_clear hid hm) ?late ?start
  case late =>
    simp only [clear_cons, clear_nil, and_true]
    exact ⟨modelForeign_own hm hten, hfree⟩
  case start =>
    dsimp only
    rw [modelOf_acceptOn, hm]

/-- DRAFT_BIND of two models of the tenant, the draft one of kind 2 and with the main one's vocabulary and end token (R194). -/
theorem draftBind_taken {s : State} {h : Hdr} {model draft kMax : Nat} {x y : Model} (hready : Ready s (.draftBind h model draft kMax))
    (hid : model < 1048576) (hdraft : draft < 1048576) (hx : modelOf (takeFromBuffer s h) model = some x)
    (hy : modelOf (takeFromBuffer s h) draft = some y) (hxten : x.tenant = h.tenant) (hyten : y.tenant = h.tenant)
    (hkind : y.hdr.kind = 2) (hsize : y.hdr.vocabSize = x.hdr.vocabSize) (heos : y.hdr.eos = x.hdr.eos) (hmax : kMax ≤ 8) :
    let v := takeFromBuffer s h
    execDraftBind h model draft kMax s = .next (finalOn
      { v with models.drafts := if kMax = 0 then tdel v.models.drafts model else tput v.models.drafts model (draft, kMax) }
      h 0x0204 (ansB [])) := by
  refine congrArg Host.Outcome.next (sync_final (hready.fit rfl) (?params : Clear _) ?run rfl)
  case params =>
    simp [modelBits_clear 24 hid, modelBits_clear 28 hdraft, hx, hy, hxten, hyten, hkind, hsize, heos, hmax]
  case run =>
    dsimp only
    split <;> rfl

/-- Settles O18: each command is taken with its parameters, and its effect is read off the state of its model. -/
theorem modelCommands : Obligations.ModelCommands := by
  unfold Obligations.ModelCommands
  constructor
  · rintro s v h model x rfl hid hm hten
    exact ⟨fun hready => modelWarm_taken hready hid hm hten, fun hready hfree => modelEvict_taken hready hid hm hten hfree⟩
  · rintro s v h model draft kMax x y hready rfl hid hdraft hx hy hxten hyten hkind hsize heos hmax
    exact draftBind_taken hready hid hdraft hx hy hxten hyten hkind hsize heos hmax

end Sys2Proof.Machine
end

section
/-! PROOF. POST records and the commit of a step (O41): R25, R90, R187, R331. That the record given stands for one the model
did not compute rests on log entries 23 and 38. -/
namespace Sys2Proof.Machine

/-! ### The record that reaches the hub (R90, R187) -/

/-- The record that is taken, and the state without it: the one a tile of the die posted, or the one given. -/
def recordTaken (s : State) (die session entry : Nat) (r0 : PostRec) : PostRec × State :=
  (takePosted s die session entry).getD (r0, s)

/-- A record of another kind is a descriptor fault; any other goes to the item it answers. -/
theorem postRecord_taken {s t : State} {die session entry : Nat} {r0 r : PostRec} (hrun : running s = true)
    (htaken : recordTaken s die session entry r0 = (r, t)) :
    (∀ k, r = .other k → execPostRecord die session entry r0 s =
      .next (modDie t die fun d => { d with descFault := ctrAdd d.descFault 1 })) ∧
    ((∀ k, r ≠ .other k) →
      (recordItem t die session entry = none → execPostRecord die session entry r0 s = .next t) ∧
      (∀ it, recordItem t die session entry = some it → execPostRecord die session entry r0 s =
        .next (if recordFits it r = true then holdRecord t it r else t))) := by
  unfold recordTaken at htaken
  unfold execPostRecord
  rw [if_neg (by simp [hrun]), htaken]
  refine ⟨?other, fun hkind => ⟨fun hnone => ?unanswered, fun it hit => ?answered⟩⟩
  case other =>
    rintro k rfl
    rfl
  all_goals
    dsimp only
    split
    · exact absurd rfl (hkind _)
    · rw [‹recordItem t die session entry = _›]

/-- A record without a grammar transition is held as it is by an item that takes no drafts. -/
theorem holdRecord_plain {s : State} {it : Item} {r : PostRec} (hkind : ∀ k, it.kind ≠ .verify k)
    (hgram : ∀ t f g, r = .stepResult t f g → g = 0xFFFFFFFF) :
    holdRecord s it r = modItem s it.id fun k => { k with result := some r } := by
  unfold holdRecord
  split
  next hverify => exact absurd hverify (hkind _)
  next => exact if_neg fun hmoves => hmoves.1 (hgram _ _ _ rfl)
  next => rfl

/-! ### The commit (R25, R331) -/

/-- Before its last rest has ended, or without the record of its kind, nothing of a step commits. -/
theorem stepCommit_waits {s : State} {item : Nat} {it : Item} (hit : itemOf s item = some it)
    (hwaits : it.ended = false ∨ (needsRecord it.kind = true ∧ it.result = none)) : execStepCommit item s = .next s := by
  unfold execStepCommit
  rw [hit]
  exact congrArg Host.Outcome.next (if_pos (.inr hwaits))

/-- A step that has ended with its record goes on by its kind; a session's commits unless its buddy has not yet acknowledged an
earlier one. -/
theorem stepCommit_ended {s : State} {item : Nat} {it : Item} (hrun : running s = true) (hit : itemOf s item = some it)
    (hended : it.ended = true) (hrecord : needsRecord it.kind = true → it.result.isSome = true) :
    (∀ q, it.kind = .embed q → execStepCommit item s = .next (embedDone (dropItem s item) q)) ∧
    (∀ q, it.kind = .rerank q → execStepCommit item s = .next (rerankDone (dropItem s item) q)) ∧
    (∀ m e n, it.kind = .expert m e n → execStepCommit item s = .next (expertDone (dropItem s item) m e n it.act)) ∧
    ((∀ q, it.kind ≠ .embed q) → (∀ q, it.kind ≠ .rerank q) → (∀ m e n, it.kind ≠ .expert m e n) →
      let x := (sessAt s it.sess).getD Sess.zero
      execStepCommit item s = .next (
        if it.sess ≠ 0 ∧ (x.deltas.any fun d => d.isStep && decide (d.rackSeq > x.rackAcked) && d.ent != it.entry.getD 0) = true then
          { redoItem s item with fab.cnt.rackRedo := ctrAdd s.fab.cnt.rackRedo 1 }
        else commitItem s it)) := by
  have hgoes : ¬(running s = false ∨ it.ended = false ∨ (needsRecord it.kind = true ∧ it.result = none)) := by
    rintro (hstopped | hopen | ⟨hneeds, hnone⟩)
    · simp [hrun] at hstopped
    · simp [hended] at hopen
    · exact absurd (hrecord hneeds) (by simp [hnone])
  unfold execStepCommit
  rw [hit]
  dsimp only
  rw [if_neg hgoes]
  refine ⟨fun q hk => by rw [hk], fun q hk => by rw [hk], fun m e n hk => by rw [hk], fun hembed hrerank hexpert => ?_⟩
  split
  next hk => exact absurd hk (hembed _)
  next hk => exact absurd hk (hrerank _)
  next hk => exact absurd hk (hexpert _ _ _)
  next => rfl

/-- Settles O41: the record taken, what an item holds of it, and the step that waits or has ended. -/
theorem recordsAndCommits : Obligations.RecordsAndCommits := by
  unfold Obligations.RecordsAndCommits
  exact ⟨fun s die session entry r0 hrun => postRecord_taken (t := (recordTaken s die session entry r0).2) hrun rfl,
    fun s it r hkind hgram => holdRecord_plain hkind hgram,
    fun s item it hrun hit => ⟨stepCommit_waits hit, stepCommit_ended hrun hit⟩⟩

end Sys2Proof.Machine
end

section
/-! PROOF. Lauter messages and deadlines (O45): R205, R246, R255, R256, R260. That a token is charged as 64 bytes on arrival
rests on log entry 43 (a design choice), which replies count as late on log entry 99 (deduced). -/
namespace Sys2Proof.Machine

/-! ### Expert tokens (R205) -/

/-- Tokens of an expert of a RESIDENT model homed here are charged and join their expert's queue; others change nothing. -/
theorem expertTokens_mapped {s : State} {model expert : Nat} {m : Model} {home : Nat × Nat} (src : Nat) (payer : Nat × Nat)
    (toks : List Nat) (hrun : running s = true) (hm : modelOf s model = some m) (hhome : m.hdr.expertMap[expert]? = some home) :
    let u := chargeRx s m.slice payer.2 (64 * toks.length)
    execExpertTokens src model expert payer toks s = .next (
      if m.st ≠ 2 ∨ home.1 ≠ s.fab.self then s
      else expertItem { u with
        models.queues := tput u.models.queues (expertKey model expert)
          (tdef s.models.queues (expertKey model expert) [] ++ toks.map fun t => (src, t, payer)) } model expert) := by
  have hlisted : ¬ m.hdr.expertMap.length ≤ expert := Nat.not_le.mpr (List.getElem?_eq_some_iff.mp hhome).1
  unfold execExpertTokens
  rw [hm]
  simp only [hrun, hhome, hlisted, Bool.true_eq_false, false_or, Option.map_some, Option.getD_some]
  rfl

/-! ### Search requests (R255, R256) -/

theorem searchRequest_running {s : State} (r : SearchReq) (hrun : running s = true) :
    execSearchRequest r s = .next (takeSearch (chargeRx s (corpusSlice s r.corpus) 4 (96 + 2 * r.vector.length)) r) :=
  congrArg Host.Outcome.next (if_neg (by simp [hrun]))

/-- A request with no time left counts as abandoned. -/
theorem takeSearch_late {u : State} {r : SearchReq} (hlate : r.remainingUs = 0) :
    takeSearch u r = { u with lauter.cnt.abandoned := ctrAdd u.lauter.cnt.abandoned 1 } := if_pos hlate

/-- A shard that cannot be searched: the request is answered with its status, and counted where it is too new. -/
theorem takeSearch_refused {u : State} {r : SearchReq} {st : Nat} (htime : r.remainingUs ≠ 0) (hst : shardStatus u r = st)
    (hbad : st ≠ 0) : takeSearch u r =
      answerSearch (if st = 3 then { u with lauter.cnt.snapOld := ctrAdd u.lauter.cnt.snapOld 1 } else u) r st := by
  unfold takeSearch
  simp only [htime, hst, hbad, if_false, ne_eq, not_false_eq_true, if_true]

/-- A shard that can be searched: the request waits its turn, unless as many wait as can (R255). -/
theorem takeSearch_listed {u : State} {r : SearchReq} (htime : r.remainingUs ≠ 0) (hst : shardStatus u r = 0) :
    takeSearch u r = if 16384 ≤ u.lauter.reqs.length then answerSearch u r 2
      else serveRequest { u with
        lauter.reqs := u.lauter.reqs ++ [PeerReq.mk u.lauter.nextReq r.src r.qid r.tenant r.corpus r.shard r.snapshot
          (u.dev.localCtr + r.remainingUs * 3000) r]
        lauter.nextReq := u.lauter.nextReq + 1 } u.lauter.nextReq := by
  unfold takeSearch
  simp only [htime, hst, if_false, ne_eq, not_true_eq_false]
  rfl

/-! ### Candidate and text replies (R255, R256, R260) -/

theorem candidateReply_running {s : State} (src qid shard status : Nat) (l : List Cand) (hrun : running s = true) :
    execCandidateReply src qid shard status l s =
      .next (takeReply (chargeRx s (querySlice s qid) 4 (24 + 64 * l.length)) src qid shard status l) :=
  congrArg Host.Outcome.next (if_neg (by simp [hrun]))

/-- A reply to a query that is gone counts as late. -/
theorem takeReply_gone {u : State} {qid : Nat} (src shard status : Nat) (l : List Cand) (hq : queryOf u qid = none) :
    takeReply u src qid shard status l = { u with lauter.cnt.lateReply := ctrAdd u.lauter.cnt.lateReply 1 } := by
  unfold takeReply lateReply
  simp only [hq]

/-- A reply to a query that asks no more counts as late once the query's deadline is past. -/
theorem takeReply_moved {u : State} {qid : Nat} {q : Query} (src shard status : Nat) (l : List Cand) (hq : queryOf u qid = some q)
    (hstage : q.stage ≠ 2) : takeReply u src qid shard status l =
      if u.dev.localCtr < q.fanoutAt + deadlineOf u q * 3000 then u
      else { u with lauter.cnt.lateReply := ctrAdd u.lauter.cnt.lateReply 1 } := by
  unfold takeReply lateReply
  simp only [hq, hstage, ne_eq, not_false_eq_true, if_true]
  rfl

/-- The shard of a query that a reply answers: one that `src` was asked for and that is not done (R255). -/
def askedOf (q : Query) (src shard : Nat) : Option Asked :=
  q.asked.find? fun a => a.shard == shard && !a.done && (a.owner == src || (a.replica == src && a.replicaAsked))

/-- Of a shard asked for the candidates are used, or its replica is asked; of another shard a reply changes nothing. -/
theorem takeReply_asking {u : State} {qid : Nat} {q : Query} (src shard status : Nat) (l : List Cand) (hq : queryOf u qid = some q)
    (hstage : q.stage = 2) : takeReply u src qid shard status l = (askedOf q src shard).elim u fun a =>
      if status = 0 then progressQuery 4 (takeCands u qid shard (l.map fun c => { c with shard := shard, fromPeer := src })) qid
      else if a.owner = src ∧ status ≠ 4 then progressQuery 4 (askReplica u qid shard) qid else u := by
  unfold takeReply askedOf
  simp only [hq, hstage, ne_eq, not_true_eq_false, if_false]
  cases q.asked.find? _ <;> rfl

theorem textFetchReply_running {s : State} (src qid : Nat) (l : List (Nat × Nat × List Byte)) (hrun : running s = true) :
    execTextFetchReply src qid l s =
      .next (takeTextReply (chargeRx s (querySlice s qid) 4 (8 + sumBy (fun x => 12 + x.2.2.length) l)) src qid l) :=
  congrArg Host.Outcome.next (if_neg (by simp [hrun]))

/-- Texts reach a query that fetches its texts; others are late (R260). -/
theorem takeTextReply_found {u : State} {qid : Nat} {q : Query} (src : Nat) (l : List (Nat × Nat × List Byte))
    (hq : queryOf u qid = some q) : takeTextReply u src qid l =
      if q.stage = 3 then takeTexts u qid src l else { u with lauter.cnt.lateReply := ctrAdd u.lauter.cnt.lateReply 1 } := by
  unfold takeTextReply lateText
  rw [hq]

theorem takeTextReply_gone {u : State} {qid : Nat} (src : Nat) (l : List (Nat × Nat × List Byte)) (hq : queryOf u qid = none) :
    takeTextReply u src qid l = { u with lauter.cnt.lateReply := ctrAdd u.lauter.cnt.lateReply 1 } := by
  unfold takeTextReply lateText
  rw [hq]

/-! ### Text requests (R260) -/

theorem textFetchRequest_running {s : State} (src qid tenant corpus shard : Nat) (nodes : List Nat) (hrun : running s = true) :
    execTextFetchRequest src qid tenant corpus shard nodes s =
      .next (serveTexts (chargeRx s (corpusSlice s corpus) 4 (24 + 4 * nodes.length)) src qid tenant corpus shard nodes) :=
  congrArg Host.Outcome.next (if_neg (by simp [hrun]))

/-- A request for texts of a shard of its tenant held here is listed, and its texts are read. -/
theorem serveTexts_held {u : State} {tenant corpus shard : Nat} {c : Corpus} (src qid : Nat) (nodes : List Nat)
    (hc : corpusOf u corpus = some c) (hsh : (shardOf u corpus shard).isSome = true) (hten : c.tenant = tenant) :
    serveTexts u src qid tenant corpus shard nodes = serveRead { u with
      lauter.textReqs := u.lauter.textReqs ++ [{ rid := u.lauter.nextReq, src := src, qid := qid, tenant := tenant, corpus := corpus,
                                                 shard := shard, nodes := nodes, asked := false }]
      lauter.nextReq := u.lauter.nextReq + 1 } u.lauter.nextReq := by
  obtain ⟨sh, hsh⟩ := Option.isSome_iff_exists.mp hsh
  unfold serveTexts
  rw [hc, hsh]
  exact if_neg (not_not_intro hten)

/-- Without the corpus, without the shard or of another tenant, no text is read. -/
theorem serveTexts_unheld {u : State} {tenant corpus shard : Nat} (src qid : Nat) (nodes : List Nat)
    (hn : corpusOf u corpus = none ∨ shardOf u corpus shard = none ∨ ∃ c, corpusOf u corpus = some c ∧ c.tenant ≠ tenant) :
    serveTexts u src qid tenant corpus shard nodes = u := by
  unfold serveTexts
  split
  next c sh hc hsh =>
    refine if_pos ?_
    rcases hn with hnone | hnone | ⟨k, hk, hten⟩
    · simp [hc] at hnone
    · simp [hsh] at hnone
    · rw [hc] at hk
      cases hk
      exact hten
  next => rfl

/-! ### Deadlines (R255, R256, R260) -/

/-- At half the deadline a shard that has not answered is asked for at its replica; of a query that asks no more, nothing. -/
theorem replicaDeadline_found {s : State} {qid : Nat} {q : Query} (shard : Nat) (hq : queryOf s qid = some q) :
    execReplicaDeadline qid shard s = .next (
      if q.stage = 2 ∧ q.asked.any (fun a => a.shard == shard && !a.done) = true then
        progressQuery 4 (askReplica (advanceTo s (q.fanoutAt + deadlineOf s q * 3000 / 2)) qid shard) qid
      else s) := by
  unfold execReplicaDeadline
  rw [hq]
  rfl

theorem mergeDeadline_found {s : State} {qid : Nat} {q : Query} (hq : queryOf s qid = some q) :
    execMergeDeadline qid s = .next (if q.stage = 2 then
      progressQuery 4 (mergeQuery (advanceTo s (q.fanoutAt + deadlineOf s q * 3000)) qid) qid else s) := by
  unfold execMergeDeadline
  rw [hq]
  rfl

theorem textFetchDeadline_found {s : State} {qid : Nat} {q : Query} (hq : queryOf s qid = some q) :
    execTextFetchDeadline qid s = .next (if q.stage = 3 then
      afterTexts (advanceTo s (q.fetchAt + deadlineOf s q * 3000 / 2)) qid else s) := by
  unfold execTextFetchDeadline
  rw [hq]
  rfl

theorem peerRequestExpire_found {s : State} {rid : Nat} {r : PeerReq} (hr : s.lauter.reqs.find? (fun r => r.rid == rid) = some r) :
    execPeerRequestExpire rid s = .next { advanceTo s r.expiresAt with
      lauter.reqs := s.lauter.reqs.filter fun k => k.rid != rid
      lauter.cnt.abandoned := ctrAdd s.lauter.cnt.abandoned 1 } := by
  unfold execPeerRequestExpire
  rw [hr]

/-! ### Repair (R246) -/

/-- A sweep of a shard held here: of an enabled repair on a running device it runs where SCAN and MAINT have balance. -/
theorem repairSweep_held {s : State} {corpus shard : Nat} {c : Corpus} {sh : Shard} (hc : corpusOf s corpus = some c)
    (hsh : shardOf s corpus shard = some sh) (hrun : running s = true) (hen : s.lauter.repairEn = true) :
    execRepairSweep corpus shard s = .next (
      if hasBal s c.cfg.slice 12 0 = false then holdOn s c.cfg.slice 12 0
      else if hasBal s c.cfg.slice 5 1 = false then holdOn s c.cfg.slice 5 1
      else tick (charge (repairShard s corpus shard) c.cfg.slice 12 0 (Config.count s.free))) := by
  unfold execRepairSweep
  rw [hc, hsh]
  exact congrArg Host.Outcome.next (if_neg (by simp [hrun, hen]))

theorem repairSweep_disabled {s : State} (corpus shard : Nat) (hdis : s.lauter.repairEn = false) :
    execRepairSweep corpus shard s = .next s := by
  unfold execRepairSweep
  split
  · exact congrArg Host.Outcome.next (if_pos (.inl hdis))
  · rfl

/-! ### The statement -/

/-- Settles O45: each message is charged on arrival and then goes by what is known of its expert, shard or query; each deadline
goes by its query. -/
theorem lauterEvents : Obligations.LauterEvents := by
  unfold Obligations.LauterEvents
  refine ⟨fun s src hrun => ⟨fun model expert payer toks m home hm hhome => ?experts, fun r => ?search,
      fun qid shard status l => ?candidates, fun qid tenant corpus shard nodes => ?asksTexts, fun qid l => ?texts⟩,
    fun s => ⟨fun qid q hq => ⟨fun shard hstage hopen => ?_, fun shard hstage => ?_, mergeDeadline_found hq, textFetchDeadline_found hq⟩,
      fun rid r hr => peerRequestExpire_found hr,
      fun corpus shard c sh hc hsh hrun hen => repairSweep_held hc hsh hrun hen,
      fun corpus shard hdis => repairSweep_disabled corpus shard hdis⟩⟩
  case experts =>
    have htokens := expertTokens_mapped src payer toks hrun hm hhome
    refine ⟨fun hst hself => ?_, fun hnot => ?_⟩
    · rw [exec_expertTokens, htokens, if_neg (by simp [hst, hself])]
    · rw [exec_expertTokens, htokens, if_pos hnot]
  case search =>
    rw [exec_searchRequest, searchRequest_running r hrun]
    refine ⟨fun hlate => ?_, fun st htime hst hbad => ?_, fun htime hst => ?_, fun htime hst => ?_⟩
    · rw [takeSearch_late hlate]
    · rw [takeSearch_refused htime hst (by omega), if_neg (by omega)]
      rfl
    · rw [takeSearch_refused htime hst (by decide), if_pos rfl]
      rfl
    · rw [takeSearch_listed htime hst]
      rfl
  case candidates =>
    rw [exec_candidateReply, candidateReply_running src qid shard status l hrun]
    refine ⟨fun hq => ?_, fun q hq => ⟨fun hstage => ?_, fun hstage a ha => ?_⟩⟩
    · rw [takeReply_gone _ _ _ _ hq]
    · rw [takeReply_moved _ _ _ _ hq hstage]
    · rw [takeReply_asking _ _ _ _ hq hstage, show askedOf q src shard = a from ha]
      cases a <;> rfl
  case asksTexts =>
    rw [exec_textFetchRequest, textFetchRequest_running src qid tenant corpus shard nodes hrun]
    refine ⟨fun c hc hsh hten => ?_, fun hn => ?_⟩
    · rw [serveTexts_held _ _ _ hc hsh hten]
    · rw [serveTexts_unheld _ _ _ hn]
  case texts =>
    rw [exec_textFetchReply, textFetchReply_running src qid l hrun]
    refine ⟨fun hq => ?_, fun q hq => ?_⟩
    · rw [takeTextReply_gone _ _ hq]
    · rw [takeTextReply_found _ _ hq]
  · rw [exec_replicaDeadline, replicaDeadline_found shard hq, if_pos ⟨hstage, hopen⟩]
  · rw [exec_replicaDeadline, replicaDeadline_found shard hq, if_neg fun hasks => hstage hasks.1]

end Sys2Proof.Machine
end

section
/-! PROOF. The context of a grammar in a state (O60): R229. -/
namespace Sys2Proof.Machine

/-- The first context record of a state, of those numbered `f` to `f + n - 1`, whose top is `t`. -/
def ctxWithTop (g : Grammar) (f n t : Nat) : Option Nat :=
  ((List.range n).map (· + f)).find? fun i => (lget g.ctxs i default).top == t

theorem mem_ctxIds {f n i : Nat} : i ∈ (List.range n).map (· + f) ↔ f ≤ i ∧ i < f + n := by
  simp only [List.mem_map, List.mem_range]
  exact ⟨fun ⟨k, hk, hi⟩ => by omega, fun hi => ⟨i - f, by omega, by omega⟩⟩

theorem ctxWithTop_some {g : Grammar} {f n t i : Nat} (hi : ctxWithTop g f n t = some i) :
    (f ≤ i ∧ i < f + n) ∧ (lget g.ctxs i default).top = t :=
  ⟨mem_ctxIds.1 (List.mem_of_find?_eq_some hi), by simpa using List.find?_some hi⟩

theorem ctxWithTop_eq_none {g : Grammar} {f n t : Nat} :
    ctxWithTop g f n t = none ↔ ∀ i, f ≤ i ∧ i < f + n → (lget g.ctxs i default).top ≠ t := by
  simp only [ctxWithTop, List.find?_eq_none, mem_ctxIds, beq_iff_eq, ne_eq]

theorem ctxWithTop_isSome {g : Grammar} {f n t i : Nat} (hown : f ≤ i ∧ i < f + n) (htop : (lget g.ctxs i default).top = t) :
    (ctxWithTop g f n t).isSome = true :=
  Option.isSome_iff_ne_none.2 fun hn => ctxWithTop_eq_none.1 hn i hown htop

/-- A stack's top symbol 0xFFFF is looked for as such: then both searches are the same. -/
theorem findCtx_state {g : Grammar} {state f n : Nat} (stack : List Nat) (hst : g.states[state]? = some (f, n)) :
    findCtx g state stack = (stack.head?.bind (ctxWithTop g f n)).or (ctxWithTop g f n 0xFFFF) := by
  unfold findCtx
  rw [hst]
  cases stack with
  | nil => rfl
  | cons t l =>
    by_cases ht : t = 0xFFFF
    · have hnone : ∀ ids : List Nat, ids.find? (fun i => (lget g.ctxs i default).top == 0xFFFF &&
          (lget g.ctxs i default).top != 0xFFFF) = none := fun ids => List.find?_eq_none.2 fun i _ => by simp
      simp only [ht, hnone, List.head?_cons, Option.bind_some, Option.or_self]
      rfl
    · have hsame : (fun i => (lget g.ctxs i default).top == t && (lget g.ctxs i default).top != 0xFFFF) =
          fun i => (lget g.ctxs i default).top == t := by
        funext i
        by_cases hi : (lget g.ctxs i default).top = t <;> simp [hi, ht]
      simp only [hsame, List.head?_cons, Option.bind_some, ctxWithTop]
      split
      next i hi => rw [hi, Option.some_or]
      next hn => rw [hn, Option.none_or]

/-- Settles O60: the context is the first record with the stack's top symbol, else the first one with 0xFFFF
(`findCtx_state`). -/
theorem grammarContextFound : Obligations.GrammarContextFound := by
  unfold Obligations.GrammarContextFound
  intro g state f n stack hst
  rw [findCtx_state stack hst]
  refine ⟨fun i hi => ?found, fun t i hhead hown htop => ?ofTop, fun i hown htop => ?ofAny, fun hno => ?absent⟩
  case found =>
    rcases Option.or_eq_some_iff.1 hi with hi | ⟨-, hi⟩
    · obtain ⟨t, hhead, hi⟩ := Option.bind_eq_some_iff.1 hi
      obtain ⟨hown, htop⟩ := ctxWithTop_some hi
      exact ⟨hown, .inl (hhead.trans (congrArg some htop.symm))⟩
    · obtain ⟨hown, htop⟩ := ctxWithTop_some hi
      exact ⟨hown, .inr htop⟩
  case ofTop =>
    obtain ⟨j, hj⟩ := Option.isSome_iff_exists.1 (ctxWithTop_isSome hown htop)
    exact ⟨j, by rw [hhead, Option.bind_some, hj, Option.some_or], (ctxWithTop_some hj).2⟩
  case ofAny => simp [ctxWithTop_isSome hown htop]
  case absent =>
    have htopNone : stack.head?.bind (ctxWithTop g f n) = none := by
      cases hhead : stack.head? with
      | none => rfl
      | some t => exact ctxWithTop_eq_none.2 fun i hown htop => (hno i hown).2 (hhead.trans (congrArg some htop.symm))
    rw [htopNone, Option.none_or, ctxWithTop_eq_none]
    exact fun i hown => (hno i hown).1

end Sys2Proof.Machine
end

section
/-! PROOF. Tokeniser engines, models warmed and evicted, hot entries (O50): R56, R201, R203, R215, R264, R278. -/
namespace Sys2Proof.Machine

/-! ### Tokeniser engines (R215) -/

/-- A query goes on once none of its inputs is with an engine or waits for one; a dead one ends (R56, R215, R264). -/
theorem tokeniseDone_query {s : State} {seq : Nat} {q : Query} (hq : queryOf s seq = some q)
    (hheld : s.copper.engines.contains seq = true) : execTokeniseDone seq s = .next (
      let u := leaveEngine s seq
      if queryDead u q = true then endQuery u seq (ans stNoTenant)
      else if u.copper.engines.contains seq = true ∨ u.copper.waiting.contains seq = true then u
      else if q.stage = 0 then queryTokens u q else if q.stage = 4 then rerankStart u q
      else if q.stage = 5 then packDone u q else u) := by
  unfold execTokeniseDone
  rw [hq]
  dsimp only
  rw [if_pos hheld]
  simp only [tokenising, Bool.or_eq_true]

theorem tokeniseDone_notHeld {s : State} {seq : Nat} {q : Query} (hq : queryOf s seq = some q)
    (hfree : s.copper.engines.contains seq = false) : execTokeniseDone seq s = .next s := by
  unfold execTokeniseDone
  rw [hq]
  dsimp only
  rw [hfree, if_neg Bool.false_ne_true]

theorem tokeniseDone_noQuery {s : State} {seq : Nat} (hq : queryOf s seq = none) :
    execTokeniseDone seq s = .next (tokeniseAppend s seq) := by
  unfold execTokeniseDone
  rw [hq]

theorem tokeniseAppend_job {s : State} {seq : Nat} {j : Job} (hj : jobOf s seq = some j) :
    tokeniseAppend s seq = if s.copper.engines.contains seq = true then appendTokens s j else s := by
  unfold tokeniseAppend
  rw [hj]

theorem tokeniseAppend_noJob {s : State} {seq : Nat} (hj : jobOf s seq = none) : tokeniseAppend s seq = s := by
  unfold tokeniseAppend
  rw [hj]

/-! ### A fold that changes nothing -/

theorem foldl_eq_self {α β : Type} {f : β → α → β} {b : β} {l : List α} (hf : ∀ a ∈ l, f b a = b) : l.foldl f b = b :=
  List.foldlRecOn l f (motive := fun c => c = b) rfl fun c hc a ha => by rw [hc, hf a ha]

/-! ### Warming (R201) -/

/-- A reply sent leaves the models alone. -/
@[simp] theorem complete_models (s : State) (seq : Nat) (a : Ans) : (complete s seq a).models = s.models := by
  cases hj : jobOf s seq with
  | none => simp only [complete, hj]
  | some j =>
    cases hr : cmdRec s seq with
    | none => simp only [complete, hj, hr]
    | some r => rw [complete_found a hj hr, finishReply_eq, emit_frame, beforeSend_eq, jobEnded_frame]

theorem modelOf_setModel {s : State} {m : Nat} {x : Model} (f : Model → Model) (hm : modelOf s m = some x) :
    modelOf { s with models.models := tmod s.models.models m f } m = some (f x) := by
  rw [modelOf, tget_tmod, if_pos rfl, show tget s.models.models m = some x from hm]
  rfl

/-- The state in which model `m` is RESIDENT. -/
def madeResident (s : State) (m : Nat) : State :=
  { s with models.models := tmod s.models.models m fun y => { y with st := 2 } }

/-- The MODEL_WARM command of a job completes with the home die and the time taken, if it is one of model `m` (R201). -/
def completeWarm (m homeDie : Nat) (s : State) (j : Job) : State :=
  if j.kind = .warm m then complete s j.seq (ansB (lay [(1, homeDie), (3, 0), (4, usSince s j.acceptedAt)])) else s

theorem completeWarm_models (m homeDie : Nat) (s : State) (j : Job) : (completeWarm m homeDie s j).models = s.models := by
  unfold completeWarm
  split
  · exact complete_models _ _ _
  · rfl

theorem warmDone_landed {s : State} {m : Nat} {x : Model} (hm : modelOf s m = some x) (hwarming : x.st = 1) (hasked : x.asked = true)
    (hlanded : s.oast.reads.any (fun r => r.what == .warm m) = false) :
    warmDone s m = s.gl.jobs.foldl (completeWarm m x.homeDie) (madeResident s m) := by
  unfold warmDone
  rw [hm]
  exact if_pos ⟨hwarming, hasked, hlanded⟩

theorem warmDone_waits {s : State} {m : Nat} {x : Model} (hm : modelOf s m = some x)
    (hn : x.st ≠ 1 ∨ x.asked = false ∨ s.oast.reads.any (fun r => r.what == .warm m) = true) : warmDone s m = s := by
  unfold warmDone
  rw [hm]
  refine if_neg fun ⟨hwarming, hasked, hlanded⟩ => ?_
  rcases hn with hn | hn | hn
  · exact hn hwarming
  · exact Bool.false_ne_true (hn.symm.trans hasked)
  · exact Bool.false_ne_true (hlanded.symm.trans hn)

theorem modelOf_warmDone {s : State} {m : Nat} {x : Model} (homeDie : Nat) (hm : modelOf s m = some x) :
    (modelOf (s.gl.jobs.foldl (completeWarm m homeDie) (madeResident s m)) m).map (·.st) = some 2 := by
  have hkept : (s.gl.jobs.foldl (completeWarm m homeDie) (madeResident s m)).models = (madeResident s m).models :=
    List.foldlRecOn _ _ (motive := fun t => t.models = (madeResident s m).models) rfl
      fun t ht j _ => (completeWarm_models m homeDie t j).trans ht
  have hres : modelOf (madeResident s m) m = some { x with st := 2 } := modelOf_setModel _ hm
  rw [modelOf, hkept]
  exact congrArg (Option.map (·.st)) hres

/-! ### Evicting (R203) -/

theorem evictDone_waits {s : State} {m : Nat} {x : Model} (hm : modelOf s m = some x) (hn : x.st ≠ 3 ∨ modelInUse s m = true) :
    evictDone s m = s := by
  unfold evictDone
  rw [hm]
  refine if_neg fun ⟨hevicting, hunused⟩ => ?_
  rcases hn with hn | hn
  · exact hn hevicting
  · exact Bool.false_ne_true (hunused.symm.trans hn)

theorem evictDone_unused {s : State} {m : Nat} {x : Model} (hm : modelOf s m = some x) (hevicting : x.st = 3)
    (hunused : modelInUse s m = false) :
    let f := x.runs.foldl (fun s r => freeRun s r.1 r.2) s
    evictDone s m = evictedGoOn { f with models.models := tmod f.models.models m fun y => { y with st := 0, runs := [] } } m := by
  unfold evictDone
  rw [hm]
  exact if_pos ⟨hevicting, hunused⟩

/-- Where no eviction, warm or revive waits for the model, its eviction changes nothing more. -/
theorem evictedGoOn_none {u : State} {m : Nat} (hjobs : ∀ j ∈ u.gl.jobs, j.kind ≠ .evict m ∧ j.kind ≠ .warm m)
    (hsess : ∀ p ∈ u.cellar.sess, p.2.model ≠ m ∨ p.2.reviving = false) : evictedGoOn u m = u := by
  unfold evictedGoOn
  dsimp only
  rw [foldl_eq_self (l := u.gl.jobs) fun j hj => if_neg (hjobs j hj).1,
    foldl_eq_self (l := u.gl.jobs) fun j hj => if_neg (hjobs j hj).2]
  refine foldl_eq_self fun p hp => if_neg fun ⟨hmodel, hrev⟩ => ?_
  rcases hsess p hp with hn | hn
  · exact hn hmodel
  · exact Bool.false_ne_true (hn.symm.trans hrev)

/-! ### Hot entries (R278) -/

theorem chargeRows_rows (s : State) (x : RowTable) (n : Nat) : (chargeRows s x n).rows = s.rows := by
  rw [chargeRows, tick_rows, charge_frame, charge_frame]

/-- The table with the entries that were missing valid, each with its row's contents (R278). -/
theorem installHot_found {s : State} {t : Nat} {x : RowTable} (ht : tableOf s t = some x) :
    (tableOf (installHot s t) t).map (·.hot) =
        some (x.hot.filter (fun e => !(hotMissing s x).any fun k => k.1 == e.group && k.2 == e.row) ++
          (hotMissing s x).map fun k => { group := k.1, row := k.2, valid := true, cells := rowAt x k.2 }) ∧
      (installHot s t).rows.refreshRows = ctrAdd s.rows.refreshRows (hotMissing s x).length := by
  unfold installHot
  rw [ht]
  dsimp only [tableOf, modTable]
  rw [chargeRows_rows, tget_tmod, if_pos rfl, show tget s.rows.tables t = some x from ht]
  exact ⟨rfl, rfl⟩

theorem hotRefresh_table {s : State} {t : Nat} {x : RowTable} (ht : tableOf s t = some x) :
    execHotRefresh t s = .next (if rowsFree s x = true then installHot s t else rowsHold s x) := by
  unfold execHotRefresh
  rw [ht]

/-! ### The statement -/

/-- Settles O50: the end of a tokeniser engine's input, of a warm, of an eviction and of a hot set's refresh. -/
theorem enginesAndModels : Obligations.EnginesAndModels := by
  unfold Obligations.EnginesAndModels
  refine fun s => ⟨fun seq q hq => ⟨fun hheld => ⟨rfl, tokeniseDone_query hq hheld⟩, tokeniseDone_notHeld hq⟩,
    fun seq hq => ⟨fun j hj => ?append, fun hj => ?gone⟩,
    fun m x hm => ⟨fun hwarming hasked hlanded => ?warm, fun hn => ?warmWaits, fun hn => ?evictWaits,
      fun hevicting hunused => ⟨?evict, evictedGoOn_none⟩⟩,
    fun t x ht => ⟨fun hfree => ?refresh, fun hheld => ?refreshWaits⟩⟩
  case append => rw [exec_tokeniseDone, tokeniseDone_noQuery hq, tokeniseAppend_job hj]
  case gone => rw [exec_tokeniseDone, tokeniseDone_noQuery hq, tokeniseAppend_noJob hj]
  case warm =>
    exact ⟨_, congrArg Host.Outcome.next (warmDone_landed hm hwarming hasked hlanded), modelOf_warmDone x.homeDie hm, rfl⟩
  case warmWaits => exact congrArg Host.Outcome.next (warmDone_waits hm hn)
  case evictWaits => exact congrArg Host.Outcome.next (evictDone_waits hm hn)
  case evict => exact congrArg Host.Outcome.next (evictDone_unused hm hevicting hunused)
  case refresh =>
    rw [exec_hotRefresh, hotRefresh_table ht, if_pos hfree]
    exact ⟨_, rfl, installHot_found ht⟩
  case refreshWaits => rw [exec_hotRefresh, hotRefresh_table ht, hheld, if_neg Bool.false_ne_true]

end Sys2Proof.Machine
end

section
/-! PROOF. CORPUS_PUBLISH, SHARD_MAP_SET and CORPUS_DELETE (O22): R243 to R245, R254. -/
namespace Sys2Proof.Machine

/-! ### Conditions over a list -/

@[simp] theorem clear_map {α β : Type} (l : List β) (f : β → Bool × α) : Clear (l.map f) ↔ ∀ b ∈ l, (f b).1 = false := by
  simp [Clear]

@[simp] theorem clear_flatMap {α β : Type} (l : List β) (f : β → List (Bool × α)) :
    Clear (l.flatMap f) ↔ ∀ b ∈ l, Clear (f b) :=
  ⟨fun hl b hb p hp => hl p (List.mem_flatMap.mpr ⟨b, hb, hp⟩), fun hf p hp =>
    let ⟨b, hb, hm⟩ := List.mem_flatMap.mp hp
    hf b hb p hm⟩

/-! ### Corpora and shards -/

/-- A corpus of the packet's tenant passes its check (R38, R54). -/
theorem corpusBad_own {v : State} {h : Hdr} {corpus : Nat} {c : Corpus} (hc : corpusOf v corpus = some c)
    (hten : c.tenant = h.tenant) : corpusBad v h corpus = false := by
  unfold corpusBad
  rw [hc]
  simp [hten]

theorem shardOf_corpus {v : State} {corpus : Nat} {c : Corpus} (shard : Nat) (hc : corpusOf v corpus = some c) :
    shardOf v corpus shard = tget c.shards shard := by
  rw [shardOf, hc, Option.bind_some]

theorem shardBad_held {v : State} {corpus shard : Nat} {sh : Shard} (hsh : shardOf v corpus shard = some sh) :
    shardBad v corpus shard = false := by
  rw [shardBad, hsh, Option.isNone_some, Bool.and_false]

theorem pubLow_above {v : State} {corpus shard pub : Nat} {sh : Shard} (hsh : shardOf v corpus shard = some sh)
    (hpub : sh.ph < pub) : pubLow v corpus shard pub = false := by
  unfold pubLow
  rw [hsh]
  exact decide_eq_false (Nat.not_le.mpr hpub)

theorem corpusOf_modCorpus (s : State) (corpus : Nat) (f : Corpus → Corpus) :
    corpusOf (modCorpus s corpus f) corpus = (corpusOf s corpus).map f := by
  rw [corpusOf, modCorpus, tget_tmod, if_pos rfl, corpusOf]

theorem shardOf_modShard (s : State) (corpus shard : Nat) (f : Shard → Shard) :
    shardOf (modShard s corpus shard f) corpus shard = (shardOf s corpus shard).map f := by
  unfold shardOf modShard
  rw [corpusOf_modCorpus]
  cases corpusOf s corpus with
  | none => rfl
  | some c => exact (tget_tmod _ _ _ _).trans (if_pos rfl)

/-! ### CORPUS_PUBLISH (R244) -/

/-- The sequence a publication may not go below: the corpus's where it names no shard, otherwise its shard's. -/
def publishFloor (c : Corpus) (shard : Nat) : Nat := if shard = 65535 then c.pc else ((tget c.shards shard).map (·.ph)).getD 0

/-- `v` with the published sequence of its shard, if the publication names one, and the corpus's moved up to `pub`. -/
def published (v : State) (corpus shard pub : Nat) : State :=
  modCorpus (if shard = 65535 then v else modShard v corpus shard fun x => { x with ph := pub }) corpus
    fun x => { x with pc := max x.pc pub }

theorem corpusPublish_taken {s : State} {h : Hdr} {corpus shard pub : Nat} {c : Corpus}
    (hready : Ready s (.corpusPublish h corpus shard pub)) (hc : corpusOf (takeFromBuffer s h) corpus = some c)
    (hten : c.tenant = h.tenant) (hshard : shard ≠ 65535 → (tget c.shards shard).isSome = true)
    (hpub : publishFloor c shard ≤ pub) :
    exec (.corpusPublish h corpus shard pub) s = .next (finalOn (published (takeFromBuffer s h) corpus shard pub) h 0x0304 (ansB [])) := by
  refine congrArg Host.Outcome.next (sync_final (hready.fit rfl) ?_ rfl rfl)
  change Clear _
  simp only [clear_cons, clear_nil, and_true, corpusBad_own hc hten, true_and, hc]
  unfold publishFloor at hpub
  by_cases hnone : shard = 65535
  · simpa [hnone] using hpub
  · obtain ⟨sh, hsh⟩ := Option.isSome_iff_exists.mp (hshard hnone)
    simpa [hnone, shardBad_held ((shardOf_corpus shard hc).trans hsh)] using hpub

/-! ### SHARD_MAP_SET (R254) -/

theorem shardMapSet_taken {s : State} {h : Hdr} {corpus count : Nat} {es : List ShardEntry} {c : Corpus}
    (hready : Ready s (.shardMapSet h corpus count es)) (hc : corpusOf (takeFromBuffer s h) corpus = some c)
    (hten : c.tenant = h.tenant) (hcount : count ≤ 4096)
    (hentries : ∀ e ∈ es, e.shard < 65535 ∧ 0 < e.owner ∧ e.owner < 65535 ∧ e.replica ≠ 65535) :
    exec (.shardMapSet h corpus count es) s =
      .next (finalOn (modCorpus (takeFromBuffer s h) corpus fun x => { x with map := some es }) h 0x0305 (ansB [])) := by
  refine congrArg Host.Outcome.next (sync_final (hready.fit rfl) ?_ rfl rfl)
  refine (clear_append _ _).mpr ⟨?header, (clear_flatMap _ _).mpr fun i _ => ?entry⟩
  case header => simpa [corpusBad_own hc hten] using hcount
  case entry =>
    cases he : es[i]? with
    | none => exact clear_nil
    | some e =>
      obtain ⟨hshard, howner, hpeer, hreplica⟩ := hentries e (List.mem_of_getElem? he)
      have hok : peerOk e.owner = true := by simp only [peerOk, Bool.and_eq_true, decide_eq_true_eq]; omega
      simpa [hok, hreplica] using hshard

/-! ### CORPUS_DELETE (R243, R245) -/

theorem corpusDelete_taken {s : State} {h : Hdr} {corpus shard count pub : Nat} {nodes : List Nat} {c : Corpus} {sh : Shard}
    (hready : Ready s (.corpusDelete h corpus shard count pub nodes)) (hc : corpusOf (takeFromBuffer s h) corpus = some c)
    (hten : c.tenant = h.tenant) (hsh : tget c.shards shard = some sh) (hpub : sh.ph < pub) (hnodes : ∀ n ∈ nodes, n < 0xFFFFFF00) :
    exec (.corpusDelete h corpus shard count pub nodes) s = .next (finalOn (degradeCheck
      (nodes.foldl (fun s y => deleteNode s corpus shard pub y) (takeFromBuffer s h)) corpus shard) h 0x0303 (ansB [])) := by
  have hheld := (shardOf_corpus shard hc).trans hsh
  refine congrArg Host.Outcome.next (sync_final (hready.fit rfl) ?_ rfl rfl)
  refine (clear_append _ _).mpr ⟨?header, (clear_map _ _).mpr fun i hi => ?node⟩
  case header => simp [corpusBad_own hc hten, shardBad_held hheld, pubLow_above hheld hpub]
  case node =>
    have hlt : i < nodes.length := List.mem_range.mp hi
    have hid : lget nodes i 0 = nodes[i] := List.getD_eq_getElem nodes 0 hlt
    dsimp only
    rw [hid]
    exact decide_eq_false (Nat.not_le.mpr (hnodes _ (List.getElem_mem hlt)))

/-- A node removed at `pub`, or at the lower sequence already named for it (R243). -/
def removedAt (pub : Nat) (n : LNode) : LNode := { n with del := some (min pub (n.del.getD pub)) }

/-- Deleting a node of a shard changes that node of the shard. -/
theorem shardOf_deleteNode {s : State} {corpus shard y : Nat} {sh : Shard} {n : LNode} (pub : Nat)
    (hsh : shardOf s corpus shard = some sh) (hn : tget sh.nodes y = some n) :
    shardOf (deleteNode s corpus shard pub y) corpus shard = some { sh with nodes := tmod sh.nodes y (removedAt pub) } := by
  unfold deleteNode
  rw [hsh, Option.bind_some, hn]
  exact (shardOf_modShard _ _ _ _).trans (by rw [hsh]; rfl)

/-- An id the shard does not hold only counts a miss. -/
theorem deleteNode_absent {s : State} {corpus shard y : Nat} {sh : Shard} (pub : Nat) (hsh : shardOf s corpus shard = some sh)
    (hn : tget sh.nodes y = none) :
    deleteNode s corpus shard pub y = { s with lauter.cnt.delMiss := ctrAdd s.lauter.cnt.delMiss 1 } := by
  unfold deleteNode
  rw [hsh, Option.bind_some, hn]

/-- Settles O22: the parameters of each command pass, so it answers OK after its effect (`corpusPublish_taken`,
`shardMapSet_taken`, `corpusDelete_taken`), and deleting one node is `shardOf_deleteNode` or `deleteNode_absent`. -/
theorem corpusCommandsAnswer : Obligations.CorpusCommandsAnswer := by
  unfold Obligations.CorpusCommandsAnswer
  constructor
  · rintro s v h corpus c rfl hc hten
    refine ⟨fun shard pub sh hready hne hsh hpub => ?shard, fun pub hready hpub => ?corpus,
      fun count es hready hcount hentries => shardMapSet_taken hready hc hten hcount hentries,
      fun shard count pub nodes sh hready hsh hpub hnodes => corpusDelete_taken hready hc hten hsh hpub hnodes⟩
    case shard =>
      have hfloor : publishFloor c shard = sh.ph := by rw [publishFloor, if_neg hne, hsh]; rfl
      rw [corpusPublish_taken hready hc hten (fun _ => by rw [hsh]; rfl) (by rwa [hfloor]), published, if_neg hne]
    case corpus => rw [corpusPublish_taken hready hc hten (absurd rfl) hpub, published, if_pos rfl]
  · intro s corpus shard pub y sh hsh
    refine ⟨fun n hn => ⟨?removed, fun z hz => ?others⟩, deleteNode_absent pub hsh⟩
    all_goals rw [shardOf_deleteNode pub hsh hn, Option.bind_some, tget_tmod]
    case removed => rw [if_pos rfl, hn]; rfl
    case others => rw [if_neg hz]

end Sys2Proof.Machine
end

section
/-! PROOF. LAUTER_QUERY, CORPUS_INSERT and RECALL_PROBE taken (O21): R235, R236, R239, R240, R248 to R250, R265. -/
namespace Sys2Proof.Machine

/-! ### LAUTER_QUERY (R248 to R250) -/

@[simp] theorem corpusOf_acceptOn (v : State) (h : Hdr) (c : Cmd) (kind : JobKind) (k : Nat) :
    corpusOf (acceptOn v h c kind) k = corpusOf v k := by
  rw [acceptOn_frame]
  rfl

/-- What an accepted query does: it is listed, one of a session reserves its token budget and takes its place, and its text
joins the tokeniser engines. -/
def queryStart (u : State) (h : Hdr) (q : QueryParams) : State :=
  let w := { u with lauter.queries := u.lauter.queries ++ [newQuery u h q] }
  enqueueInput (if h.session = 0 then w else
    takePlace (modSess w (idxOf h.session) fun y => { y with reserved := y.reserved + q.tokenBudget }) (idxOf h.session) h.seq true) h.seq

theorem lauterQuery_accepted {s : State} {h : Hdr} {q : QueryParams} (hready : Ready s (.lauterQuery h q))
    (hparams : Clear (queryParams (takeFromBuffer s h) h q)) (hwrong : queryWrong (takeFromBuffer s h) q = false) :
    exec (.lauterQuery h q) s = .next (queryStart (acceptOn (takeFromBuffer s h) h (row 0x0301 true 1 2) .query) h q) := by
  refine async_taken (hready.fit rfl) hparams (clear_singleton hwrong) ?_
  dsimp only
  generalize acceptOn _ _ _ _ = u
  rfl

/-! ### CORPUS_INSERT (R235, R236, R239, R240) -/

/-- A synchronous command answered in place of its work: refused where its status is one of a failed acceptance, otherwise
its FINAL reply (R39). -/
theorem late_answered {s : State} {h : Hdr} {c : Cmd} {e : Nat} {params : State → List (Bool × Nat)}
    {late : State → Option Ans} {kind : State → JobKind} {start : State → State} {a : Ans} (f : Fit s h c e)
    (hp : Clear (params (takeFromBuffer s h))) (hl : late (takeFromBuffer s h) = some a) :
    lateSync s h c e params late kind start = if failsAcceptance a.status then refuse (takeFromBuffer s h) h c.code a.status a.detail
      else finalOn (takeFromBuffer s h) h c.code a := by
  cases hst : failsAcceptance a.status with
  | true =>
    unfold lateSync
    rw [admit_fit f _ _ hp]
    dsimp only
    rw [hl]
    exact (if_pos hst).trans (if_pos rfl).symm
  | false => rw [late_final f hp hl hst, if_neg Bool.false_ne_true]

/-- The job of an insert: a configuration record's fetches its objects, one of items writes them. -/
def insertKind (corpus shard pub : Nat) (tail : List Byte) : JobKind :=
  if fld tail 4 1 = 1 then .corpusCfg corpus shard (objRefAt tail 64) tail else .insert corpus shard pub 0 []

theorem corpusInsert_held {s : State} {h : Hdr} {corpus shard count pub : Nat} {tail : List Byte}
    (hready : Ready s (.corpusInsert h corpus shard count pub tail)) (hpub : pubLow (takeFromBuffer s h) corpus shard pub = false)
    (hlate : insertLate (takeFromBuffer s h) h corpus shard count tail = none) :
    exec (.corpusInsert h corpus shard count pub tail) s = .next (insertStart
      (heldOn (takeFromBuffer s h) h (row 0x0302 false 1 0) (insertKind corpus shard pub tail)) h corpus shard count pub tail) :=
  congrArg Host.Outcome.next (late_held (hready.fit rfl) (clear_singleton hpub) hlate)

theorem corpusInsert_answered {s : State} {h : Hdr} {corpus shard count pub : Nat} {tail : List Byte} {a : Ans}
    (hready : Ready s (.corpusInsert h corpus shard count pub tail)) (hpub : pubLow (takeFromBuffer s h) corpus shard pub = false)
    (hlate : insertLate (takeFromBuffer s h) h corpus shard count tail = some a) :
    exec (.corpusInsert h corpus shard count pub tail) s = .next (
      if failsAcceptance a.status then refuse (takeFromBuffer s h) h 0x0302 a.status a.detail
      else finalOn (takeFromBuffer s h) h 0x0302 a) :=
  congrArg Host.Outcome.next (late_answered (hready.fit rfl) (clear_singleton hpub) hlate)

/-! ### RECALL_PROBE (R265) -/

theorem recallProbe_accepted {s : State} {h : Hdr} {corpus shard k beam sample : Nat} {c : Corpus} {sh : Shard}
    (hready : Ready s (.recallProbe h corpus shard k beam sample)) (hc : corpusOf (takeFromBuffer s h) corpus = some c)
    (hten : c.tenant = h.tenant) (hsh : tget c.shards shard = some sh) (hk : 1 ≤ k ∧ k ≤ 1024)
    (hbeam : k ≤ beam ∧ 16 ≤ beam ∧ beam ≤ 1024) (hsample : 1 ≤ sample ∧ sample ≤ 256) :
    exec (.recallProbe h corpus shard k beam sample) s =
      .next (runProbe (acceptOn (takeFromBuffer s h) h (row 0x0306 true 1 0) (.recall corpus shard k beam sample)) h.seq) := by
  refine async_taken (hready.fit rfl) ?params clear_nil rfl
  simp only [clear_cons, clear_nil, and_true, corpusBad_own hc hten, shardBad_held ((shardOf_corpus shard hc).trans hsh), true_and,
    Bool.or_eq_false_iff, decide_eq_false_iff_not]
  omega

/-! ### The statement -/

/-- Settles O21: a query and a probe are accepted (`lauterQuery_accepted`, `recallProbe_accepted`); an insert is held or
answered at once (`corpusInsert_held`, `corpusInsert_answered`). -/
theorem queriesInsertsAndProbes : Obligations.QueriesInsertsAndProbes := by
  unfold Obligations.QueriesInsertsAndProbes
  constructor
  · rintro s v h q hready rfl hparams hwrong
    refine ⟨?snapshot, rfl, rfl, lauterQuery_accepted hready hparams hwrong⟩
    rw [← corpusOf_acceptOn]
    rfl
  · rintro s v h corpus shard rfl
    refine ⟨fun count pub tail hready hpub hlate hitems => ?items, fun count pub tail hready hpub hcfg => ?configuration,
      fun k beam sample c sh hready hc hten hsh hk hk' hbeam hbeam' hbeam'' hsample hsample' =>
        recallProbe_accepted hready hc hten hsh ⟨hk, hk'⟩ ⟨hbeam, hbeam', hbeam''⟩ ⟨hsample, hsample'⟩⟩
    case items => rw [corpusInsert_held hready hpub hlate, insertKind, if_neg hitems]
    case configuration =>
      cases hlate : insertLate (takeFromBuffer s h) h corpus shard count tail with
      | some a => exact corpusInsert_answered hready hpub hlate
      | none => rw [corpusInsert_held hready hpub hlate, insertKind, if_pos hcfg]

end Sys2Proof.Machine
end

section
/-! PROOF. ROW_LOOKUP, ROW_UPDATE and HOTSET_SET taken (O24) and the replacement of a table's rows (O25): R275 to R280, R283,
R284. -/
namespace Sys2Proof.Machine

/-! ### Parameters that pass -/

theorem tableMissing_clear {v : State} {table : Nat} {x : RowTable} (ht : tableOf v table = some x) :
    Clear (tableMissing v table) :=
  clear_singleton (by rw [ht]; rfl)

/-- Rows that all lie in a table of `n` rows pass the check on the rows a command names. -/
theorem rowsNamed_clear {α : Type} {l : List α} {rowOf : α → Nat} {n : Nat} (o : Nat) (hrows : ∀ r ∈ l, rowOf r < n) :
    Clear [(l.any fun r => decide (rowOf r ≥ n), o)] :=
  clear_singleton (List.any_eq_false.mpr fun r hr => by simpa using hrows r hr)

/-! ### Row work (R275 to R280) -/

theorem rowLookup_held {s : State} {h : Hdr} {table pooling bags : Nat} {lens idx : List Nat} {x : RowTable}
    (hready : Ready s (.rowLookup h table pooling bags lens idx)) (ht : tableOf (takeFromBuffer s h) table = some x)
    (hlate : tableLate (takeFromBuffer s h) h table true = none) (hpooling : pooling ≤ 2) (hbags : 1 ≤ bags ∧ bags ≤ 4096)
    (hlens : ∀ n ∈ lens, n ≤ 1024) (hsum : sumOver 0 0 lens = none) (hrows : ∀ r ∈ idx, r < x.rows) :
    exec (.rowLookup h table pooling bags lens idx) s = .next (startRows (heldOn (takeFromBuffer s h) h (row 0x0402 false 1 0)
      (.rows table (.lookup pooling lens idx))) table) := by
  refine congrArg Host.Outcome.next (late_held (hready.fit rfl) (?params : Clear _) hlate)
  rw [ht, clear_append, clear_append]
  refine ⟨⟨tableMissing_clear ht, ?fields⟩, rowsNamed_clear _ hrows⟩
  simp only [clear_cons, clear_nil, and_true, hsum, Option.isSome_none, Bool.or_eq_false_iff, decide_eq_false_iff_not,
    List.any_eq_false, decide_eq_true_eq, not_lt]
  exact ⟨hpooling, by omega, hlens⟩

theorem rowUpdate_held {s : State} {h : Hdr} {table count : Nat} {lr : F32} {recs : List (Nat × List H16)} {x : RowTable}
    (hready : Ready s (.rowUpdate h table count lr recs)) (ht : tableOf (takeFromBuffer s h) table = some x)
    (hlate : tableLate (takeFromBuffer s h) h table true = none) (hcount : 1 ≤ count) (hfinite : bits lr.toNat 30 23 ≠ 255)
    (hrows : ∀ r ∈ recs, r.1 < x.rows) :
    exec (.rowUpdate h table count lr recs) s = .next (startRows (heldOn (takeFromBuffer s h) h (row 0x0403 false 1 0)
      (.rows table (.update lr recs))) table) := by
  refine congrArg Host.Outcome.next (late_held (hready.fit rfl) (?params : Clear _) hlate)
  rw [ht, clear_append, clear_append]
  refine ⟨⟨tableMissing_clear ht, ?fields⟩, rowsNamed_clear _ hrows⟩
  simpa [hfinite] using Nat.one_le_iff_ne_zero.mp hcount

/-- A hot set is held if, beside its parameters, its rows fit the hot area of the die (R277). -/
theorem hotsetSet_held {s : State} {h : Hdr} {table us count : Nat} {rows : List Nat} {x : RowTable}
    (hready : Ready s (.hotsetSet h table us count rows)) (ht : tableOf (takeFromBuffer s h) table = some x)
    (hlate : tableLate (takeFromBuffer s h) h table true = none) (hus : 100 ≤ us ∧ us ≤ 60000000) (hcount : count ≤ 1048576)
    (hrows : ∀ r ∈ rows, r < x.rows)
    (hfits : hotFits (takeFromBuffer s h) table x
      (rows.foldl (fun acc r => if acc.contains r then acc else r :: acc) []).length = true) :
    exec (.hotsetSet h table us count rows) s = .next (startRows (heldOn (takeFromBuffer s h) h (row 0x0407 false 1 0)
      (.rows table (.hotset us rows))) table) := by
  refine congrArg Host.Outcome.next (late_held (hready.fit rfl) (?params : Clear _) ?late)
  case params =>
    rw [ht, clear_append, clear_append]
    refine ⟨⟨tableMissing_clear ht, ?_⟩, rowsNamed_clear _ hrows⟩
    simp only [clear_cons, clear_nil, and_true, Bool.or_eq_false_iff, decide_eq_false_iff_not]
    omega
  case late =>
    rw [hlate, ht]
    exact if_pos hfits

/-- Settles O24: the parameters of each command pass and nothing later refuses it, so it is held and joins its table's row work
(`rowLookup_held`, `rowUpdate_held`, `hotsetSet_held`). -/
theorem rowWorkTaken : Obligations.RowWorkTaken := by
  unfold Obligations.RowWorkTaken
  rintro s v h table x rfl ht hlate
  exact ⟨fun pooling bags lens idx hready hpooling hbags hbags' hlens hsum hrows =>
      rowLookup_held hready ht hlate hpooling ⟨hbags, hbags'⟩ hlens hsum hrows,
    fun count lr recs hready hcount hfinite hrows => rowUpdate_held hready ht hlate hcount hfinite hrows,
    fun us count rows hready hus hus' hcount hrows hfits => hotsetSet_held hready ht hlate ⟨hus, hus'⟩ hcount hrows hfits⟩

/-! ### Replacement (R283, R284) -/

/-- BEGIN of a table with no replacement open takes the runs of the shadow's rows and of its map of rows written. -/
theorem tableReplaceBegin_taken {s w : State} {h : Hdr} {table : Nat} {x : RowTable} {rs : List Run}
    (hready : Ready s (.tableReplaceBegin h table)) (ht : tableOf (takeFromBuffer s h) table = some x)
    (hlate : tableLate (takeFromBuffer s h) h table false = none) (hcommit : x.commit = none) (hshadow : x.shadow = none)
    (hruns : takeRuns (takeFromBuffer s h) x.die x.tenant x.slice
      (weightOrders (x.rows * roundUp (4 * ceilDiv (rowBytes x.format x.dim) 4) 64 + ceilDiv x.rows 8)) = some (rs, w)) :
    exec (.tableReplaceBegin h table) s =
      .next (finalOn (modTable w table fun y => { y with shadow := some [], shadowRuns := rs }) h 0x0404 (ansB [])) := by
  refine congrArg Host.Outcome.next (sync_final (hready.fit rfl) (tableMissing_clear ht) ?run rfl)
  rw [hlate, ht]
  simp only [hcommit, hshadow, hruns, Option.isSome_none, Bool.false_eq_true, if_false]

/-- ROWS of a table with a shadow and no commit under way writes the shadow's rows it brings. -/
theorem tableReplaceRows_taken {s : State} {h : Hdr} {table count first : Nat} {rows : List (List Byte)} {x : RowTable}
    {sh : Tab (H16 × H16 × List Nat)} (hready : Ready s (.tableReplaceRows h table count first rows))
    (ht : tableOf (takeFromBuffer s h) table = some x) (hlate : tableLate (takeFromBuffer s h) h table false = none)
    (hcount : 1 ≤ count) (hlast : first + count ≤ x.rows) (hcommit : x.commit = none) (hshadow : x.shadow = some sh) :
    exec (.tableReplaceRows h table count first rows) s = .next (finalOn (modTable (takeFromBuffer s h) table fun y => { y with
      shadow := some ((List.range rows.length).foldl (fun m i => tput m (first + i) (readRow x (lget rows i []))) sh) })
      h 0x0405 (ansB [])) := by
  refine congrArg Host.Outcome.next (sync_final (hready.fit rfl) (?params : Clear _) ?run rfl)
  case params =>
    rw [ht, clear_append]
    refine ⟨tableMissing_clear ht, ?_⟩
    simp only [clear_cons, clear_nil, and_true, decide_eq_false_iff_not]
    omega
  case run =>
    rw [hlate, ht]
    dsimp only
    rw [hcommit, hshadow]

/-- COMMIT of a table with a shadow and no commit under way is accepted and begins the walk at row 0. -/
theorem tableReplaceCommit_accepted {s : State} {h : Hdr} {table : Nat} {x : RowTable}
    (hready : Ready s (.tableReplaceCommit h table)) (ht : tableOf (takeFromBuffer s h) table = some x)
    (hlate : tableLate (takeFromBuffer s h) h table true = none) (hcommit : x.commit = none) (hshadow : x.shadow.isSome = true) :
    exec (.tableReplaceCommit h table) s = .next (walkCommit (modTable
      (acceptOn (takeFromBuffer s h) h (row 0x0406 true 1 0) (.replace table 0)) table fun y => { y with commit := some 0 }) table) := by
  refine async_taken (hready.fit rfl) (tableMissing_clear ht) ?late rfl
  rw [hlate, ht]
  exact clear_singleton (by rw [Option.isNone_eq_false_iff.mpr hshadow, hcommit]; rfl)

/-- Settles O25: the parameters of each command pass and its table's shadow and commit allow it (`tableReplaceBegin_taken`,
`tableReplaceRows_taken`, `tableReplaceCommit_accepted`). -/
theorem tableReplacement : Obligations.TableReplacement := by
  unfold Obligations.TableReplacement
  rintro s v h table x rfl ht
  exact ⟨fun rs w hready hlate hcommit hshadow hruns => tableReplaceBegin_taken hready ht hlate hcommit hshadow hruns,
    fun count first rows sh hready hlate hcount hlast hcommit hshadow =>
      tableReplaceRows_taken hready ht hlate hcount hlast hcommit hshadow,
    fun hready hlate hcommit hshadow => tableReplaceCommit_accepted hready ht hlate hcommit hshadow⟩

end Sys2Proof.Machine
end

section
/-! PROOF. What the statements of the Oast and the platform share: an element of a list changed, a LUN changed, the device of a packet's
state, the record of an event in the log. -/
namespace Sys2Proof.Machine

theorem dev_take (s : State) (h : Hdr) : (takeFromBuffer s h).dev = s.dev := by
  rw [takeFromBuffer_eq]
  rfl

/-! ### An element of a list changed -/

theorem lget_lmod_self {α : Type} {l : List α} {i : Nat} (f : α → α) (d : α) (hi : i < l.length) :
    lget (lmod l i f) i d = f (lget l i d) := by
  induction l generalizing i with
  | nil => cases hi
  | cons a l ih =>
    cases i with
    | zero => rfl
    | succ i => exact ih (Nat.lt_of_succ_lt_succ hi)

@[simp] theorem length_lmod {α : Type} (l : List α) (i : Nat) (f : α → α) : (lmod l i f).length = l.length := by
  induction l generalizing i with
  | nil => rfl
  | cons a l ih =>
    cases i with
    | zero => rfl
    | succ i => exact congrArg (· + 1) (ih i)

theorem lunAt_modLun_self {s : State} {i : Nat} (f : Lun → Lun) (hi : i < s.oast.luns.length) :
    lunAt (modLun s i f) i = f (lunAt s i) :=
  lget_lmod_self f default hi

/-! ### The record of an event (R58) -/

theorem emit_log (s : State) (p : Nat) (r : Bool) (c : Content) : (emit s p r c).gl.log = s.gl.log := by
  unfold emit
  split
  · exact sendOn_log _ _ _ _
  split
  · exact sendOn_log _ _ _ _
  split <;> rfl

/-- An event's record is written to the log, and then sent or not (R58, R467). -/
theorem raise_eq (s : State) (code tenant session : Nat) (fields : List (Nat × Nat)) :
    let e := eventOf s code tenant session fields
    raise s code tenant session fields =
      if decide (code ≤ 2) = true then
        if (portUp s 0 && portUp s 1) = true then emit (emit (logged s e) 0 false (.event e)) 1 false (.event e)
        else emit (logged s e) 0 false (.event e)
      else if evMasked s code = true then logged s e else emit (logged s e) s.gl.eventPort false (.event e) := rfl

/-- Whether and where the record is sent, the log is the one it was written to. -/
theorem raise_log (s : State) (code tenant session : Nat) (fields : List (Nat × Nat)) :
    (raise s code tenant session fields).gl.log = (logged s (eventOf s code tenant session fields)).gl.log := by
  rw [raise_eq]
  split
  · split
    · exact (emit_log _ _ _ _).trans (emit_log _ _ _ _)
    · exact emit_log _ _ _ _
  · split
    · rfl
    · exact emit_log _ _ _ _

/-- The log ends with the record just written. -/
theorem raise_log_last (s : State) (code tenant session : Nat) (fields : List (Nat × Nat)) :
    ∃ l, (raise s code tenant session fields).gl.log = l ++ [eventOf s code tenant session fields] := by
  rw [raise_log]
  unfold logged
  dsimp only
  split
  next hfull =>
    have hring : Config.eventLogLen = 65536 := rfl
    rw [List.length_append, List.length_singleton, hring] at hfull
    exact ⟨s.gl.log.drop 1, List.drop_append_of_le_length (by omega)⟩
  · exact ⟨s.gl.log, rfl⟩

/-- The record a log ends with is still in it after the next event. -/
theorem mem_raise_log {s : State} {l : List EventRec} {e : EventRec} (hlog : s.gl.log = l ++ [e]) (code tenant session : Nat)
    (fields : List (Nat × Nat)) : e ∈ (raise s code tenant session fields).gl.log := by
  rw [raise_log]
  unfold logged
  dsimp only
  rw [hlog]
  split
  next hfull =>
    have hring : Config.eventLogLen = 65536 := rfl
    simp only [List.length_append, List.length_singleton, hring] at hfull
    rw [List.append_assoc, List.drop_append_of_le_length (by omega)]
    simp
  · simp

end Sys2Proof.Machine
end

section
/-! PROOF. The rows that write one register word, and FIRMWARE_ACTIVATE (O33): R309, R413, R417 to R419, R445. That each row is a
CSR_WRITE of one word is log entry 19, and that a shutdown starts after the words, and a cold reset comes before a warm one, log
entry 18. -/
namespace Sys2Proof.Machine

/-! ### One register word written (R443, R445) -/

theorem packWord_one (lo width v : Nat) : packWord [(lo, width, v)] = v % 2 ^ width * 2 ^ lo := Nat.zero_add _

/-- PWR_CTL reads as the power limit, with no other bit set (R445). -/
theorem pwrCtlWord_eq {d : Dev} (hlim : d.pwrLimit < 4096) : pwrCtlWord d = 65536 * d.pwrLimit := by
  rw [pwrCtlWord, packWord_one]
  omega

/-- A packet that writes one word passes the address and range checks, so its answer is that of the write (R443). -/
theorem csrWrites_one {s u : State} {h : Hdr} {i : Instr} {a w : Nat} {b : Ans} (hready : Ready s i)
    (henv : envelope s i = some (h, row 0x0902 false 0 0, 36)) (hfaults : ∀ p ∈ csrFaults a 1, p.1 = false)
    (happly : csrApply a [w] (takeFromBuffer s h) = (u, b)) (hb : failsAcceptance b.status = false) :
    (.next (csrWrites h a 1 [w] s) : Out) = .next (finalOn u h 0x0902 b) :=
  congrArg Host.Outcome.next (sync_final (params := fun _ => csrFaults a 1) (run := csrApply a [w]) (hready.fit henv) hfaults happly hb)

/-- A word outside DEBUG that does not set `shutdown` is written, and the answer is OK (R49, R443). -/
theorem csrApply_written {a w : Nat} (s : State) (hdebug : inDebug a = false) (hshut : setsShutdown a [w] = false) :
    csrApply a [w] s = (regWrite s a w, ans stOk) := by
  unfold csrApply
  rw [if_neg (by simp [hdebug]), if_neg (by simp [hshut])]
  rfl

/-- A word of PWR_CTL with `shutdown` set: the shutdown starts after the write, where R418 allows it. -/
theorem csrApply_shutdown {w : Nat} (s : State) (hshut : bit w 0 = true) : csrApply 0x01C [w] s =
    if mayShut s = true then (startShutdown (writePwrCtl s w), ans stOk) else (s, ans stWrongState) := by
  unfold csrApply
  exact (if_neg (by decide)).trans (if_pos hshut)

/-- Bit 0 of PWR_CTL is `shutdown`: a power limit and an even number leave it clear. -/
theorem setsShutdown_pwrCtl {p k : Nat} (hk : k % 2 = 0) : setsShutdown 0x01C [65536 * p + k] = false := by
  change (65536 * p + k).testBit 0 = false
  rw [Nat.testBit_zero, decide_eq_false_iff_not]
  omega

theorem bit_shutdown (p : Nat) : bit (65536 * p + 1) 0 = true := by
  rw [bit, Nat.testBit_zero, decide_eq_true_eq]
  omega

/-- A reset row writes PWR_CTL with the power limit in force and one more bit, and is answered OK (R417, R445). -/
theorem resetRow_taken {s : State} {h : Hdr} {i : Instr} {k : Nat} (hready : Ready s i)
    (henv : envelope s i = some (h, row 0x0902 false 0 0, 36)) (hlim : (takeFromBuffer s h).dev.pwrLimit < 4096) (hk : k % 2 = 0) :
    (.next (csrWrites h 0x01C 1 [pwrCtlWord s.dev + k] s) : Out) =
      .next (finalOn (writePwrCtl (takeFromBuffer s h) (65536 * (takeFromBuffer s h).dev.pwrLimit + k)) h 0x0902 (ans 0)) := by
  rw [← dev_take s h, pwrCtlWord_eq hlim]
  exact csrWrites_one hready henv (by decide) (csrApply_written _ rfl (setsShutdown_pwrCtl hk)) rfl

/-- SHUTDOWN writes PWR_CTL with the power limit in force and `shutdown`, where the shutdown may start (R418). -/
theorem shutdown_taken {s : State} {h : Hdr} (hready : Ready s (.shutdown h)) (hlim : (takeFromBuffer s h).dev.pwrLimit < 4096) :
    exec (.shutdown h) s = .next (
      if mayShut (takeFromBuffer s h) = true then finalOn (startShutdown (writePwrCtl (takeFromBuffer s h)
        (65536 * (takeFromBuffer s h).dev.pwrLimit + 1))) h 0x0902 (ans 0)
      else finalOn (takeFromBuffer s h) h 0x0902 (ans 0x0017)) := by
  rw [exec_shutdown, execShutdown, ← dev_take s h, pwrCtlWord_eq hlim]
  have happly := csrApply_shutdown (takeFromBuffer s h) (bit_shutdown (takeFromBuffer s h).dev.pwrLimit)
  split
  next hmay => exact csrWrites_one hready rfl (by decide) (happly.trans (if_pos hmay)) rfl
  next hmay => exact csrWrites_one hready rfl (by decide) (happly.trans (if_neg hmay)) rfl

/-! ### FIRMWARE_ACTIVATE (R419) -/

/-- The answer in place of an activation: DENIED below the anti-rollback number, WRONG_STATE where no shutdown may start (R419). -/
def activateLate (v : State) : Option Ans :=
  if ((stagedImage v).map (·.1)).getD 0 < v.sec.arb then some (ans stDenied)
  else if mayShut v = false then some (ans stWrongState) else none

/-- The staged image becomes the active one, and the shutdown starts (R419). -/
def activated (u : State) (seq : Nat) : State :=
  startShutdown { u with
    sec.activeSlot := u.sec.staged.getD u.sec.activeSlot, sec.staged := none, dev.shutActivate := some seq }

/-- FIRMWARE_ACTIVATE of the staged version. -/
theorem firmwareActivate_staged {s : State} {h : Hdr} {version : Nat} {x : Nat × Nat × Nat}
    (hready : Ready s (.firmwareActivate h version)) (hx : stagedImage (takeFromBuffer s h) = some x) (hversion : x.2.1 = version) :
    exec (.firmwareActivate h version) s = .next (
      if x.1 < (takeFromBuffer s h).sec.arb then finalOn (takeFromBuffer s h) h 0x0909 (ans stDenied)
      else if mayShut (takeFromBuffer s h) = false then finalOn (takeFromBuffer s h) h 0x0909 (ans stWrongState)
      else activated (heldOn (takeFromBuffer s h) h (row 0x0909 false 0 0) .activate) h.seq) := by
  have hclear : Clear [((stagedImage (takeFromBuffer s h)).map (·.2.1) != some version, 24)] := clear_singleton (by simp [hx, hversion])
  have hlate : activateLate (takeFromBuffer s h) = if x.1 < (takeFromBuffer s h).sec.arb then some (ans stDenied)
      else if mayShut (takeFromBuffer s h) = false then some (ans stWrongState) else none := by rw [activateLate, hx]; rfl
  refine congrArg Host.Outcome.next ?_
  split
  next hlow => exact late_final (late := activateLate) (hready.fit rfl) hclear (hlate.trans (if_pos hlow)) rfl
  next hhigh =>
    rw [if_neg hhigh] at hlate
    split
    next hbusy => exact late_final (late := activateLate) (hready.fit rfl) hclear (hlate.trans (if_pos hbusy)) rfl
    next hmay => exact late_held (late := activateLate) (hready.fit rfl) hclear (hlate.trans (if_neg hmay))

/-- FIRMWARE_ACTIVATE of a version that is not staged is refused at the version's offset. -/
theorem firmwareActivate_notStaged {s : State} {h : Hdr} {version : Nat} (hready : Ready s (.firmwareActivate h version))
    (hx : (stagedImage (takeFromBuffer s h)).map (·.2.1) ≠ some version) :
    ∃ t, exec (.firmwareActivate h version) s = .next t ∧ Refused s t h 0x0909 0x0011 24 := by
  obtain ⟨up, fresh, early, bad, -, -⟩ := hready.fit rfl
  have hat : badAtOf h [((stagedImage (takeFromBuffer s h)).map (·.2.1) != some version, 24)] = some 24 := by
    simp [badAtOf, bad, hx, minBy]
  refine ⟨_, rfl, ?_⟩
  unfold lateSync
  rw [admit_badAt _ _ up fresh early hat]
  exact refuse_refused _ _ _ (takeFromBuffer_eq s h) (by rw [portUp_take, up]) (.inl rfl)

/-- Settles O33: each row is one register word written (`csrWrites_one`); FIRMWARE_ACTIVATE goes by the staged image
(`firmwareActivate_staged`, `firmwareActivate_notStaged`). -/
theorem platformAndFirmware : Obligations.PlatformAndFirmware := by
  unfold Obligations.PlatformAndFirmware
  refine ⟨?rows, fun s w => ⟨rfl, rfl, rfl⟩, ?firmware⟩
  case rows =>
    rintro s v h rfl hlim
    exact ⟨fun hready => resetRow_taken hready rfl hlim rfl, fun hready => resetRow_taken hready rfl hlim rfl,
      fun hready => shutdown_taken hready hlim,
      fun hready => csrWrites_one hready rfl (by decide) (csrApply_written _ rfl rfl) rfl,
      fun hready => csrWrites_one hready rfl (by decide) (csrApply_written _ rfl rfl) rfl,
      fun hready => csrWrites_one hready rfl (by decide) (csrApply_written _ rfl rfl) rfl⟩
  case firmware =>
    rintro s v h version hready rfl
    exact ⟨fun x hx hversion => firmwareActivate_staged hready hx hversion, firmwareActivate_notStaged hready⟩

end Sys2Proof.Machine
end

section
/-! PROOF. Flash operations that complete, and a LUN that stops answering (O51): R297, R299 to R301, R303 to R306, R308. Where the writes
of a failed program or LUN go is log entry 20. -/
namespace Sys2Proof.Machine

/-! ### What the shared operations of the Oast leave alone -/

theorem charge_oast (s : State) (sl act cur n : Nat) : (charge s sl act cur n).oast = s.oast := by
  rw [charge_frame]

/-- OAST_SPARE_LOW is raised, and the level noted at its LUN, or nothing happens (R316). -/
theorem spareLowCheck_cases (s : State) (i : Nat) : spareLowCheck s i = s ∨
    ∃ lvl fields, spareLowCheck s i = raise (modLun s i fun u => { u with lowRaised := lvl }) 0x21 0 0 fields := by
  unfold spareLowCheck
  exact (ite_eq_or_eq _ _ _).symm.imp id fun h => ⟨_, _, h⟩

theorem spareLowCheck_frame (s : State) (i : Nat) :
    spareLowCheck s i = { s with gl := (spareLowCheck s i).gl, oast.luns := (spareLowCheck s i).oast.luns } := by
  rcases spareLowCheck_cases s i with h | ⟨lvl, fields, h⟩
  · rw [h]
  · rw [h, raise_frame]
    rfl

/-- The check notes a level at the LUN; its blocks and whether it failed are as before. -/
theorem lunAt_spareLowCheck {s : State} {i : Nat} (hi : i < s.oast.luns.length) :
    (lunAt (spareLowCheck s i) i).failed = (lunAt s i).failed ∧ (lunAt (spareLowCheck s i) i).blocks = (lunAt s i).blocks := by
  rcases spareLowCheck_cases s i with h | ⟨lvl, fields, h⟩
  · rw [h]
    exact ⟨rfl, rfl⟩
  · have hlun : lunAt (spareLowCheck s i) i = { lunAt s i with lowRaised := lvl } := by
      rw [h, lunAt, raise_oast]
      exact lunAt_modLun_self _ hi
    rw [hlun]
    exact ⟨rfl, rfl⟩

/-- The record a log ends with is still in it after the check. -/
theorem mem_spareLowCheck_log {s : State} {l : List EventRec} {e : EventRec} (i : Nat) (hlog : s.gl.log = l ++ [e]) :
    e ∈ (spareLowCheck s i).gl.log := by
  rcases spareLowCheck_cases s i with h | ⟨lvl, fields, h⟩
  · rw [h, hlog]
    exact List.mem_append_right _ (List.mem_singleton_self e)
  · rw [h]
    exact mem_raise_log (s := modLun s i fun u => { u with lowRaised := lvl }) hlog ..

/-- A retirement counts as one, and no other count changes (R308). -/
theorem retire_cnt (s : State) (l b cause : Nat) :
    (retire s l b cause).oast.cnt = { s.oast.cnt with retired := ctrAdd s.oast.cnt.retired 1 } := by
  unfold retire
  dsimp only
  rw [spareLowCheck_frame, raise_oast]
  split <;> rfl

/-- Moving a block's data counts relocated bytes and no failed program. -/
theorem moveExtents_progFail (s : State) (l b per : Nat) : (moveExtents s l b per).oast.cnt.progFail = s.oast.cnt.progFail := by
  unfold moveExtents
  refine List.foldlRecOn _ _ (motive := fun t : State => t.oast.cnt.progFail = s.oast.cnt.progFail) rfl fun t ht e _ => ?_
  dsimp only [modBlock, modLun]
  rw [charge_oast]
  exact ht

/-! ### Programs (R297, R305) -/

theorem flashProgramDone_found {s : State} {wid : Nat} {w : FWrite} (ok : Bool) (hon : s.dev.powered = true)
    (hw : s.oast.writes.find? (fun w => w.id == wid) = some w) :
    execFlashProgramDone wid ok s = .next (quiesceCheck (if ok = true then writeDone s w else writeFailed s w)) := by
  unfold execFlashProgramDone
  rw [hw]
  exact congrArg Host.Outcome.next (if_neg (by simp [hon]))

theorem flashProgramDone_none {s : State} {wid : Nat} (ok : Bool) (hw : s.oast.writes.find? (fun w => w.id == wid) = none) :
    execFlashProgramDone wid ok s = .next s := by
  unfold execFlashProgramDone
  rw [hw]

/-- The block and the state in which a write's data lies (R297). -/
def writePlaced (s : State) (w : FWrite) : Nat × State :=
  placeOn (nextSeq { s with oast.writes := s.oast.writes.filter fun k => k.id != w.id }) w.lun w.bytes

/-- The map's entry for a write that is done (R295, R297). -/
def writtenExtent (s : State) (w : FWrite) : Extent :=
  { sectors := ceilDiv w.bytes 4096, tenant := w.tenant, keyEpoch := (flashEpoch (writePlaced s w).2 w.tenant).getD 0
    originSeq := w.originSeq, seq := (writePlaced s w).2.oast.seq, lun := w.lun, block := (writePlaced s w).1, lost := false
    owner := w.owner }

/-- A write of the session image is named by the map at its address. -/
theorem writeDone_image {s : State} {w : FWrite} (himage : w.what = .image) : writeDone s w =
    { (writePlaced s w).2 with oast.exts := tput (writePlaced s w).2.oast.exts w.addr (writtenExtent s w) } := by
  unfold writeDone
  dsimp only
  rw [himage]
  rfl

/-- `s` with a failed program counted, and the block that was open for it moved and retired (R305). -/
def programFailed (s : State) (w : FWrite) : State :=
  let s := { s with oast.cnt.progFail := ctrAdd s.oast.cnt.progFail 1 }
  match blockIdx (lunAt s w.lun) fun b => b.st == 1 with
  | some b => retire (moveExtents (modBlock s w.lun b fun k => { k with st := 2 }) w.lun b 2) w.lun b 0
  | none => s

/-- The write of a failed program goes to a LUN that takes writes. -/
theorem writeFailed_eq (s : State) (w : FWrite) : writeFailed s w = { programFailed s w with
    oast.writes := (programFailed s w).oast.writes.map fun k =>
      if k.id = w.id then { k with lun := (pickLun (programFailed s w)).getD w.lun } else k } := rfl

theorem programFailed_progFail (s : State) (w : FWrite) :
    (programFailed s w).oast.cnt.progFail = ctrAdd s.oast.cnt.progFail 1 := by
  unfold programFailed
  dsimp only
  split
  · rw [retire_cnt]
    exact moveExtents_progFail ..
  · rfl

/-! ### Erases (R304, R305) -/

theorem flashEraseDone_erasable {s : State} {lun block : Nat} (ok : Bool) (hon : s.dev.powered = true)
    (herasable : erasable s lun block = true) : execFlashEraseDone lun block ok s = .next (
      if ok = true then { s with
        oast.cnt.eraseBytes := ctrAdd s.oast.cnt.eraseBytes (lunAt s lun).blockBytes
        oast.luns := lmod s.oast.luns lun fun u => { u with blocks := lmod u.blocks block fun k =>
          { st := 0, erases := k.erases + 1, valid := 0, closeSeq := 0, pslc := false, relocate := false } } }
      else retire { s with oast.cnt.eraseFail := ctrAdd s.oast.cnt.eraseFail 1 } lun block 1) :=
  congrArg Host.Outcome.next (if_neg (by simp [hon, herasable]))

theorem flashEraseDone_stays {s : State} {lun block : Nat} (ok : Bool) (hheld : erasable s lun block = false) :
    execFlashEraseDone lun block ok s = .next s :=
  congrArg Host.Outcome.next (if_pos (.inr hheld))

/-! ### Reads (R300) -/

/-- `s` with a read off the list, and counted where it was retried or is uncorrectable (R300). -/
def readCounted (s : State) (rid outcome : Nat) (bad : Bool) : State :=
  let s := { s with oast.reads := s.oast.reads.filter fun k => k.id != rid }
  let s := if outcome ≥ 1 then { s with oast.cnt.readRetry := ctrAdd s.oast.cnt.readRetry 1 } else s
  if bad then { s with oast.cnt.uncorrectable := ctrAdd s.oast.cnt.uncorrectable 1 } else s

/-- A retried read has its block relocated (R300). -/
def relocationQueued (u : State) (outcome addr : Nat) : State :=
  match (if outcome ≥ 1 then tget u.oast.exts addr else none) with
  | some e => modBlock u e.lun e.block fun k => { k with relocate := true }
  | none => u

/-- What the client of a read does with its end. -/
def readGoesOn (u : State) (what : ReadFor) (bad : Bool) : State :=
  match what with
  | .revive i => if bad then pump (reviveBad u i) i else modSess u i fun y => if y.reviving then { y with reviveRead := true } else y
  | .node i id => nodeRead u i id (!bad)
  | .warm m => if bad then warmBad u m else u
  | .texts q => textsRead u q (!bad)
  | .serve n => textServed u n (!bad)
  | .patrol => u
  | .relocate l b => quiesceCheck (relocated u l b bad)

/-- `s` after a read has ended, before its client goes on. -/
def readEnded (s : State) (rid outcome : Nat) (r : FRead) : State :=
  relocationQueued (readCounted s rid outcome (decide (outcome ≥ 2) || readLost s r)) outcome r.addr

theorem flashReadDone_found {s : State} {rid : Nat} {r : FRead} (outcome : Nat) (hon : s.dev.powered = true)
    (hr : s.oast.reads.find? (fun r => r.id == rid) = some r) : execFlashReadDone rid outcome s =
      .next (readGoesOn (readEnded s rid outcome r) r.what (decide (outcome ≥ 2) || readLost s r)) := by
  unfold execFlashReadDone
  rw [hr]
  exact congrArg Host.Outcome.next (if_neg (by simp [hon]))

theorem flashReadDone_none {s : State} {rid : Nat} (outcome : Nat) (hr : s.oast.reads.find? (fun r => r.id == rid) = none) :
    execFlashReadDone rid outcome s = .next s := by
  unfold execFlashReadDone
  rw [hr]

theorem relocationQueued_frame (u : State) (outcome addr : Nat) :
    relocationQueued u outcome addr = { u with oast.luns := (relocationQueued u outcome addr).oast.luns } := by
  unfold relocationQueued
  split <;> rfl

theorem readCounted_eq (s : State) (rid outcome : Nat) (bad : Bool) : readCounted s rid outcome bad = { s with
    oast.reads := s.oast.reads.filter fun k => k.id != rid
    oast.cnt.readRetry := if 1 ≤ outcome then ctrAdd s.oast.cnt.readRetry 1 else s.oast.cnt.readRetry
    oast.cnt.uncorrectable := if bad = true then ctrAdd s.oast.cnt.uncorrectable 1 else s.oast.cnt.uncorrectable } := by
  unfold readCounted
  by_cases hretried : 1 ≤ outcome <;> cases bad <;> simp only [hretried] <;> rfl

/-! ### Patrol (R301) -/

section
variable {s : State} {lun block : Nat} {k : Block} (retried : Bool) (hk : (lunAt s lun).blocks[block]? = some k)
include hk

theorem patrolRead_open (hopen : k.st ≠ 2) : execPatrolRead lun block retried s = .next s := by
  unfold execPatrolRead
  rw [hk]
  exact congrArg Host.Outcome.next (if_pos (.inl hopen))

theorem patrolRead_closed (hon : s.dev.powered = true) (hmounted : s.oast.mountState = 2) (hclosed : k.st = 2) :
    execPatrolRead lun block retried s = .next (if hasBal s 0 9 2 = false then holdOn s 0 9 2
      else if retried = true then
        modBlock { charge s 0 9 2 32768 with oast.cnt.readRetry := ctrAdd (charge s 0 9 2 32768).oast.cnt.readRetry 1 } lun block
          fun k => { k with relocate := true }
      else charge s 0 9 2 32768) := by
  unfold execPatrolRead
  rw [hk]
  exact congrArg Host.Outcome.next (if_neg (by simp [hclosed, hon, hmounted]))

end

/-! ### A LUN that stops answering (R306, R308) -/

/-- `s` with a LUN failed: its blocks are retired and counted, and its extents are lost (R306). -/
def lunFailed (s : State) (lun : Nat) : State :=
  let v := modLun s lun fun v => { v with
    failed := true, spares := 0, blocks := v.blocks.map fun b => { b with st := 3, valid := 0, relocate := false } }
  { v with
    oast.exts := v.oast.exts.map fun e => if e.2.lun = lun then (e.1, { e.2 with lost := true }) else e
    oast.cnt.retired := ctrAdd v.oast.cnt.retired (countBy (fun b => b.st != 3) (lunAt s lun).blocks) }

/-- The fields of OAST_BLOCK_RETIRED for a whole LUN (R306, R464). -/
def lunRetired (u : Lun) : List (Nat × Nat) := [(1, u.channel), (1, u.lun), (1, 2), (1, 0), (4, 0xFFFFFFFF), (4, 0)]

/-- The writes to a LUN go to the one that takes writes (log entry 20). -/
def writesMoved (s : State) (lun : Nat) : State :=
  let l := (pickLun s).getD 0
  { s with oast.writes := s.oast.writes.map fun w => if w.lun = lun then { w with lun := l } else w }

/-- Another LUN is root in place of a failed one (R309). -/
def rootMoved (s : State) (lun : Nat) : State :=
  if s.oast.rootLuns.contains lun then { s with oast.rootLuns := nextRoot s lun, oast.cfg.marker := true } else s

/-- `s` with a LUN failed, the event raised, and its writes and its root moved. -/
def lunReplaced (s : State) (lun : Nat) : State :=
  rootMoved (writesMoved (raise (lunFailed s lun) 0x22 0 0 (lunRetired (lunAt s lun))) lun) lun

theorem lunTimeout_usable {s : State} {lun : Nat} (hon : s.dev.powered = true) (husable : lunUsable s lun = true) :
    execLunTimeout lun s = .next (spareLowCheck (lunReplaced s lun) lun) :=
  congrArg Host.Outcome.next (if_neg (by simp [hon, husable]))

theorem lunTimeout_unusable {s : State} {lun : Nat} (hn : lunUsable s lun = false) : execLunTimeout lun s = .next s :=
  congrArg Host.Outcome.next (if_pos (.inl hn))

theorem rootMoved_eq (s : State) (lun : Nat) :
    ∃ roots marker, rootMoved s lun = { s with oast.rootLuns := roots, oast.cfg.marker := marker } := by
  unfold rootMoved
  split
  · exact ⟨_, _, rfl⟩
  · exact ⟨_, _, rfl⟩

/-- Beside the failure and its event, the writes have moved, and perhaps what is root. -/
theorem lunReplaced_eq (s : State) (lun : Nat) : ∃ l roots marker, lunReplaced s lun = { lunFailed s lun with
    gl := (raise (lunFailed s lun) 0x22 0 0 (lunRetired (lunAt s lun))).gl
    oast.writes := s.oast.writes.map fun w => if w.lun = lun then { w with lun := l } else w
    oast.rootLuns := roots, oast.cfg.marker := marker } := by
  let u := raise (lunFailed s lun) 0x22 0 0 (lunRetired (lunAt s lun))
  obtain ⟨roots, marker, h⟩ := rootMoved_eq (writesMoved u lun) lun
  have hu : u = { lunFailed s lun with gl := u.gl } := raise_frame ..
  refine ⟨(pickLun u).getD 0, roots, marker, h.trans ?_⟩
  rw [writesMoved]
  generalize pickLun u = l at *
  rw [hu]
  rfl

/-- The event of the failure is still in the log. -/
theorem lunRetired_logged (s : State) (lun : Nat) : ∃ e ∈ (spareLowCheck (lunReplaced s lun) lun).gl.log,
    e.code = 0x22 ∧ e.time = s.dev.localCtr ∧ e.payload.getD 2 0 = 2 := by
  obtain ⟨l, hlog⟩ := raise_log_last (lunFailed s lun) 0x22 0 0 (lunRetired (lunAt s lun))
  obtain ⟨_, _, _, h⟩ := lunReplaced_eq s lun
  have hgl : (lunReplaced s lun).gl.log = l ++ [eventOf (lunFailed s lun) 0x22 0 0 (lunRetired (lunAt s lun))] := by
    rw [h]
    exact hlog
  exact ⟨_, mem_spareLowCheck_log lun hgl, rfl, rfl, rfl⟩

/-- Its blocks are retired, and it stays failed (R306). -/
theorem lunAt_lunReplaced {s : State} {lun : Nat} (hlun : lun < s.oast.luns.length) :
    (lunAt (spareLowCheck (lunReplaced s lun) lun) lun).failed = true ∧
      ∀ b ∈ (lunAt (spareLowCheck (lunReplaced s lun) lun) lun).blocks, b.st = 3 := by
  obtain ⟨_, _, _, h⟩ := lunReplaced_eq s lun
  have hluns : (lunReplaced s lun).oast.luns = (lunFailed s lun).oast.luns := by rw [h]
  have hat : lunAt (lunReplaced s lun) lun = { lunAt s lun with
      failed := true, spares := 0, blocks := (lunAt s lun).blocks.map fun b => { b with st := 3, valid := 0, relocate := false } } := by
    rw [lunAt, hluns]
    exact lunAt_modLun_self _ hlun
  obtain ⟨hfailed, hblocks⟩ := lunAt_spareLowCheck (s := lunReplaced s lun) (by rw [hluns]; simpa [lunFailed, modLun] using hlun)
  rw [hfailed, hblocks, hat]
  refine ⟨rfl, fun b hb => ?_⟩
  obtain ⟨k, -, rfl⟩ := List.mem_map.mp hb
  rfl

/-- Its extents are lost, and no other extent changes (R306). -/
theorem lunFailed_exts (s : State) (lun : Nat) : (∀ p ∈ (lunFailed s lun).oast.exts, p.2.lun = lun → p.2.lost = true) ∧
    ((lunFailed s lun).oast.exts.map fun p => (p.1, { p.2 with lost := false })) =
      s.oast.exts.map fun p => (p.1, { p.2 with lost := false }) := by
  refine ⟨fun p hp hlun => ?_, ?_⟩
  · obtain ⟨e, -, rfl⟩ := List.mem_map.mp hp
    split
    next => rfl
    next hne => rw [if_neg hne] at hlun; exact absurd hlun hne
  · refine List.map_map.trans (List.map_congr_left fun e _ => ?_)
    dsimp only [Function.comp]
    split <;> rfl

/-! ### The statement -/

/-- Settles O51: one rule for each way a program, an erase, a read and a patrol read end, and for a LUN that fails. -/
theorem flashAndLuns : Obligations.FlashAndLuns := by
  unfold Obligations.FlashAndLuns
  refine ⟨fun s hon => ⟨fun wid w hw => ⟨flashProgramDone_found true hon hw, fun himage => ?image,
      flashProgramDone_found false hon hw, programFailed s w, writeFailed_eq s w, programFailed_progFail s w⟩,
    fun wid ok hw => flashProgramDone_none ok hw,
    fun lun block herasable => ⟨flashEraseDone_erasable true hon herasable, flashEraseDone_erasable false hon herasable⟩,
    fun lun block ok hheld => flashEraseDone_stays ok hheld, fun rid outcome r hr => ?read,
    fun rid outcome hr => flashReadDone_none outcome hr, fun lun block retried k hk hmounted =>
      ⟨patrolRead_open retried hk, fun hclosed hheld => ?patrolHeld, fun hclosed hbal => ?patrol⟩⟩,
    fun s lun hon => ⟨lunTimeout_unusable, fun husable => ?timeout⟩⟩
  case image => exact ⟨writtenExtent s w, writeDone_image himage, rfl, rfl, rfl, rfl, rfl, rfl⟩
  case read =>
    refine ⟨readEnded s rid outcome r, ?_, ?_, ?_, ?_, ?_, ?_, flashReadDone_found outcome hon hr⟩
    all_goals
      rw [readEnded, relocationQueued_frame, readCounted_eq]
  case patrolHeld => rw [exec_patrolRead, patrolRead_closed retried hk hon hmounted hclosed, if_pos hheld]
  case patrol => rw [exec_patrolRead, patrolRead_closed retried hk hon hmounted hclosed, if_neg (by simp [hbal])]
  case timeout =>
    have hlun : lun < s.oast.luns.length := by
      simp only [lunUsable, Bool.and_eq_true, decide_eq_true_eq] at husable
      exact husable.1
    obtain ⟨hfailed, hblocks⟩ := lunAt_lunReplaced hlun
    obtain ⟨hlost, hexts⟩ := lunFailed_exts s lun
    obtain ⟨l, _, _, h⟩ := lunReplaced_eq s lun
    have hlogged := lunRetired_logged s lun
    refine ⟨_, lunTimeout_usable hon husable, ?_, ?_, hfailed, hblocks, ?_, ⟨l, ?_⟩, hlogged, ?_, ?_⟩
    all_goals
      rw [spareLowCheck_frame, h]
    · exact hlost
    · exact hexts
    · rfl
    · rfl
    · rfl

end Sys2Proof.Machine
end

section
/-! PROOF. The Oast's housekeeping (O52): R299, R302, R303, R314, R316. The write amplification of a day without client bytes is log
entry 58. -/
namespace Sys2Proof.Machine

/-! ### Garbage collection (R302, R303) -/

/-- A LUN after its collection: it stays active until its free blocks reach twice `gc_start` (R302). -/
def collected (s : State) (lun : Nat) : State :=
  let w := gcLoop (lunAt s lun).blocks.length s lun
  modLun w lun fun v => { v with gcActive := decide (freeBlocks v * 1000 < 2 * w.oast.gcStart * goodBlocks v) }

theorem gcStart_low {s : State} {lun : Nat} (hlun : lun < s.oast.luns.length) (hon : s.dev.powered = true)
    (hmounted : s.oast.mountState = 2) (hopen : s.oast.quiescing = false) (hgood : (lunAt s lun).failed = false)
    (hlow : freeBlocks (lunAt s lun) * 1000 < s.oast.gcStart * goodBlocks (lunAt s lun)) :
    execGcStart lun s = .next (collected s lun) :=
  congrArg Host.Outcome.next (if_pos ⟨hlun, hon, hmounted, hopen, hgood, .inl hlow⟩)

theorem gcStart_failed {s : State} {lun : Nat} (hfailed : (lunAt s lun).failed = true) : execGcStart lun s = .next s :=
  congrArg Host.Outcome.next (if_neg fun ⟨_, _, _, _, hgood, _⟩ => Bool.false_ne_true (hgood.symm.trans hfailed))

/-! ### Seconds of a mounted array (R299, R314, R316) -/

/-- The second counted, and the wear and the client's bytes of its end recorded (R314). -/
def secondRecorded (s : State) : State :=
  { s with oast.powerSec := ctrAdd s.oast.powerSec 1
           oast.waHist := ((wearU s, s.oast.cnt.hostWrite) :: s.oast.waHist).take 86401 }

/-- The write amplification estimated, and the allowance spread over the life that is left (R314). -/
def allowanceSet (u : State) : State :=
  let v := { tick u with oast.waEst := waNow u }
  { v with oast.allowRate := (wearL v - wearU v) * 256 / (v.oast.waEst * lifeLeft v) }

section
variable {s : State} (hon : s.dev.powered = true) (hmounted : s.oast.mountState = 2)
include hon hmounted

theorem pslcRecompute_mounted : execPslcRecompute s = .next (foldBuffer { s with oast.pslcBytes := pslcB s }) :=
  congrArg Host.Outcome.next (if_pos ⟨hon, hmounted⟩)

theorem powerSecSave_mounted : execPowerSecSave s = .next { s with oast.cfg.powerSec := s.oast.powerSec } :=
  congrArg Host.Outcome.next (if_pos ⟨hon, hmounted⟩)

theorem wearGovernorTick_mounted : execWearGovernorTick s =
    .next (wearWarn (wearWarn (wearWarn (allowanceSet (secondRecorded s)) 70) 85) 95) :=
  congrArg Host.Outcome.next (if_neg (by simp [hon, hmounted]))

end

/-- Settles O52: a LUN below its share of free blocks is collected and a failed one is not; each second's work is that of a
mounted array. -/
theorem oastHousekeeping : Obligations.OastHousekeeping := by
  unfold Obligations.OastHousekeeping
  exact fun s hon hmounted => ⟨fun lun hlun hopen hgood hlow => gcStart_low hlun hon hmounted hopen hgood hlow,
    fun lun hfailed => gcStart_failed hfailed, pslcRecompute_mounted hon hmounted, powerSecSave_mounted hon hmounted,
    wearGovernorTick_mounted hon hmounted⟩

end Sys2Proof.Machine
end

section
/-! PROOF. What ends at the array and the stores (O53): R309, R381, R386, R388, R416. That step 10 of the start is reached within the
mount, what a reload brings back and what a removal releases are log entries 70, 77 and 59. -/
namespace Sys2Proof.Machine

/-! ### The mount (R309, R416) -/

/-- The array writable, with what its end before says of it (R309). -/
def arrayMounted (s : State) : State :=
  { s with oast.mountState := 2, oast.quiescing := false, oast.lastClean := s.oast.cfg.commit && !s.oast.cfg.marker
           dev.pins.nfWpN := true, oast.pslcBytes := pslcB s }

/-- The start goes on from `w` to step 10, and the device is READY (R416). -/
def startedUp (w : State) : State :=
  let v := { w with dev.startStep := 10 }
  if v.dev.devState = 3 then setDevState v 4 else v

theorem oastMountDone_stays {s : State} (hn : serving s = false ∨ s.oast.mountState ≠ 1) : execOastMountDone s = .next s :=
  congrArg Host.Outcome.next (if_pos hn)

theorem oastMountDone_mounting {s : State} (hserving : serving s = true) (hmounting : s.oast.mountState = 1) :
    execOastMountDone s = .next (if s.dev.startStep ≥ 10 then arrayMounted s else startedUp (
      if s.dev.clean = true ∧ (s.oast.cfg.commit && !s.oast.cfg.marker) = true then reload (arrayMounted s)
      else releaseEarlier (arrayMounted s))) :=
  congrArg Host.Outcome.next (if_neg (by simp [hserving, hmounting]))

/-- The mount of a start reloads after a clean end whose commit page stands and whose marker does not (R309, R416). -/
theorem oastMountDone_starting {s : State} (hserving : serving s = true) (hmounting : s.oast.mountState = 1)
    (hstarting : s.dev.startStep < 10) : execOastMountDone s = .next (startedUp (
      if s.dev.clean = true ∧ s.oast.cfg.commit = true ∧ s.oast.cfg.marker = false then reload (arrayMounted s)
      else releaseEarlier (arrayMounted s))) := by
  rw [oastMountDone_mounting hserving hmounting, if_neg (Nat.not_le.mpr hstarting)]
  simp only [Bool.and_eq_true, Bool.not_eq_true']

/-! ### The key store (R379, R381, R388) -/

/-- Whether a tenant's removal waits for the key-store change of sequence `q`. -/
def dueAt (s : State) (q : Nat) (t : Nat × Tenant) : Bool :=
  t.2.step == 4 && (((removeJobs s t.1).head?.map (·.seq)).getD noSeq) == q

theorem keyStoreWriteDone_stays {s : State} (hn : s.sec.storePending = [] ∨ s.dev.powered = false) :
    execKeyStoreWriteDone s = .next s := by
  unfold execKeyStoreWriteDone
  split
  next => rfl
  next hq =>
    have hoff : s.dev.powered = false := hn.resolve_left (by simp [hq])
    exact congrArg Host.Outcome.next (if_pos hoff)

/-- The oldest key-store change has ended in `u`: the removal that waits for it goes on, or else its command is answered. -/
def storeWritten (u : State) (q : Nat) : State :=
  match u.sec.tenants.find? (dueAt u q) with
  | some t => eraseTenant u t.1
  | none => if (jobOf u q).isSome then finishFinal (countInstall u) q (ans stOk) else u

/-- `s` with its oldest key-store change ended and `rest` still to come. -/
def storeTaken (s : State) (rest : List Nat) : State := { s with sec.storePending := rest }

theorem keyStoreWriteDone_oldest {s : State} {q : Nat} {rest : List Nat} (hq : s.sec.storePending = q :: rest)
    (hon : s.dev.powered = true) : execKeyStoreWriteDone s = .next (storeWritten (storeTaken s rest) q) := by
  unfold execKeyStoreWriteDone
  rw [hq]
  exact congrArg Host.Outcome.next (if_neg (by simp [hon]))

theorem storeWritten_removal {s : State} {q : Nat} {t : Nat × Tenant} (rest : List Nat)
    (hdue : s.sec.tenants.find? (dueAt s q) = some t) : storeWritten (storeTaken s rest) q = eraseTenant (storeTaken s rest) t.1 := by
  have hfind : (storeTaken s rest).sec.tenants.find? (dueAt (storeTaken s rest) q) = some t := hdue
  unfold storeWritten
  rw [hfind]

theorem storeWritten_noRemoval {s : State} {q : Nat} (rest : List Nat) (hdue : s.sec.tenants.find? (dueAt s q) = none) :
    storeWritten (storeTaken s rest) q = if (jobOf s q).isSome = true then
      finishFinal (countInstall (storeTaken s rest)) q (ans stOk) else storeTaken s rest := by
  have hfind : (storeTaken s rest).sec.tenants.find? (dueAt (storeTaken s rest) q) = none := hdue
  unfold storeWritten
  rw [hfind]
  rfl

/-! ### Frames cleared (R160, R386, R388) -/

theorem alloc_modAlloc_self {s : State} {d : Nat} (f : Alloc → Alloc) (hd : d < s.cellar.allocs.length) :
    alloc (modAlloc s d f) d = f (alloc s d) :=
  lget_lmod_self f default hd

/-- A run that was being cleared is free again (R160). -/
theorem alloc_runCleared {s : State} {die start o : Nat} (hdie : die < s.cellar.allocs.length)
    (ho : tget (sortBy (fun (x y : Nat × Nat) => decide (x.1 < y.1)) (alloc s die).clearing) start = some o) :
    alloc (runCleared s die start) die = { alloc s die with
      clearing := (alloc s die).clearing.erase (start, o), free := addFree (badFrames s die) (alloc s die).free start o } := by
  unfold runCleared
  rw [alloc_modAlloc_self _ hdie, ho]

/-- Whether a removed tenant waits for a run to be cleared. -/
def awaits (die start : Nat) (t : Nat × Tenant) : Bool := t.2.step == 5 && t.2.clearRuns.contains (die, start)

/-- A run that a tenant waited for is cleared; its removal ends with the last one (R388). -/
def removalCleared (die start : Nat) (s : State) (t : Nat × Tenant) : State :=
  let left := t.2.clearRuns.erase (die, start)
  let w := modTenant s t.1 fun x => { x with clearRuns := left }
  if left = [] then endRemoval w t.1 else w

theorem frameClearDone_eq (die start : Nat) (s : State) : execFrameClearDone die start s =
    .next (((runCleared s die start).sec.tenants.filter (awaits die start)).foldl (removalCleared die start)
      (runCleared s die start)) := rfl

theorem frameClearDone_noTenant {s : State} {die start : Nat} (hnone : s.sec.tenants.find? (awaits die start) = none) :
    execFrameClearDone die start s = .next (runCleared s die start) := by
  have hfilter : (runCleared s die start).sec.tenants.filter (awaits die start) = [] :=
    List.filter_eq_nil_iff.mpr (List.find?_eq_none.mp hnone)
  rw [frameClearDone_eq, hfilter, List.foldl_nil]

theorem frameClearDone_tenant {s : State} {die start : Nat} {t : Nat × Tenant}
    (hone : (runCleared s die start).sec.tenants.filter (awaits die start) = [t]) :
    execFrameClearDone die start s = .next (removalCleared die start (runCleared s die start) t) := by
  rw [frameClearDone_eq, hone, List.foldl_cons, List.foldl_nil]

/-! ### The statement -/

/-- Settles O53: the mount ends by the step of the start, the key-store change by what waits for it (`storeWritten_removal`,
`storeWritten_noRemoval`), and the cleared run by the tenant that waits for it (`frameClearDone_eq`). -/
theorem mountAndStores : Obligations.MountAndStores := by
  unfold Obligations.MountAndStores
  refine fun s => ⟨fun hserving hmounting => ⟨fun hstarted => ?remount, fun hstarting => ?start⟩, oastMountDone_stays,
    fun q rest hq hon => ⟨fun j hj hdue => ?command, fun hj hdue => ?gone, fun t hdue => ?removal⟩, keyStoreWriteDone_stays,
    fun die start => ⟨fun o hdie ho => ?run, frameClearDone_noTenant, fun t hone => frameClearDone_tenant hone⟩⟩
  case remount => exact (oastMountDone_mounting hserving hmounting).trans (congrArg Host.Outcome.next (if_pos hstarted))
  case start => exact oastMountDone_starting hserving hmounting hstarting
  case command =>
    rw [exec_keyStoreWriteDone, keyStoreWriteDone_oldest hq hon, storeWritten_noRemoval rest hdue, hj]
    rfl
  case gone =>
    rw [exec_keyStoreWriteDone, keyStoreWriteDone_oldest hq hon, storeWritten_noRemoval rest hdue, hj]
    rfl
  case removal =>
    rw [exec_keyStoreWriteDone, keyStoreWriteDone_oldest hq hon, storeWritten_removal rest hdue]
    rfl
  case run =>
    rw [alloc_runCleared hdie ho]
    exact ⟨rfl, rfl⟩

end Sys2Proof.Machine
end

section
/-! PROOF. Slices, routes, buddies, and the adoption a spare is asked for (O28): R325, R326, R328, R334, R342, R343. That a buddy with a
path is no longer lost is log entry 35. -/
namespace Sys2Proof.Machine

/-! ### Commands that end in one of two ways -/

/-- A synchronous command that acceptance takes and that has an effect or, where `p` holds, none. -/
theorem sync_final_ite {s v w : State} {h : Hdr} {c : Cmd} {e : Nat} {params : State → List (Bool × Nat)}
    {run : State → State × Ans} {p : Prop} [Decidable p] {a b : Ans} (f : Fit s h c e) (hp : Clear (params (takeFromBuffer s h)))
    (hrun : run (takeFromBuffer s h) = if p then (v, a) else (w, b)) (ha : failsAcceptance a.status = false)
    (hb : failsAcceptance b.status = false) :
    syncCmd s h c e params run = if p then finalOn v h c.code a else finalOn w h c.code b := by
  split
  next hyes => exact sync_final f hp (hrun.trans (if_pos hyes)) ha
  next hno => exact sync_final f hp (hrun.trans (if_neg hno)) hb

/-- A synchronous command with a parameter out of range is refused. -/
theorem sync_refused {s : State} {h : Hdr} {c : Cmd} {e : Nat} {params : State → List (Bool × Nat)}
    {run : State → State × Ans} (f : Fit s h c e) (hbad : ¬Clear (params (takeFromBuffer s h))) :
    ∃ t d, (.next (syncCmd s h c e params run) : Out) = .next t ∧ Refused s t h c.code stBadParam d := by
  obtain ⟨d, hd⟩ := sync_badParam run f hbad
  exact ⟨_, d, rfl, hd⟩

/-! ### SLICE_SET (R325) -/

/-- Whether a slice holds a bit of one of three masks. -/
def holdsAnyOf (x : Slice) (tiles lanes pcs : Nat) : Prop := x.tiles &&& tiles ≠ 0 ∨ x.lanes &&& lanes ≠ 0 ∨ x.pcs &&& pcs ≠ 0

/-- Whether another slice than `sl` holds a bit of `mask` in its mask `f`. -/
def maskClash (v : State) (sl : Nat) (f : Slice → Nat) (mask : Nat) : Bool :=
  ((List.range 16).filter (· != sl)).any fun o => f (lget v.fab.slices o default) &&& mask != 0

theorem maskClash_eq_false_iff {v : State} {sl mask : Nat} {f : Slice → Nat} : maskClash v sl f mask = false ↔
    ∀ o, o < 16 → o ≠ sl → f (lget v.fab.slices o default) &&& mask = 0 := by
  simp [maskClash]

/-- The parameters of SLICE_SET with their offsets. -/
def sliceParams (sl tiles lanes pcs : Nat) (v : State) : List (Bool × Nat) :=
  [(decide (sl > 15), 24), (maskClash v sl (·.tiles) tiles, 32), (maskClash v sl (·.lanes) lanes, 40), (maskClash v sl (·.pcs) pcs, 48)]

theorem sliceParams_clear_iff {v : State} {sl tiles lanes pcs : Nat} : Clear (sliceParams sl tiles lanes pcs v) ↔
    sl ≤ 15 ∧ ∀ o, o < 16 → o ≠ sl → ¬holdsAnyOf (lget v.fab.slices o default) tiles lanes pcs := by
  simp only [sliceParams, clear_cons, clear_nil, and_true, decide_eq_false_iff_not, Nat.not_lt, maskClash_eq_false_iff, holdsAnyOf,
    not_or, not_not, imp_and, forall_and]

/-! ### ROUTE_SET (R326) -/

/-- A table passes if no entry offends and one is the device's own. -/
theorem routeFaults_clear_iff {es : List (Nat × Nat)} : Clear (routeFaults es) ↔ routeScan 0 [] false es = (none, true) := by
  unfold routeFaults
  rcases routeScan 0 [] false es with ⟨fault, own⟩
  cases fault with
  | none => simp
  | some i => simp

theorem routeParams_clear_iff {count : Nat} {es : List (Nat × Nat)} :
    Clear ((count == 0 || decide (count > Config.routeMax), 24) :: routeFaults es) ↔
      (1 ≤ count ∧ count ≤ 16376) ∧ routeScan 0 [] false es = (none, true) := by
  have hmax : Config.routeMax = 16376 := rfl
  simp only [clear_cons, routeFaults_clear_iff, Bool.or_eq_false_iff, beq_eq_false_iff_ne, decide_eq_false_iff_not, hmax,
    Nat.not_lt, Nat.one_le_iff_ne_zero]

/-! ### BUDDY_SET (R328, R334) -/

/-- The parameters of BUDDY_SET with their offsets. -/
def buddyParams (sl peer : Nat) (v : State) : List (Bool × Nat) :=
  [(decide (sl > 15), 24), (peer != 0 && (peer == v.fab.self || (routeOf v peer).isNone), 26)]

theorem buddyParams_clear_iff {v : State} {sl peer : Nat} : Clear (buddyParams sl peer v) ↔
    sl ≤ 15 ∧ (peer = 0 ∨ (peer ≠ v.fab.self ∧ (routeOf v peer).isSome = true)) := by
  simp [buddyParams, or_iff_not_imp_left]

/-- A buddy with a path is no longer lost (log entry 35). -/
def buddyBack (b : State) (peer : Nat) : State :=
  match routeOf b peer with
  | some m => if peer ≠ 0 ∧ upPorts b m ≠ [] then modPeer b peer fun p => { p with lost := false } else b
  | none => b

theorem buddyBack_eq (b : State) (peer : Nat) : buddyBack b peer =
    if peer ≠ 0 ∧ (routeOf b peer).any (fun m => upPorts b m != []) = true then modPeer b peer fun p => { p with lost := false }
    else b := by
  unfold buddyBack
  cases routeOf b peer with
  | none => simp
  | some m => simp

/-- `v` with the slice's buddy set, and back if it has a path. -/
def withBuddy (v : State) (sl peer : Nat) : State :=
  buddyBack { v with fab.buddies := lmod v.fab.buddies sl fun _ => peer } peer

/-- Whether the buddy stays and has acknowledged every record of the slice's racked sessions. -/
abbrev buddyKept (w : State) (sl old peer : Nat) : Prop :=
  old = peer ∧ peer ≠ 0 ∧ (rackedOf w sl).all (fun x => x.rackAcked == x.rackSeq) = true

/-- The slice's racked sessions taken from the old buddy to the new one (R328, R334). -/
def buddyMoved (w : State) (sl old peer : Nat) : State :=
  (rackedOf w sl).foldl (fun s x =>
    let s := if old ≠ 0 ∧ old ≠ peer then closeAt s old x else s
    if peer = 0 then afterAck (modSess s x.idx fun y => { y with rackAcked := y.rackSeq, rackBusy := false }) x.idx
    else rack s x.idx 13 (kvBytesOf s x) plainDelta) w

theorem buddySet_taken {s : State} {h : Hdr} {sl peer : Nat} (hready : Ready s (.buddySet h sl peer))
    (hclear : Clear (buddyParams sl peer (takeFromBuffer s h))) :
    let old := lget (takeFromBuffer s h).fab.buddies sl 0
    let w := withBuddy (takeFromBuffer s h) sl peer
    exec (.buddySet h sl peer) s =
      .next (finalOn (if buddyKept w sl old peer then w else buddyMoved w sl old peer) h 0x0603 (ansB [])) := by
  intro old w
  rw [exec_buddySet]
  exact congrArg Host.Outcome.next (sync_final (hready.fit rfl) hclear (apply_ite (Prod.mk · (ansB [])) _ _ _).symm rfl)

/-! ### The statement -/

/-- Settles O28: where the parameters pass (`sliceParams_clear_iff`, `routeParams_clear_iff`, `buddyParams_clear_iff`) the command
has its effect, and otherwise it is refused; SPARE_ADOPT is accepted and starts. -/
theorem slicesRoutesBuddies : Obligations.SlicesRoutesBuddies := by
  unfold Obligations.SlicesRoutesBuddies
  constructor
  · rintro s v h rfl
    refine ⟨fun sl tiles lanes pcs hready => ⟨fun hsl hfree => ?slice, fun hbad => ?badSlice⟩,
      fun count es hready => ⟨fun hlow hhigh hscan => ?route, fun hbad => ?badRoute⟩⟩
    case slice =>
      have hclear : Clear (sliceParams sl tiles lanes pcs (takeFromBuffer s h)) := sliceParams_clear_iff.mpr ⟨hsl, hfree⟩
      exact congrArg Host.Outcome.next (sync_final_ite (hready.fit rfl) hclear rfl rfl rfl)
    case badSlice =>
      refine sync_refused (params := sliceParams sl tiles lanes pcs) (hready.fit rfl) fun hclear => ?_
      obtain ⟨hsl, hfree⟩ := sliceParams_clear_iff.mp hclear
      rcases hbad with hbad | ⟨o, ho, hne, hover⟩
      · omega
      · exact hfree o ho hne hover
    case route =>
      have hclear := routeParams_clear_iff.mpr ⟨⟨hlow, hhigh⟩, hscan⟩
      exact congrArg Host.Outcome.next (sync_final_ite (hready.fit rfl) hclear rfl rfl rfl)
    case badRoute =>
      refine sync_refused (hready.fit rfl) fun hclear => ?_
      obtain ⟨hcount, hscan⟩ := routeParams_clear_iff.mp hclear
      rcases hbad with hbad | hbad | hbad
      · omega
      · omega
      · exact hbad hscan
  · rintro s v h rfl
    refine ⟨fun sl peer hready => ⟨fun hsl hpeer => ?buddy, fun hbad => ?badBuddy⟩, fun failed peer hready hfailed hpeer => ?adopt⟩
    case buddy =>
      have htaken := buddySet_taken hready (buddyParams_clear_iff.mpr ⟨hsl, hpeer⟩)
      rw [htaken, withBuddy, buddyBack_eq]
      rfl
    case badBuddy =>
      refine sync_refused (params := buddyParams sl peer) (hready.fit rfl) fun hclear => ?_
      obtain ⟨hsl, hpeer⟩ := buddyParams_clear_iff.mp hclear
      rcases hbad with hbad | ⟨hne, hn⟩
      · omega
      · obtain ⟨hself, hroute⟩ := hpeer.resolve_left hne
        rcases hn with hn | hn
        · exact hself hn
        · simp [hn] at hroute
    case adopt =>
      refine async_taken (hready.fit rfl) ?_ clear_nil rfl
      simp [hfailed, hpeer]

end Sys2Proof.Machine
end

section
/-! PROOF. Fabric frames, timers and ports (O37): R319 to R322, R327. That every data frame is acknowledged at once, also one out of
order, is log entries 36 and 68. -/
namespace Sys2Proof.Machine

/-! ### What sending leaves of a stream (R320, R321) -/

theorem peerOf_congr {s t : State} (hpeers : t.fab.peers = s.fab.peers) (peer : Nat) : peerOf t peer = peerOf s peer := by
  unfold peerOf
  rw [hpeers]

theorem streamOf_congr {s t : State} (hpeers : t.fab.peers = s.fab.peers) (peer c : Nat) : streamOf t peer c = streamOf s peer c := by
  unfold streamOf
  rw [peerOf_congr hpeers]

theorem peerOf_modPeer_self (s : State) (peer : Nat) (f : Peer → Peer) : peerOf (modPeer s peer f) peer = f (peerOf s peer) := by
  simp [peerOf, modPeer, tdef, tget_tput_self]

/-- A change of a peer that leaves its streams. -/
theorem streamOf_modPeer {s : State} {peer : Nat} {f : Peer → Peer} (hf : ∀ p, (f p).streams = p.streams) (c : Nat) :
    streamOf (modPeer s peer f) peer c = streamOf s peer c := by
  unfold streamOf
  rw [peerOf_modPeer_self, hf]

theorem streamOf_modStream_self (s : State) (peer c : Nat) (f : Stream → Stream) :
    streamOf (modStream s peer c f) peer c = f (streamOf s peer c) := by
  unfold modStream
  rw [streamOf, peerOf_modPeer_self]
  simp [streamOf, tdef, tget_tput_self]

theorem streamOf_tick (s : State) (peer c : Nat) : streamOf (tick s) peer c = streamOf s peer c := rfl

theorem portFrame_peers (s : State) (p c n : Nat) : (portFrame s p c n).fab.peers = s.fab.peers := by
  unfold portFrame
  split <;> rfl

theorem portSend_peers (s : State) (p c n : Nat) : (portSend s p c n).fab.peers = s.fab.peers := by
  unfold portSend
  dsimp only
  rw [portFrame_peers]
  exact List.foldlRecOn _ _ (motive := fun t : State => t.fab.peers = s.fab.peers) rfl
    fun t ht _ _ => (portFrame_peers t p c _).trans ht

theorem rekey_fab (s : State) (peer tenant dir ctr oldGen : Nat) : (rekey s peer tenant dir ctr oldGen).fab = s.fab := by
  unfold rekey
  split
  · exact raise_fab ..
  · rfl

/-- A message sent stays in its stream until it is acknowledged (R321). -/
theorem putFrame_unacked (s : State) (peer c sl tenant n : Nat) :
    (streamOf (putFrame s peer c sl tenant n) peer c).unacked = (streamOf s peer c).unacked := by
  unfold putFrame
  dsimp only
  generalize hu : rekey (modPeer s peer _) peer tenant 0 _ _ = u
  have hstream : streamOf u peer c = streamOf s peer c := by
    rw [← hu]
    refine (streamOf_congr (congrArg Fab.peers (rekey_fab ..)) peer c).trans (streamOf_modPeer ?_ c)
    exact fun _ => rfl
  split
  next q hq =>
    rw [streamOf_congr (portSend_peers ..), streamOf_tick, streamOf_modStream_self, hstream]
  next hnone => rw [hstream]

theorem putAll_unacked (s : State) (peer c : Nat) (l : List StreamMsg) :
    (streamOf (putAll s peer c l) peer c).unacked = (streamOf s peer c).unacked := by
  refine List.foldlRecOn _ _ (motive := fun t : State => (streamOf t peer c).unacked = (streamOf s peer c).unacked) rfl
    fun t ht m _ => ?_
  split
  next hmay => exact (putFrame_unacked ..).trans ht
  next hno => exact ht

/-- An acknowledgement drops the messages it covers, and no other (R321). -/
theorem takeAck_unacked (s : State) (peer c ack : Nat) : (streamOf (takeAck s peer c ack) peer c).unacked =
    (streamOf s peer c).unacked.drop (ackedCount (streamOf s peer c).unacked ack) := by
  unfold takeAck
  dsimp only
  split
  next hzero => rw [hzero, List.drop_zero]
  next hsome => rw [putAll_unacked, streamOf_modStream_self]

/-! ### Arriving frames (R320, R321) -/

/-- A frame taken: its bytes counted, its peer's receive counter moved, its acknowledgement taken. -/
def fabFrameTaken (s : State) (f : FabFrame) : State :=
  let w := { s with fab.ports := lmod s.fab.ports f.port fun x => { x with rx := ctrAdd x.rx (56 + f.payloadLen) } }
  let u := modPeer w f.src fun q => { q with lastRx := s.dev.localCtr, rxCtr := f.ctr, rxGen := f.ctr / 2 ^ 48 }
  takeAck (rekey u f.src f.tenant 1 f.ctr (peerOf s f.src).rxGen) f.src f.tclass f.ackSeq

section
variable {s : State} {f : FabFrame} {authOk : Bool} (hrun : running s = true) (hup : fabPortUp s f.port = true) (hlow : 1 ≤ f.fkind)
  (hhigh : f.fkind ≤ 3) (hclass : f.tclass ≤ 6)
include hrun hup hlow hhigh hclass

theorem fabFrameReceive_arrives : execFabFrameReceive f authOk s = .next (
    if authOk = false ∨ frameKeyed s f = false then frameBad s f.tenant
    else if f.fkind = 1 then takeData (fabFrameTaken s f) f else fabFrameTaken s f) := by
  have hon : ¬(running s = false ∨ fabPortUp s f.port = false ∨ f.fkind = 0 ∨ 3 < f.fkind ∨ 6 < f.tclass) := by
    simp only [hrun, hup, Bool.true_eq_false, false_or]
    omega
  exact congrArg Host.Outcome.next (if_neg hon)

theorem fabFrameReceive_bad (hbad : authOk = false ∨ frameKeyed s f = false) :
    execFabFrameReceive f authOk s = .next (frameBad s f.tenant) := by
  rw [fabFrameReceive_arrives hrun hup hlow hhigh hclass, if_pos hbad]

theorem fabFrameReceive_keyed (hkeyed : frameKeyed s f = true) : execFabFrameReceive f true s =
    .next (if f.fkind = 1 then takeData (fabFrameTaken s f) f else fabFrameTaken s f) := by
  rw [fabFrameReceive_arrives hrun hup hlow hhigh hclass, if_neg (by simp [hkeyed])]

end

theorem takeData_notBusy {f : FabFrame} (s : State) (hbusy : f.busy = none) : takeData s f = putBare (
    if f.streamSeq = ((streamOf s f.src f.tclass).rxSeq + 1) % 2 ^ 32 then
      modStream s f.src f.tclass fun t => { t with rxSeq := f.streamSeq } else s) f.src 0 := by
  unfold takeData
  simp only [hbusy, decide_eq_true_eq]
  rfl

/-! ### Timers (R321, R322) -/

section
variable {s : State} (hrun : running s = true)
include hrun

theorem fabResendTimeout_due {peer c : Nat} (hwaits : (streamOf s peer c).unacked ≠ []) (hreach : reachable s peer = true) :
    execFabResendTimeout peer c s = .next (resendStream (advanceTo s ((streamOf s peer c).oldestAt + 60000)) peer c) :=
  congrArg Host.Outcome.next (if_neg (by simp [hrun, hwaits, hreach]))

theorem fabKeepalive_due {peer : Nat} (hwatch : watched s peer = true) (hreach : reachable s peer = true) :
    execFabKeepalive peer s = .next (putBare (advanceTo s ((peerOf s peer).lastTx + 300000)) peer 0) :=
  congrArg Host.Outcome.next (if_neg (by simp [hrun, hwatch, hreach]))

/-- A watched peer is lost at once without a path, and otherwise once it has been silent for the timeout (R322). -/
theorem peerLost_watched {peer : Nat} (hwatch : watched s peer = true) (hlive : (peerOf s peer).lost = false) (hpeer : peer ≠ 0)
    (hself : peer ≠ s.fab.self) : execPeerLost peer s = .next (if hasPath s peer = false then losePeer s peer 1
      else losePeer (advanceTo s ((peerOf s peer).lastRx + max 100 s.fab.peerTimeoutUs * 3000)) peer 0) :=
  congrArg Host.Outcome.next (if_neg (by simp [hrun, hwatch, hlive, hpeer, hself]))

/-! ### Ports (R319, R327) -/

theorem fabPortDown_running {p : Nat} (hp : p < 8) : execFabPortDown p s = .next (losePathless (moveStreams { s with
    fab.ports := lmod s.fab.ports p fun x => { x with state := 0 }
    mash.gates := lmod s.mash.gates p fun g => { g with waiting := [] } } p)) :=
  congrArg Host.Outcome.next (if_neg (by simp [hrun, hp]))

theorem fabPortUp_allLanes {p : Nat} (hp : p < 8) : execFabPortUp p 8 s =
    .next { s with fab.ports := lmod s.fab.ports p fun x => { x with state := 2 } } :=
  congrArg Host.Outcome.next (if_neg (by simp [hrun, hp]))

end

theorem fabPortUp_fewLanes {s : State} {lanes : Nat} (p : Nat) (hlanes : lanes ≠ 8) : execFabPortUp p lanes s = .next s :=
  congrArg Host.Outcome.next (if_pos (.inr (.inr hlanes)))

/-! ### The statement -/

/-- Settles O37: an arriving frame goes by its authentication (`fabFrameReceive_bad`, `fabFrameReceive_keyed`), its acknowledgement
drops what it covers (`takeAck_unacked`), and each timer and port event acts on a running device. -/
theorem fabricFramesAndPorts : Obligations.FabricFramesAndPorts := by
  unfold Obligations.FabricFramesAndPorts
  refine ⟨fun s f hrun hup hlow hhigh hclass => ⟨?forged, fun hkey => ?unkeyed, fun hkeyed => ?keyed⟩, takeAck_unacked,
    fun s f hbusy => takeData_notBusy s hbusy,
    fun s hrun => ⟨fun peer c hwaits hreach => fabResendTimeout_due hrun hwaits hreach,
      fun peer hwatch hreach => fabKeepalive_due hrun hwatch hreach,
      fun peer hwatch hlive hpeer hself => peerLost_watched hrun hwatch hlive hpeer hself,
      fun p hp => fabPortDown_running hrun hp, fun p hp => fabPortUp_allLanes hrun hp,
      fun p l hlanes => fabPortUp_fewLanes p hlanes⟩⟩
  case forged => exact fabFrameReceive_bad hrun hup hlow hhigh hclass (.inl rfl)
  case unkeyed => exact fabFrameReceive_bad hrun hup hlow hhigh hclass (.inr hkey)
  case keyed => exact fabFrameReceive_keyed hrun hup hlow hhigh hclass hkeyed

end Sys2Proof.Machine
end

section
/-! PROOF. Racked copies, acknowledgements, fencing and adoption (O42): R329 to R333, R336, R342 to R344, R348. Copies frozen under the
spare and served once, in one message a slice, are log entry 34; the share class of a record is log entry 112. -/
namespace Sys2Proof.Machine

/-! ### Rack records (R329 to R333, R336, R342) -/

/-- The state in which a record of a live tenant is looked at: charged to RACK and counted for its session's share class, and
its owner known (R127, R142). -/
def recordCharged (s : State) (src : Nat) (r : RackRec) : State :=
  let w := noteClass (noteClass (charge (chargeRx s 0 7 (32 + r.kvBytes + r.descBytes)) 0 7 1 (r.kvBytes + r.descBytes))
    r.image.shareClass 3 (32 + r.kvBytes + r.descBytes)) r.image.shareClass 1 (r.kvBytes + r.descBytes)
  { w with fab.owners := if w.fab.owners.contains src then w.fab.owners else w.fab.owners ++ [src] }

/-- A record that an abort mark refuses: of an incoming state, or its COMMIT (R339). -/
def recordAborted (u : State) (r : RackRec) : Bool := abortMarked u r.session r.epoch && (bit r.rflags 0 || r.rkind == 9)

theorem recordAborted_eq_true_iff {u : State} {r : RackRec} : recordAborted u r = true ↔
    abortMarked u r.session r.epoch = true ∧ (bit r.rflags 0 = true ∨ r.rkind = 9) := by
  simp [recordAborted]

theorem recordAborted_eq_false_iff {u : State} {r : RackRec} : recordAborted u r = false ↔
    abortMarked u r.session r.epoch = false ∨ (bit r.rflags 0 = false ∧ r.rkind ≠ 9) := by
  simp [recordAborted, imp_iff_not_or]

/-- What the buddy does with a record at its epoch or above: one it has is acknowledged again, another is written. -/
def keepOrWrite (u : State) (src : Nat) (r : RackRec) : State :=
  match copyOf u r.session with
  | some c =>
    if c.owner = src ∧ r.rackSeq ≤ c.rackSeq then
      (if c.pendingPark.isSome then u else sendMsg u src 0 0 0 0 false (.rackAck r.session c.rackSeq))
    else writeRecord u src r
  | none => writeRecord u src r

/-- What the buddy does with a charged record. -/
def takeRecord (u : State) (src : Nat) (r : RackRec) : State :=
  if fencedFor u src r then sendMsg u src 0 0 0 0 false (.rackFenced r.slice)
  else if recordAborted u r then u
  else if aheadOf u r.session r.epoch then staleEpoch u
  else keepOrWrite u src r

section
variable {s : State} {r : RackRec} (src : Nat) (hrun : running s = true)
include hrun

theorem rackRecord_noTenant (hdead : tenantLive s r.tenant = false) :
    execRackRecord src r s = .next { s with fab.cnt.authFail := ctrAdd s.fab.cnt.authFail 1 } := by
  unfold execRackRecord
  rw [if_neg (by simp [hrun]), if_pos hdead]

theorem rackRecord_tenant (hlive : tenantLive s r.tenant = true) :
    execRackRecord src r s = .next (takeRecord (recordCharged s src r) src r) := by
  unfold execRackRecord
  rw [if_neg (by simp [hrun]), if_neg (by simp [hlive])]
  rfl

end

section
variable {u : State} {src : Nat} {r : RackRec}

theorem takeRecord_fenced (hfenced : fencedFor u src r = true) :
    takeRecord u src r = sendMsg u src 0 0 0 0 false (.rackFenced r.slice) := if_pos hfenced

theorem takeRecord_aborted (hopen : fencedFor u src r = false) (habort : recordAborted u r = true) : takeRecord u src r = u := by
  unfold takeRecord
  rw [if_neg (by simp [hopen]), if_pos habort]

theorem takeRecord_open (hopen : fencedFor u src r = false) (hkept : recordAborted u r = false) : takeRecord u src r =
    if aheadOf u r.session r.epoch = true then staleEpoch u else keepOrWrite u src r := by
  unfold takeRecord
  rw [if_neg (by simp [hopen]), if_neg (by simp [hkept])]

theorem keepOrWrite_first (hnone : copyOf u r.session = none) : keepOrWrite u src r = writeRecord u src r := by
  unfold keepOrWrite
  rw [hnone]

theorem keepOrWrite_copy {c : RCopy} (hc : copyOf u r.session = some c) : keepOrWrite u src r =
    if c.owner = src ∧ r.rackSeq ≤ c.rackSeq then
      (if c.pendingPark.isSome then u else sendMsg u src 0 0 0 0 false (.rackAck r.session c.rackSeq))
    else writeRecord u src r := by
  unfold keepOrWrite
  rw [hc]

end

/-! ### Acknowledgements and fenced answers (R25, R329, R342) -/

/-- An acknowledgement of the session's buddy within the records sent. -/
theorem rackAck_moves {s : State} {peer session q : Nat} {x : Sess} (hx : sessByHandle s session = some x)
    (hbuddy : buddyOf s x = peer) (hnew : x.rackAcked < q) (hsent : q ≤ x.rackSeq) :
    let u := { s with fab.cnt.rackRecords := ctrAdd s.fab.cnt.rackRecords (q - x.rackAcked) }
    execRackAck peer session q s =
      .next (afterAck (modSess u x.idx fun y => { y with rackAcked := q, rackBusy := false }) x.idx) := by
  unfold execRackAck
  rw [hx]
  exact congrArg Host.Outcome.next (if_pos ⟨hbuddy, hnew, hsent⟩)

/-! ### Copies served to a spare (R342, R348, R468) -/

/-- Whether a peer that still runs has handed copies over (R348). -/
def handedOver (s : State) (failed : Nat) : Bool :=
  s.rack.copies.any (fun c => c.owner == failed && c.frozen == some 0) && !(peerOf s failed).lost && !s.rack.fenced.contains failed

/-- Whether a copy is served to the spare that adopts the peer: of a peer that handed copies over only those. -/
def servedNow (s : State) (failed : Nat) (c : RCopy) : Bool :=
  servable_ failed c && (!handedOver s failed || c.frozen == some 0)

/-- The peer's copies frozen, those served under the spare, and the peer's later records refused. -/
def frozenFor (s : State) (spare failed : Nat) : State :=
  { s with
    rack.fenced := if handedOver s failed ∨ s.rack.fenced.contains failed then s.rack.fenced else s.rack.fenced ++ [failed]
    rack.copies := s.rack.copies.map fun c =>
      if servedNow s failed c then { c with frozen := some spare }
      else if c.owner = failed ∧ c.frozen = none ∧ handedOver s failed = false then { c with frozen := some 0 } else c }

theorem adoptFreezeRequest_running {s : State} (spare failed : Nat) (hrun : running s = true) :
    execAdoptFreezeRequest spare failed s =
      .next (servePull (frozenFor s spare failed) spare ((s.rack.copies.filter (servedNow s failed)).map (·.img))) :=
  congrArg Host.Outcome.next (if_neg (by simp [hrun]))

theorem frozenFor_fenced {s : State} {failed : Nat} (spare : Nat) (hall : handedOver s failed = false) :
    (frozenFor s spare failed).rack.fenced.contains failed = true := by
  simp only [frozenFor, hall, Bool.false_eq_true, false_or]
  split
  next hin => exact hin
  next hout => simp

/-- Of a list of one value repeated one stays. -/
theorem eraseDups_of_forall_eq {l : List Nat} {a : Nat} (hne : l ≠ []) (hall : ∀ b ∈ l, b = a) : l.eraseDups = [a] := by
  cases l with
  | nil => exact absurd rfl hne
  | cons b l =>
    obtain ⟨rfl, hall⟩ := List.forall_mem_cons.mp hall
    have hrest : l.filter (fun c => !c == b) = [] := List.filter_eq_nil_iff.mpr fun c hc => by simp [hall c hc]
    rw [List.eraseDups_cons, hrest, List.eraseDups_nil]

/-- Copies of one slice are served in one message, charged to MOVE of that slice. -/
theorem servePull_oneSlice {s : State} {sl : Nat} {l : List SessImage} (spare : Nat) (hne : l ≠ [])
    (hsl : ∀ i ∈ l, imgSlice s i = sl) : servePull s spare l =
      sendMsg (l.foldl (fun s i => noteClass s i.shareClass 1 (imgBytes i)) (charge s sl 6 1 (sumBy imgBytes l)))
        spare 4 sl 6 0 false (.adoptCopies l) := by
  have hslices : (l.map (imgSlice s)).eraseDups = [sl] := eraseDups_of_forall_eq (by simpa using hne) (by simpa using hsl)
  have hown : l.filter (fun i => imgSlice s i == sl) = l := List.filter_eq_self.mpr fun i hi => by simp [hsl i hi]
  unfold servePull
  rw [hslices]
  simp only [List.foldl_cons, List.foldl_nil, hown]

theorem handover_running {s : State} (src : Nat) (l : List Nat) (hrun : running s = true) : execHandover src l s = .next { s with
    rack.copies := s.rack.copies.map fun c =>
      if c.owner = src ∧ l.contains c.img.handle ∧ c.frozen = none then { c with frozen := some 0 } else c } :=
  congrArg Host.Outcome.next (if_neg (by simp [hrun]))

/-! ### The end of an adoption (R344) -/

theorem adoptPullDone_found {s : State} {q : Nat} {a : Adoption} (l : List SessImage)
    (ha : s.rack.adoptions.find? (fun a => a.seq == q) = some a) :
    let r := ((l.filter fun i => i.state == stACTIVE) ++ (l.filter fun i => i.state != stACTIVE)).foldl (adoptOne a.buddy) (s, default)
    execAdoptPullDone q l s = .next (endAdoption r.1 a r.2) := by
  unfold execAdoptPullDone
  rw [ha]

/-! ### The statement -/

/-- Settles O42: a record goes by its tenant and then by what the buddy holds (`takeRecord`); a freeze serves the copies picked and
freezes the others (`frozenFor`), slice by slice (`servePull_oneSlice`). -/
theorem racksAndAdoptions : Obligations.RacksAndAdoptions := by
  unfold Obligations.RacksAndAdoptions
  refine ⟨fun s src => ⟨fun r hrun => ⟨fun hdead => ?noTenant, fun hlive => ?record⟩,
      fun session q x hx hbuddy hnew hsent => rackAck_moves hx hbuddy hnew hsent,
      fun slice hbuddy hsrc => congrArg Host.Outcome.next (if_pos ⟨hbuddy, hsrc⟩)⟩,
    fun s hrun => ⟨fun spare failed => ⟨frozenFor s spare failed, ?served, rfl, frozenFor_fenced spare, rfl⟩,
      fun spare sl l hne hsl => servePull_oneSlice spare hne hsl, fun src l => handover_running src l hrun,
      fun q l a ha => adoptPullDone_found l ha⟩⟩
  case noTenant => rw [exec_rackRecord, rackRecord_noTenant src hrun hdead]
  case record =>
    rw [exec_rackRecord, rackRecord_tenant src hrun hlive]
    refine ⟨fun hfenced => ?fenced, fun hopen hmark hkind => ?aborted, fun hopen hkept => ?kept⟩
    case fenced => exact congrArg Host.Outcome.next (takeRecord_fenced hfenced)
    case aborted => exact congrArg Host.Outcome.next (takeRecord_aborted hopen (recordAborted_eq_true_iff.mpr ⟨hmark, hkind⟩))
    case kept =>
      have htake := takeRecord_open (u := recordCharged s src r) hopen (recordAborted_eq_false_iff.mpr hkept)
      rw [htake]
      refine ⟨fun hahead => congrArg Host.Outcome.next (if_pos hahead), fun hahead hnone => ?_, fun c hahead hc => ?_⟩
      · exact congrArg Host.Outcome.next ((if_neg (ne_true_of_eq_false hahead)).trans (keepOrWrite_first hnone))
      · exact congrArg Host.Outcome.next ((if_neg (ne_true_of_eq_false hahead)).trans (keepOrWrite_copy hc))
  case served => exact adoptFreezeRequest_running spare failed hrun

end Sys2Proof.Machine
end

section
/-! PROOF. Migration messages to the receiver (O43): R336 to R339. That an EXTRACT holds its slot from the offer on is log entry 111, and
the share class of the transfer log entry 112. -/
namespace Sys2Proof.Machine

/-! ### Offers (R337) -/

/-- `s` with the ABSENT incoming entry of an offer from state `st`; an EXTRACT takes its slot at once. -/
def offerEntered (s : State) (src : Nat) (img : SessImage) (die st : Nat) : State :=
  let u := putArrived s { sessOfImage s img die stABSENT [] with incoming := true, ownerPeer := src, offeredFrom := st }
  if st = stEXTRACT then takeExtract u (idxOf img.handle) else u

/-- `w` with an incoming migration listed. -/
def inListed (w : State) (src : Nat) (img : SessImage) (stage resv : Nat) : State :=
  { w with rack.inn := w.rack.inn ++ [{ src := src, img := img, digest := 0, stage := stage, resv := resv }] }

/-- An entered offer is answered, or asks first for the frames its state needs. -/
def answerOffer (w : State) (src : Nat) (img : SessImage) (die st : Nat) : State :=
  if imageOrders w img st = [] then sendMsg (inListed w src img 2 0) src 0 0 0 0 false (.offerOk img.handle)
  else askFrames (inListed w src img 1 w.cellar.nextResv) noSeq (idxOf img.handle) die img.tenant (imgSlice w img) (imageOrders w img st)

/-- What a receiver does with an offer from state `st` that it can take, on the die of its model; a PARKED session needs none. -/
def takeOffer (s : State) (src : Nat) (img : SessImage) (st : Nat) : State :=
  match if st = stPARKED then some ((dieFor s img.model).getD 0) else dieFor s img.model with
  | none => sendMsg s src 0 0 0 0 false (.offerRefused img.handle stNoMemory)
  | some die => answerOffer (offerEntered s src img die st) src img die st

theorem imageOrders_parked (s : State) (i : SessImage) : imageOrders s i stPARKED = [] := by
  simp [imageOrders]

theorem imageOrders_ne_nil {st : Nat} (s : State) (i : SessImage) (hst : st ≠ stPARKED) : imageOrders s i st ≠ [] := by
  simp [imageOrders, hst]

theorem takeOffer_parked (s : State) (src : Nat) (img : SessImage) : takeOffer s src img stPARKED =
    sendMsg (inListed (offerEntered s src img ((dieFor s img.model).getD 0) stPARKED) src img 2 0) src 0 0 0 0 false
      (.offerOk img.handle) := by
  unfold takeOffer
  rw [if_pos rfl]
  exact if_pos (imageOrders_parked _ _)

theorem takeOffer_frames {s : State} {img : SessImage} {st die : Nat} (src : Nat) (hst : st ≠ stPARKED)
    (hdie : dieFor s img.model = some die) :
    let w := offerEntered s src img die st
    takeOffer s src img st = askFrames (inListed w src img 1 w.cellar.nextResv) noSeq (idxOf img.handle) die img.tenant
      (imgSlice w img) (imageOrders w img st) := by
  unfold takeOffer
  rw [if_neg hst, hdie]
  exact if_neg (imageOrders_ne_nil _ _ hst)

theorem takeOffer_noDie {s : State} {img : SessImage} {st : Nat} (src : Nat) (hst : st ≠ stPARKED) (hdie : dieFor s img.model = none) :
    takeOffer s src img st = sendMsg s src 0 0 0 0 false (.offerRefused img.handle stNoMemory) := by
  unfold takeOffer
  rw [if_neg hst, hdie]

section
variable {s : State} {img : SessImage} (src : Nat) (hrun : running s = true)
include hrun

theorem migrateOfferMsg_ahead (hahead : aheadOf s img.handle img.epoch = true) :
    execMigrateOfferMsg src img s = .next (staleEpoch s) := by
  unfold execMigrateOfferMsg
  rw [if_neg (by simp [hrun]), if_pos hahead]

variable (hahead : aheadOf s img.handle img.epoch = false)
include hahead

theorem migrateOfferMsg_faulty {st : Nat} (hfault : offerFault s img = some st) : execMigrateOfferMsg src img s =
    .next (sendMsg s src 0 0 0 0 false (.offerRefused img.handle st)) := by
  unfold execMigrateOfferMsg
  rw [if_neg (by simp [hrun]), if_neg (by simp [hahead]), hfault]

theorem migrateOfferMsg_taken (hfault : offerFault s img = none) :
    execMigrateOfferMsg src img s = .next (takeOffer s src img img.offeredFrom) := by
  unfold execMigrateOfferMsg
  rw [if_neg (by simp [hrun]), if_neg (by simp [hahead]), hfault]
  rfl

end

/-! ### The end of the transfer (R337, R338) -/

/-- The state in which the end of a transfer is looked at: charged to MOVE, and counted for the session's share class. -/
def transferCharged (s : State) (img : SessImage) : State :=
  noteClass (chargeRx s (imgSlice s img) 6 (imgBytes img)) img.shareClass 3 (imgBytes img)

/-- The transferred state installed, its image and digest noted; a PARKED one is still to be written. -/
def transferInstalled (u : State) (session digest : Nat) (m : MigIn) (x : Sess) (img : SessImage) : State :=
  modIn (installIncoming u m { img with offeredFrom := x.offeredFrom }) session fun k =>
    { k with img := img, digest := digest, resv := 0, stage := if x.offeredFrom = stPARKED then 5 else 2 }

/-- A transfer that matches goes on: a PARKED session's cask is written, another's state has reached HBM. -/
def transferMatched (w : State) (session : Nat) (x : Sess) (img : SessImage) : State :=
  if x.offeredFrom = stPARKED then migWrite w session
  else matched (noteClass (charge w (imgSlice w img) 6 1 img.hbmBytes) img.shareClass 1 img.hbmBytes) session

section
variable {s : State} {src session : Nat} {img : SessImage} {m : MigIn} {x : Sess} (digest : Nat) (hm : migIn s session = some m)
  (hx : sessByHandle s session = some x) (hsrc : m.src = src) (hstage : m.stage = 2)
include hm hx hsrc hstage

theorem migrateEnd_stale (hold : img.epoch < m.img.epoch) : execMigrateEnd src session digest img s = .next (staleEpoch s) := by
  unfold execMigrateEnd
  rw [hm, hx]
  simp only [hsrc, hstage, ne_eq, not_true_eq_false, or_self, if_false, if_pos hold]

theorem migrateEnd_received (hnew : m.img.epoch ≤ img.epoch) : execMigrateEnd src session digest img s = .next (
    if digest ≠ Config.streamDigest img ∨ img.handle ≠ session then
      sendMsg (transferCharged s img) src 0 0 0 0 false (.digestMatch session false)
    else transferMatched (transferInstalled (transferCharged s img) session digest m x img) session x img) := by
  unfold execMigrateEnd
  rw [hm, hx]
  simp only [hsrc, hstage, ne_eq, not_true_eq_false, or_self, if_false, if_neg (Nat.not_lt.mpr hnew)]
  simp only [transferCharged, transferInstalled, transferMatched, decide_eq_true_eq]

end

/-! ### The end of an incoming migration (R337, R339) -/

section
variable {s : State} {session : Nat} {m : MigIn} (src : Nat) (hm : migIn s session = some m)
include hm

theorem migrateReleased_listed : execMigrateReleased src session s =
    .next (if m.src = src ∧ m.stage = 6 then dropIn s session else s) := by
  unfold execMigrateReleased
  rw [hm]

theorem migrateAbort_listed (e : Nat) : execMigrateAbort src session e s = .next (if e < m.img.epoch then staleEpoch s
    else if m.src = src ∧ m.img.epoch = e ∧ m.stage ≠ 6 then discardIncoming s session else s) := by
  unfold execMigrateAbort
  rw [hm]

end

/-! ### The statement -/

/-- Settles O43: an offer goes by its fault and then by its state (`takeOffer_parked`, `takeOffer_frames`, `takeOffer_noDie`), the end
of a transfer by its epoch and its digest (`migrateEnd_received`). -/
theorem migrationReceived : Obligations.MigrationReceived := by
  unfold Obligations.MigrationReceived
  refine fun s src session => ⟨fun img hrun => ⟨migrateOfferMsg_ahead src hrun,
      fun st hahead hfault => migrateOfferMsg_faulty src hrun hahead hfault,
      fun hahead hfault hparked => ?parked, fun die hahead hfault hst hdie => ?frames, fun hahead hfault hst hdie => ?noDie⟩,
    fun img digest m x hm hx hsrc hstage => ⟨migrateEnd_stale digest hm hx hsrc hstage, fun hnew => ?received⟩,
    fun m hm => ⟨migrateReleased_listed src hm, migrateAbort_listed src hm⟩, fun e => rfl⟩
  case parked =>
    rw [exec_migrateOfferMsg, migrateOfferMsg_taken src hrun hahead hfault, hparked]
    exact congrArg Host.Outcome.next (takeOffer_parked s src img)
  case frames =>
    refine ⟨imageOrders_ne_nil _ _ hst, (migrateOfferMsg_taken src hrun hahead hfault).trans ?_⟩
    exact congrArg Host.Outcome.next (takeOffer_frames src hst hdie)
  case noDie =>
    exact (migrateOfferMsg_taken src hrun hahead hfault).trans (congrArg Host.Outcome.next (takeOffer_noDie src hst hdie))
  case received =>
    have hend := migrateEnd_received digest hm hx hsrc hstage hnew
    refine ⟨fun hwrong => hend.trans (congrArg Host.Outcome.next (if_pos hwrong)), fun hdigest hown => ?_⟩
    exact hend.trans (congrArg Host.Outcome.next (if_neg (not_or.mpr ⟨not_not_intro hdigest, not_not_intro hown⟩)))

end Sys2Proof.Machine
end

section
/-! PROOF. Migration messages to the sender, and the bung (O44): R336, R337, R339, R341, R349. The fields of a bung answer are log entry
33, and what a running offer's release completes log entry 32. -/
namespace Sys2Proof.Machine

/-! ### The sender of an offer (R337, R341) -/

section
variable {s : State} {src session : Nat} {m : MigOut} {x : Sess} (hm : offerWith s src session = some (m, x))
include hm

theorem offerReply_sent (status : Nat) (hstage : m.stage = 1) : execOfferReply src session status s = .next (
    if status = 0 then sendTransfer (modOut s session fun k => { k with stage := 2 }) x src
    else pump (settle s x.idx status) x.idx) := by
  unfold execOfferReply
  rw [hm]
  exact congrArg Host.Outcome.next (if_neg (not_not_intro hstage))

theorem migrateMatchReply_transferred (digest : Nat) (isMatch : Bool) (hstage : m.stage = 2) :
    execMigrateMatchReply src session digest isMatch s = .next (
      if isMatch = true then complete (modOut s session fun k => { k with stage := 3 }) m.seq (ansB (lay [(4, x.epoch)]))
      else if m.attempts < 3 then sendTransfer (modOut s session fun k => { k with attempts := k.attempts + 1 }) x src
      else pump (settle s x.idx stRetry) x.idx) := by
  unfold execMigrateMatchReply
  rw [hm]
  exact congrArg Host.Outcome.next (if_neg (not_not_intro hstage))

end

theorem migrateCommitMsg_known {s : State} {session : Nat} {x : Sess} (src e : Nat) (hx : sessByHandle s session = some x) :
    execMigrateCommitMsg src session e s = .next (
      if e < x.epoch then staleEpoch s
      else if x.state = stOFFERED ∧ x.epoch = e then sendMsg (release s x.idx src) src 0 0 0 0 false (.releasedMsg session)
      else if x.state = stABSENT ∧ x.incoming = false then sendMsg s src 0 0 0 0 false (.releasedMsg session) else s) := by
  unfold execMigrateCommitMsg
  rw [hx]

/-! ### A question of the bung (R339) -/

/-- `s` with the abort mark of an offered epoch, set and counted once. -/
def marked (s : State) (session e : Nat) : State :=
  if abortMarked s session e then s else { s with
    rack.aborts := s.rack.aborts ++ [(session, e, s.cellar.sec + 60 * max 1 s.cellar.absentHold)]
    fab.cnt.abortMarks := ctrAdd s.fab.cnt.abortMarks 1 }

theorem abortMarked_marked (s : State) (session e : Nat) : abortMarked (marked s session e) session e = true := by
  unfold marked
  split
  next hmark => exact hmark
  next hnew => simp [abortMarked]

/-- A device that knows of no commit discards the incoming state of the epoch. -/
def discardedAt (u : State) (session e : Nat) : State :=
  match migIn u session with
  | some m => if m.img.epoch = e ∧ m.stage ≠ 6 then discardIncoming u session else u
  | none => u

theorem discardedAt_none {u : State} {session : Nat} (e : Nat) (hm : migIn u session = none) : discardedAt u session e = u := by
  unfold discardedAt
  rw [hm]

theorem discardedAt_some {u : State} {session : Nat} {m : MigIn} (e : Nat) (hm : migIn u session = some m) :
    discardedAt u session e = if m.img.epoch = e ∧ m.stage ≠ 6 then discardIncoming u session else u := by
  unfold discardedAt
  rw [hm]

section
variable {s : State} {session e : Nat} (src : Nat) (hrun : running s = true)
include hrun

theorem bungAsk_committed {o : Nat} (hview : bungView s session e = some o) : execBungAsk src session e s =
    .next (sendMsg s src 0 0 0 0 false (.bungAnswer session true o)) := by
  unfold execBungAsk
  rw [if_neg (by simp [hrun]), hview]

theorem bungAsk_open (hview : bungView s session e = none) : execBungAsk src session e s =
    .next (sendMsg (discardedAt (marked s session e) session e) src 0 0 0 0 false (.bungAnswer session false 0)) := by
  unfold execBungAsk
  rw [if_neg (by simp [hrun]), hview]
  rfl

end

/-! ### Its answer (R339, R349) -/

theorem bungAnswer_unsettled {s : State} {src session : Nat} {b : BungOpen} {x : Sess} (committed : Bool) (o : Nat)
    (hb : openBung s src session = some b) (hx : sessByHandle s session = some x) (hopen : unsettled s x = true) :
    execBungAnswer src session committed o s = .next (pump (endBung
      (if committed = true then release s x.idx o else settle s x.idx stRetry) b) (idxOf session)) := by
  unfold execBungAnswer
  rw [hb, hx]
  simp only [hopen, if_true]

theorem bungAskTimeout_open {s : State} {session : Nat} {b : BungOpen} {j : Job}
    (hb : s.rack.bung.find? (fun b => b.handle == session) = some b) (hj : jobOf s b.seq = some j) :
    execBungAskTimeout session s = .next (endBung (advanceTo s (j.acceptedAt + max 100 s.fab.peerTimeoutUs * 3000)) b) := by
  unfold execBungAskTimeout
  rw [hb]
  simp only [hj]
  rfl

/-! ### The statement -/

/-- Settles O44: each message goes by the offer in progress with its sender or by the session's entry; a question of the bung by what
the device holds (`bungAsk_committed`, `bungAsk_open`), and its answer by the offer still unsettled (`bungAnswer_unsettled`). -/
theorem offersAndBung : Obligations.OffersAndBung := by
  unfold Obligations.OffersAndBung
  refine ⟨fun s src session => ⟨fun m x hm => ⟨fun hstage => ?taken, fun st hstage hst => ?refused, fun d hstage => ?isMatch,
        fun d hstage => ?mismatch⟩, fun x e hx => migrateCommitMsg_known src e hx⟩,
    fun s src session => ⟨fun e hrun => ⟨fun o hview => bungAsk_committed src hrun hview, fun hview => ?asked⟩,
      fun b x o hb hx hopen => ⟨bungAnswer_unsettled true o hb hx hopen, bungAnswer_unsettled false o hb hx hopen⟩,
      fun b j hb hj => bungAskTimeout_open hb hj⟩⟩
  case taken => exact offerReply_sent hm 0 hstage
  case refused => exact (offerReply_sent hm st hstage).trans (congrArg Host.Outcome.next (if_neg hst))
  case isMatch => exact migrateMatchReply_transferred hm d true hstage
  case mismatch => exact migrateMatchReply_transferred hm d false hstage
  case asked =>
    have hask := bungAsk_open src hrun hview
    refine ⟨marked s session e, rfl, abortMarked_marked s session e, fun hm => ?_, fun m hm => ?_⟩
    · rw [exec_bungAsk, hask, discardedAt_none e hm]
    · rw [exec_bungAsk, hask, discardedAt_some e hm]

end Sys2Proof.Machine
end

section
/-! PROOF. Faults of the hardware (O54): R346 to R348, R447. That the cycles of a self-test are free is log entry 52, and that DEV_CAP
loses the stacks of a lost die log entry 88. -/
namespace Sys2Proof.Machine

/-! ### SRAM and tiles (R346) -/

theorem tileAt_modTile_self {s : State} {t : Nat} (f : Tile → Tile) (ht : t < s.mill.tiles.length) :
    tileAt (modTile s t f) t = f (tileAt s t) :=
  lget_lmod_self f default ht

theorem spareTile_spareLeft (s : State) (t : Nat) :
    (spareTile s t).dev.spareLeft = s.dev.spareLeft &&& (15 ^^^ 2 ^ (t / 16)) := by
  rw [spareTile, raise_dev]
  rfl

theorem removeTile_tilesOk (s : State) (t : Nat) : (removeTile s t).dev.tilesOk = s.dev.tilesOk - 1 := by
  rw [removeTile, dieDegraded, raise_dev]
  rfl

theorem removeTile_inService {s : State} {t : Nat} (ht : t < s.mill.tiles.length) : (tileAt (removeTile s t) t).inService = false := by
  rw [tileAt, removeTile, dieDegraded, raise_mill]
  exact congrArg Tile.inService (tileAt_modTile_self _ ht)

/-- The slice whose MAINT budget a tile's self-test is charged to. -/
def testSlice (s : State) (t : Nat) : Nat := (groupSlice s (t / 16) (t % 16) 1).getD 0

/-- `s` with a tile's self-test charged to MAINT, its cycles drawn (log entry 52). -/
def testCharged (s : State) (t : Nat) : State := tick (charge s (testSlice s t) 12 0 (Config.count s.free))

section
variable {s : State} {tile : Nat} (hrun : running s = true) (htile : tile < 64) (huse : (tileAt s tile).inService = true)
include hrun htile huse

theorem sramEccError_tile (double : Bool) : execSramEccError tile double s = .next (
    if double = true then askSelfTest (abandonTile { s with fab.cnt.eccUe := ctrAdd s.fab.cnt.eccUe 1 } tile) tile
    else modTile s tile fun x => { x with eccCe := ctrAdd x.eccCe 1 }) :=
  congrArg Host.Outcome.next (if_neg (by simp [hrun, htile, huse]))

variable (htest : (tileAt s tile).selfTest = true) (hrest : maintRest s (tile / 16) = true)
include htest hrest

/-- A self-test due in a rest of MAINT: it waits for MAINT's balance, and a tile that fails is spared or removed. -/
theorem tileSelfTestDone_due (pass : Bool) : execTileSelfTestDone tile pass s = .next (
    if hasBal s (testSlice s tile) 12 0 = false then holdOn s (testSlice s tile) 12 0
    else if pass = true then modTile (testCharged s tile) tile fun x => { x with selfTest := false }
    else if bit (abandonTile (testCharged s tile) tile).dev.spareLeft (tile / 16) = true then
      spareTile (abandonTile (testCharged s tile) tile) tile
    else removeTile (abandonTile (testCharged s tile) tile) tile) :=
  congrArg Host.Outcome.next (if_neg (by simp [hrun, htile, huse, htest, hrest]))

end

theorem tileSelfTestDone_stays {s : State} {tile : Nat} (pass : Bool)
    (hn : (tileAt s tile).selfTest = false ∨ maintRest s (tile / 16) = false) : execTileSelfTestDone tile pass s = .next s :=
  congrArg Host.Outcome.next (if_pos (.inr (.inr (.inr hn))))

/-! ### HBM (R346, R347) -/

section
variable {s : State} {stack pc : Nat}

theorem hbmError_lostDie (kind row frame : Nat) (hlost : (lget s.mill.dies (stack / 6) default).lost = true) :
    execHbmError kind stack pc row frame s = .next s :=
  congrArg Host.Outcome.next (if_pos (.inr (.inr (.inr hlost))))

/-- A frame of a die that works is recovered by the region it lies in (R20, R347). -/
theorem recoverFrame_working {d : Nat} (frame : Nat) (hworks : (lget s.mill.dies d default).lost = false) : recoverFrame s d frame =
    if frame < poolFrames Config.rawFlash then recoverPool s d frame else recoverFixed s d (frame - poolFrames Config.rawFlash) :=
  if_neg (by simp [hworks])

/-- A pseudo-channel that fails goes to a spare of its stack while there is one and MAINT has balance (R130, R346). -/
theorem pcFailure_spared (hlost : s.mill.pcLost.contains (stack, pc) = false) (hwait : s.mill.pcWait.contains (stack, pc) = false)
    (hspare : lget s.mill.pcSpared stack 0 + countBy (fun p => p.1 == stack) s.mill.pcWait < 2)
    (hbal : hasBal s (slicePc s stack pc) 12 1 = true) :
    pcFailure s stack pc = raise (charge { s with
        mill.pcSpared := lmod s.mill.pcSpared stack (· + 1), mill.pcWait := s.mill.pcWait.erase (stack, pc) }
      (slicePc s stack pc) 12 1 pcCopyBytes) 0x30 0 0 [(1, 2), (1, stack), (1, pc), (1, 0), (4, 0), (4, 0)] := by
  unfold pcFailure
  rw [if_neg (not_or.mpr ⟨ne_true_of_eq_false hlost, ne_true_of_eq_false hwait⟩), if_pos hspare]
  exact if_pos hbal

variable (hrun : running s = true) (hstack : stack < 24) (hpc : pc < 64)
  (hworks : (lget s.mill.dies (stack / 6) default).lost = false)
include hrun hstack hpc hworks

/-- What an error of each kind does on a die that works. -/
theorem hbmError_working (row frame : Nat) :
    let u := { s with fab.cnt.hbmCe := ctrAdd s.fab.cnt.hbmCe 1 }
    execHbmError 0 stack pc row frame s = .next u ∧
    execHbmError 1 stack pc row frame s = .next (hbmRepair u 0 stack pc row 0) ∧
    execHbmError 2 stack pc row frame s = .next (pcFailure s stack pc) ∧
    execHbmError 3 stack pc row frame s =
      .next (recoverFrame { s with fab.cnt.hbmUe := ctrAdd s.fab.cnt.hbmUe 1 } (stack / 6) frame) := by
  have hon : ¬(running s = false ∨ 24 ≤ stack ∨ 64 ≤ pc ∨ (lget s.mill.dies (stack / 6) default).lost = true) := by
    simp [hrun, hstack, hpc, hworks]
  exact ⟨congrArg Host.Outcome.next (if_neg hon), congrArg Host.Outcome.next (if_neg hon), congrArg Host.Outcome.next (if_neg hon),
    congrArg Host.Outcome.next (if_neg hon)⟩

end

/-! ### A die that stops (R348, R447) -/

theorem dropCap_dev (s : State) (d : Nat) : (dropCap s d).dev = { s.dev with
    tilesOk := s.dev.tilesOk - countBy (fun t => (tileAt s t).inService) ((List.range 16).map fun i => 16 * d + i)
    stackCnt := s.dev.stackCnt - 6, dieOk := s.dev.dieOk &&& (15 ^^^ 2 ^ d) } := by
  unfold dropCap
  dsimp only
  generalize hu : (List.range 16).foldl _ s = u
  have hdev : u.dev = s.dev := by
    rw [← hu]
    exact List.foldlRecOn _ _ (motive := fun t : State => t.dev = s.dev) rfl fun t ht _ _ => ht
  rw [hdev]

section
variable {s : State} {d : Nat}

theorem dieLost_lost (hlost : (lget s.mill.dies d default).lost = true) : execDieLost d s = .next s :=
  congrArg Host.Outcome.next (if_pos (.inr (.inr hlost)))

/-- `s` with a die out, and its stream ended. -/
def dieOut (s : State) (d : Nat) : State := modDie s d fun x => { x with lost := true, stream := [] }

theorem dieLost_working (hrun : running s = true) (hd : d < 4) (hworks : (lget s.mill.dies d default).lost = false) :
    execDieLost d s = .next (
      if (s.mill.dies.any fun x => x.lost) = true then secondDie (dieOut s d) d else firstDie (dieOut s d) d) :=
  congrArg Host.Outcome.next (if_neg (by simp [hrun, hd, hworks]))

end

/-- The first die to stop raises DIE_DEGRADED last, with the sessions it had homed (R348). -/
theorem firstDie_raises (u : State) (d : Nat) : ∃ w : State,
    firstDie u d = raise (dropCap w d) 0x32 0 0 [(1, d), (1, 0), (1, 0), (1, 0), (4, (homed u d).length)] := ⟨_, rfl⟩

/-! ### The statement -/

/-- Settles O54: a tile's self-test goes by MAINT and by the die's spare (`tileSelfTestDone_due`), an HBM error by its kind
(`hbmError_working`), and a die that stops by the dies lost before it (`dieLost_working`). -/
theorem hardwareFaults : Obligations.HardwareFaults := by
  unfold Obligations.HardwareFaults
  refine ⟨fun s tile hrun htile huse => ⟨sramEccError_tile hrun htile huse false, sramEccError_tile hrun htile huse true,
      fun hn pass => tileSelfTestDone_stays pass hn, fun htest hrest => ?selfTest⟩,
    fun s hrun => ⟨fun stack pc row frame hstack hpc => ⟨fun hlost k => hbmError_lostDie k row frame hlost, fun hworks => ?hbm⟩,
      fun d hd hworks => ⟨fun hfirst => ?first, fun hsecond => ?second⟩, fun d hlost => dieLost_lost hlost⟩⟩
  case selfTest =>
    have hdue := tileSelfTestDone_due hrun htile huse htest hrest
    refine ⟨fun hspent pass => (hdue pass).trans (congrArg Host.Outcome.next (if_pos hspent)), fun hbal => ?_⟩
    have hpaid : ¬hasBal s (testSlice s tile) 12 0 = false := ne_false_of_eq_true hbal
    refine ⟨(hdue true).trans (congrArg Host.Outcome.next (if_neg hpaid)), fun hspare => ⟨?_, spareTile_spareLeft _ _⟩,
      fun hnone => ⟨?_, removeTile_tilesOk _ _, removeTile_inService⟩⟩
    · exact (hdue false).trans (congrArg Host.Outcome.next ((if_neg hpaid).trans (if_pos hspare)))
    · exact (hdue false).trans (congrArg Host.Outcome.next ((if_neg hpaid).trans (if_neg (ne_true_of_eq_false hnone))))
  case hbm =>
    obtain ⟨hce, hrepair, hchannel, hue⟩ := hbmError_working hrun hstack hpc hworks row frame
    refine ⟨hce, hrepair, hchannel, pcFailure_spared, hue.trans (congrArg Host.Outcome.next ?_)⟩
    exact recoverFrame_working frame hworks
  case first =>
    obtain ⟨w, hw⟩ := firstDie_raises (dieOut s d) d
    have hdev := dropCap_dev w d
    refine ⟨(dieLost_working hrun hd hworks).trans (congrArg Host.Outcome.next (if_neg (by simp [hfirst]))), w, hw, ?_, ?_, ?_⟩
    · rw [hdev]
    · rw [hdev]
    · rw [hdev]
  case second =>
    exact ⟨(dieLost_working hrun hd hworks).trans (congrArg Host.Outcome.next (if_pos hsecond)), rfl, rfl⟩

end Sys2Proof.Machine
end

section
/-! PROOF. What every command keeps: the control part (O9), the queue and the invariant (O6, O7), that it answers a next state (O8), and
what one step is (O1, O2, O5). Each command's own lemma is in the layer of its part of the model. -/
namespace Sys2Proof.Machine

/-! ### Every command, by its row (R443) -/

/-- A command that is not one of the named rows leaves the control part alone, by its own frame lemma. -/
theorem exec_ctl {i : Instr} {s t : State} (hi : changesControl i = false) (h : exec i s = .next t) : t.ctl = s.ctl := by
  cases i with
  | sessionOpen => exact execSessionOpen_ctl h
  | sessionAppend => exact execSessionAppend_ctl h
  | sessionGenerate => exact execSessionGenerate_ctl h
  | sessionPark => exact execSessionPark_ctl h
  | sessionRevive => exact execSessionRevive_ctl h
  | sessionCondense => exact execSessionCondense_ctl h
  | sessionClose => exact execSessionClose_ctl h
  | sessionQuery => exact execSessionQuery_ctl h
  | sessionMigrateOffer => exact execSessionMigrateOffer_ctl h
  | sessionMigrateAccept => exact execSessionMigrateAccept_ctl h
  | bungQuery => exact execBungQuery_ctl h
  | modelRegister => exact execModelRegister_ctl h
  | modelWarm => exact execModelWarm_ctl h
  | modelEvict => exact execModelEvict_ctl h
  | draftBind => exact execDraftBind_ctl h
  | segmentLoad => exact execSegmentLoad_ctl h
  | vocabLoad => exact execVocabLoad_ctl h
  | grammarLoad => exact execGrammarLoad_ctl h
  | lauterQuery => exact execLauterQuery_ctl h
  | corpusInsert => exact execCorpusInsert_ctl h
  | corpusDelete => exact execCorpusDelete_ctl h
  | corpusPublish => exact execCorpusPublish_ctl h
  | shardMapSet => exact execShardMapSet_ctl h
  | recallProbe => exact execRecallProbe_ctl h
  | tableCreate => exact execTableCreate_ctl h
  | rowLookup => exact execRowLookup_ctl h
  | rowUpdate => exact execRowUpdate_ctl h
  | tableReplaceBegin => exact execTableReplaceBegin_ctl h
  | tableReplaceRows => exact execTableReplaceRows_ctl h
  | tableReplaceCommit => exact execTableReplaceCommit_ctl h
  | hotsetSet => exact execHotsetSet_ctl h
  | mashLoad => exact execMashLoad_ctl h
  | shareSet => exact execShareSet_ctl h
  | shaperSet => exact execShaperSet_ctl h
  | gateListLoad => exact execGateListLoad_ctl h
  | serviceClassSet => exact execServiceClassSet_ctl h
  | sliceSet => exact execSliceSet_ctl h
  | routeSet => exact execRouteSet_ctl h
  | buddySet => exact execBuddySet_ctl h
  | spareAdopt => exact execSpareAdopt_ctl h
  | ckptStart => exact execCkptStart_ctl h
  | ckptStatus => exact execCkptStatus_ctl h
  | restoreStart => exact execRestoreStart_ctl h
  | attest => exact execAttest_ctl h
  | tenantCreate => exact execTenantCreate_ctl h
  | tenantRemove => exact execTenantRemove_ctl h
  | keyInstall => exact execKeyInstall_ctl h
  | csrRead => exact execCsrRead_ctl h
  | calSet => exact execCalSet_ctl h
  | resultRead => exact execResultRead_ctl h
  | resultRelease => exact execResultRelease_ctl h
  | eventRead => exact execEventRead_ctl h
  | firmwareStage => exact execFirmwareStage_ctl h
  | firmwareActivate => exact execFirmwareActivate_ctl h
  | nop => exact execNop_ctl h
  | sbAlertClear => exact execSbAlertClear_ctl h
  | sbSetAddr => exact execSbSetAddr_ctl h
  | sbRead => exact execSbRead_ctl h
  | hsHello => exact execHsHello_ctl h
  | hsCt => exact execHsCt_ctl h
  | handshakeTimeout => exact execHandshakeTimeout_ctl h
  | glFrameReceive => exact execGlFrameReceive_ctl h
  | glResendTimeout => exact execGlResendTimeout_ctl h
  | glKeepalive => exact execGlKeepalive_ctl h
  | glPortDown => exact execGlPortDown_ctl h
  | fabFrameReceive => exact execFabFrameReceive_ctl h
  | fabResendTimeout => exact execFabResendTimeout_ctl h
  | fabKeepalive => exact execFabKeepalive_ctl h
  | peerLost => exact execPeerLost_ctl h
  | fabHandshake => exact execFabHandshake_ctl h
  | fabPortDown => exact execFabPortDown_ctl h
  | fabPortUp => exact execFabPortUp_ctl h
  | gateListActivate => exact execGateListActivate_ctl h
  | fenceCheck => exact execFenceCheck_ctl h
  | copyComplete => exact execCopyComplete_ctl h
  | copyAbandon => exact execCopyAbandon_ctl h
  | postRecord => exact execPostRecord_ctl h
  | stepCommit => exact execStepCommit_ctl h
  | rackRecord => exact execRackRecord_ctl h
  | rackAck => exact execRackAck_ctl h
  | fencedReceived => exact execFencedReceived_ctl h
  | adoptFreezeRequest => exact execAdoptFreezeRequest_ctl h
  | handover => exact execHandover_ctl h
  | adoptPullDone => exact execAdoptPullDone_ctl h
  | migrateOfferMsg => exact execMigrateOfferMsg_ctl h
  | offerReply => exact execOfferReply_ctl h
  | migrateEnd => exact execMigrateEnd_ctl h
  | migrateMatchReply _ _ d => exact execMigrateMatchReply_ctl (_digest := d) h
  | migrateCommitMsg => exact execMigrateCommitMsg_ctl h
  | migrateReleased => exact execMigrateReleased_ctl h
  | migrateAbort => exact execMigrateAbort_ctl h
  | bungAsk => exact execBungAsk_ctl h
  | bungAnswer => exact execBungAnswer_ctl h
  | bungAskTimeout => exact execBungAskTimeout_ctl h
  | revokeNotice => exact execRevokeNotice_ctl h
  | expertTokens => exact execExpertTokens_ctl h
  | searchRequest => exact execSearchRequest_ctl h
  | candidateReply => exact execCandidateReply_ctl h
  | textFetchRequest => exact execTextFetchRequest_ctl h
  | replicaDeadline => exact execReplicaDeadline_ctl h
  | mergeDeadline => exact execMergeDeadline_ctl h
  | textFetchDeadline => exact execTextFetchDeadline_ctl h
  | peerRequestExpire => exact execPeerRequestExpire_ctl h
  | repairSweep => exact execRepairSweep_ctl h
  | objectFetchDone => exact execObjectFetchDone_ctl h
  | putDone => exact execPutDone_ctl h
  | putFail => exact execPutFail_ctl h
  | dwellExpiry => exact execDwellExpiry_ctl h
  | parkComplete => exact execParkComplete_ctl h
  | reviveComplete => exact execReviveComplete_ctl h
  | condenseCommit => exact execCondenseCommit_ctl h
  | caskExpiry => exact execCaskExpiry_ctl h
  | cellarSecSave => exact execCellarSecSave_ctl h
  | holdExpiry => exact execHoldExpiry_ctl h
  | reservationGranted => exact execReservationGranted_ctl h
  | reserveTimeout => exact execReserveTimeout_ctl h
  | reviveBuddyTimeout => exact execReviveBuddyTimeout_ctl h
  | noGroupTimeout => exact execNoGroupTimeout_ctl h
  | pressureReclaim => exact execPressureReclaim_ctl h
  | tokeniseDone => exact execTokeniseDone_ctl h
  | modelWarmDone => exact execModelWarmDone_ctl h
  | modelEvictDone => exact execModelEvictDone_ctl h
  | hotRefresh => exact execHotRefresh_ctl h
  | flashProgramDone => exact execFlashProgramDone_ctl h
  | flashEraseDone => exact execFlashEraseDone_ctl h
  | flashReadDone => exact execFlashReadDone_ctl h
  | gcStart => exact execGcStart_ctl h
  | pslcRecompute => exact execPslcRecompute_ctl h
  | wearGovernorTick => exact execWearGovernorTick_ctl h
  | powerSecSave => exact execPowerSecSave_ctl h
  | patrolRead => exact execPatrolRead_ctl h
  | lunTimeout => exact execLunTimeout_ctl h
  | oastMountDone => exact execOastMountDone_ctl h
  | keyStoreWriteDone => exact execKeyStoreWriteDone_ctl h
  | sramEccError => exact execSramEccError_ctl h
  | tileSelfTestDone => exact execTileSelfTestDone_ctl h
  | hbmError => exact execHbmError_ctl h
  | dieLost => exact execDieLost_ctl h
  | supplyInputChange => exact execSupplyInputChange_ctl h
  | supplyLost => exact execSupplyLost_ctl h
  | sensorSample => exact execSensorSample_ctl h
  | replyHoldExpiry => exact execReplyHoldExpiry_ctl h
  | gateEntryAdvance => exact execGateEntryAdvance_ctl h
  | frameClearDone => exact execFrameClearDone_ctl h
  | abortMarkExpiry => exact execAbortMarkExpiry_ctl h
  | textFetchReply => exact execTextFetchReply_ctl h
  | _ => cases hi

/-- A command of the named rows keeps the queue and the invariant, by its own lemma. -/
theorem exec_keeps_of_changesControl {i : Instr} {s t : State} (hi : changesControl i = true) (h : exec i s = .next t) :
    Keeps s.ctl t.ctl := by
  have k := Keeps.refl s.ctl
  cases i with
  | csrWrite => exact execCsrWrite_keeps k h
  | clockSet => exact execClockSet_keeps k h
  | shutdown => exact execShutdown_keeps k h
  | warmReset => exact execWarmReset_keeps k h
  | coldReset => exact execColdReset_keeps k h
  | deferredReset => exact execDeferredReset_keeps k h
  | quiesce => exact execQuiesce_keeps k h
  | clearNmi => exact execClearNmi_keeps k h
  | sbWrite => exact execSbWrite_keeps k h
  | jtagInstruction => exact execJtagInstruction_keeps k h
  | restBoundary => exact execRestBoundary_keeps k h
  | supplyQualified => exact execSupplyQualified_keeps k h
  | holdupEnd => exact execHoldupEnd_keeps k h
  | throttleUpdate => exact execThrottleUpdate_keeps k h
  | thermtrip => exact execThermtrip_keeps k h
  | oscillatorStable => exact execOscillatorStable_keeps k h
  | refclkStartTimeout => exact execRefclkStartTimeout_keeps k h
  | clockMonWindow => exact execClockMonWindow_keeps k h
  | monclkAbsent => exact execMonclkAbsent_keeps k h
  | resetPin => exact execResetPin_keeps k h
  | glitchReset => exact execGlitchReset_keeps k h
  | _ => cases hi

/-- Every command keeps the queue and the invariant. -/
theorem exec_keeps {i : Instr} {s t : State} (h : exec i s = .next t) : Keeps s.ctl t.ctl := by
  cases hi : changesControl i with
  | false => exact .of_eq (exec_ctl hi h)
  | true => exact exec_keeps_of_changesControl hi h

/-! ### One step -/

theorem idle_ctl (s : State) : (idle s).ctl = s.ctl := by
  unfold idle
  split <;> rfl

theorem step_empty {s : State} (hq : s.pending = []) : step s = .next (idle s) := by
  unfold step
  rw [hq]

theorem step_front {s : State} {c : Instr} {rest : List Instr} (hq : s.pending = c :: rest) :
    step s = exec c { s with pending := rest } := by
  unfold step
  rw [hq]

/-- A step leaves the queue's rest, and keeps the invariant. -/
theorem step_keeps {s t : State} (h : step s = .next t) : t.pending = s.pending.tail ∧ (s.Inv → t.Inv) := by
  cases hq : s.pending with
  | nil =>
    rw [step_empty hq] at h
    cases h
    have k : Keeps s.ctl (idle s).ctl := .of_eq (idle_ctl s)
    exact ⟨k.queue.trans hq, k.ok⟩
  | cons c rest =>
    rw [step_front hq] at h
    have k := exec_keeps h
    exact ⟨k.queue, fun hs => k.ok hs⟩

/-! ### What stops (R408) -/

theorem clockLimitsOk_eq_false_iff {c : Clocks} :
    clockLimitsOk c = false ↔ 2 * c.arithDiv < c.fabricDiv ∨ 2 * c.arithDiv < c.ctrlDiv := by
  simp only [clockLimitsOk, Bool.and_eq_false_iff, decide_eq_false_iff_not, not_le]

/-- A reset answers a next state but for a warm one whose dividers break the limits of R408. -/
theorem resetFor_completes_or_fault (s : State) (cause : Nat) : Completes (resetFor s cause) ∨
    (resetFor s cause = .fault .clockLimits ∧ cause ≠ 2 ∧ clockLimitsOk s.dev.clk = false) := by
  unfold resetFor
  by_cases hcold : cause = 2
  · exact .inl ⟨_, if_pos hcold⟩
  · rw [if_neg hcold]
    cases hlim : clockLimitsOk s.dev.clk with
    | true => exact .inl ⟨_, rfl⟩
    | false => exact .inr ⟨rfl, hcold, rfl⟩

theorem advanceUs_clk (s : State) (us : Nat) : (advanceUs s us).dev.clk = s.dev.clk := rfl

theorem deferredReset_none {s : State} (hd : s.dev.deferred = none) : execDeferredReset s = .next s := by
  unfold execDeferredReset
  rw [hd]

theorem deferredReset_due {s : State} {k : Nat} (hd : s.dev.deferred = some k) :
    execDeferredReset s = resetFor (advanceUs s 1000) k := by
  unfold execDeferredReset
  rw [hd]

/-- Every command but a deferred reset answers a next state, whatever the state. -/
theorem exec_completes {i : Instr} (s : State) (hi : i ≠ .deferredReset) : Completes (exec i s) := by
  cases i with
  | deferredReset => exact absurd rfl hi
  | _ => exact ⟨_, rfl⟩

/-! ### The statements -/

/-- Settles O1. -/
theorem stepRunsFrontCommand : Obligations.StepRunsFrontCommand := by
  unfold Obligations.StepRunsFrontCommand
  exact fun _ _ _ => step_front rfl

/-- Settles O2: on an empty queue a step is `idle`, which counts where the load is powered and the PLL locked. -/
theorem emptyQueueCountsOneCycle : Obligations.EmptyQueueCountsOneCycle := by
  unfold Obligations.EmptyQueueCountsOneCycle
  intro s hq
  rw [step_empty hq, idle]
  simp only [Bool.and_eq_true]
  rfl

/-- Settles O5: the control part of the reset state is evaluated. -/
theorem resetKeepsInvariant : Obligations.ResetKeepsInvariant := by
  unfold Obligations.ResetKeepsInvariant State.Inv
  decide

/-- Settles O6: the front command keeps the invariant (`exec_keeps`), and so does the idle step. -/
theorem stepKeepsInvariant : Obligations.StepKeepsInvariant := by
  unfold Obligations.StepKeepsInvariant
  exact fun _ _ hs h => (step_keeps h).2 hs

/-- Settles O7: the queue is part of what every command keeps (`exec_keeps`), and a step gives it the queue's rest. -/
theorem stepTakesFrontCommand : Obligations.StepTakesFrontCommand := by
  unfold Obligations.StepTakesFrontCommand
  exact fun _ _ h => (step_keeps h).1

/-- Settles O8: only a deferred reset can stop (`exec_completes`), and only by the limits of R408
(`resetFor_completes_or_fault`). R408 leaves such dividers undefined; that they are a fault is log entry 90. -/
theorem onlyClockLimitsStop : Obligations.OnlyClockLimitsStop := by
  unfold Obligations.OnlyClockLimitsStop
  intro i s
  by_cases hi : i = .deferredReset
  · subst hi
    rw [exec_deferredReset]
    cases hd : s.dev.deferred with
    | none => exact .inl ⟨s, deferredReset_none hd⟩
    | some k =>
      rw [deferredReset_due hd]
      rcases resetFor_completes_or_fault (advanceUs s 1000) k with hnext | ⟨hfault, hwarm, hlim⟩
      · exact .inl hnext
      · rw [advanceUs_clk, clockLimitsOk_eq_false_iff] at hlim
        exact .inr ⟨hfault, rfl, ⟨k, rfl, hwarm⟩, hlim⟩
  · exact .inl (exec_completes s hi)

/-- Settles O9: each command by its own frame lemma (`exec_ctl`). HBM is the byte memory; what log entry 48 keeps elsewhere is not of the
control part. -/
theorem controlPartLeftAlone : Obligations.ControlPartLeftAlone := by
  unfold Obligations.ControlPartLeftAlone
  exact fun _ _ _ hi h => exec_ctl hi h

end Sys2Proof.Machine
end

section
/-! PROOF. The fields of a register word read back as written (O4): R443 and the register tables. -/
namespace Sys2Proof.Machine

/-! ### A word read and written, by its block (R441) -/

section
variable (s : State) (v : Nat) {off : Nat}

theorem regWord_dev (hoff : off < 0x10000) : regWord s off = devWord s off := if_pos hoff

theorem regWrite_dev (hoff : off < 0x10000) : regWrite s off v = writeDev s off v := if_pos hoff

theorem regWord_ev (hoff : off < 0x10000) : regWord s (0x20000 + off) = evWord s off := by
  rw [regWord]
  repeat rw [if_neg (by omega)]
  rw [if_pos (by omega), Nat.add_sub_cancel_left]

theorem regWrite_ev (hoff : off < 0x10000) : regWrite s (0x20000 + off) v = writeEv s off v := by
  rw [regWrite]
  repeat rw [if_neg (by omega)]
  rw [if_pos (by omega), Nat.add_sub_cancel_left]

theorem regWord_cellar (hoff : off < 0x10000) : regWord s (0x400000 + off) = cellarWord s off := by
  rw [regWord]
  repeat rw [if_neg (by omega)]
  rw [if_pos (by omega), Nat.add_sub_cancel_left]

theorem regWrite_cellar (hoff : off < 0x10000) : regWrite s (0x400000 + off) v = writeCellar s off v := by
  rw [regWrite]
  repeat rw [if_neg (by omega)]
  rw [if_pos (by omega), Nat.add_sub_cancel_left]

theorem regWord_lauter (hoff : off < 0x10000) : regWord s (0x420000 + off) = lauterWord s off := by
  rw [regWord]
  repeat rw [if_neg (by omega)]
  rw [if_pos (by omega), Nat.add_sub_cancel_left]

theorem regWrite_lauter (hoff : off < 0x10000) : regWrite s (0x420000 + off) v = writeLauter s off v := by
  rw [regWrite]
  repeat rw [if_neg (by omega)]
  rw [if_pos (by omega), Nat.add_sub_cancel_left]

theorem regWord_rows (hoff : off < 0x10000) : regWord s (0x430000 + off) = rowsWord s off := by
  rw [regWord]
  repeat rw [if_neg (by omega)]
  rw [if_pos (by omega), Nat.add_sub_cancel_left]

theorem regWrite_rows (hoff : off < 0x10000) : regWrite s (0x430000 + off) v = writeRows s off v := by
  rw [regWrite]
  repeat rw [if_neg (by omega)]
  rw [if_pos (by omega), Nat.add_sub_cancel_left]

theorem regWord_oast (hoff : off < 0x10000) : regWord s (0x440000 + off) = oastWord s off := by
  rw [regWord]
  repeat rw [if_neg (by omega)]
  rw [if_pos (by omega), Nat.add_sub_cancel_left]

theorem regWrite_oast (hoff : off < 0x10000) : regWrite s (0x440000 + off) v = writeOast s off v := by
  rw [regWrite]
  repeat rw [if_neg (by omega)]
  rw [if_pos (by omega), Nat.add_sub_cancel_left]

theorem regWord_mash (hoff : off < 0x200000) : regWord s (0x100000 + off) = mashWord s off := by
  rw [regWord]
  repeat rw [if_neg (by omega)]
  rw [if_pos (by omega), Nat.add_sub_cancel_left]

theorem regWord_fab (hoff : off < 0x10000) : regWord s (0x450000 + off) = fabWord s off := by
  rw [regWord]
  repeat rw [if_neg (by omega)]
  rw [if_pos (by omega), Nat.add_sub_cancel_left]

theorem regWord_ckpt (hoff : off < 0x10000) : regWord s (0x460000 + off) = ckptWord s off := by
  rw [regWord]
  repeat rw [if_neg (by omega)]
  rw [if_pos (by omega), Nat.add_sub_cancel_left]

end

/-! ### A register's word after it is written (R424, R449 to R455) -/

theorem lget_word {l : List Nat} {i w : Nat} (hw : l[i]? = some w) : lget l i 0 = w := by
  rw [lget, List.getD_eq_getElem?_getD, hw, Option.getD_some]

/-- A 32-bit register of a block placed by rule, below offset 0x100 (R455). -/
theorem placed_word {l32 l64 : List Nat} {off w : Nat} (hoff : off < 0x100) (hw : l32[off / 4]? = some w) : placed l32 l64 off = w :=
  (if_pos hoff).trans (lget_word hw)

theorem sumBy_eq_sum {α : Type} (f : α → Nat) (l : List α) : sumBy f l = (l.map f).sum := by
  rw [sumBy, List.sum_eq_foldl, List.foldl_map]

theorem packWord_nil : packWord [] = 0 := rfl

theorem packWord_cons (f : Nat × Nat × Nat) (fs : List (Nat × Nat × Nat)) :
    packWord (f :: fs) = f.2.2 % 2 ^ f.2.1 * 2 ^ f.1 + packWord fs := by
  rw [packWord, sumBy_eq_sum, List.map_cons, List.sum_cons, ← sumBy_eq_sum, packWord]

theorem b2n_bit (v i : Nat) : b2n (bit v i) = v / 2 ^ i % 2 := by
  rw [bit, Nat.testBit_eq_decide_div_mod_eq, b2n]
  rcases Nat.mod_two_eq_zero_or_one (v / 2 ^ i) with h | h <;> simp [h]

section
variable (s : State) (v : Nat)

theorem written_pwrCtl : regWord (regWrite s 0x1C v) 0x1C = packWord [(16, 12, bits v 27 16)] := by
  rw [regWrite_dev s v (off := 0x1C) (by decide), regWord_dev _ (off := 0x1C) (by decide)]
  dsimp only [devWord]
  rw [if_neg (by decide), if_neg (by decide)]
  exact lget_word rfl

theorem written_clkMon : regWord (regWrite s 0x34 v) 0x34 = packWord [(0, 7, bits v 6 0), (8, 4, bits v 11 8)] := by
  rw [regWrite_dev s v (off := 0x34) (by decide), regWord_dev _ (off := 0x34) (by decide)]
  dsimp only [devWord]
  rw [if_neg (by decide), if_neg (by decide)]
  exact lget_word rfl

theorem written_evMask : regWord (regWrite s 0x20000 v) 0x20000 = bits v 16 0 := by
  rw [regWrite_ev s v (off := 0x0) (by decide), regWord_ev _ (off := 0x0) (by decide)]
  exact rfl

theorem written_eventPort : regWord (regWrite s 0x20010 v) 0x20010 = v % 2 := by
  rw [regWrite_ev s v (off := 0x10) (by decide), regWord_ev _ (off := 0x10) (by decide)]
  exact rfl

theorem written_alertEn : regWord (regWrite s 0x20034 v) 0x20034 = v % 128 := by
  rw [regWrite_ev s v (off := 0x34) (by decide), regWord_ev _ (off := 0x34) (by decide)]
  exact rfl

theorem written_slowThr : regWord (regWrite s 0x100010 v) 0x100010 = bits v 15 0 := by
  rw [regWord_mash _ (off := 0x10) (by decide)]
  dsimp only [mashWord]
  rw [if_pos (by decide)]
  exact lget_word rfl

theorem written_cellarCtl : regWord (regWrite s 0x400000 v) 0x400000 = 
    packWord [(0, 1, b2n (bit v 0)), (1, 1, b2n (bit v 1)), (16, 8, bits v 23 16)] := by
  rw [regWrite_cellar s v (off := 0x0) (by decide), regWord_cellar _ (off := 0x0) (by decide)]
  exact placed_word (by decide) rfl

theorem written_indexBase : regWord (regWrite s 0x400004 v) 0x400004 = bits v 23 0 := by
  rw [regWrite_cellar s v (off := 0x4) (by decide), regWord_cellar _ (off := 0x4) (by decide)]
  exact placed_word (by decide) rfl

theorem written_indexLimit : regWord (regWrite s 0x400008 v) 0x400008 = bits v 23 0 := by
  rw [regWrite_cellar s v (off := 0x8) (by decide), regWord_cellar _ (off := 0x8) (by decide)]
  exact placed_word (by decide) rfl

theorem written_watermarks : regWord (regWrite s 0x40000C v) 0x40000C = packWord [(0, 10, bits v 9 0), (16, 10, bits v 25 16)] := by
  rw [regWrite_cellar s v (off := 0xC) (by decide), regWord_cellar _ (off := 0xC) (by decide)]
  exact placed_word (by decide) rfl

theorem written_holds : regWord (regWrite s 0x400010 v) 0x400010 = packWord [(0, 16, bits v 15 0), (16, 16, bits v 31 16)] := by
  rw [regWrite_cellar s v (off := 0x10) (by decide), regWord_cellar _ (off := 0x10) (by decide)]
  exact placed_word (by decide) rfl

theorem written_lauterCtl : regWord (regWrite s 0x420000 v) 0x420000 = 
    packWord [(0, 20, bits v 19 0), (20, 1, b2n (bit v 20)), (21, 1, b2n (bit v 21))] := by
  rw [regWrite_lauter s v (off := 0x0) (by decide), regWord_lauter _ (off := 0x0) (by decide)]
  exact placed_word (by decide) rfl

theorem written_linkBeam : regWord (regWrite s 0x420004 v) 0x420004 = packWord [(0, 11, bits v 10 0), (16, 8, bits v 23 16)] := by
  rw [regWrite_lauter s v (off := 0x4) (by decide), regWord_lauter _ (off := 0x4) (by decide)]
  exact placed_word (by decide) rfl

theorem written_hotKib : regWord (regWrite s 0x430000 v) 0x430000 = packWord [(0, 15, bits v 14 0), (16, 4, bits v 19 16)] := by
  rw [regWrite_rows s v (off := 0x0) (by decide), regWord_rows _ (off := 0x0) (by decide)]
  exact placed_word (by decide) rfl

theorem written_beta1 : regWord (regWrite s 0x430004 v) 0x430004 = v % 2 ^ 32 := by
  rw [regWrite_rows s v (off := 0x4) (by decide), regWord_rows _ (off := 0x4) (by decide)]
  exact placed_word (by decide) rfl

theorem written_beta2 : regWord (regWrite s 0x430008 v) 0x430008 = v % 2 ^ 32 := by
  rw [regWrite_rows s v (off := 0x8) (by decide), regWord_rows _ (off := 0x8) (by decide)]
  exact placed_word (by decide) rfl

theorem written_eps : regWord (regWrite s 0x43000C v) 0x43000C = v % 2 ^ 32 := by
  rw [regWrite_rows s v (off := 0xC) (by decide), regWord_rows _ (off := 0xC) (by decide)]
  exact placed_word (by decide) rfl

theorem written_gcLevels : regWord (regWrite s 0x440000 v) 0x440000 = 
    packWord [(0, 8, bits v 7 0), (8, 8, bits v 15 8), (16, 12, bits v 27 16), (28, 1, b2n (bit v 28))] := by
  rw [regWrite_oast s v (off := 0x0) (by decide), regWord_oast _ (off := 0x0) (by decide)]
  exact placed_word (by decide) rfl

theorem written_ratedCycles : regWord (regWrite s 0x440004 v) 0x440004 = packWord [(0, 16, bits v 15 0), (16, 8, bits v 23 16)] := by
  rw [regWrite_oast s v (off := 0x4) (by decide), regWord_oast _ (off := 0x4) (by decide)]
  exact placed_word (by decide) rfl

theorem written_waInit : regWord (regWrite s 0x440008 v) 0x440008 = packWord [(0, 16, bits v 15 0), (16, 16, bits v 31 16)] := by
  rw [regWrite_oast s v (off := 0x8) (by decide), regWord_oast _ (off := 0x8) (by decide)]
  exact placed_word (by decide) rfl

theorem written_peerTimeout : regWord (regWrite s 0x450004 v) 0x450004 = packWord [(0, 12, bits v 11 0), (16, 8, bits v 23 16)] := by
  rw [regWord_fab _ (off := 4) (by decide)]
  exact placed_word (by decide) rfl

theorem written_ckptCtl : regWord (regWrite s 0x460000 v) 0x460000 =
    packWord [(0, 8, bits v 7 0), (8, 1, b2n (bit v 8)), (16, 8, bits v 23 16)] := by
  rw [regWord_ckpt _ (off := 0) (by decide)]
  dsimp only [ckptWord]
  rw [if_neg (by decide)]
  exact placed_word (by decide) rfl

end

/-- Settles O4: each register's word after the write is packed of the fields of the word written (`written_…`), and its fields lie
apart. -/
theorem writtenFieldReadsBack : Obligations.WrittenFieldReadsBack := by
  unfold Obligations.WrittenFieldReadsBack
  intro s v
  simp only [List.forall_mem_cons, List.not_mem_nil, false_imp_iff, implies_true, and_true, written_pwrCtl, written_clkMon,
    written_evMask, written_eventPort, written_alertEn, written_slowThr, written_cellarCtl, written_indexBase, written_indexLimit,
    written_watermarks, written_holds, written_lauterCtl, written_linkBeam, written_hotKib, written_beta1, written_beta2, written_eps,
    written_gcLevels, written_ratedCycles, written_waInit, written_peerTimeout, written_ckptCtl]
  simp only [packWord_cons, packWord_nil, b2n_bit, bits]
  and_intros
  all_goals omega

end Sys2Proof.Machine
end

section
/-! PROOF. CSR_READ, CSR_WRITE and the commands on results and events (O31), CLOCK_SET and CAL_SET (O32). That a shutdown starts after
the words of the write is log entry 18; that a clamped sum is counted at the write is log entry 83. -/
namespace Sys2Proof.Machine

/-! ### CSR_READ and CSR_WRITE (R443, R444) -/

/-- Words from `a` up, all in one block, pass the address and range checks (R443). -/
theorem csrFaults_clear {a n e : Nat} (halign : a % 4 = 0) (hblock : blockEnd a = some e) (hpos : 1 ≤ n) (hmax : n ≤ 16000)
    (hend : a + 4 * n ≤ e + 1) : Clear (csrFaults a n) := by
  simp only [csrFaults, hblock, halign, clear_cons, clear_nil, and_true]
  refine ⟨rfl, ?_⟩
  simp only [Option.getD_some, Bool.or_eq_false_iff, beq_eq_false_iff_ne, decide_eq_false_iff_not]
  omega

theorem csrRead_taken {s : State} {h : Hdr} {a n : Nat} (hready : Ready s (.csrRead h a n)) (hclear : Clear (csrFaults a n)) :
    exec (.csrRead h a n) s = .next (
      if 0xF0000000 ≤ a then finalOn (takeFromBuffer s h) h 0x0901 (ans 0x0012)
      else finalOn (takeFromBuffer s h) h 0x0901 (ansB ((regReads (takeFromBuffer s h) a n).flatMap (leBytes 4)))) := by
  have hdebug : inDebug a = true ↔ 0xF0000000 ≤ a := decide_eq_true_iff
  rw [exec_csrRead]
  exact congrArg Host.Outcome.next (sync_final_ite (hready.fit rfl) hclear (if_congr hdebug rfl rfl) rfl rfl)

theorem csrWrite_taken {s : State} {h : Hdr} {a n : Nat} {ws : List Nat} (hready : Ready s (.csrWrite h a n ws))
    (hclear : Clear (csrFaults a n)) : exec (.csrWrite h a n ws) s = .next (
      if 0xF0000000 ≤ a then finalOn (takeFromBuffer s h) h 0x0902 (ans 0x0012)
      else if setsShutdown a (ws.take n) = true then
        (if mayShut (takeFromBuffer s h) = true then
          finalOn (startShutdown (regWrites (takeFromBuffer s h) a (ws.take n))) h 0x0902 (ans 0)
         else finalOn (takeFromBuffer s h) h 0x0902 (ans 0x0017))
      else finalOn (regWrites (takeFromBuffer s h) a (ws.take n)) h 0x0902 (ans 0)) := by
  have hdebug : inDebug a = true ↔ 0xF0000000 ≤ a := decide_eq_true_iff
  have htaken {w : State} {b : Ans} (happly : csrApply a (ws.take n) (takeFromBuffer s h) = (w, b))
      (hb : failsAcceptance b.status = false) : exec (.csrWrite h a n ws) s = .next (finalOn w h 0x0902 b) :=
    congrArg Host.Outcome.next (sync_final (params := fun _ => csrFaults a n) (run := csrApply a (ws.take n)) (hready.fit rfl) hclear
      happly hb)
  unfold csrApply at htaken
  split
  next hin => exact htaken (if_pos (hdebug.mpr hin)) rfl
  next hout =>
    rw [if_neg (hdebug.not.mpr hout)] at htaken
    split
    next hshut =>
      rw [if_pos hshut] at htaken
      split
      next hmay => exact htaken (if_pos hmay) rfl
      next hbusy => exact htaken (if_neg hbusy) rfl
    next hplain => exact htaken (if_neg hplain) rfl

/-- Words written one list after another: the second begins where the first ends (R444). -/
theorem regWrites_append (s : State) (a : Nat) (ws us : List Nat) :
    regWrites s a (ws ++ us) = regWrites (regWrites s a ws) (a + 4 * ws.length) us := by
  induction ws generalizing s a with
  | nil => rfl
  | cons w ws ih =>
    have hat : a + 4 * (w :: ws).length = a + 4 + 4 * ws.length := by
      rw [List.length_cons]
      omega
    rw [List.cons_append, regWrites, ih, hat, regWrites]

/-! ### Results and events (R40, R41, R49, R59, R60) -/

/-- One more read of a retained result, counted modulo 2^32 (R41). -/
def readOnce (v : State) (q n : Nat) : State :=
  { v with gl.results := v.gl.results.map fun k => if k.seq = q then { k with reads := n } else k }

/-- What RESULT_READ checks of its target and range. -/
def resultParams (h : Hdr) (q off len : Nat) (v : State) : List (Bool × Nat) :=
  [(targetBad v h q, 24), (match resultOf v q with
      | some r => decide (r.body.length < off)
      | none => false, 28), (decide (65512 < len + 32), 32)]

theorem resultRead_retained {s : State} {h : Hdr} {q off len : Nat} {r : Result} (hready : Ready s (.resultRead h q off len))
    (htarget : targetBad (takeFromBuffer s h) h q = false) (hr : resultOf (takeFromBuffer s h) q = some r)
    (hoff : off ≤ r.body.length) (hlen : len ≤ 65480) :
    exec (.resultRead h q off len) s = .next (finalOn (readOnce (takeFromBuffer s h) q ((r.reads + 1) % 4294967296)) h 0x0905
      (ansB (lay [(4, (r.reads + 1) % 4294967296), (4, r.body.length)] ++ (r.body.drop off).take len))) := by
  have hclear : Clear (resultParams h q off len (takeFromBuffer s h)) := by
    simp [resultParams, htarget, hr, hoff]
    omega
  rw [exec_resultRead]
  refine congrArg Host.Outcome.next (sync_final (hready.fit rfl) hclear ?_ rfl)
  dsimp only
  rw [hr]
  rfl

theorem resultRead_running {s : State} {h : Hdr} {q off len : Nat} (hready : Ready s (.resultRead h q off len))
    (htarget : targetBad (takeFromBuffer s h) h q = false) (hr : resultOf (takeFromBuffer s h) q = none) (hlen : len ≤ 65480) :
    exec (.resultRead h q off len) s = .next (finalOn (takeFromBuffer s h) h 0x0905 (ans 0x0002)) := by
  have hclear : Clear (resultParams h q off len (takeFromBuffer s h)) := by
    simp [resultParams, htarget, hr]
    omega
  rw [exec_resultRead]
  refine congrArg Host.Outcome.next (sync_final (hready.fit rfl) hclear ?_ rfl)
  dsimp only
  rw [hr]
  rfl

/-- A result dropped, with its sequence out of use (R41). -/
def resultDropped (v : State) (q : Nat) : State :=
  { v with gl.results := v.gl.results.filter fun r => r.seq != q, gl.cmds := v.gl.cmds.filter fun c => c.seq != q }

theorem targetRuns_known {v : State} {q : Nat} {c : CmdRec} (hc : cmdRec v q = some c) : targetRuns v q = true ↔ c.phase = 0 := by
  rw [targetRuns, hc]
  exact beq_iff_eq

theorem resultRelease_known {s : State} {h : Hdr} {q : Nat} {c : CmdRec} (hready : Ready s (.resultRelease h q))
    (htarget : targetBad (takeFromBuffer s h) h q = false) (hc : cmdRec (takeFromBuffer s h) q = some c) :
    exec (.resultRelease h q) s = .next (
      if c.phase = 0 then finalOn (takeFromBuffer s h) h 0x0906 (ans 0x0017)
      else finalOn (resultDropped (takeFromBuffer s h) q) h 0x0906 (ans 0)) := by
  rw [exec_resultRelease]
  exact congrArg Host.Outcome.next (sync_final_ite (hready.fit rfl) (clear_singleton htarget)
    (if_congr (targetRuns_known hc) rfl rfl) rfl rfl)

theorem eventRead_taken {s : State} {h : Hdr} {start n : Nat} (hready : Ready s (.eventRead h start n)) (hpos : 1 ≤ n) (hmax : n ≤ 1000) :
    exec (.eventRead h start n) s = .next (finalOn (takeFromBuffer s h) h 0x0907 (ansB (lay
      [(4, oldestSeq (takeFromBuffer s h)), (4, (takeFromBuffer s h).gl.nextSeq),
       (2, (eventsFrom (takeFromBuffer s h) start n).length), (6, 0)] ++
      (eventsFrom (takeFromBuffer s h) start n).flatMap eventBytes))) := by
  have hcount : (n == 0 || decide (1000 < n)) = false := by
    simp only [Bool.or_eq_false_iff, beq_eq_false_iff_ne, decide_eq_false_iff_not]
    omega
  rw [exec_eventRead]
  exact congrArg Host.Outcome.next (sync_final (hready.fit rfl) (clear_singleton hcount) rfl rfl)

theorem nop_taken {s : State} {h : Hdr} (hready : Ready s (.nop h)) : exec (.nop h) s =
    .next (finalOn (takeFromBuffer s h) h 0 (ansB (leBytes 8 (takeFromBuffer s h).dev.localCtr))) := by
  rw [exec_nop]
  exact congrArg Host.Outcome.next (sync_final (hready.fit rfl) clear_nil rfl rfl)

/-- Settles O31: the parameters of each command pass, so its answer is that of the branch its address, words or target take. -/
theorem registersResultsAndNop : Obligations.RegistersResultsAndNop := by
  unfold Obligations.RegistersResultsAndNop
  refine ⟨?registers, regWrites_append, ?results⟩
  case registers =>
    rintro s v h a n e rfl halign hblock hpos hmax hend
    have hclear := csrFaults_clear halign hblock hpos hmax hend
    exact ⟨fun hready => csrRead_taken hready hclear, fun ws hready => csrWrite_taken hready hclear⟩
  case results =>
    rintro s v h rfl
    exact ⟨fun q off len r hready htarget hr hoff hlen => resultRead_retained hready htarget hr hoff hlen,
      fun q off len hready htarget hr hlen => resultRead_running hready htarget hr hlen,
      fun q c hready htarget hc => resultRelease_known hready htarget hc,
      fun start n hready hpos hmax => eventRead_taken hready hpos hmax, nop_taken⟩

/-! ### A parameter out of range, at its offset (R38) -/

theorem sync_refusedAt {s : State} {h : Hdr} {c : Cmd} {e d : Nat} {params : State → List (Bool × Nat)} (run : State → State × Ans)
    (f : Fit s h c e) (hat : badAtOf h (params (takeFromBuffer s h)) = some d) :
    Refused s (syncCmd s h c e params run) h c.code stBadParam d := by
  unfold syncCmd
  rw [admit_badAt params _ f.up f.fresh f.early hat]
  exact refuse_refused c.code _ d (takeFromBuffer_eq s h) (by rw [portUp_take, f.up]) (.inl rfl)

/-- Of two parameters the one that does not pass is reported. -/
theorem badAtOf_first {h : Hdr} {b : Bool} {o p : Nat} (hbad : h.badAt = none) (hb : b = false) :
    badAtOf h [(true, o), (b, p)] = some o := by
  simp [badAtOf, hbad, hb, minBy]

theorem badAtOf_second {h : Hdr} {b : Bool} {o p : Nat} (hbad : h.badAt = none) (hb : b = false) :
    badAtOf h [(b, o), (true, p)] = some p := by
  simp [badAtOf, hbad, hb, minBy]

/-! ### CLOCK_SET (R406, R407, R422) -/

theorem clockSet_taken {s : State} {h : Hdr} {item val : Nat} {l : List Nat} (hready : Ready s (.clockSet h item val))
    (hl : clockValues item = some l) (hval : val ∈ l) :
    exec (.clockSet h item val) s = .next (finalOn (clockApply item val (takeFromBuffer s h)) h 0x0904 (ans 0)) := by
  have hclear : Clear [((clockValues item).isNone, 24), (!((clockValues item).getD [val]).contains val, 28)] := by
    simp [hl, hval]
  rw [exec_clockSet]
  exact congrArg Host.Outcome.next (sync_final (hready.fit rfl) hclear rfl rfl)

theorem clockSet_unlisted {s : State} {h : Hdr} {item val : Nat} (hready : Ready s (.clockSet h item val))
    (hl : clockValues item = none) : ∃ t, exec (.clockSet h item val) s = .next t ∧ Refused s t h 0x0904 0x0011 24 := by
  refine ⟨_, rfl, sync_refusedAt _ (hready.fit rfl) ?_⟩
  rw [hl]
  exact badAtOf_first (hready.fit rfl).bad (by simp)

theorem clockSet_outOfRange {s : State} {h : Hdr} {item val : Nat} {l : List Nat} (hready : Ready s (.clockSet h item val))
    (hl : clockValues item = some l) (hval : val ∉ l) :
    ∃ t, exec (.clockSet h item val) s = .next t ∧ Refused s t h 0x0904 0x0011 28 := by
  have hmem : l.contains val = false := by simpa using hval
  refine ⟨_, rfl, sync_refusedAt _ (hready.fit rfl) ?_⟩
  rw [hl, Option.getD_some, hmem]
  exact badAtOf_second (hready.fit rfl).bad rfl

theorem clockValues_unlisted {item : Nat} (hitem : item ∉ [1, 2, 3, 0x10, 0x11]) : clockValues item = none := by
  simp only [List.mem_cons, List.not_mem_nil, or_false, not_or] at hitem
  obtain ⟨h1, h2, h3, h16, h17⟩ := hitem
  unfold clockValues
  split
  case h_6 => rfl
  all_goals contradiction

theorem mem_oneTo {n val : Nat} : val ∈ (List.range n).map (· + 1) ↔ 1 ≤ val ∧ val ≤ n := by
  simp only [List.mem_map, List.mem_range]
  constructor
  · rintro ⟨k, hk, rfl⟩
    omega
  · rintro ⟨hlow, hhigh⟩
    exact ⟨val - 1, by omega, by omega⟩

/-! ### CAL_SET (R420) -/

section
variable {s : State} {h : Hdr} {item val : Nat} (hready : Ready s (.calSet h item val))
include hready

theorem calSet_taken (hlisted : calListed item = true) (hrange : calInRange item val = true) :
    exec (.calSet h item val) s = .next (finalOn (calApply item val (takeFromBuffer s h)) h 0x0903 (ans 0)) := by
  have hclear : Clear [(!calListed item, 24), (calListed item && !calInRange item val, 28)] := by
    simp [hlisted, hrange]
  rw [exec_calSet]
  exact congrArg Host.Outcome.next (sync_final (hready.fit rfl) hclear rfl rfl)

theorem calSet_unlisted (hlisted : calListed item = false) :
    ∃ t, exec (.calSet h item val) s = .next t ∧ Refused s t h 0x0903 0x0011 24 := by
  refine ⟨_, rfl, sync_refusedAt _ (hready.fit rfl) ?_⟩
  rw [hlisted]
  exact badAtOf_first (hready.fit rfl).bad rfl

theorem calSet_outOfRange (hlisted : calListed item = true) (hrange : calInRange item val = false) :
    ∃ t, exec (.calSet h item val) s = .next t ∧ Refused s t h 0x0903 0x0011 28 := by
  refine ⟨_, rfl, sync_refusedAt _ (hready.fit rfl) ?_⟩
  rw [hlisted, hrange]
  exact badAtOf_second (hready.fit rfl).bad rfl

end

/-- Settles O32: an item of the list with a value it takes is written (`clockSet_taken`, `calSet_taken`), and what does not pass is
refused at its offset. -/
theorem clocksAndCalibrationSet : Obligations.ClocksAndCalibrationSet := by
  unfold Obligations.ClocksAndCalibrationSet
  refine ⟨?clock, ?cal⟩
  case clock =>
    rintro s v h item val hready rfl
    refine ⟨?arith, ?ctrl, ?fabric, ?tolerance, ?debounce, fun hitem => clockSet_unlisted hready (clockValues_unlisted hitem), ?range⟩
    case arith =>
      rintro rfl hval
      exact clockSet_taken hready rfl hval
    case ctrl =>
      rintro rfl hval
      exact clockSet_taken hready rfl hval
    case fabric =>
      rintro rfl hval
      exact clockSet_taken hready rfl hval
    case tolerance =>
      rintro rfl hlow hhigh
      exact clockSet_taken hready rfl (mem_oneTo.mpr ⟨hlow, hhigh⟩)
    case debounce =>
      rintro rfl hlow hhigh
      exact clockSet_taken hready rfl (mem_oneTo.mpr ⟨hlow, hhigh⟩)
    case range =>
      rintro (⟨rfl, hval⟩ | ⟨rfl, hval⟩ | ⟨rfl, hval⟩ | ⟨rfl, hval⟩ | ⟨rfl, hval⟩)
      · exact clockSet_outOfRange hready rfl hval
      · exact clockSet_outOfRange hready rfl hval
      · exact clockSet_outOfRange hready rfl hval
      · exact clockSet_outOfRange hready rfl (mem_oneTo.not.mpr hval)
      · exact clockSet_outOfRange hready rfl (mem_oneTo.not.mpr hval)
  case cal =>
    rintro s v h item val hready rfl
    exact ⟨calSet_taken hready, calSet_unlisted hready, calSet_outOfRange hready⟩

end Sys2Proof.Machine
end

section
/-! PROOF. The checkpoint commands (O29): R353 to R355, R361, R362, R465. -/
namespace Sys2Proof.Machine

/-! ### CKPT_START (R353 to R355) -/

/-- The run of a new generation, on the last completed one unless it is full (R353). -/
def newRun (k : Ckpt) (seq g : Nat) (peers : List Nat) : CkptRun :=
  let full := !k.fullDone || k.forceFull || decide (max 1 k.chainMax ≤ k.chain)
  { generation := g, seq := seq, gateways := peers, full := full, base := if full then 0 else k.lastDone, phase := 0, point := 0
    cellarSec := 0, shards := [], recSess := [], recNodes := [], nodesAt := [], recShards := [], rowMarks := [], pageMarks := []
    recTables := [], forced := k.forceFull, staged := [], stagedBytes := 0, manifest := [] }

/-- `u` with a checkpoint run begun, its generation the last one started. -/
def runBegun (u : State) (r : CkptRun) : State :=
  { u with ckpt.run := some r, ckpt.lastStarted := r.generation, oast.cfg.lastGenStarted := r.generation }

/-- What an accepted CKPT_START does: the run begins, COUNTER_NEAR where its generation is the first near the end, and its phase is
remembered (R355, R361, R465). -/
def ckptBegin (u : State) (seq g : Nat) (peers : List Nat) : State :=
  let w := runBegun u (newRun u.ckpt seq g peers)
  setPhase (setStage (if u.ckpt.lastStarted < 0xFFFF0000 ∧ 0xFFFF0000 ≤ g then counterNear w 3 0 g 0xFFFFFFFF else w) seq 3) g 1 0 0

theorem ckpt_acceptOn (v : State) (h : Hdr) (c : Cmd) (kind : JobKind) : (acceptOn v h c kind).ckpt = v.ckpt := by
  rw [acceptOn_frame]

/-- What CKPT_START checks of its generation and gateways (R353). -/
def ckptParams (g n : Nat) (peers : List Nat) (v : State) : List (Bool × Nat) :=
  [(decide (g = 0 ∨ g ≤ v.ckpt.lastStarted ∨ g ≤ v.ckpt.lastDone), 24),
   (decide (n = 0 ∨ 16 < n) || hasDup peers || peers.any (fun p => (routeOf v p).isNone), 28)]

theorem ckptParams_clear {v : State} {g n : Nat} {peers : List Nat} (hstarted : v.ckpt.lastStarted < g) (hdone : v.ckpt.lastDone < g)
    (hpos : 1 ≤ n) (hmax : n ≤ 16) (hdup : hasDup peers = false) (hroutes : ∀ p ∈ peers, (routeOf v p).isSome = true) :
    Clear (ckptParams g n peers v) := by
  simp only [ckptParams, clear_cons, clear_nil, and_true, hdup, Bool.or_false, Bool.or_eq_false_iff, decide_eq_false_iff_not,
    List.any_eq_false, Bool.not_eq_true, Option.isNone_eq_false_iff]
  exact ⟨by omega, by omega, hroutes⟩

theorem ckptStart_accepted {s : State} {h : Hdr} {g n : Nat} {peers : List Nat} (hready : Ready s (.ckptStart h g n peers))
    (hparams : Clear (ckptParams g n peers (takeFromBuffer s h))) (hrun : (takeFromBuffer s h).ckpt.run = none)
    (hrestore : (takeFromBuffer s h).ckpt.restore = none) (hdies : ((takeFromBuffer s h).mill.dies.any (·.lost)) = false) :
    exec (.ckptStart h g n peers) s =
      .next (ckptBegin (acceptOn (takeFromBuffer s h) h (row 0x0701 true 0 0) (.ckpt g)) h.seq g peers) := by
  have hlate : Clear [((takeFromBuffer s h).ckpt.run.isSome || (takeFromBuffer s h).ckpt.restore.isSome ||
      (takeFromBuffer s h).mill.dies.any (·.lost), (stWrongState, 0))] := clear_singleton (by rw [hrun, hrestore, hdies]; rfl)
  rw [exec_ckptStart]
  refine async_taken (hready.fit rfl) hparams hlate ?_
  unfold ckptBegin
  simp only [Bool.and_eq_true, decide_eq_true_eq]
  rfl

/-! ### CKPT_STATUS (R361) -/

theorem ckptStatus_taken {s : State} {h : Hdr} {g : Nat} (hready : Ready s (.ckptStatus h g)) (hg : g ≠ 0) :
    let f := (((takeFromBuffer s h).ckpt.phases.find? fun x => x.1 == g).map (·.2)).getD (0, 0, 0)
    exec (.ckptStatus h g) s =
      .next (finalOn (takeFromBuffer s h) h 0x0702 (ansB (lay [(1, f.1), (3, 0), (4, f.2.1), (8, f.2.2)]))) := by
  rw [exec_ckptStatus]
  refine congrArg Host.Outcome.next (sync_final (hready.fit rfl) (clear_singleton (beq_eq_false_iff_ne.mpr hg)) ?_ rfl)
  dsimp only
  cases (takeFromBuffer s h).ckpt.phases.find? fun x => x.1 == g with
  | none => rfl
  | some x => rfl

/-! ### RESTORE_START (R362) -/

/-- The run of a restore that has asked for its manifest. -/
def newRestore (seq : Nat) (o : ObjRef) : RestoreRun :=
  { generation := 0, seq := seq, queue := [.manifest o], tried := [], chain := [], applied := 0, bytes := 0, cellarSec := 0, imgs := []
    madeShards := [], madeTables := [] }

theorem reachable_acceptOn (v : State) (h : Hdr) (c : Cmd) (kind : JobKind) (peer : Nat) :
    reachable (acceptOn v h c kind) peer = reachable v peer := by
  rw [acceptOn_frame]
  rfl

theorem restoreStart_accepted {s : State} {h : Hdr} {o : ObjRef} (hready : Ready s (.restoreStart h o))
    (hg : gatewayOk (takeFromBuffer s h) o = true) (hrun : (takeFromBuffer s h).ckpt.run = none)
    (hrestore : (takeFromBuffer s h).ckpt.restore = none) :
    let u := acceptOn (takeFromBuffer s h) h (row 0x0703 true 0 0) (.restore o)
    exec (.restoreStart h o) s = .next (
      if reachable (takeFromBuffer s h) o.gateway = true then
        sendMsg { setStage u h.seq 1 with ckpt.restore := some (newRestore h.seq o) } o.gateway 5 0 8 0 false (.fetch o)
      else complete u h.seq { status := 0x0003, detail := 0, body := [], handle := none }) := by
  have hlate : Clear [((takeFromBuffer s h).ckpt.run.isSome || (takeFromBuffer s h).ckpt.restore.isSome, (stWrongState, 0))] :=
    clear_singleton (by rw [hrun, hrestore]; rfl)
  rw [exec_restoreStart]
  refine async_taken (hready.fit rfl) (gatewayBad_clear 24 hg) hlate ?_
  dsimp only
  rw [reachable_acceptOn]
  cases reachable (takeFromBuffer s h) o.gateway with
  | true => rfl
  | false => rfl

/-- Settles O29: the parameters of each command pass and nothing later refuses it, so its effect is `ckptBegin`, the phase remembered,
or the manifest asked for. -/
theorem checkpointCommands : Obligations.CheckpointCommands := by
  unfold Obligations.CheckpointCommands
  rintro s v h rfl
  refine ⟨fun g n peers hready hstarted hdone hpos hmax hdup hroutes hrun hrestore hdies => ?start,
    fun g hready hg => ckptStatus_taken hready hg, fun o hready hg hrun hrestore => restoreStart_accepted hready hg hrun hrestore⟩
  case start =>
    rw [ckptStart_accepted hready (ckptParams_clear hstarted hdone hpos hmax hdup hroutes) hrun hrestore hdies]
    unfold ckptBegin
    rw [ckpt_acceptOn]
    rfl

end Sys2Proof.Machine
end

section
/-! PROOF. ATTEST, tenants and keys (O30): R377 to R381, R385, R388, R393, R394. That a key is in force from its acceptance, before the
key store is written, is log entry 78. -/
namespace Sys2Proof.Machine

theorem sec_acceptOn (v : State) (h : Hdr) (c : Cmd) (kind : JobKind) : (acceptOn v h c kind).sec = v.sec := by
  rw [acceptOn_frame]

/-! ### ATTEST (R393, R394) -/

theorem attest_signs {s : State} {h : Hdr} (nonce : List Byte) (hready : Ready s (.attest h nonce))
    (hleft : (takeFromBuffer s h).sec.sigNext < 1073741824) :
    let u := acceptOn (takeFromBuffer s h) h (row 0x0801 true 0 0) .attest
    exec (.attest h nonce) s = .next (complete (takeIndex u) h.seq (ansB (report u nonce u.sec.sigNext))) := by
  have hlow : ¬Config.hssMax ≤ (takeFromBuffer s h).sec.sigNext := not_le.mpr hleft
  rw [exec_attest]
  refine async_taken (hready.fit rfl) clear_nil clear_nil ?_
  dsimp only
  rw [if_neg (by rw [sec_acceptOn]; exact hlow)]

theorem counterNear_sec (s : State) (kind session value limit : Nat) : (counterNear s kind session value limit).sec = s.sec :=
  raise_sec ..

theorem takeIndex_sigNext (s : State) : (takeIndex s).sec.sigNext = s.sec.sigNext + 1 := by
  unfold takeIndex
  dsimp only
  split
  · rw [counterNear_sec]
  · split <;> rfl

/-! ### TENANT_CREATE and TENANT_REMOVE (R385, R388) -/

/-- A tenant's entry with no keys, objects or jobs done (R385). -/
def withTenant (v : State) (t : Nat) : State :=
  { v with
    sec.tenants := tput v.sec.tenants t { (default : Tenant) with id := t }
    sec.storeSeq := v.sec.storeSeq + 1
    mash.jobsDone := tput v.mash.jobsDone t 0 }

/-- What TENANT_CREATE does and answers. -/
def createTenant (t : Nat) (v : State) : State × Ans :=
  match tenantOf v t with
  | some x => (v, if x.removing then ans stWrongState else ans stOk)
  | none => if Config.tenantMax ≤ v.sec.tenants.length then (v, ans stTableFull) else (withTenant v t, ans stOk)

theorem tenantCreate_taken {s w : State} {h : Hdr} {t : Nat} {a : Ans} (hready : Ready s (.tenantCreate h t)) (ht : 1 ≤ t)
    (hrun : createTenant t (takeFromBuffer s h) = (w, a)) (ha : failsAcceptance a.status = false) :
    exec (.tenantCreate h t) s = .next (finalOn w h 0x0802 a) := by
  rw [exec_tenantCreate]
  exact congrArg Host.Outcome.next (sync_final (run := createTenant t) (hready.fit rfl)
    (clear_singleton (beq_eq_false_iff_ne.mpr (by omega))) hrun ha)

theorem createTenant_known {v : State} {t : Nat} {x : Tenant} (hx : tenantOf v t = some x) :
    createTenant t v = (v, ans (if x.removing then 0x0017 else 0)) := by
  rw [createTenant, hx]
  dsimp only
  cases x.removing <;> rfl

theorem createTenant_full {v : State} {t : Nat} (hx : tenantOf v t = none) (hfull : 16384 ≤ v.sec.tenants.length) :
    createTenant t v = (v, ans 0x0020) := by
  rw [createTenant, hx]
  exact if_pos hfull

theorem createTenant_new {v : State} {t : Nat} (hx : tenantOf v t = none) (hroom : v.sec.tenants.length < 16384) :
    createTenant t v = (withTenant v t, ans 0) := by
  rw [createTenant, hx]
  exact if_neg (not_le.mpr hroom)

/-- The key store with a tenant marked as being removed (R388). -/
def removalBegun (u : State) (t : Nat) : State :=
  let w := modTenant u t fun y => { y with removing := true, step := 1 }
  { w with sec.storeSeq := w.sec.storeSeq + 1 }

theorem tenantRemove_live {s : State} {h : Hdr} {t : Nat} {x : Tenant} (hready : Ready s (.tenantRemove h t)) (ht : 1 ≤ t)
    (hx : tenantOf (takeFromBuffer s h) t = some x) (hlive : x.removing = false) : exec (.tenantRemove h t) s =
      .next (setStage (removalBegun (acceptOn (takeFromBuffer s h) h (row 0x0803 true 0 0) (.removeTenant t)) t) h.seq 3) := by
  have hlate : Clear [((tenantOf (takeFromBuffer s h) t).isNone, (stNoTenant, 0))] := clear_singleton (by rw [hx]; rfl)
  have htenant (k : JobKind) : tenantLive (acceptOn (takeFromBuffer s h) h (row 0x0803 true 0 0) k) t = true := by
    unfold tenantLive tenantOf
    rw [sec_acceptOn, show tget (takeFromBuffer s h).sec.tenants t = some x from hx]
    simp [hlive]
  rw [exec_tenantRemove]
  exact async_taken (hready.fit rfl) (clear_singleton (beq_eq_false_iff_ne.mpr (by omega))) hlate (if_pos (htenant _))

/-! ### KEY_INSTALL (R377 to R381) -/

/-- The state with another Grenlink. -/
def withGl (g : Gl) (s : State) : State := { s with gl := g }

theorem retireTenant_withGl (g : Gl) (s : State) (t : Tenant) : retireTenant (withGl g s) t = withGl g (retireTenant s t) := by
  have huse : epochInUse (withGl g s) = epochInUse s := rfl
  unfold retireTenant
  simp only [huse]
  split <;> rfl

/-- What is retired of the key store does not depend on Grenlink. -/
theorem retireFlashEpochs_withGl (g : Gl) (s : State) : retireFlashEpochs (withGl g s) = withGl g (retireFlashEpochs s) :=
  List.foldl_hom (withGl g) fun u t => retireTenant_withGl g u t.2

theorem retireFlashEpochs_heldOn (v : State) (h : Hdr) (c : Cmd) (kind : JobKind) :
    (retireFlashEpochs (heldOn v h c kind)).sec = (retireFlashEpochs v).sec := by
  change (retireFlashEpochs (withGl (heldOn v h c kind).gl v)).sec = _
  rw [retireFlashEpochs_withGl]
  rfl

theorem blobKey_congr {s t : State} (hsec : s.sec = t.sec) (blob : List Byte) : blobKey s blob = blobKey t blob := by
  unfold blobKey ownerKey
  rw [hsec]

theorem sameKey_congr {s t : State} (hsec : s.sec = t.sec) (h : Hdr) (kind : Nat) (blob : List Byte) :
    sameKey s h kind blob = sameKey t h kind blob := by
  unfold sameKey tenantOf
  rw [hsec, blobKey_congr hsec]

/-- What KEY_INSTALL checks of its kind, length and blob (R377, R379). -/
def keyParams (h : Hdr) (kind len : Nat) (blob : List Byte) (v : State) : List (Bool × Nat) :=
  if kind = 0 ∨ 3 < kind then [(true, 24)]
  else if len ≠ blobLenOf kind then [(true, 28)]
  else blobFaults (retireFlashEpochs v) h kind blob

/-- The answer in place of the installation: another key is installed at its epoch, or no flash epoch is left (R378, R379). -/
def keyLate (h : Hdr) (kind : Nat) (blob : List Byte) (v : State) : Option Ans :=
  match sameKey (retireFlashEpochs v) h kind blob with
  | some true => none
  | some false => some (ans stWrongState)
  | none =>
    if kind = 1 ∧ 4 ≤ ((tenantOf (retireFlashEpochs v) h.tenant).getD default).flash.length then some (ans stTableFull) else none

/-- What an installation that is held does: the key already installed counts, a new one is installed and waits for the key store. -/
def keyStart (h : Hdr) (kind : Nat) (blob : List Byte) (u : State) : State :=
  let w := retireFlashEpochs u
  if sameKey w h kind blob = some true then finishFinal (countInstall w) h.seq (ans stOk)
  else setStage (storeWrite (installKey w h.tenant kind (fld blob 0 2) ((blobKey w blob).getD [])) h.seq) h.seq 4

section
variable {s : State} {h : Hdr} {kind len : Nat} {blob : List Byte}

theorem execKeyInstall_eq : execKeyInstall h kind len blob s =
    .next (lateSync s h (row 0x0804 false 1 0) (32 + len) (keyParams h kind len blob) (keyLate h kind blob) (fun _ => .keyWrite)
      (keyStart h kind blob)) := rfl

theorem keyParams_listed {v : State} (hlow : 1 ≤ kind) (hhigh : kind ≤ 3) (hlen : len = blobLenOf kind) :
    keyParams h kind len blob v = blobFaults (retireFlashEpochs v) h kind blob := by
  rw [keyParams, if_neg (by omega), if_neg (not_not.mpr hlen)]

/-- The first two faults of a blob are those of its epoch and its reserved bytes; the last is that its key does not unwrap. -/
theorem blobFaults_split (w : State) : ∃ b c, (blobFaults w h kind blob).take 2 = [(b, 32), (c, 34)] ∧
    blobFaults w h kind blob = [(b, 32), (c, 34), ((blobKey w blob).isNone, 32)] := ⟨_, _, rfl, rfl⟩

theorem blobFaults_clear {w : State} (hfields : ∀ p ∈ (blobFaults w h kind blob).take 2, p.1 = false)
    (hkey : (blobKey w blob).isSome = true) : Clear (blobFaults w h kind blob) := by
  obtain ⟨b, c, htake, hall⟩ := blobFaults_split (h := h) (kind := kind) (blob := blob) w
  rw [htake] at hfields
  rw [hall]
  simp_all

theorem badAtOf_blobFaults {w : State} (hbad : h.badAt = none) (hfields : ∀ p ∈ (blobFaults w h kind blob).take 2, p.1 = false)
    (hkey : blobKey w blob = none) : badAtOf h (blobFaults w h kind blob) = some 32 := by
  obtain ⟨b, c, htake, hall⟩ := blobFaults_split (h := h) (kind := kind) (blob := blob) w
  rw [htake] at hfields
  rw [hall]
  simp_all [badAtOf, minBy]

variable (hready : Ready s (.keyInstall h kind len blob)) (hlow : 1 ≤ kind) (hhigh : kind ≤ 3) (hlen : len = blobLenOf kind)
  (hfields : ∀ p ∈ (blobFaults (retireFlashEpochs (takeFromBuffer s h)) h kind blob).take 2, p.1 = false)
include hready hlow hhigh hlen hfields

theorem keyInstall_unwrapped (hkey : blobKey (retireFlashEpochs (takeFromBuffer s h)) blob = none) :
    Refused s (lateSync s h (row 0x0804 false 1 0) (32 + len) (keyParams h kind len blob) (keyLate h kind blob) (fun _ => .keyWrite)
      (keyStart h kind blob)) h 0x0804 0x0011 32 := by
  obtain ⟨up, fresh, early, bad, -, -⟩ := hready.fit rfl
  unfold lateSync
  rw [admit_badAt _ _ up fresh early (by rw [keyParams_listed hlow hhigh hlen]; exact badAtOf_blobFaults bad hfields hkey)]
  exact refuse_refused _ _ _ (takeFromBuffer_eq s h) (by rw [portUp_take, up]) (.inl rfl)

theorem keyInstall_held (hkey : (blobKey (retireFlashEpochs (takeFromBuffer s h)) blob).isSome = true)
    (hlate : keyLate h kind blob (takeFromBuffer s h) = none) :
    lateSync s h (row 0x0804 false 1 0) (32 + len) (keyParams h kind len blob) (keyLate h kind blob) (fun _ => .keyWrite)
      (keyStart h kind blob) = keyStart h kind blob (heldOn (takeFromBuffer s h) h (row 0x0804 false 1 0) .keyWrite) :=
  late_held (hready.fit rfl) (by rw [keyParams_listed hlow hhigh hlen]; exact blobFaults_clear hfields hkey) hlate

end

theorem keyLate_same {h : Hdr} {kind : Nat} {blob : List Byte} {v : State}
    (hsame : sameKey (retireFlashEpochs v) h kind blob = some true) : keyLate h kind blob v = none := by
  rw [keyLate, hsame]

theorem keyLate_new {h : Hdr} {kind : Nat} {blob : List Byte} {v : State} (hsame : sameKey (retireFlashEpochs v) h kind blob = none)
    (hroom : ¬(kind = 1 ∧ 4 ≤ ((tenantOf (retireFlashEpochs v) h.tenant).getD default).flash.length)) :
    keyLate h kind blob v = none := by
  rw [keyLate, hsame]
  exact if_neg hroom

theorem keyStart_same {h : Hdr} {kind : Nat} {blob : List Byte} {u : State}
    (hsame : sameKey (retireFlashEpochs u) h kind blob = some true) :
    keyStart h kind blob u = finishFinal (countInstall (retireFlashEpochs u)) h.seq (ans 0) := if_pos hsame

theorem keyStart_new {h : Hdr} {kind : Nat} {blob key : List Byte} {u : State}
    (hsame : sameKey (retireFlashEpochs u) h kind blob = none) (hkey : blobKey (retireFlashEpochs u) blob = some key) :
    keyStart h kind blob u =
      setStage (storeWrite (installKey (retireFlashEpochs u) h.tenant kind (fld blob 0 2) key) h.seq) h.seq 4 := by
  unfold keyStart
  dsimp only
  rw [hsame, hkey]
  rfl

/-! ### The statement -/

/-- Settles O30: ATTEST signs at the next index (`attest_signs`), TENANT_CREATE goes by the tenant's entry (`createTenant_…`),
TENANT_REMOVE marks it (`tenantRemove_live`), and KEY_INSTALL goes by the key its blob carries and what is installed at its epoch. -/
theorem securityCommands : Obligations.SecurityCommands := by
  unfold Obligations.SecurityCommands
  rintro s v h rfl
  refine ⟨fun nonce hready hleft => ⟨attest_signs nonce hready hleft, takeIndex_sigNext _⟩,
    fun t hready ht => ⟨fun x hx => tenantCreate_taken hready ht (createTenant_known hx) (by cases x.removing <;> rfl),
      fun hx hfull => tenantCreate_taken hready ht (createTenant_full hx hfull) rfl,
      fun hx hroom => tenantCreate_taken hready ht (createTenant_new hx hroom) rfl⟩,
    fun t x hready ht hx hlive => tenantRemove_live hready ht hx hlive,
    fun kind len blob hready hlow hhigh hlen hfields => ⟨_, execKeyInstall_eq, ?unwrapped, ?same, ?new⟩⟩
  case unwrapped => exact keyInstall_unwrapped hready hlow hhigh hlen hfields
  case same =>
    intro hkey hsame
    rw [keyInstall_held hready hlow hhigh hlen hfields hkey (keyLate_same hsame)]
    exact keyStart_same ((sameKey_congr (retireFlashEpochs_heldOn _ _ _ _) _ _ _).trans hsame)
  case new =>
    intro key hkey hsame hroom
    rw [keyInstall_held hready hlow hhigh hlen hfields (by rw [hkey]; rfl) (keyLate_new hsame hroom)]
    exact keyStart_new ((sameKey_congr (retireFlashEpochs_heldOn _ _ _ _) _ _ _).trans hsame)
      ((blobKey_congr (retireFlashEpochs_heldOn _ _ _ _) _).trans hkey)

end Sys2Proof.Machine
end

section
/-! PROOF. Handshakes of a port and of a fabric peer (O36, O38): R372, R373, R375, R389. HS_FAIL with reason 1 where the wrapped owner
key does not unwrap is log entry 79. -/
namespace Sys2Proof.Machine

/-! ### Handshakes of a port (R372, R373) -/

theorem hs_window_eq : 1000 * Config.usCycles = 3000000 := rfl

/-- How a handshake ends whose MAC is sent with no owner key: against the owner key `o` of the device (R373). -/
def hsProved (s : State) (p : Nat) (k : HsPhase) (o ct mac : List Byte) : State :=
  match Config.kemDecap s.sec.kemPair ct with
  | none => hsFailed s p 4
  | some ss =>
    if mac = hmac (kdf o "gl-client" (ss ++ sha256 k.transcript) 1) (sha256 k.transcript) then
      hsFinish s p o ss (k.transcript ++ hsMsg 3 (ct ++ mac))
    else hsFailed s p 1

/-- How a handshake ends that enrols a first owner with the wrapped key `w` (R373). -/
def hsEnrolled (s : State) (p : Nat) (k : HsPhase) (ct mac w : List Byte) : State :=
  match Config.kemDecap s.sec.kemPair ct with
  | none => hsFailed s p 4
  | some ss =>
    match Config.kwUnwrap (kdf ss "gl-enrol" (sha256 k.transcript) 1) w with
    | none => hsFailed s p 1
    | some o =>
      hsFinish { s with sec.ownerSlots := s.sec.ownerSlots ++ [o], sec.lifecycle := 1 } p o ss
        (k.transcript ++ hsMsg 3 (ct ++ mac ++ w))

section
variable {s : State} {p : Nat} (hserv : serving s = true) (hp : p < 2)
include hserv hp

theorem hsHello_answered (fl : Nat) (nonce : List Byte) : exec (.hsHello p fl nonce) s = .next (modPort (tick s) p fun g => { g with
    hs := some { nonceD := Config.random s.free
                 transcript := hsMsg 1 (leBytes 1 fl ++ List.replicate 7 0 ++ nonce) ++ hsKey s (Config.random s.free)
                 startedAt := s.dev.localCtr, enrol := bit fl 0 }
    hsOut := hsKey s (Config.random s.free), state := if g.keyed then 2 else 1 }) := by
  have hup : ¬(serving s = false ∨ 2 ≤ p) := by simp [hserv, hp]
  exact congrArg Host.Outcome.next (if_neg hup)

variable {k : HsPhase} (hk : (glPort s p).hs = some k)
include hk

theorem handshakeTimeout_drops : exec (.handshakeTimeout p) s =
    .next (modPort (advanceTo s (k.startedAt + 3000000)) p fun g => { g with hs := none, state := if g.keyed then 2 else 0 }) := by
  have hup : ¬(serving s = false ∨ 2 ≤ p) := by simp [hserv, hp]
  rw [exec_handshakeTimeout, execHandshakeTimeout, hk, hs_window_eq]
  exact congrArg Host.Outcome.next (if_neg hup)

variable (hin : s.dev.localCtr ≤ k.startedAt + 3000000) (hlife : s.sec.lifecycle ≠ 2)
include hin hlife

theorem hsCt_owned {o ct mac : List Byte} (howner : ownerKey s = some o) (henrol : k.enrol = false) :
    exec (.hsCt p ct mac none) s = .next (hsProved s p k o ct mac) := by
  have hup : ¬(serving s = false ∨ 2 ≤ p ∨ k.startedAt + 3000000 < s.dev.localCtr) := by simp [hserv, hp, hin]
  rw [exec_hsCt, execHsCt, hk, hsProved, hs_window_eq]
  dsimp only
  rw [if_neg hup]
  refine congrArg Host.Outcome.next ?_
  cases Config.kemDecap s.sec.kemPair ct with
  | none => rfl
  | some ss =>
    dsimp only
    rw [if_neg hlife, howner, henrol]
    by_cases hmac : mac = hmac (kdf o "gl-client" (ss ++ sha256 k.transcript) 1) (sha256 k.transcript)
    · rw [if_pos hmac, if_neg (by simpa using hmac), if_pos rfl, Option.getD_none, List.append_nil, Option.getD_some]
    · rw [if_neg hmac, if_pos (by simpa using hmac)]
      rfl

theorem hsCt_enrols {ct mac w : List Byte} (howner : ownerKey s = none) (henrol : k.enrol = true)
    (hroom : s.sec.ownerSlots.length < 4) (hzero : mac.all (· == 0) = true) :
    exec (.hsCt p ct mac (some w)) s = .next (hsEnrolled s p k ct mac w) := by
  have hup : ¬(serving s = false ∨ 2 ≤ p ∨ k.startedAt + 3000000 < s.dev.localCtr) := by simp [hserv, hp, hin]
  rw [exec_hsCt, execHsCt, hk, hsEnrolled, hs_window_eq]
  dsimp only
  rw [if_neg hup]
  refine congrArg Host.Outcome.next ?_
  cases Config.kemDecap s.sec.kemPair ct with
  | none => rfl
  | some ss =>
    dsimp only
    rw [if_neg hlife, howner, henrol, hzero]
    dsimp only
    rw [if_neg (by decide), if_neg (by decide), if_neg (not_le.mpr hroom)]
    rfl

end

/-- Settles O36: the messages of a handshake one by one. -/
theorem handshakeMessages : Obligations.HandshakeMessages := by
  unfold Obligations.HandshakeMessages
  refine fun s p hserv hp => ⟨hsHello_answered hserv hp, fun k hk => ⟨handshakeTimeout_drops hserv hp hk, fun hin ct mac => ⟨?_, ?_⟩⟩⟩
  · exact fun o howner hlife henrol => hsCt_owned hserv hp hk hin hlife howner henrol
  · exact fun w henrol howner hlife hroom hzero => hsCt_enrols hserv hp hk hin hlife howner henrol hroom hzero

/-! ### Handshakes of a fabric peer (R375, R389) -/

section
variable {s : State} {peer : Nat} {r : List Byte}

theorem fabHandshake_failed (hrun : running s = true) (hpath : hasPath s peer = true) (hother : peer ≠ s.fab.self) :
    exec (.fabHandshake peer r false) s = .next { s with fab.cnt.authFail := ctrAdd s.fab.cnt.authFail 1 } := by
  have hup : ¬(running s = false ∨ hasPath s peer = false ∨ peer = s.fab.self) := by simp [hrun, hpath, hother]
  exact congrArg Host.Outcome.next ((if_neg hup).trans (if_pos rfl))

theorem fabHandshake_salted (hrun : running s = true) (hpath : hasPath s peer = true) (hother : peer ≠ s.fab.self) :
    exec (.fabHandshake peer r true) s = .next (flushStreams (setSalt
      (if (peerOf s peer).myR = none ∨ (peerOf s peer).salt ≠ none then sayHello s peer else s) peer r) peer) := by
  have hup : ¬(running s = false ∨ hasPath s peer = false ∨ peer = s.fab.self) := by simp [hrun, hpath, hother]
  simp only [← Option.isNone_iff_eq_none, ← Option.isSome_iff_ne_none]
  exact congrArg Host.Outcome.next ((if_neg hup).trans (if_neg Bool.true_eq_false_eq_False))

theorem revokeNotice_noted (hrun : running s = true) (tenant : Nat) :
    exec (.revokeNotice peer tenant) s = .next (modPeer s peer fun p =>
      { p with revoked := if p.revoked.contains tenant then p.revoked else p.revoked ++ [tenant] }) :=
  congrArg Host.Outcome.next (if_neg (by simp [hrun]))

end

/-- Settles O38: the two outcomes of a handshake value, and the REVOKE notice. What a new salt clears of its peer (`setSalt`) is log
entry 35. -/
theorem fabricKeys : Obligations.FabricKeys := by
  unfold Obligations.FabricKeys
  exact fun s peer hrun => ⟨fun r hpath hother => ⟨fabHandshake_failed hrun hpath hother, fabHandshake_salted hrun hpath hother⟩,
    revokeNotice_noted hrun⟩

end Sys2Proof.Machine
end

section
/-! PROOF. Resets (O58): R395, R404, R417. RESET_N staying low until the PLL locks is log entry 85, the causes are R424 with log entry
72, and RESET_N ignored in the hold-up is R440. -/
namespace Sys2Proof.Machine

/-! ### What start-up leaves of a reset state

The reset cause, the sessions and the commands are those of the state at its start: what follows a warm reset changes none of
them. -/

/-- The reset cause, the sessions and the commands of a state. -/
def startedWith (s : State) : Nat × Tab Sess × List CmdRec := (s.dev.resetCause, s.cellar.sess, s.gl.cmds)

theorem foldl_unchanged {α β : Type} {g : State → β} {f : State → α → State} (hf : ∀ s a, g (f s a) = g s) (l : List α) (s : State) :
    g (l.foldl f s) = g s := by
  induction l generalizing s with
  | nil => rfl
  | cons a l ih => exact (ih _).trans (hf s a)

theorem sendOn_event_cmds (s : State) (p : Nat) (r : Bool) (e : EventRec) : (sendOn s p r (.event e)).gl.cmds = s.gl.cmds := by
  obtain ⟨-, ⟨-, hsent⟩ | ⟨-, hwaits⟩⟩ := sendOn_spec s p r (.event e)
  · exact hsent
  · exact hwaits

theorem emit_event_cmds (s : State) (p : Nat) (r : Bool) (e : EventRec) : (emit s p r (.event e)).gl.cmds = s.gl.cmds := by
  unfold emit
  split
  · exact sendOn_event_cmds ..
  split
  · exact sendOn_event_cmds ..
  split <;> rfl

/-- An event leaves the commands. -/
theorem raise_cmds (s : State) (code tenant session : Nat) (fields : List (Nat × Nat)) :
    (raise s code tenant session fields).gl.cmds = s.gl.cmds := by
  rw [raise_eq]
  split
  · split
    · rw [emit_event_cmds, emit_event_cmds]; rfl
    · rw [emit_event_cmds]; rfl
  · split
    · rfl
    · rw [emit_event_cmds]; rfl

theorem startedWith_counterNear (s : State) (kind session value limit : Nat) :
    startedWith (counterNear s kind session value limit) = startedWith s := by
  unfold startedWith counterNear
  rw [raise_dev, raise_cellar, raise_cmds]

theorem startedWith_setDevState (s : State) (v : Nat) : startedWith (setDevState s v) = startedWith s := by
  unfold setDevState alertSet
  split
  · rfl
  split <;> rfl

theorem startedWith_charge (s : State) (sl act cur n : Nat) : startedWith (charge s sl act cur n) = startedWith s := by
  unfold charge
  split
  · rfl
  split <;> rfl

theorem startedWith_dropExtent (s : State) (addr : Nat) : startedWith (dropExtent s addr) = startedWith s := by
  unfold dropExtent
  split
  · rfl
  · exact startedWith_charge s 0 9 2 16

theorem startedWith_freeExtent (s : State) (addr : Nat) : startedWith (freeExtent s addr) = startedWith s := by
  unfold freeExtent
  split
  · rfl
  split
  · rfl
  · exact startedWith_dropExtent s addr

theorem startedWith_freeExtentsIf (s : State) (p : Extent → Bool) : startedWith (freeExtentsIf s p) = startedWith s :=
  foldl_unchanged (g := startedWith) (fun u (e : Nat × Extent) => startedWith_freeExtent u e.1) _ s

theorem startedWith_finishRemovals (s : State) : startedWith (finishRemovals s) = startedWith s :=
  foldl_unchanged (g := startedWith) (f := fun u (t : Nat × Tenant) => freeExtentsIf u fun e => e.tenant == t.1)
    (fun u t => startedWith_freeExtentsIf u fun e => e.tenant == t.1) _ s

theorem startedWith_markRoot (s : State) (l : Nat) : startedWith (markRoot s l) = startedWith s :=
  foldl_unchanged (g := startedWith) (f := fun u b => modBlock u l b fun k => if k.st = 0 then { k with st := 5 } else k)
    (fun _ _ => rfl) _ s

theorem startedWith_findArray (s : State) : startedWith (findArray s) = startedWith s := by
  unfold findArray
  split
  · rfl
  · exact foldl_unchanged (g := startedWith) startedWith_markRoot _ _

theorem startedWith_romBoot (s : State) : startedWith (romBoot s) = startedWith s := by
  unfold romBoot
  dsimp only
  split
  · rfl
  split <;> rfl

theorem startedWith_fuseArb (s : State) : startedWith (fuseArb s) = startedWith s := by
  unfold fuseArb
  split
  · dsimp only
    split
    · exact startedWith_counterNear ..
    · rfl
  · rfl

theorem startedWith_readyParts (s : State) : startedWith (readyParts s) = startedWith s := rfl

theorem startedWith_startUp_warm (s : State) : startedWith (startUp s false) = startedWith s := by
  have hboot : startedWith (romBoot (applyTrims { s with dev.startStep := 5 })) = startedWith s := startedWith_romBoot _
  unfold startUp
  dsimp only
  split
  · exact hboot
  · rw [startedWith_fuseArb, startedWith_setDevState, startedWith_readyParts, startedWith_findArray, startedWith_finishRemovals]
    exact hboot

theorem startedWith_warmReset (s : State) (cause : Nat) : startedWith (warmReset s cause) = (cause, [], []) :=
  startedWith_startUp_warm _

theorem warmReset_pending (s : State) (cause : Nat) : (warmReset s cause).pending = s.pending :=
  (warmReset_keeps (.refl s.ctl) cause).queue

/-! ### Resets taken -/

theorem resetPin_resets {s : State} (hsup : s.dev.supplyIsLost = false) (htrip : s.dev.thr.tripped = false)
    (hpow : s.dev.powered = true) : exec .resetPin s = .next (resetLow (coldReset s 1)) := by
  refine congrArg Host.Outcome.next ?_
  rw [if_neg (by rw [hsup]; decide), if_neg (by rw [htrip]; decide), if_pos hpow]

theorem deferredReset_cold {s : State} (hd : s.dev.deferred = some 2) :
    exec .deferredReset s = .next (coldReset (advanceUs s 1000) 2) := by
  rw [exec_deferredReset, deferredReset_due hd, resetFor, if_pos rfl]

theorem deferredReset_warm {s : State} {k : Nat} (hd : s.dev.deferred = some k) (hk : k ≠ 2)
    (hlim : clockLimitsOk s.dev.clk = true) : exec .deferredReset s = .next (warmReset (advanceUs s 1000) k) := by
  rw [exec_deferredReset, deferredReset_due hd, resetFor, if_neg hk, advanceUs_clk, if_pos hlim]

/-- Settles O58: the resets one by one; of a warm one, the cause and that no session and no command is left by
`startedWith_warmReset`. -/
theorem resetsTaken : Obligations.ResetsTaken := by
  unfold Obligations.ResetsTaken
  refine fun s => ⟨fun hsup => congrArg Host.Outcome.next (if_pos hsup),
    fun hsup htrip hpow => ⟨resetPin_resets hsup htrip hpow, rfl, rfl, rfl, rfl, rfl⟩,
    fun hpow => ⟨_, congrArg Host.Outcome.next (if_neg (by rw [hpow]; decide)), rfl, rfl, rfl⟩,
    fun hpow => congrArg Host.Outcome.next (if_pos hpow), deferredReset_none, deferredReset_cold, fun k hd hk hlim => ?_⟩
  have hleft := startedWith_warmReset (advanceUs s 1000) k
  simp only [startedWith, Prod.mk.injEq] at hleft
  obtain ⟨hcause, hsess, hcmds⟩ := hleft
  exact ⟨_, deferredReset_warm hd hk hlim, rfl, hcause, hsess, hcmds, (warmReset_pending _ _).trans (advanceUs_pending s 1000)⟩

end Sys2Proof.Machine
end

section
/-! PROOF. Supplies, throttle and clocks (O55, O56, O57): R399 to R401, R404, R407, R410 to R413, R416, R420. A move back because BACKUP
is down carrying kind 1 is log entry 73, the cause kept after the hold-up log entry 72; raw operands, their trims and the rounding of
the power are log entry 75; what start-up passes through at the lock is log entry 70. -/
namespace Sys2Proof.Machine

/-! ### The device part under alerts and supply changes -/

/-- An alert moves SMB_ALERT_N alone of the device part (R450). -/
theorem alertSet_dev (s : State) (b : Nat) :
    (alertSet s b).dev = { s.dev with pins.smbAlertN := (alertSet s b).dev.pins.smbAlertN } := by
  unfold alertSet
  split <;> rfl

theorem alertSet_thr (s : State) (b : Nat) : (alertSet s b).dev.thr = s.dev.thr := by rw [alertSet_dev]

theorem modSupply_thr (s : State) (input : Nat) (f : Supply → Supply) : (modSupply s input f).dev.thr = s.dev.thr := by
  unfold modSupply
  split <;> rfl

theorem modSupply_supplyIsLost (s : State) (input : Nat) (f : Supply → Supply) :
    (modSupply s input f).dev.supplyIsLost = s.dev.supplyIsLost := by
  unfold modSupply
  split <;> rfl

theorem modSupply_powered (s : State) (input : Nat) (f : Supply → Supply) : (modSupply s input f).dev.powered = s.dev.powered := by
  unfold modSupply
  split <;> rfl

/-! ### Supplies (R399 to R401, R416) -/

/-- An input's new voltage, and whether it stays qualified. -/
def supplyRead (s : State) (input volt : Nat) : State :=
  modSupply s input fun x =>
    { volt := volt, disconnected := decide (7000 < volt) || (x.disconnected && !x.qualified)
      qualified := x.qualified && decide (5200 ≤ volt) && decide (volt ≤ 7000) }

section
variable {s : State} {input volt : Nat} (hin : input < 2)
include hin

theorem supplyInputChange_bothDown (hmain : inputDown (supplyRead s input volt).dev.vinMain = true)
    (hback : inputDown (supplyRead s input volt).dev.vinBackup = true) (htrip : s.dev.thr.tripped = false) :
    exec (.supplyInputChange input volt) s = .next (supplyRead s input volt) := by
  have hkept : ¬(supplyRead s input volt).dev.thr.tripped = true := by rw [supplyRead, modSupply_thr, htrip]; decide
  exact congrArg Host.Outcome.next ((if_neg (not_le.mpr hin)).trans ((if_pos ⟨hmain, hback⟩).trans (if_neg hkept)))

theorem supplyInputChange_toBackup (hmain : inputDown (supplyRead s input volt).dev.vinMain = true)
    (hback : inputDown (supplyRead s input volt).dev.vinBackup = false) (hon : (supplyRead s input volt).dev.onBackup = false)
    (hqual : (supplyRead s input volt).dev.vinBackup.qualified = true) :
    exec (.supplyInputChange input volt) s = .next (supplySwitched (supplyRead s input volt) 0) := by
  have hup : ¬(inputDown (supplyRead s input volt).dev.vinMain = true ∧ inputDown (supplyRead s input volt).dev.vinBackup = true) := by
    simp [hback]
  exact congrArg Host.Outcome.next
    ((if_neg (not_le.mpr hin)).trans ((if_neg hup).trans ((if_pos hon).trans (if_pos ⟨hmain, hqual⟩))))

theorem supplyInputChange_toMain (hmain : inputDown (supplyRead s input volt).dev.vinMain = false)
    (hback : inputDown (supplyRead s input volt).dev.vinBackup = true) (hon : (supplyRead s input volt).dev.onBackup = true) :
    exec (.supplyInputChange input volt) s = .next (supplySwitched (supplyRead s input volt) 1) := by
  have hup : ¬(inputDown (supplyRead s input volt).dev.vinMain = true ∧ inputDown (supplyRead s input volt).dev.vinBackup = true) := by
    simp [hmain]
  have hon' : ¬(supplyRead s input volt).dev.onBackup = false := by simp [hon]
  exact congrArg Host.Outcome.next
    ((if_neg (not_le.mpr hin)).trans ((if_neg hup).trans ((if_neg hon').trans (if_pos hback))))

theorem supplyQualified_off (hlow : 5400 ≤ (supplyOf s input).volt) (hhigh : (supplyOf s input).volt ≤ 6800)
    (hsup : s.dev.supplyIsLost = false) (htrip : s.dev.thr.tripped = false) (hoff : s.dev.powered = false) :
    let u := modSupply s input fun x => { x with qualified := true, disconnected := false }
    exec (.supplyQualified input) s = .next (if bothQualified u = true then powerUp u else u) := by
  intro u
  have hrange : ¬(2 ≤ input ∨ (supplyOf s input).volt < 5400 ∨ 6800 < (supplyOf s input).volt) := by omega
  have hheld : ¬(u.dev.supplyIsLost = true ∨ u.dev.thr.tripped = true) := by
    simp [u, modSupply_supplyIsLost, modSupply_thr, hsup, htrip]
  have hoff' : u.dev.powered = false := by rw [modSupply_powered, hoff]
  exact congrArg Host.Outcome.next ((if_neg hrange).trans ((if_neg hheld).trans (if_pos hoff')))

end

theorem supplyQualified_low {s : State} {input : Nat} (hlow : (supplyOf s input).volt < 5400) :
    exec (.supplyQualified input) s = .next s := congrArg Host.Outcome.next (if_pos (.inr (.inl hlow)))

/-- The pins of SUPPLY_LOST; SMB_ALERT_N follows the alert's enable. -/
theorem supplyLost_pins {s : State} (hpow : s.dev.powered = true) (hsup : s.dev.supplyIsLost = false)
    (hmain : inputDown s.dev.vinMain = true) (hback : inputDown s.dev.vinBackup = true) :
    ∃ t : State, exec .supplyLost s = .next t ∧ t.dev.supplyIsLost = true ∧ t.dev.supplyNmi = true ∧
      t.dev.pins = { s.dev.pins with pwrFailN := false, nmiOut := true, nfWpN := false, smbAlertN := t.dev.pins.smbAlertN } := by
  have hact : ¬(s.dev.powered = false ∨ s.dev.supplyIsLost = true ∨ inputDown s.dev.vinMain = false ∨
      inputDown s.dev.vinBackup = false) := by simp [hpow, hsup, hmain, hback]
  refine ⟨_, congrArg Host.Outcome.next (if_neg hact), ?_⟩
  rw [raise_dev, alertSet_dev]
  exact ⟨rfl, rfl, rfl⟩

/-- Settles O55: each change of a supply by its branch. -/
theorem suppliesChange : Obligations.SuppliesChange := by
  unfold Obligations.SuppliesChange
  exact fun s => ⟨fun input volt hin => ⟨supplyInputChange_bothDown hin, supplyInputChange_toBackup hin, supplyInputChange_toMain hin⟩,
    fun input hin => supplyQualified_off hin, fun input => supplyQualified_low, supplyLost_pins,
    fun hmain => congrArg Host.Outcome.next (if_pos (.inr (.inr (.inl hmain)))),
    fun hsup => ⟨_, congrArg Host.Outcome.next (if_pos hsup), rfl, rfl, rfl, rfl, rfl, rfl⟩,
    fun hsup => congrArg Host.Outcome.next (if_neg (by simp [hsup]))⟩

/-! ### Throttle and sensors (R404, R420) -/

theorem levelNext_eq (h : Nat) (up down : Prop) [Decidable up] [Decidable down] :
    levelNext h (decide up) (decide down) = if up then min 12 (h + 1) else if down then h - 1 else h := by
  simp only [levelNext, decide_eq_true_eq]

/-- The throttle with new levels: `h` is the larger, and a change of it starts its rests anew. -/
def withLevels (t : Throttle) (ht hp : Nat) : Throttle :=
  { t with hThermal := ht, hPower := hp, level := max ht hp, restsSince := if max ht hp = t.level then t.restsSince else 0 }

theorem throttleUpdate_levels {s : State} (hrun : running s = true) :
    let t := s.dev.thr
    let sum := t.pinHist.foldl (· + ·) 0
    let n := t.pinHist.length
    let ht := levelNext t.hThermal (decide (1600 ≤ (hottest t.temps).2)) (decide ((hottest t.temps).2 ≤ 1552))
    let hp := levelNext t.hPower (decide (pwrLimit s * n < sum)) (decide (sum * 100 < 95 * pwrLimit s * n))
    ∃ u : State, exec .throttleUpdate s = .next u ∧ u.dev.thr = withLevels t ht hp ∧
      (t.level ≠ 0 → max ht hp ≠ 0 → u.gl = s.gl) ∧ u.cellar = s.cellar ∧ u.mill = s.mill := by
  intro t sum n ht hp
  refine ⟨_, congrArg Host.Outcome.next (if_neg (by simp [hrun])), ?_⟩
  dsimp only
  split
  case isTrue hleft =>
    rw [raise_dev, raise_cellar, raise_mill, alertSet_thr, alertSet_cellar, alertSet_mill]
    exact ⟨rfl, fun hlevel => absurd hleft.1 hlevel, rfl, rfl⟩
  case isFalse =>
    split
    case isTrue hback =>
      rw [raise_dev, raise_cellar, raise_mill]
      exact ⟨rfl, fun _ hnext => absurd hback.2 hnext, rfl, rfl⟩
    case isFalse => exact ⟨rfl, fun _ _ => rfl, rfl, rfl⟩

/-- What sensors read: temperatures, input power and voltages, with the throttle. -/
def readings (s : State) : Throttle × Nat × Supply × Supply := (s.dev.thr, s.dev.pinW, s.dev.vinMain, s.dev.vinBackup)

theorem readings_raise_alert (s : State) (b code tenant session : Nat) (fields : List (Nat × Nat)) :
    readings (raise (alertSet s b) code tenant session fields) = readings s := by
  unfold readings
  rw [raise_dev, alertSet_dev]

theorem readings_raiseImminent (s : State) (old new : List Bool) : readings (raiseImminent s old new) = readings s := by
  refine foldl_unchanged (g := readings) (fun u n => ?_) _ s
  split
  · exact readings_raise_alert ..
  · rfl

theorem sensorSample_readings {s : State} (hstand : standby s = true) (m b w : Nat) (temps : List Int) :
    ∃ u : State, exec (.sensorSample m b w temps) s = .next u ∧
      u.dev.pinW = ((w * (10000 + trimOf s 0x12)) / 10000).toNat ∧
      u.dev.thr.temps = (List.range 24).map (fun n => lget temps n 0 + trimOf s (0x100 + n)) ∧
      u.dev.thr.pinHist = (u.dev.pinW :: s.dev.thr.pinHist).take 100 ∧
      u.dev.vinMain.volt = shownVolt s 0 m ∧ u.dev.vinBackup.volt = shownVolt s 1 b ∧ u.dev.thr.level = s.dev.thr.level := by
  refine ⟨_, congrArg Host.Outcome.next (if_neg (by simp [hstand])), ?_⟩
  dsimp only
  generalize hu : raiseImminent _ _ _ = u
  have hread := hu ▸ readings_raiseImminent ..
  simp only [readings, Prod.mk.injEq] at hread
  obtain ⟨hthr, hpin, hmain, hback⟩ := hread
  rw [hthr, hpin, hmain, hback]
  exact ⟨rfl, rfl, rfl, rfl, rfl, rfl⟩

/-- Settles O56: the levels by `throttleUpdate_levels`, the samples by `sensorSample_readings`. -/
theorem throttleAndSensors : Obligations.ThrottleAndSensors := by
  unfold Obligations.ThrottleAndSensors
  intro s
  refine ⟨fun hrun => ?_, fun hrun => congrArg Host.Outcome.next (if_pos hrun),
    fun m b w temps hstand => sensorSample_readings hstand m b w temps,
    fun m b w temps hstand => congrArg Host.Outcome.next (if_pos hstand),
    fun hpow => ⟨_, congrArg Host.Outcome.next (if_neg (by simp [hpow])), rfl, rfl, rfl, rfl, rfl⟩,
    fun hpow => congrArg Host.Outcome.next (if_pos hpow)⟩
  simp only [← levelNext_eq]
  exact throttleUpdate_levels hrun

/-! ### Clocks (R407, R410 to R413) -/

theorem monStable_marked {s : State} (hpow : s.dev.powered = true) : exec (.oscillatorStable 2) s = .next { s with
    dev.clk.monStable := true, dev.clk.monActive := s.dev.clk.monActive || !s.dev.clk.monclkAbsent } := by
  refine congrArg Host.Outcome.next ((if_neg (by simp [hpow])).trans ?_)
  cases habsent : s.dev.clk.monclkAbsent <;> simp [habsent]

theorem tryLock_of_unready {s : State} (hnot : s.dev.clk.pllLocked = true ∨ s.dev.clk.intStable = false ∨
    (s.dev.clk.refStable = false ∧ s.dev.clk.rootSrc ≠ 1)) : tryLock s = s := by
  refine if_neg fun ⟨hpll, hint, hroot⟩ => ?_
  rcases hnot with hpll' | hint' | ⟨href, hsrc⟩
  · simp [hpll] at hpll'
  · simp [hint] at hint'
  · simp [href, hsrc] at hroot

theorem refclkStartTimeout_falls {s : State} (hpow : s.dev.powered = true) : exec .refclkStartTimeout s =
    .next (if s.dev.clk.pllLocked = true ∨ s.dev.clk.refStable = true then s
      else clockFail (tryLock { s with dev.clk.rootSrc := 1 }) 2) :=
  congrArg Host.Outcome.next (if_congr (or_iff_right (by simp [hpow])) rfl rfl)

theorem countWindow_failRun (s : State) (count : Nat) :
    (countWindow s count).dev.clk.failRun = 0 ∨ (countWindow s count).dev.clk.failRun = s.dev.clk.failRun + 1 := by
  unfold countWindow
  dsimp only
  split
  · exact .inr rfl
  · exact .inl rfl

/-- Settles O57: the clocks one by one. -/
theorem clocksChange : Obligations.ClocksChange := by
  unfold Obligations.ClocksChange
  intro s hpow
  have hoff : ¬s.dev.powered = false := by simp [hpow]
  refine ⟨congrArg Host.Outcome.next ((if_neg hoff).trans (if_pos rfl)),
    congrArg Host.Outcome.next ((if_neg hoff).trans ((if_neg Nat.one_ne_zero).trans (if_pos rfl))), monStable_marked hpow, tryLock_of_unready,
    refclkStartTimeout_falls hpow, fun hmon => ?active, fun hmon => ?inactive⟩
  case active =>
    have hact : ¬(s.dev.powered = false ∨ s.dev.clk.monActive = false) := by simp [hpow, hmon]
    exact ⟨fun count => ⟨_, rfl, rfl, countWindow_failRun s count, congrArg Host.Outcome.next (if_neg hact)⟩,
      congrArg Host.Outcome.next (if_neg hact)⟩
  case inactive =>
    exact ⟨congrArg Host.Outcome.next (if_pos (.inr hmon)), fun count => congrArg Host.Outcome.next (if_pos (.inr hmon))⟩

end Sys2Proof.Machine
end

section
/-! PROOF. The sideband and the boundary-scan port (O34): R427, R430, R431, R450, R456, R457, and the instructions of R432. That a refused
write leaves the address is log entry 82, how long RESET_N is low log entry 85. -/
namespace Sys2Proof.Machine

theorem two32_eq_pow : two32 = 2 ^ 32 := rfl

section
variable {s : State} (hans : sbAnswers s = true)
include hans

theorem sbSetAddr_taken (a n : Nat) : exec (.sbSetAddr a n) s = .next { s with
    sb.addr := a % 2 ^ 32, sb.len := n, sb.badAddr := decide (a % 4 ≠ 0 ∨ n % 4 ≠ 0 ∨ n < 4 ∨ 32 < n) } := by
  rw [exec_sbSetAddr, execSbSetAddr, if_neg (by simp [hans]), two32_eq_pow]
  simp only [Bool.decide_or, Bool.or_assoc]

variable (htrip : s.dev.thr.tripped = false)
include htrip

theorem sbAlertClear_taken (m : Nat) : exec (.sbAlertClear m) s = .next (clearAlerts s m) :=
  congrArg Host.Outcome.next (if_neg (by simp [hans, htrip]))

theorem sbRead_answers : exec .sbRead s =
    .next (if s.sb.badAddr = true then { s with sb.lastRead := sbBody s } else sbAdvance { s with sb.lastRead := sbBody s }) :=
  congrArg Host.Outcome.next ((if_neg (by simp [hans])).trans (if_neg (by simp [htrip])))

theorem sbRead_moves (hgood : s.sb.badAddr = false) : exec .sbRead s =
    .next { s with sb.lastRead := sbBody s, sb.addr := (s.sb.addr + s.sb.len) % 2 ^ 32 } := by
  rw [sbRead_answers hans htrip, if_neg (by simp [hgood]), sbAdvance, two32_eq_pow]

/-- A read at a malformed address answers the status alone. -/
theorem sbRead_malformed (hbad : s.sb.badAddr = true) : exec .sbRead s = .next { s with sb.lastRead := leBytes 1 (sbStatus s) } := by
  rw [sbRead_answers hans htrip, if_pos hbad, sbBody, if_pos hbad, List.append_nil]

theorem sbWrite_taken {d : List Byte} (htakes : sbTakes s d = true) :
    ∃ u, u = regWrites { s with sb.lastRefused := false } s.sb.addr (sbData s d) ∧
      exec (.sbWrite d) s = .next { u with sb.addr := (u.sb.addr + u.sb.len) % 2 ^ 32 } := by
  refine ⟨_, rfl, ?_⟩
  rw [exec_sbWrite, execSbWrite, if_neg (by simp [hans, htrip]), if_pos htakes, sbAdvance, two32_eq_pow]

theorem sbWrite_refused {d : List Byte} (htakes : sbTakes s d = false) :
    exec (.sbWrite d) s = .next { s with sb.lastRefused := true, sb.refused := ctrAdd s.sb.refused 1 } :=
  congrArg Host.Outcome.next ((if_neg (by simp [hans, htrip])).trans (if_neg (by simp [htakes])))

end

theorem sideband_silent {s : State} (hans : sbAnswers s = false) :
    (∀ m, exec (.sbAlertClear m) s = .next s) ∧ (∀ a n, exec (.sbSetAddr a n) s = .next s) ∧
      exec .sbRead s = .next s ∧ ∀ d, exec (.sbWrite d) s = .next s :=
  ⟨fun _ => congrArg Host.Outcome.next (if_pos (.inl hans)), fun _ _ => congrArg Host.Outcome.next (if_pos hans),
    congrArg Host.Outcome.next (if_pos hans), fun _ => congrArg Host.Outcome.next (if_pos (.inl hans))⟩

/-- Settles O34: the target where it answers and where it does not, and the instructions of the boundary-scan port (R432). -/
theorem sidebandAndBoundaryScan : Obligations.SidebandAndBoundaryScan := by
  unfold Obligations.SidebandAndBoundaryScan
  exact ⟨fun s => ⟨sideband_silent, fun hans => ⟨sbSetAddr_taken hans, fun htrip => ⟨sbAlertClear_taken hans htrip,
      sbRead_moves hans htrip, sbRead_malformed hans htrip, fun _ => sbWrite_taken hans htrip, fun _ => sbWrite_refused hans htrip⟩⟩⟩,
    fun s code hpow hstep => congrArg Host.Outcome.next (if_neg (not_or.mpr ⟨by simp [hpow], not_lt.mpr hstep⟩))⟩

end Sys2Proof.Machine
end
